-- ==== Sys2Proof/Word.lean ====
section
/-! DEFINITION. The word types of the W56 (R10: bit 0 is the least significant bit; multi-byte
values are little-endian) and the sparse maps in which the state holds its sparse data. -/
namespace Sys2Proof

/-- A byte. -/
abbrev Byte := BitVec 8
/-- A 16-bit value (BF16 words). -/
abbrev Half := BitVec 16
/-- A 32-bit word: registers, counters and FP32 values. -/
abbrev Word := BitVec 32
/-- A 64-bit word: scalar registers, descriptors, stack words. -/
abbrev DWord := BitVec 64

end Sys2Proof
end

