-- ==== Sys2Proof/Syntax.lean ====
section
/-! DEFINITION. The commands of the W56: one constructor of `Instr` per row of
spec/opcode_table.json, with the data that crosses the model's boundary as its operands (the
instruction word a tile executes, a received message, a measured value, a manual operation). -/
namespace Sys2Proof

/-! ## Coordinates (R6) -/

/-- A tile by its die index and its index within the die (R6, R7). -/
structure Tid where
  d : Fin 56
  t : Fin 24
  deriving DecidableEq, Repr

/-- The four neighbours of a tile, in the order of the direction fields (R202). -/
inductive Dir where
  | n | e | s | w
  deriving DecidableEq, Repr

/-! ## Gecko instruction words (Table 5.5) -/

/-- A 64-bit instruction word by its fields (R123). -/
structure GWord where
  op  : Byte
  gp  : BitVec 3
  gn  : Bool
  rd  : BitVec 5
  ra  : BitVec 5
  rb  : BitVec 5
  fn  : BitVec 5
  imm : Word
  deriving DecidableEq, Repr

/-- A 64-byte command descriptor: eight little-endian words (R134). -/
structure Desc where
  w0 : DWord
  w1 : DWord
  w2 : DWord
  w3 : DWord
  w4 : DWord
  w5 : DWord
  w6 : DWord
  w7 : DWord
  deriving DecidableEq, Repr

/-- Memory errors that a reading step meets (R57, R220): physical events, so operands. -/
inductive MemErr where
  /-- single-bit error of a tile-buffer word -/
  | bufSingle (line : BitVec 17) (word : BitVec 5)
  /-- double-bit error of a tile-buffer word -/
  | bufDouble (line : BitVec 17) (word : BitVec 5)
  /-- corrected stack word: column, frame, line -/
  | stkCorr (col : Fin 24) (frame : BitVec 16) (line : Byte)
  /-- uncorrectable stack line -/
  | stkUncorr (col : Fin 24) (frame : BitVec 16) (line : Byte)
  deriving DecidableEq, Repr

/-- A command of a tile with the memory errors that its reads meet (R57). -/
structure TileRun where
  tile : Tid
  errs : List MemErr
  deriving DecidableEq, Repr

/-! ## Serving, management and control messages -/

/-- A requester's session: source address, source UDP port and Ethernet port (R265). -/
structure Session where
  addr : BitVec 128
  udp  : Half
  port : Fin 2
  deriving DecidableEq, Repr

/-- A management request as it arrives, its operation and operands aside (R478). -/
structure Mgmt where
  session : Nat
  tag     : Word
  /-- STATUS and the reserved bytes 3 and 12 to 15 of the header, 0 in a request -/
  zeros   : List Byte
  /-- LENGTH of the header -/
  length  : Word
  /-- an OP in place of the operation's own -/
  other   : Option Half
  /-- the body has the length, the alignment, the count and the zero reserved fields that its operation asks -/
  bodyOk  : Bool
  deriving DecidableEq, Repr

/-- The ORDER messages of a Bowler to a tile (Table 7.5). -/
inductive Order where
  /-- a forecast's TARGET step -/
  | paceTarget (step : Fin 16)
  /-- a protection cut to a step -/
  | paceCut (step : Fin 16)
  | fence
  | testSlice
  | reset
  /-- invalidate the entry of a virtual page (R211) -/
  | invalidate (vpn : Word)
  deriving DecidableEq, Repr

/-- The REPORT messages of a tile to its Bowler (Table 7.5). -/
inductive Report where
  | fault
  | window
  | breach
  | summary
  deriving DecidableEq, Repr

/-- A 13-byte control-ring frame (Table 7.7) as a client sends it; STATUS is set by the node. -/
structure RingFrame where
  sync : Byte
  op   : Byte
  node : Byte
  addr : Word
  data : Word
  crc  : Byte
  deriving DecidableEq, Repr

/-- What an operation of the RoCEv2 engine is for: a weight chunk, or a page of a die (R341). -/
inductive RdmaUse where
  | chunk (container chunk : Word)
  | pageIn (d : Fin 56) (vpn : Word)
  | pageOut (d : Fin 56) (vpn : Word)
  deriving DecidableEq, Repr

/-- A packet that waits for its acknowledgement; `again` when it has been sent again before. -/
structure RdmaPacket where
  again : Bool
  op    : RdmaUse
  deriving DecidableEq, Repr

/-- The verbs of the engine: SEND carries NVMe-oF capsules (R341). -/
inductive RdmaVerb where
  | read
  | write
  | send
  deriving DecidableEq, Repr

/-- What the device writes to a module over its bus under CMIS (R344, R345). -/
inductive CmisWrite where
  /-- the software low-power request is cleared: high power is asked for -/
  | highPower
  /-- an application is selected and its data path activated -/
  | select (app : Nat)
  | deactivate
  deriving DecidableEq, Repr

/-- FEC codewords of a second, and a remote page as read: its ciphertext, its tag, and the generation count of its
header (R334, R226). -/
structure FecCounts where
  uncorrected : Nat
  corrected   : Nat
  deriving DecidableEq, Repr

structure SealedPage where
  text : List Byte
  tag  : BitVec 128
  gen  : Word
  deriving DecidableEq, Repr

/-- A management session, and a time for which it has been idle (R473). -/
structure IdleSession where
  id    : Nat
  idleS : Word
  deriving DecidableEq, Repr

/-- A frame received by a port (R337 to R340). -/
structure EthFrame where
  /-- frame check sequence is good -/
  fcsOk    : Bool
  /-- VLAN tag: none, or the priority and the VLAN ID -/
  vlan     : Option (BitVec 3 × BitVec 12)
  /-- length of the IP packet in bytes -/
  ipLen    : Nat
  /-- the protocol: 0 serving UDP, 1 management TCP, 2 RoCEv2, 3 ARP, 4 neighbour solicitation,
      5 echo request, anything else is served by nothing -/
  proto    : Nat
  /-- destination UDP or TCP port number -/
  dstPort  : Half
  /-- an IP fragment (R264) -/
  fragment : Bool
  /-- bytes that the ingress buffer holds of each priority before it (R340) -/
  held     : List Nat
  /-- queue pair of a RoCEv2 packet and whether it carries CE marking -/
  qp       : Byte
  ce       : Bool
  deriving DecidableEq, Repr

/-- What a module bus answers to a poll (R345). -/
structure ModuleInfo where
  ident    : Byte
  /-- CMIS revision, major in bits 7:4 -/
  cmis     : Byte
  vendor   : BitVec 128
  part     : BitVec 128
  serial   : BitVec 128
  /-- advertised applications: mode (1 400G, 2 800G, 3 1.6T) and application number -/
  apps     : List (Fin 4 × Byte)
  /-- the module reports ready at high power -/
  ready    : Bool
  /-- bias-current high-warning threshold, when stated -/
  biasWarn : Option Half
  deriving DecidableEq, Repr

/-! ## Images, manifests and configuration -/

/-- One section of a Kampiyn image as the section table names it (Table 6.2). -/
structure Section where
  type   : Half
  index  : Half
  offset : DWord
  length : DWord
  deriving DecidableEq, Repr

/-- A place relative to the north-west tile of the die that a route starts from: x and y. -/
abbrev Rel := Int × Int

/-- An entry of a tile's route table (R190): source tile, destination tile and turn tiles. -/
structure RouteEntry where
  src   : Rel
  dst   : Rel
  turns : List Rel
  deriving DecidableEq, Repr

/-- A SCHED row: waves and energy (µJ) at step 11 of one occupancy of a layer group, by group size and length
bucket. -/
structure Sched where
  layer  : Nat
  size   : Nat
  bucket : Nat
  waves  : Nat
  energy : Nat
  deriving DecidableEq, Repr

/-- A variant of a route set: its schedule class, the sublinks it carries traffic on (source tile, direction,
sublink), its route-table entries, and its SCHED instance with the rows of it (R163, R164). -/
structure RouteVariant where
  cls   : Nat
  subs  : List (Rel × Dir × Fin 4)
  entries : List RouteEntry
  schedNo : Nat
  sched : List Sched
  deriving DecidableEq, Repr

/-- A route set: its ROUTES instance, the displacement it serves and its variants, primary first (R163). -/
structure RouteSet where
  inst     : Nat
  dc       : Int
  dr       : Int
  variants : List RouteVariant
  deriving DecidableEq, Repr

/-- One KVPLAN entry (Table 9.1). -/
structure KvPlan where
  pattern : Byte
  heads   : Byte
  kfmt    : Byte
  vfmt    : Byte
  w       : Word
  g       : Half
  deriving DecidableEq, Repr

/-- One slot-table entry as SDATA declares it (Table 5.7). -/
structure SlotDecl where
  fill  : Byte
  drain : Byte
  depth : Byte
  step  : Word
  deriving DecidableEq, Repr

/-- A patch of a stored descriptor (R166): which word and bit offset, and which value. -/
inductive PatchVal where
  | outlierCap
  | tileIndex (logical : Nat)
  | multicast (group : Nat)
  | stackBase
  deriving DecidableEq, Repr

structure Patch where
  entry : Nat
  word  : Fin 8
  lo    : Nat
  width : Nat
  val   : PatchVal
  deriving DecidableEq, Repr

/-- The program slice of one logical tile: its PROGRAM, SDATA and DESCR instances with what they hold, and its
BOUNDS and SEEDS values (Table 6.3). -/
structure Slice where
  layer     : Nat
  pos       : Nat
  progNo    : Nat
  sdataNo   : Nat
  descrNo   : Nat
  program   : List DWord
  entry     : Nat
  sdata     : List Byte
  sdataLen  : Nat
  slotBase  : Nat
  slots     : List SlotDecl
  group     : Nat
  descr     : List Desc
  patches   : List Patch
  bound     : Nat
  seed      : Word
  /-- elements each patched quantize command quantizes (R104), by store entry -/
  quantElems : List (Nat × Nat)
  deriving DecidableEq, Repr

/-- A REGIONS row: layer, first line, line count, and 0 weights, 1 activations, 2 cache, 3 other. -/
structure Region where
  layer : Nat
  pos   : Nat
  first : Nat
  count : Nat
  kind  : Fin 4
  /-- stack virtual address of the resident copy of a region of weights -/
  va    : Nat
  deriving DecidableEq, Repr

/-- A WEIGHTMAP row (R314): position of the die in the order, virtual page, container, chunk and
page within the chunk, and the replacement unit it belongs to (R321). -/
structure WeightPage where
  diePos    : Nat
  vpn       : Word
  container : Word
  chunk     : Word
  page      : Fin 16
  unit      : Nat
  deriving DecidableEq, Repr

/-- A placement template (R161): tiles per stage T, layer groups per die L, the in-die tile indices of
every layer group, and what the image holds for the pair. A slice of layer LAYERS + i is that of draft
layer i. -/
structure Template where
  tiles  : Nat
  layers : Nat
  groups : List (List Nat)
  slices : List Slice
  regions : List Region
  routes : List RouteSet
  weights : List WeightPage
  /-- multicast groups by number within the image, with the logical positions of the source and of the members -/
  mcast  : List (Nat × Nat × List Nat)
  /-- state and spill pages (R223): position of the die in the order, and virtual page -/
  state  : List (Nat × Word)
  /-- rows of the vocabulary projection on each die of the order, by die count -/
  proj   : List (Nat × List Nat)
  deriving DecidableEq, Repr

/-- The SERVE section (Table 6.3, R301). -/
structure Serve where
  chunk       : Nat
  startToken  : Nat
  eos         : Nat
  vocab       : Nat
  /-- automata: start state, and per state the allowed tokens -/
  grammars    : List (Nat × List (List Nat))
  /-- next state by automaton, state and token -/
  next        : List (Nat × Nat × Nat × Nat)
  draftLayers : Nat
  draftWindow : Nat
  shortlist   : List Nat
  /-- bytes of a seat's draft cache over the draft layers and the window (R301, R302) -/
  draftBytes  : Nat
  /-- waves and energy (µJ) at step 11 of one proposal on one tile of a lane (R383) -/
  draftWaves  : Nat
  draftEnergy : Nat
  /-- the tokenizer's token of each byte value, and its merges in rank order: two tokens and the
      token they become (R274) -/
  byteTok     : List Nat
  merges      : List (Nat × Nat × Nat)
  deriving DecidableEq, Repr

/-- The capability declaration (Table 6.4). -/
structure CapDecl where
  required   : Word
  optional   : Word
  minGib     : Half
  maxSlots   : Half
  layers     : Half
  draftLayers : Half
  vocab      : Word
  deriving DecidableEq, Repr

/-- A Kampiyn image: its byte string (R156), and what the payloads say whose layout the manual does not give
(notes/assumptions/97). Header, section table, CAPS and SIGNATURE are read from the bytes. -/
structure Image where
  bytes      : List Byte
  templates  : List Template
  kvplan     : List KvPlan
  serve      : Serve
  tadpole    : List (List Byte)
  packReport : BitVec 128
  deriving DecidableEq, Repr

/-- A source record of a manifest entry (Table 12.2). -/
structure Source where
  kind : Byte
  addr : BitVec 128
  qpn  : Word
  rkey : Word
  base : DWord
  nsid : Word
  /-- the subsystem NQN: bytes 40 to 255, byte 40 as the most significant -/
  nqn  : BitVec 1728
  deriving DecidableEq, Repr

/-- A container record (Table 12.3). -/
structure Container where
  id      : Word
  source  : Byte
  offset  : DWord
  chunks  : Word
  digest  : BitVec 256
  wrapped : BitVec 1024
  deriving DecidableEq, Repr

/-- A manifest entry (Table 12.1). -/
structure ManifestEntry where
  modelId     : BitVec 256
  imageDigest : BitVec 256
  ownerKey    : BitVec 512
  imageSource : Byte
  imageOffset : DWord
  sources     : List Source
  containers  : List Container
  signature   : BitVec 512
  deriving DecidableEq, Repr

/-- What the loader reads of a container before its chunks (R312, R316): the header and the tag table, as
bytes. -/
structure ContainerHead where
  header : List Byte
  tags   : List Byte
  deriving DecidableEq, Repr

/-- A field record of a FIELDS payload (R413); `truncated` when it runs past the payload. -/
structure FieldRec where
  id        : Half
  len       : Half
  value     : Nat
  offset    : Word
  truncated : Bool
  deriving DecidableEq, Repr

/-- A tenant entry (Table 20.3): `head` is its bytes 0 to 15. -/
structure TenantEntry where
  head    : BitVec 128
  tenant  : Half
  defClass : Byte
  maxSeq  : Half
  mask    : DWord
  wrapped : BitVec 1032
  offset  : Word
  deriving DecidableEq, Repr

/-- A BCI image as the service die reads it from flash (R408, R409). -/
structure BciImage where
  /-- the flash answers to the end of the image -/
  readable  : Bool
  bytes     : List Byte
  deriving DecidableEq, Repr

/-- The grade record in force (Table 17.12); `digest` is SM3 of its 384 bytes. -/
structure GradeRec where
  grade    : Half
  serial   : BitVec 128
  dies     : DWord
  gib      : Half
  ports    : Byte
  units    : Word
  spares   : List (Nat × Nat)
  digest   : BitVec 256
  deriving DecidableEq, Repr

/-- A repair-map entry (Table 17.10). -/
structure RmEntry where
  kind   : Byte
  die    : Byte
  item   : Half
  detail : Word
  deriving DecidableEq, Repr

/-- A trouble-log entry as its source forms it (Table 19.6 less SEQNO). -/
structure LogRec where
  stamp    : DWord
  code     : Half
  severity : BitVec 4
  srcKind  : BitVec 3
  source   : BitVec 13
  p0       : Word
  p1       : Word
  p2       : Word
  deriving DecidableEq, Repr

/-- A spill pool registration (R224). -/
structure PoolParams where
  server : BitVec 128
  qpn    : Word
  rkey   : Word
  base   : DWord
  pages  : DWord
  deriving DecidableEq, Repr

/-- A management client's certificate chain and handshake offer (R473). -/
structure TlsOffer where
  session   : Nat
  /-- the Ethernet port that it came by -/
  port      : Fin 2
  /-- it speaks TLS 1.3, offers TLS_SM4_GCM_SM3 and TLS_SM4_CCM_SM3, the group curveSM2 and the scheme sm2sig_sm3 -/
  tls13     : Bool
  gcm       : Bool
  ccm       : Bool
  curve     : Bool
  scheme    : Bool
  /-- it asks for a pre-shared key, a resumption or early data -/
  extra     : Bool
  /-- the client certificate: its key, the bytes that are signed, and the signature -/
  certKey   : BitVec 512
  certBody  : List Byte
  certSig   : BitVec 512
  deriving DecidableEq, Repr

/-- Result of training one base-wafer link: of each data sublink and of control, the lanes that showed errors and
the number of their trainings that did (R418). -/
structure LinkResult where
  src   : Tid
  dir   : Dir
  failed : List (List (Nat × Nat))
  ctrl  : List (Nat × Nat)
  deriving DecidableEq, Repr

/-- Result of calibrating one crossing: the measured flight time in ps (R184). -/
structure CalResult where
  consumer : Tid
  dir      : Dir
  flight   : Nat
  deriving DecidableEq, Repr

/-- A test slice (Table 19.1): kind and index of Table 19.3. -/
structure SliceId where
  kind  : Fin 6
  index : Nat
  deriving DecidableEq, Repr

/-- What a test slice reports. -/
structure SliceResult where
  /-- a quadrant, a buffer part or a vector core failed, with the cell or line -/
  failed  : Bool
  detail  : Word
  /-- phases whose step response failed, or crossing lanes with an error at the calibrated point -/
  items   : List Nat
  /-- crossing lanes with the error ratio over their last 64 slices, in units of 10^-18 (R446) -/
  rates   : List (Nat × Nat)
  /-- raw codes of a sensor check: DAC codes 128, 512 and 896 on path A, then on path B (R396) -/
  codes   : List (BitVec 12)
  /-- saved lines whose restore from a test frame was flagged uncorrectable (R445) -/
  lost    : List Nat
  micros  : Half
  deriving DecidableEq, Repr

/-- Why a tile is fenced: DETAIL of TILE_FAILED (Table 17.11), 7 for a management request. -/
inductive FenceCause where
  | factory | phases | railShort | slice | firmware | cores | grid | request
  deriving DecidableEq, Repr

/-! ## The commands -/

/-- The commands of the W56, one constructor per row of spec/opcode_table.json, in its order. -/
inductive Instr where
  -- scalar sequencer (Table 5.6)
  | nop (t : Tid) (w : GWord)
  | alu (t : Tid) (w : GWord)
  | alui (t : Tid) (w : GWord)
  | movhi (t : Tid) (w : GWord)
  | cmp (t : Tid) (w : GWord)
  | cmpi (t : Tid) (w : GWord)
  | plog (t : Tid) (w : GWord)
  | ld (t : Tid) (w : GWord)
  | ldw (t : Tid) (w : GWord)
  | st (t : Tid) (w : GWord)
  | stw (t : Tid) (w : GWord)
  | br (t : Tid) (w : GWord)
  | jal (t : Tid) (w : GWord)
  | jr (t : Tid) (w : GWord)
  | loop (t : Tid) (w : GWord)
  | cset (t : Tid) (w : GWord)
  | cinc (t : Tid) (w : GWord)
  | crd (t : Tid) (w : GWord)
  | wait (t : Tid) (w : GWord)
  | waitRelease (t : Tid)
  | csig (t : Tid) (w : GWord)
  | wslr (t : Tid) (w : GWord)
  | wslw (t : Tid) (w : GWord)
  | slotWaitRelease (t : Tid)
  | issue (t : Tid) (w : GWord)
  | issues (t : Tid) (w : GWord)
  | queueEntryFreed (t : Tid)
  | std (t : Tid) (w : GWord)
  | sysr (t : Tid) (w : GWord)
  | gdone (t : Tid) (w : GWord)
  | halt (t : Tid) (w : GWord)
  | syncFault (t : Tid)
  -- engine commands: the head of the named engine's queue starts
  | mxSeed (t : TileRun)
  | mxOpen (t : TileRun)
  | mxStream (t : Tid) (errs : List MemErr)
  | mxDrain (t : Tid)
  | nvMap (t : TileRun) (core : Fin 2)
  | nvRed (t : TileRun) (core : Fin 2)
  | nvNorm (t : TileRun) (core : Fin 2)
  | nvRope (t : TileRun) (core : Fin 2)
  | nvSmax (t : TileRun) (core : Fin 2)
  | nvQuant (t : TileRun) (core : Fin 2)
  | tgCfg (t : TileRun)
  | tgRun (t : TileRun)
  | tgFree (t : Tid)
  | dmaMove (t : Tid) (errs : List MemErr)
  | dmaFill (t : Tid)
  | dmaCopy (t : TileRun)
  | kvAppend (t : TileRun)
  | kvSetlen (t : Tid)
  | kvFree (t : Tid)
  /-- the `i`-th command in flight of the tile completes -/
  | commandComplete (t : Tid) (i : Nat)
  -- tile events
  | eccWriteback (t : Tid) (line : BitVec 17) (word : BitVec 5)
  | bowlerBufferUncorr (t : Tid)
  | bufferScrub (t : Tid) (errs : List MemErr)
  | quadrantRotate (t : Tid)
  | newtAlternate (t : Tid)
  | gridFault (t : Tid) (x y : BitVec 3)
  | fenceReq (t : Tid)
  | tileReset (t : Tid)
  | tileFence (t : Tid) (cause : FenceCause)
  | laneClose (l : Fin 32) (spare : Tid)
  | laneForm (c : Fin 4)
  -- barriers and the control channel
  | barrierAdmit (c : Fin 4) (layer : Nat)
  | admitMsg (t : Tid)
  | done (t : Tid)
  | signal (src dst : Tid)
  | order (t : Tid) (o : Order)
  | report (t : Tid) (r : Report)
  | access (addr : DWord) (write : Option Word)
  -- crossings, stretch and pace
  /-- `edge`: at the rim, the way of the line that the edge die sends in -/
  | crossingLineSend (t : Tid) (dir : Dir) (edge : List Nat)
  | crossingLineArrive (t : Tid) (dir : Dir)
  | crossingCreditReturn (t : Tid) (dir : Dir)
  | stretchBegin (t : Tid) (droopMv : Nat)
  | stretchEnd (t : Tid) (waves : Nat)
  | paceStepChange (t : Tid)
  | mittenSettled (t : Tid)
  | governorTrim (t : Tid) (rate : BitVec 12)
  | skidRateSecond (d : Fin 56)
  | stormWindowEnd (t : Tid)
  | wideCheckComplete (t : Tid)
  /-- measured energy of the window that ended, in µJ, by tile (R384) -/
  | forecastWindow (d : Fin 56) (measured : List Nat)
  -- control ring, timebase, takeover
  | ringFrame (f : RingFrame)
  | tbRefLoss (freq : Bool)
  | tbRelock
  | tbSet (v : Word)
  | tbNowRead
  | sdTakeover
  -- translation, stack and spill
  | walkComplete (t : Tid) (va : BitVec 48)
  | invalidationRound (d : Fin 56)
  | invalidationAck (t : Tid)
  | stackUncorrectable (d : Fin 56) (col : Fin 24) (frame : BitVec 16) (line : Byte)
  | softSwapComplete (d : Fin 56)
  | stackPatrolScrub (d : Fin 56) (errs : List MemErr) (complete : Bool)
  | pageOutAck (d : Fin 56) (vpn : Word)
  | pageOutTimeout (d : Fin 56) (vpn : Word) (why : Fin 3)
  /-- the ciphertext that the memory server returned, and the tag and the generation count of its header -/
  | pageInComplete (d : Fin 56) (vpn : Word) (page : SealedPage)
  | pageInTimeout (d : Fin 56) (vpn : Word) (refused : Bool)
  | drainPoolPageIn (p : Fin 2)
  | drainPoolRetry (p : Fin 2)
  -- cache grants
  | grantRequest (slot : BitVec 12)
  | parkLimit (slot : BitVec 12)
  -- serving
  | request (s : Session) (bytes : List Byte) (seed : DWord)
  | part (s : Session) (bytes : List Byte)
  | cancel (s : Session) (bytes : List Byte)
  | resend (s : Session) (bytes : List Byte)
  | fragTimeout (tenant : Half) (req : DWord)
  | sequenceAdmit (tenant : Half) (req : DWord)
  | groupForm (c : Fin 4) (speed : Bool)
  | sequenceCommit (slot : BitVec 12)
  | keepExpiry (tenant : Half) (req : DWord)
  | authBurstSecond
  -- sampling and speculation
  | samplingPartial (d : Fin 56) (slot : BitVec 12) (pos : Fin 17) (logits : List Word)
  | partialMerge (d : Fin 56) (slot : BitVec 12) (pos : Fin 17)
  | tokenCommit (slot : BitVec 12)
  | draftPass (l : Fin 32) (slot : BitVec 12) (logits : List (List Word))
  | draftCatchup (l : Fin 32) (slot : BitVec 12)
  -- contexts and weights
  | load (m : Mgmt) (c : Byte) (entry : Byte) (dies : List Byte)
  /-- `headers`, `tags`: the header and the tag table of each container -/
  | loadExecute (img : Option Image) (headers tags : List (List Byte))
  /-- the ciphertext that the source returned: its first response, and those after it -/
  | chunkReadComplete (p : Fin 2) (container chunk : Word) (first more : List Byte)
  | chunkFetchTimeout (p : Fin 2) (container chunk : Word)
  | replace (m : Mgmt) (c : Byte) (entry : Byte)
  | replaceUnitDrained (c : Fin 4)
  | unload (m : Mgmt) (c : Byte)
  | unloadZeroDone (c : Fin 4) (ms : Word)
  | manifestWrite (m : Mgmt) (n : Byte) (e : ManifestEntry)
  -- ports and optics
  | portTraining (p : Fin 2) (lanes : Byte) (aligned : Bool) (ms : Word)
  | trainAttemptTimeout (p : Fin 2) (lanes : Byte)
  | portRetry (p : Fin 2)
  | pcsAlignLoss (p : Fin 2)
  | fecSecond (p : Fin 2) (fec : FecCounts) (held : List Nat)
  | ethFrameReceive (p : Fin 2) (f : EthFrame)
  | pfcPauseReceive (p : Fin 2) (prio : BitVec 3) (xoff : Bool)
  | pauseStorm (p : Fin 2) (prio : BitVec 3)
  | cnpReceive (p : Fin 2) (qp : Byte)
  | rdmaRateRaise (p : Fin 2) (qp : Byte)
  | rdmaAckTimeout (p : Fin 2) (qp : Byte) (packet : RdmaPacket)
  | modulePoll (p : Fin 2) (answer : Option ModuleInfo)
  | moduleReadyTimeout (p : Fin 2)
  | moduleMonitor (p : Fin 2) (modFlags laneFlags : Word)
  /-- `bias`: the mean of each of the module's lanes over the hour -/
  | lifeRecordHourly (p : Fin 2) (lanes : Nat) (bias : List Half)
  | opticsRecordSet (m : Mgmt) (rec : Byte) (hours : Word) (ratedKh : Half)
  -- power
  | powerMeasure (d : Fin 56) (watts : Nat)
  | budgetCapLift (d : Fin 56)
  | turnOnRequest (t : Tid) (segDa dieDa : Nat)
  | grantRetest (d : Fin 56) (segDa dieDa : Nat)
  | grantWaitExpiry (t : Tid) (segDa dieDa : Nat)
  | turnOnSettled (t : Tid)
  | phaseFailure (t : Tid) (phases : List (Fin 16)) (cause : Fin 3)
  | railShort (t : Tid) (deciAmps : BitVec 12)
  | siteTrip (d : Fin 56) (cause : Fin 3)
  | siteRetry (d : Fin 56) (holds : Bool)
  | vinLow (volts10mV : Half)
  | vinLoss (volts10mV : Half)
  | vinOvervoltage (volts10mV : Half)
  | vauxLoss
  | pgInAssert
  | pgInDeassert
  -- heat and coolant
  /-- the raw codes of bank 0 of the primary service die, inputs 0 to 31 -/
  | facilitySample (codes : List (BitVec 12))
  | flowSensorLost (i : Fin 2)
  | inletAlarm (i : Fin 2) (below : Bool)
  | flowEvaluate
  | flowCapLoosen
  | stackOverheatRest (d : Fin 56)
  | holdTimeout
  | holdResume (holdS : Word)
  | resume (m : Mgmt)
  | roEstimate (t : Tid) (e : BitVec 12)
  /-- raw codes of inputs 0 to 31; `d` is a compute die or 56 + q for service die q -/
  | sensorScan (d : Fin 58) (bank : Fin 4) (codes : List (BitVec 12))
  | suspectClear (t : Tid)
  | thermalCapLoosen (t : Tid)
  -- converters
  /-- raw codes: 64 of the ground, 64 of the bandgap, and 8 of each of the four DAC codes -/
  | sliceCalibrate (d : Fin 58) (ground bandgap : List (BitVec 12)) (dac : List (BitVec 12))
  /-- raw codes of the scan by the incoming and the outgoing slice, and each one's three-code check -/
  | sliceRotate (d : Fin 58) (inCodes outCodes inCheck outCheck : List (BitVec 12))
  | adcDacConvert (d : Fin 58) (ctrl : Word) (raw : BitVec 12)
  -- bring-up
  | coldPowerOn (romOk0 bonnetOk0 romOk1 bonnetOk1 : Bool)
  | bciVerify (boot : Word)
  | fieldCheck
  | siteSoftStart (failed : List (Fin 56)) (serials : List (BitVec 128))
  | linkTraining (results : List LinkResult)
  | crossingCalibration (results : List CalResult)
  | firmwareBroadcast (badTiles : List Tid) (badBowlers : List (Fin 56))
  | firmwareResend (t : Tid) (bowler ok : Bool)
  | stackInit (failed : List (Fin 56 × Fin 24 × Fin 10))
  | skinkFullPass (results : List (Tid × SliceId × SliceResult))
  | buReady (ms : Word)
  | buLate (ms : Word)
  -- resets and states
  | modResetPin
  | modReset (m : Mgmt)
  | cpResetPin
  | cpReset (m : Mgmt)
  | cpResetEnd
  | doze (m : Mgmt)
  | autoDoze
  | hold (m : Mgmt)
  | rest (m : Mgmt)
  | run (m : Mgmt)
  | portReset (p : Fin 2)
  | retrain (p : Fin 2)
  -- tests, repair and the log
  | testSliceStart (t : Tid) (k : SliceId)
  | testSliceEnd (t : Tid) (r : SliceResult)
  | sliceAbandon (t : Tid)
  | bubbleRequest (t : Tid)
  | sweepLate (d : Fin 56) (hours : Word)
  | bowlerTimeout (d : Fin 56)
  | logEntry (e : LogRec)
  -- management
  | tlsHandshake (o : TlsOffer)
  | mgmtIdleTimeout (idle : IdleSession)
  | statusRead (m : Mgmt)
  | regRead (m : Mgmt) (addr : DWord) (count : Word)
  | regWrite (m : Mgmt) (addr : DWord) (words : List Word)
  | fieldRead (m : Mgmt) (id : Half)
  | fieldWrite (m : Mgmt) (id : Half) (len : Half) (value : Nat)
  | configReportRead (m : Mgmt)
  | logRead (m : Mgmt) (first count : Word)
  | bciWrite (m : Mgmt) (dev : Byte) (img : BciImage)
  | capabilityRead (m : Mgmt)
  | repairMapRead (m : Mgmt)
  | testRecordRead (m : Mgmt) (die : Byte)
  | ringAccess (m : Mgmt) (f : RingFrame)
  | loadReportRead (m : Mgmt) (c : Byte)
  | spillPoolRegister (m : Mgmt) (p : Byte) (pool : PoolParams)
  | sequenceQuery (m : Mgmt) (tenant : Half) (req : DWord)
  | tenantSet (m : Mgmt) (body : List Byte)
  | certificateRead (m : Mgmt)
  | attestation (m : Mgmt) (nonce : BitVec 256)
  | setConfigKey (m : Mgmt) (key : BitVec 512) (counter : DWord) (sig : BitVec 512)
  -- further events
  | modResetNRelease
  | bubblePassOn (c : Fin 4) (layer : Nat)
  | dozeEntryComplete
  | vin48BackInRange (volts10mV : Half)
  deriving DecidableEq, Repr

end Sys2Proof
end

