-- ==== Sys2Proof/Decode.lean ====
section
/-! DEFINITION. Decoding by table word. The block fetches no instruction: its commands are events and
operations, and spec/opcode_table.json gives no row any bits, so no word spells a command
(notes/assumptions/1). -/
namespace Sys2Proof

/-- The command that a word of the table's bits spells: none, since the table gives no bits. -/
def decodeTableWord (_nbits _w : Nat) : Option Instr := none

end Sys2Proof
end

