-- ==== Sys2Proof/Machine/Crypto.lean ====
section
/-! DEFINITION. The algorithms that the manual names, by their published standards (notes/assumptions/47): SM3 and
HMAC-SM3 (R266, R470), SM4 (R296), SM4-GCM (R226, R313) and the decryption of an SM2 ciphertext (R315, R471). -/
namespace Sys2Proof.Machine

/-! ## SM4 (GB/T 32907) -/

def sm4Sbox0 : List Nat := [
  0xD6, 0x90, 0xE9, 0xFE, 0xCC, 0xE1, 0x3D, 0xB7, 0x16, 0xB6, 0x14, 0xC2, 0x28, 0xFB, 0x2C, 0x05,
  0x2B, 0x67, 0x9A, 0x76, 0x2A, 0xBE, 0x04, 0xC3, 0xAA, 0x44, 0x13, 0x26, 0x49, 0x86, 0x06, 0x99,
  0x9C, 0x42, 0x50, 0xF4, 0x91, 0xEF, 0x98, 0x7A, 0x33, 0x54, 0x0B, 0x43, 0xED, 0xCF, 0xAC, 0x62,
  0xE4, 0xB3, 0x1C, 0xA9, 0xC9, 0x08, 0xE8, 0x95, 0x80, 0xDF, 0x94, 0xFA, 0x75, 0x8F, 0x3F, 0xA6]
def sm4Sbox1 : List Nat := [
  0x47, 0x07, 0xA7, 0xFC, 0xF3, 0x73, 0x17, 0xBA, 0x83, 0x59, 0x3C, 0x19, 0xE6, 0x85, 0x4F, 0xA8,
  0x68, 0x6B, 0x81, 0xB2, 0x71, 0x64, 0xDA, 0x8B, 0xF8, 0xEB, 0x0F, 0x4B, 0x70, 0x56, 0x9D, 0x35,
  0x1E, 0x24, 0x0E, 0x5E, 0x63, 0x58, 0xD1, 0xA2, 0x25, 0x22, 0x7C, 0x3B, 0x01, 0x21, 0x78, 0x87,
  0xD4, 0x00, 0x46, 0x57, 0x9F, 0xD3, 0x27, 0x52, 0x4C, 0x36, 0x02, 0xE7, 0xA0, 0xC4, 0xC8, 0x9E]
def sm4Sbox2 : List Nat := [
  0xEA, 0xBF, 0x8A, 0xD2, 0x40, 0xC7, 0x38, 0xB5, 0xA3, 0xF7, 0xF2, 0xCE, 0xF9, 0x61, 0x15, 0xA1,
  0xE0, 0xAE, 0x5D, 0xA4, 0x9B, 0x34, 0x1A, 0x55, 0xAD, 0x93, 0x32, 0x30, 0xF5, 0x8C, 0xB1, 0xE3,
  0x1D, 0xF6, 0xE2, 0x2E, 0x82, 0x66, 0xCA, 0x60, 0xC0, 0x29, 0x23, 0xAB, 0x0D, 0x53, 0x4E, 0x6F,
  0xD5, 0xDB, 0x37, 0x45, 0xDE, 0xFD, 0x8E, 0x2F, 0x03, 0xFF, 0x6A, 0x72, 0x6D, 0x6C, 0x5B, 0x51]
def sm4Sbox3 : List Nat := [
  0x8D, 0x1B, 0xAF, 0x92, 0xBB, 0xDD, 0xBC, 0x7F, 0x11, 0xD9, 0x5C, 0x41, 0x1F, 0x10, 0x5A, 0xD8,
  0x0A, 0xC1, 0x31, 0x88, 0xA5, 0xCD, 0x7B, 0xBD, 0x2D, 0x74, 0xD0, 0x12, 0xB8, 0xE5, 0xB4, 0xB0,
  0x89, 0x69, 0x97, 0x4A, 0x0C, 0x96, 0x77, 0x7E, 0x65, 0xB9, 0xF1, 0x09, 0xC5, 0x6E, 0xC6, 0x84,
  0x18, 0xF0, 0x7D, 0xEC, 0x3A, 0xDC, 0x4D, 0x20, 0x79, 0xEE, 0x5F, 0x3E, 0xD7, 0xCB, 0x39, 0x48]

def sm4Sub (b : Nat) : Nat :=
  let t := match b / 64 with
    | 0 => sm4Sbox0
    | 1 => sm4Sbox1
    | 2 => sm4Sbox2
    | _ => sm4Sbox3
  (t[b % 64]?).getD 0

/-- The S-box on each byte of a word. -/
def sm4Tau (x : Word) : Word :=
  let n := x.toNat
  BitVec.ofNat 32 (sm4Sub (n / 2 ^ 24 % 256) * 2 ^ 24 + sm4Sub (n / 2 ^ 16 % 256) * 2 ^ 16
    + sm4Sub (n / 2 ^ 8 % 256) * 2 ^ 8 + sm4Sub (n % 256))

def sm4T (x : Word) : Word :=
  let b := sm4Tau x
  b ^^^ b.rotateLeft 2 ^^^ b.rotateLeft 10 ^^^ b.rotateLeft 18 ^^^ b.rotateLeft 24

def sm4Tk (x : Word) : Word :=
  let b := sm4Tau x
  b ^^^ b.rotateLeft 13 ^^^ b.rotateLeft 23

/-- The constant of round `i`: its bytes are 7 (4i + j) modulo 256. -/
def sm4Ck (i : Nat) : Word :=
  let b (j : Nat) : Nat := 7 * (4 * i + j) % 256
  BitVec.ofNat 32 (b 0 * 2 ^ 24 + b 1 * 2 ^ 16 + b 2 * 2 ^ 8 + b 3)

/-- Four words of the cipher's state. -/
abbrev Quad := Word × Word × Word × Word

def quadOf (v : BitVec 128) : Quad :=
  (v.extractLsb' 96 32, v.extractLsb' 64 32, v.extractLsb' 32 32, v.extractLsb' 0 32)

def sm4Fk : Quad := (0xA3B1BAC6, 0x56AA3350, 0x677D9197, 0xB27022DC)

/-- Rounds `i` on of the cipher together with its key schedule. -/
def sm4Rounds : Nat → Nat → Quad → Quad → Quad
  | 0, _, _, x => x
  | n + 1, i, k, x =>
    let rk := k.1 ^^^ sm4Tk (k.2.1 ^^^ k.2.2.1 ^^^ k.2.2.2 ^^^ sm4Ck i)
    let y := x.1 ^^^ sm4T (x.2.1 ^^^ x.2.2.1 ^^^ x.2.2.2 ^^^ rk)
    sm4Rounds n (i + 1) (k.2.1, k.2.2.1, k.2.2.2, rk) (x.2.1, x.2.2.1, x.2.2.2, y)

/-- SM4 of one block; the words of the result, first to last. -/
def sm4 (key block : BitVec 128) : Quad :=
  let k := quadOf key
  let k := (k.1 ^^^ sm4Fk.1, k.2.1 ^^^ sm4Fk.2.1, k.2.2.1 ^^^ sm4Fk.2.2.1, k.2.2.2 ^^^ sm4Fk.2.2.2)
  let x := sm4Rounds 32 0 k (quadOf block)
  (x.2.2.2, x.2.2.1, x.2.1, x.1)

/-! ## SM3 (GB/T 32905) -/

def sm3P0 (x : Word) : Word := x ^^^ x.rotateLeft 9 ^^^ x.rotateLeft 17
def sm3P1 (x : Word) : Word := x ^^^ x.rotateLeft 15 ^^^ x.rotateLeft 23

structure Sm3V where
  a : Word
  b : Word
  c : Word
  d : Word
  e : Word
  f : Word
  g : Word
  h : Word

def sm3Init : Sm3V :=
  ⟨0x7380166F, 0x4914B2B9, 0x172442D7, 0xDA8A0600, 0xA96F30BC, 0x163138AA, 0xE38DEE4D, 0xB0FB0E4E⟩

def beWord (l : List Byte) : Word := l.foldl (fun a b => a <<< 8 ||| b.setWidth 32) 0

/-- The sixteen words of a block. -/
def sm3Words : Nat → List Byte → List Word
  | 0, _ => []
  | n + 1, l => beWord (l.take 4) :: sm3Words n (l.drop 4)

/-- The next message word, from the sixteen before it. -/
def sm3Next (w : List Word) : Word :=
  let at_ (i : Nat) : Word := (w[i]?).getD 0
  sm3P1 (at_ 0 ^^^ at_ 7 ^^^ (at_ 13).rotateLeft 15) ^^^ (at_ 3).rotateLeft 7 ^^^ at_ 10

/-- Round `j` with message words `w` and `w'`. -/
def sm3Round (j : Nat) (v : Sm3V) (w w' : Word) : Sm3V :=
  let t : Word := if j < 16 then 0x79CC4519 else 0x7A879D8A
  let ff := if j < 16 then v.a ^^^ v.b ^^^ v.c else (v.a &&& v.b) ||| (v.a &&& v.c) ||| (v.b &&& v.c)
  let gg := if j < 16 then v.e ^^^ v.f ^^^ v.g else (v.e &&& v.f) ||| (~~~v.e &&& v.g)
  let ss1 := (v.a.rotateLeft 12 + v.e + t.rotateLeft (j % 32)).rotateLeft 7
  let ss2 := ss1 ^^^ v.a.rotateLeft 12
  let tt1 := ff + v.d + ss2 + w'
  let tt2 := gg + v.h + ss1 + w
  ⟨tt1, v.a, v.b.rotateLeft 9, v.c, sm3P0 tt2, v.e, v.f.rotateLeft 19, v.g⟩

/-- Rounds `j` on; the list holds the sixteen message words from word `j`. -/
def sm3Rounds : Nat → Nat → List Word → Sm3V → Sm3V
  | 0, _, _, v => v
  | n + 1, j, w, v =>
    let w0 := (w[0]?).getD 0
    sm3Rounds n (j + 1) (w.drop 1 ++ [sm3Next w]) (sm3Round j v w0 (w0 ^^^ (w[4]?).getD 0))

def sm3Block (v : Sm3V) (b : List Byte) : Sm3V :=
  let x := sm3Rounds 64 0 (sm3Words 16 b) v
  ⟨x.a ^^^ v.a, x.b ^^^ v.b, x.c ^^^ v.c, x.d ^^^ v.d, x.e ^^^ v.e, x.f ^^^ v.f, x.g ^^^ v.g, x.h ^^^ v.h⟩

def sm3Blocks : Nat → List Byte → Sm3V → Sm3V
  | 0, _, v => v
  | n + 1, l, v => sm3Blocks n (l.drop 64) (sm3Block v (l.take 64))

/-- The message with its padding: a one bit, zeros, and the length in bits. -/
def sm3Pad (l : List Byte) : List Byte :=
  let n := l.length
  let z := (119 - n % 64) % 64
  let bits := BitVec.ofNat 64 (8 * n)
  l ++ [0x80] ++ List.replicate z 0
    ++ (List.range 8).map fun i => bits.extractLsb' (56 - 8 * i) 8

/-- The digest, byte 0 as the most significant. -/
def sm3 (l : List Byte) : BitVec 256 :=
  let p := sm3Pad l
  let v := sm3Blocks (p.length / 64) p sm3Init
  v.a ++ v.b ++ v.c ++ v.d ++ v.e ++ v.f ++ v.g ++ v.h

/-- The 32 bytes of a digest or key. -/
def bytes256 (v : BitVec 256) : List Byte := (List.range 32).map fun i => v.extractLsb' (248 - 8 * i) 8

/-- HMAC with SM3 under a 32-byte key (RFC 2104). -/
def hmacSm3 (key : BitVec 256) (l : List Byte) : BitVec 256 :=
  let k := bytes256 key ++ List.replicate 32 0
  let inner := sm3 (k.map (· ^^^ 0x36) ++ l)
  sm3 (k.map (· ^^^ 0x5C) ++ bytes256 inner)

/-! ## Bytes, most significant first -/

/-- A list of bytes as a number, the first byte the most significant. -/
def beNat (l : List Byte) : Nat := l.foldl (fun a b => 256 * a + b.toNat) 0

/-- The `n` low bytes of a number, the most significant first. -/
def beBytes : Nat → Nat → List Byte
  | 0, _ => []
  | n + 1, v => beBytes n (v / 256) ++ [BitVec.ofNat 8 (v % 256)]

/-! ## SM4-GCM (RFC 8998, NIST SP 800-38D) -/

def sm4Bits (key block : BitVec 128) : BitVec 128 :=
  let q := sm4 key block
  q.1 ++ q.2.1 ++ q.2.2.1 ++ q.2.2.2

/-- Sixteen-byte blocks of a string, the last one filled with zeros. -/
def gcmBlocks : Nat → List Byte → List (BitVec 128)
  | 0, _ => []
  | n + 1, l =>
    let b := l.take 16
    BitVec.ofNat 128 (beNat b * 256 ^ (16 - b.length)) :: gcmBlocks n (l.drop 16)

def gcmBlocksOf (l : List Byte) : List (BitVec 128) := gcmBlocks ((l.length + 15) / 16) l

/-- Multiplication in the field of GHASH: `i` bits of `x` are still to be taken, from the most significant. -/
def gcmMul (x : BitVec 128) : Nat → BitVec 128 → BitVec 128 → BitVec 128
  | 0, _, z => z
  | i + 1, v, z =>
    let z := if x.getLsbD i then z ^^^ v else z
    let v' := v >>> 1
    gcmMul x i (if v.getLsbD 0 then v' ^^^ (0xE1#128 <<< 120) else v') z

def ghash (h : BitVec 128) (l : List (BitVec 128)) : BitVec 128 :=
  l.foldl (fun y b => gcmMul (y ^^^ b) 128 h 0) 0

/-- The counter block of a 12-byte IV. -/
def gcmCounter (iv : BitVec 96) (n : Nat) : BitVec 128 := iv ++ BitVec.ofNat 32 n

/-- Encryption and decryption of the counter mode: block `n` on. -/
def gcmCtr (key : BitVec 128) (iv : BitVec 96) : Nat → Nat → List Byte → List Byte
  | 0, _, _ => []
  | k + 1, n, l =>
    let pad := beBytes 16 (sm4Bits key (gcmCounter iv n)).toNat
    (l.take 16).zipWith (· ^^^ ·) pad ++ gcmCtr key iv k (n + 1) (l.drop 16)

def gcmCrypt (key : BitVec 128) (iv : BitVec 96) (l : List Byte) : List Byte :=
  gcmCtr key iv ((l.length + 15) / 16) 2 l

/-- The tag of a ciphertext with its additional data. -/
def gcmTag (key : BitVec 128) (iv : BitVec 96) (aad text : List Byte) : BitVec 128 :=
  let lens : BitVec 128 := BitVec.ofNat 128 (8 * aad.length * 2 ^ 64 + 8 * text.length)
  sm4Bits key (gcmCounter iv 1)
    ^^^ ghash (sm4Bits key 0) (gcmBlocksOf aad ++ gcmBlocksOf text ++ [lens])

/-- The plaintext, when the tag verifies. -/
def gcmOpen (key : BitVec 128) (iv : BitVec 96) (aad text : List Byte) (tag : BitVec 128) : Option (List Byte) :=
  if gcmTag key iv aad text = tag then some (gcmCrypt key iv text) else none

/-! ## Decryption of SM2 (GB/T 32918.4, on the curve of GB/T 32918.5) -/

def sm2P : Nat := 0xFFFFFFFEFFFFFFFFFFFFFFFFFFFFFFFFFFFFFFFF00000000FFFFFFFFFFFFFFFF
def sm2B : Nat := 0x28E9FA9E9D9F5E344D5A9E4BCF6509A7F39789F515AB8F92DDBCBD414D940E93

def fMul (a b : Nat) : Nat := a * b % sm2P
def fAdd (a b : Nat) : Nat := (a + b) % sm2P
def fSub (a b : Nat) : Nat := (a + sm2P - b % sm2P) % sm2P

/-- A power in the field: `n` bits of the exponent are left. -/
def fPow (b e : Nat) : Nat → Nat → Nat
  | 0, r => r
  | n + 1, r =>
    let r := fMul r r
    fPow b e n (if e / 2 ^ n % 2 = 1 then fMul r b else r)

def fInv (a : Nat) : Nat := fPow a (sm2P - 2) 256 1

/-- A point in Jacobian coordinates; Z is 0 at infinity. -/
abbrev Point := Nat × Nat × Nat

/-- A point doubled; the curve has a = -3. -/
def sm2Double (q : Point) : Point :=
  let zz := fMul q.2.2 q.2.2
  let yy := fMul q.2.1 q.2.1
  let m := fMul 3 (fMul (fSub q.1 zz) (fAdd q.1 zz))
  let t := fMul 4 (fMul q.1 yy)
  let x := fSub (fMul m m) (fMul 2 t)
  (x, fSub (fMul m (fSub t x)) (fMul 8 (fMul yy yy)), fMul 2 (fMul q.2.1 q.2.2))

def sm2Add (q r : Point) : Point :=
  if q.2.2 = 0 then r
  else if r.2.2 = 0 then q
  else
    let qz := fMul q.2.2 q.2.2
    let rz := fMul r.2.2 r.2.2
    let u := fMul q.1 rz
    let v := fMul q.2.1 (fMul r.2.2 rz)
    let h := fSub (fMul r.1 qz) u
    let w := fSub (fMul r.2.1 (fMul q.2.2 qz)) v
    if h = 0 then (if w = 0 then sm2Double q else (1, 1, 0))
    else
      let hh := fMul h h
      let hhh := fMul h hh
      let uhh := fMul u hh
      let x := fSub (fSub (fMul w w) hhh) (fMul 2 uhh)
      (x, fSub (fMul w (fSub uhh x)) (fMul v hhh), fMul h (fMul q.2.2 r.2.2))

/-- A multiple of a point: `n` bits of the factor are left. -/
def sm2Times (k : Nat) (q : Point) : Nat → Point → Point
  | 0, r => r
  | n + 1, r =>
    let r := sm2Double r
    sm2Times k q n (if k / 2 ^ n % 2 = 1 then sm2Add r q else r)

/-- The point lies on the curve. -/
def sm2OnCurve (x y : Nat) : Bool :=
  x < sm2P && y < sm2P && fMul y y = fAdd (fSub (fMul x (fMul x x)) (fMul 3 x)) sm2B

/-- The key derivation: `n` digests from number `i` on. -/
def sm2Kdf (z : List Byte) : Nat → Nat → List Byte
  | 0, _ => []
  | n + 1, i => bytes256 (sm3 (z ++ beBytes 4 i)) ++ sm2Kdf z n (i + 1)

/-- The plaintext of C1 ‖ C3 ‖ C2 under a private key, C1 uncompressed; none when the ciphertext is not one. -/
def sm2Decrypt (key : Nat) (c : List Byte) : Option (List Byte) :=
  let x := beNat ((c.drop 1).take 32)
  let y := beNat ((c.drop 33).take 32)
  let c3 := (c.drop 65).take 32
  let c2 := c.drop 97
  if c.take 1 ≠ [4] || !(sm2OnCurve x y) then none
  else
    let q := sm2Times key (x, y, 1) 256 (1, 1, 0)
    if q.2.2 = 0 then none
    else
      let i := fInv q.2.2
      let ii := fMul i i
      let bx := beBytes 32 (fMul q.1 ii)
      let b := beBytes 32 (fMul q.2.1 (fMul i ii))
      let t := (sm2Kdf (bx ++ b) ((c2.length + 31) / 32) 1).take c2.length
      let m := c2.zipWith (· ^^^ ·) t
      if t.all (· = 0) || bytes256 (sm3 (bx ++ m ++ b)) ≠ c3 then none else some m

end Sys2Proof.Machine
end

