-- ==== Sys2Proof/Machine/Fields.lean ====
section
/-! DEFINITION. The fields of the boot configuration image (R487, Table 21.6): field ID, width,
range, default, whether a stored 0 selects the default, and whether a change after READY has no
effect (R486); and the check of R414. -/
namespace Sys2Proof.Machine

/-- A row of a field table; `count` fields from `id` on share it. -/
structure FieldDef where
  id    : Nat
  count : Nat
  width : Nat
  lo    : Nat
  hi    : Nat
  dflt  : Nat
  zeroDefault : Bool
  noEffect    : Bool
  deriving DecidableEq, Repr

/-! ## Field IDs by name -/
namespace F

def QC_SAT_THRESH : Nat := 0x0401
def QC_FLUSH_THRESH : Nat := 0x0402
def QC_OUTLIER_RATIO : Nat := 0x0403
def QC_OUTLIER_DENSITY : Nat := 0x0404
def QC_CHECK_INTERVAL : Nat := 0x0405
def QC_BREACH_LIMIT : Nat := 0x0406
def QC_BREACH_WINDOW : Nat := 0x0407
def QC_STORM_PERCENT : Nat := 0x0408
def QC_STORM_LOG2_WINDOW : Nat := 0x0409
def LD_REQUIRE_OWNER_SIG : Nat := 0x0601
def LD_ALLOW_ALTERNATE : Nat := 0x0602
def PC_INIT_STEP : Nat := 0x0701
def PC_MAX_STEP : Nat := 0x0702
def TB_RELOCK_MS : Nat := 0x0703
def MESH_SKID_LOG : Nat := 0x0704
def MEM_SCRUB_HOURS : Nat := 0x0801
def MEM_CH_CORR_LIMIT : Nat := 0x0802
def MEM_SPILL_ENABLE : Nat := 0x0803
def MEM_SPILL_TIMEOUT_US : Nat := 0x0804
def MEM_SPILL_RETRIES : Nat := 0x0805
def MEM_SPILL_RESERVE : Nat := 0x0806
def KV_PARK_LIMIT_MS : Nat := 0x0901
def KV_SPILL_LIMIT : Nat := 0x0902
def SV_UDP_PORT : Nat := 0x0A01
def SV_PIPE_SLOTS : Nat := 0x0A02
def SV_GROUP_MAX_POS : Nat := 0x0A03
def SV_SPEED_GROUP_MAX_POS : Nat := 0x0A04
def SV_QUANTUM : Nat := 0x0A05
def SV_QUEUE_DEPTH : Nat := 0x0A06
def SV_FRAG_TIMEOUT_MS : Nat := 0x0A07
def SV_RESEND_RECORDS : Nat := 0x0A08
def SV_KEEP_MS : Nat := 0x0A09
def SV_CLASS_WEIGHT : Nat := 0x0A40
def SV_CLASS_SPEED : Nat := 0x0A80
def SV_CLASS_PIPE : Nat := 0x0AC0
def SV_CLASS_LANES : Nat := 0x0B00
def SP_ENABLE : Nat := 0x0B41
def SP_DRAFT_INIT : Nat := 0x0B42
def SP_DRAFT_MAX : Nat := 0x0B43
def SP_LANE_SEATS : Nat := 0x0B44
def SP_OFF_PASSES : Nat := 0x0B45
def SP_OFF_TOKENS : Nat := 0x0B46
def WT_REPLACE_POLICY : Nat := 0x0C01
def WT_FETCH_TIMEOUT_MS : Nat := 0x0C05
def WT_FETCH_RETRIES : Nat := 0x0C06
def WT_INFLIGHT : Nat := 0x0C07
def PT_ENABLE : Nat := 0x0D01
def PT_MTU : Nat := 0x0D03
def PT_MGMT_PORT : Nat := 0x0D04
def PT_TRAIN_MS : Nat := 0x0D05
def PT_RETRY_S : Nat := 0x0D06
def PT_FEC_LIMIT : Nat := 0x0D07
def PT_PFC_MASK : Nat := 0x0D08
def PT_PCP_SERVE : Nat := 0x0D09
def PT_PCP_RDMA : Nat := 0x0D0A
def PT_PCP_MGMT : Nat := 0x0D0B
def PT_DSCP_SERVE : Nat := 0x0D0C
def PT_DSCP_RDMA : Nat := 0x0D0D
def PT_DSCP_MGMT : Nat := 0x0D0E
def PT_VLAN : Nat := 0x0D10
def PT_IPV6_ADDR : Nat := 0x0D12
def PT_IPV6_PREFIX : Nat := 0x0D14
def PT_IPV6_GW : Nat := 0x0D16
def PT_IPV4_ADDR : Nat := 0x0D18
def PT_IPV4_PREFIX : Nat := 0x0D1A
def PT_IPV4_GW : Nat := 0x0D1C
def OPT_WARN_PERCENT : Nat := 0x0D20
def OPT_LIFE_DEFAULT_KH : Nat := 0x0D21
def PT_PAUSE_STORM_MS : Nat := 0x0D22
def PW_DIE_CONT_W : Nat := 0x0E01
def PW_DIE_PEAK_W : Nat := 0x0E02
def PW_PEAK_MS : Nat := 0x0E03
def PW_LOCAL_A : Nat := 0x0E04
def PW_GRANT_WAIT_MS : Nat := 0x0E05
def PW_VIN_WARN : Nat := 0x0E06
def TH_LIMIT_C : Nat := 0x0F01
def TH_MARGIN_C : Nat := 0x0F02
def TH_STACK_LIMIT_C : Nat := 0x0F03
def TH_STACK_SR_C : Nat := 0x0F04
def TH_FLOW_NOM : Nat := 0x0F05
def TH_FLOW_NOM1 : Nat := 0x0F06
def TH_FLOW_FS : Nat := 0x0F07
def TH_FLOW_FS1 : Nat := 0x0F08
def TH_INLET_MAX_C : Nat := 0x0F09
def TH_HOLD_END_S : Nat := 0x0F0A
def TH_RESUME_S : Nat := 0x0F0B
def TH_AUTO_RESUME : Nat := 0x0F0C
def TH_IDLE_STEP : Nat := 0x0F0D
def ADC_ROTATE_MS : Nat := 0x1001
def ADC_DAC_TOL_LSB : Nat := 0x1002
def BU_TRAIN_RETRIES : Nat := 0x1101
def BU_READY_LATE_S : Nat := 0x1102
def RS_AUTO_DOZE_MS : Nat := 0x1201
def SK_PERIODIC : Nat := 0x1301
def SK_SWEEP_HOURS : Nat := 0x1302
def SK_BUBBLE_WAIT_S : Nat := 0x1303
def SK_LANE_BER_EXP : Nat := 0x1304
def SEC_MGMT_SESSIONS : Nat := 0x1401
def SEC_MGMT_IDLE_S : Nat := 0x1402

end F

/-! ## The field tables -/

def fieldTable0 : List FieldDef := [
  /- QC_SAT_THRESH -/ ⟨0x0401, 1, 5, 0, 16, 0, false, false⟩,
  /- QC_FLUSH_THRESH -/ ⟨0x0402, 1, 5, 0, 16, 6, false, false⟩,
  /- QC_OUTLIER_RATIO -/ ⟨0x0403, 1, 4, 2, 15, 4, true, false⟩,
  /- QC_OUTLIER_DENSITY -/ ⟨0x0404, 1, 8, 0, 128, 8, false, false⟩,
  /- QC_CHECK_INTERVAL -/ ⟨0x0405, 1, 21, 0, 1048576, 4096, false, false⟩,
  /- QC_BREACH_LIMIT -/ ⟨0x0406, 1, 4, 1, 15, 3, true, false⟩,
  /- QC_BREACH_WINDOW -/ ⟨0x0407, 1, 8, 1, 255, 60, true, false⟩,
  /- QC_STORM_PERCENT -/ ⟨0x0408, 1, 7, 0, 100, 25, false, false⟩,
  /- QC_STORM_LOG2_WINDOW -/ ⟨0x0409, 1, 5, 16, 24, 20, true, false⟩,
  /- LD_REQUIRE_OWNER_SIG -/ ⟨0x0601, 1, 1, 0, 1, 1, false, false⟩,
  /- LD_ALLOW_ALTERNATE -/ ⟨0x0602, 1, 1, 0, 1, 1, false, false⟩,
  /- PC_INIT_STEP -/ ⟨0x0701, 1, 4, 0, 15, 11, false, true⟩,
  /- PC_MAX_STEP -/ ⟨0x0702, 1, 4, 0, 15, 15, false, false⟩,
  /- TB_RELOCK_MS -/ ⟨0x0703, 1, 10, 1, 1000, 10, true, false⟩,
  /- MESH_SKID_LOG -/ ⟨0x0704, 1, 16, 0, 65535, 1000, false, false⟩,
  /- MEM_SCRUB_HOURS -/ ⟨0x0801, 1, 8, 1, 168, 24, true, false⟩,
  /- MEM_CH_CORR_LIMIT -/ ⟨0x0802, 1, 16, 1, 65535, 1000, true, false⟩,
  /- MEM_SPILL_ENABLE -/ ⟨0x0803, 1, 1, 0, 1, 1, false, false⟩,
  /- MEM_SPILL_TIMEOUT_US -/ ⟨0x0804, 1, 13, 100, 5000, 2000, true, false⟩,
  /- MEM_SPILL_RETRIES -/ ⟨0x0805, 1, 2, 0, 3, 2, false, false⟩]

def fieldTable1 : List FieldDef := [
  /- MEM_SPILL_RESERVE -/ ⟨0x0806, 1, 8, 8, 255, 64, true, false⟩,
  /- KV_PARK_LIMIT_MS -/ ⟨0x0901, 1, 14, 0, 10000, 50, false, false⟩,
  /- KV_SPILL_LIMIT -/ ⟨0x0902, 1, 8, 1, 255, 64, true, false⟩,
  /- SV_UDP_PORT -/ ⟨0x0A01, 1, 16, 1, 65535, 7455, true, true⟩,
  /- SV_PIPE_SLOTS -/ ⟨0x0A02, 1, 9, 1, 448, 0, true, false⟩,
  /- SV_GROUP_MAX_POS -/ ⟨0x0A03, 1, 8, 1, 128, 64, true, false⟩,
  /- SV_SPEED_GROUP_MAX_POS -/ ⟨0x0A04, 1, 8, 1, 128, 17, true, false⟩,
  /- SV_QUANTUM -/ ⟨0x0A05, 1, 13, 1, 4096, 128, true, false⟩,
  /- SV_QUEUE_DEPTH -/ ⟨0x0A06, 1, 15, 1, 16384, 16384, true, false⟩,
  /- SV_FRAG_TIMEOUT_MS -/ ⟨0x0A07, 1, 10, 1, 1000, 100, true, false⟩,
  /- SV_RESEND_RECORDS -/ ⟨0x0A08, 1, 10, 0, 1023, 256, false, false⟩,
  /- SV_KEEP_MS -/ ⟨0x0A09, 1, 17, 0, 100000, 10000, false, false⟩,
  /- SV_CLASS_WEIGHT -/ ⟨0x0A40, 64, 8, 0, 255, 1, false, false⟩,
  /- SV_CLASS_SPEED -/ ⟨0x0A80, 64, 1, 0, 1, 0, false, false⟩,
  /- SV_CLASS_PIPE -/ ⟨0x0AC0, 64, 9, 0, 448, 0, false, false⟩,
  /- SV_CLASS_LANES -/ ⟨0x0B00, 64, 5, 0, 18, 0, false, false⟩,
  /- SP_ENABLE -/ ⟨0x0B41, 1, 1, 0, 1, 1, false, false⟩,
  /- SP_DRAFT_INIT -/ ⟨0x0B42, 1, 5, 1, 16, 6, true, false⟩,
  /- SP_DRAFT_MAX -/ ⟨0x0B43, 1, 5, 1, 16, 8, true, false⟩,
  /- SP_LANE_SEATS -/ ⟨0x0B44, 1, 6, 1, 32, 20, true, false⟩]

def fieldTable2 : List FieldDef := [
  /- SP_OFF_PASSES -/ ⟨0x0B45, 1, 8, 1, 255, 32, true, false⟩,
  /- SP_OFF_TOKENS -/ ⟨0x0B46, 1, 16, 1, 65535, 256, true, false⟩,
  /- WT_REPLACE_POLICY -/ ⟨0x0C01, 4, 1, 0, 1, 0, false, false⟩,
  /- WT_FETCH_TIMEOUT_MS -/ ⟨0x0C05, 1, 14, 1, 10000, 500, true, false⟩,
  /- WT_FETCH_RETRIES -/ ⟨0x0C06, 1, 3, 0, 7, 3, false, false⟩,
  /- WT_INFLIGHT -/ ⟨0x0C07, 1, 5, 1, 16, 16, true, false⟩,
  /- PT_ENABLE -/ ⟨0x0D01, 2, 1, 0, 1, 1, false, false⟩,
  /- PT_MTU -/ ⟨0x0D03, 1, 14, 1280, 9216, 9216, true, false⟩,
  /- PT_MGMT_PORT -/ ⟨0x0D04, 1, 16, 1, 65535, 7456, true, true⟩,
  /- PT_TRAIN_MS -/ ⟨0x0D05, 1, 13, 500, 5000, 3000, true, false⟩,
  /- PT_RETRY_S -/ ⟨0x0D06, 1, 8, 1, 255, 10, true, false⟩,
  /- PT_FEC_LIMIT -/ ⟨0x0D07, 1, 24, 1, 16777215, 100, true, false⟩,
  /- PT_PFC_MASK -/ ⟨0x0D08, 1, 8, 0, 255, 8, false, false⟩,
  /- PT_PCP_SERVE -/ ⟨0x0D09, 1, 3, 0, 7, 0, false, false⟩,
  /- PT_PCP_RDMA -/ ⟨0x0D0A, 1, 3, 0, 7, 3, false, false⟩,
  /- PT_PCP_MGMT -/ ⟨0x0D0B, 1, 3, 0, 7, 6, false, false⟩,
  /- PT_DSCP_SERVE -/ ⟨0x0D0C, 1, 6, 0, 63, 0, false, false⟩,
  /- PT_DSCP_RDMA -/ ⟨0x0D0D, 1, 6, 0, 63, 26, false, false⟩,
  /- PT_DSCP_MGMT -/ ⟨0x0D0E, 1, 6, 0, 63, 48, false, false⟩,
  /- PT_VLAN -/ ⟨0x0D10, 2, 12, 0, 4094, 0, false, false⟩]

def fieldTable3 : List FieldDef := [
  /- PT_IPV6_ADDR -/ ⟨0x0D12, 2, 128, 0, 340282366920938463463374607431768211455, 0, false, false⟩,
  /- PT_IPV6_PREFIX -/ ⟨0x0D14, 2, 8, 0, 128, 64, false, false⟩,
  /- PT_IPV6_GW -/ ⟨0x0D16, 2, 128, 0, 340282366920938463463374607431768211455, 0, false, false⟩,
  /- PT_IPV4_ADDR -/ ⟨0x0D18, 2, 32, 0, 4294967295, 0, false, false⟩,
  /- PT_IPV4_PREFIX -/ ⟨0x0D1A, 2, 6, 0, 32, 24, false, false⟩,
  /- PT_IPV4_GW -/ ⟨0x0D1C, 2, 32, 0, 4294967295, 0, false, false⟩,
  /- OPT_WARN_PERCENT -/ ⟨0x0D20, 1, 7, 1, 100, 85, true, false⟩,
  /- OPT_LIFE_DEFAULT_KH -/ ⟨0x0D21, 1, 12, 1, 4095, 50, true, false⟩,
  /- PT_PAUSE_STORM_MS -/ ⟨0x0D22, 1, 10, 1, 1000, 100, true, false⟩,
  /- PW_DIE_CONT_W -/ ⟨0x0E01, 1, 10, 200, 480, 420, true, false⟩,
  /- PW_DIE_PEAK_W -/ ⟨0x0E02, 1, 10, 200, 540, 505, true, false⟩,
  /- PW_PEAK_MS -/ ⟨0x0E03, 1, 7, 0, 100, 100, false, false⟩,
  /- PW_LOCAL_A -/ ⟨0x0E04, 1, 7, 40, 80, 80, true, false⟩,
  /- PW_GRANT_WAIT_MS -/ ⟨0x0E05, 1, 5, 1, 20, 10, true, false⟩,
  /- PW_VIN_WARN -/ ⟨0x0E06, 1, 9, 400, 500, 440, true, false⟩,
  /- TH_LIMIT_C -/ ⟨0x0F01, 1, 7, 80, 95, 90, true, false⟩,
  /- TH_MARGIN_C -/ ⟨0x0F02, 1, 5, 1, 20, 5, true, false⟩,
  /- TH_STACK_LIMIT_C -/ ⟨0x0F03, 1, 7, 70, 90, 85, true, false⟩,
  /- TH_STACK_SR_C -/ ⟨0x0F04, 1, 7, 85, 100, 95, true, false⟩,
  /- TH_FLOW_NOM -/ ⟨0x0F05, 1, 10, 10, 1000, 280, true, false⟩]

def fieldTable4 : List FieldDef := [
  /- TH_FLOW_NOM1 -/ ⟨0x0F06, 1, 10, 10, 1000, 120, true, false⟩,
  /- TH_FLOW_FS -/ ⟨0x0F07, 1, 10, 10, 1000, 500, true, false⟩,
  /- TH_FLOW_FS1 -/ ⟨0x0F08, 1, 10, 10, 1000, 250, true, false⟩,
  /- TH_INLET_MAX_C -/ ⟨0x0F09, 1, 6, 30, 45, 40, true, false⟩,
  /- TH_HOLD_END_S -/ ⟨0x0F0A, 1, 12, 0, 3600, 600, false, false⟩,
  /- TH_RESUME_S -/ ⟨0x0F0B, 1, 10, 1, 1000, 30, true, false⟩,
  /- TH_AUTO_RESUME -/ ⟨0x0F0C, 1, 1, 0, 1, 1, false, false⟩,
  /- TH_IDLE_STEP -/ ⟨0x0F0D, 1, 4, 0, 15, 4, false, false⟩,
  /- ADC_ROTATE_MS -/ ⟨0x1001, 1, 16, 100, 60000, 1000, true, false⟩,
  /- ADC_DAC_TOL_LSB -/ ⟨0x1002, 1, 6, 2, 32, 8, true, false⟩,
  /- BU_TRAIN_RETRIES -/ ⟨0x1101, 1, 3, 0, 7, 2, false, true⟩,
  /- BU_READY_LATE_S -/ ⟨0x1102, 1, 10, 30, 600, 75, true, true⟩,
  /- RS_AUTO_DOZE_MS -/ ⟨0x1201, 1, 16, 0, 60000, 0, false, false⟩,
  /- SK_PERIODIC -/ ⟨0x1301, 1, 1, 0, 1, 1, false, false⟩,
  /- SK_SWEEP_HOURS -/ ⟨0x1302, 1, 8, 1, 168, 6, true, false⟩,
  /- SK_BUBBLE_WAIT_S -/ ⟨0x1303, 1, 12, 1, 3600, 60, true, false⟩,
  /- SK_LANE_BER_EXP -/ ⟨0x1304, 1, 4, 9, 15, 12, true, false⟩,
  /- SEC_MGMT_SESSIONS -/ ⟨0x1401, 1, 4, 1, 8, 4, true, false⟩,
  /- SEC_MGMT_IDLE_S -/ ⟨0x1402, 1, 10, 10, 900, 300, true, false⟩]

/-- Every field of Table 21.6. -/
def fieldTable : List FieldDef := fieldTable0 ++ fieldTable1 ++ fieldTable2 ++ fieldTable3 ++ fieldTable4

/-- The row of a field ID; none when no table names the field (R413). -/
def fieldDef (id : Nat) : Option FieldDef :=
  fieldTable.find? fun f => f.id ≤ id ∧ id < f.id + f.count

/-- The default of a field. SV_PIPE_SLOTS has the number of layer groups of each context as its
default (Table 10.11); the value 0, which its range excludes, stands for it. -/
def fieldDefault (id : Nat) : Nat := ((fieldDef id).map (·.dflt)).getD 0

/-- The check of one stored value (R414): the default for a 0 that selects it, the value inside the
range, the nearest legal value outside. -/
def fieldCheckVal (f : FieldDef) (v : Nat) : Nat :=
  if v = 0 ∧ f.zeroDefault then f.dflt
  else if v < f.lo then f.lo
  else if f.hi < v then f.hi
  else v

/-- Whether the check changed the value, other than by selecting the default (R415). -/
def fieldClamped (f : FieldDef) (v : Nat) : Bool :=
  !(v = 0 ∧ f.zeroDefault) && (v < f.lo || f.hi < v)

end Sys2Proof.Machine
end

