-- ==== Sys2Proof/Machine/State.lean ====
section
/-! DEFINITION. The state of the W56 as plain data: every register field, tile, die, port die,
service-die table, flash record, pin and queue that the spec names, and the queue of waiting
commands. Sparse data is held as lists of key and value pairs in one canonical form (see
Machine/Ops.lean, `KMap`). -/
namespace Sys2Proof.Machine

/-! ## Stops -/

/-- Faults of a step. The model has none that a command raises: every condition the manual calls a
fault (an illegal instruction, a command fault, a synchronisation fault, a translation fault) has
the effect the manual gives it, in a next state. -/
inductive Fault where
  /-- raised by nobody; it stands so that the type is inhabited. Safe: no step answers it. -/
  | none
  deriving DecidableEq, Repr

/-- Refusals of a step. -/
inductive Refusal where
  /-- raised by an arm of exec whose command has no meaning yet. Safe: the step stops. -/
  | notModelled (mnemonic : String)
  deriving DecidableEq, Repr

/-! ## Tiles -/

/-- What a stalled wait waits for (R128, R129). -/
inductive WaitKind where
  | plain | idle | slotRead | slotWrite
  deriving DecidableEq, Repr

structure Wait where
  kind    : WaitKind
  counter : Nat
  target  : Word
  slot    : Nat
  deriving DecidableEq, Repr

/-- A queued command: its descriptor, the index of the issuing instruction (R131), its number among
the tile's issues, and the recoverable translation outcomes that it met and holds its place for: kind and
page (R212). -/
structure QCmd where
  desc   : Desc
  pc     : BitVec 17
  serial : Nat
  met    : List (Nat × Nat)
  deriving DecidableEq, Repr

/-- A command whose results have committed and whose completion is still to be posted. `cref` is
incremented by `amount` at tile `home`; `src` by `srcAmount` at the issuing tile (R135, R152). -/
structure InFlight where
  queue     : Fin 6
  op        : Byte
  serial    : Nat
  cref      : Word
  amount    : Word
  homes     : List Tid
  src       : Word
  srcAmount : Word
  /-- the accumulation group or grid region it uses -/
  grp       : Nat
  /-- members of a multicast transfer: each counts it in counter 249 (R191) -/
  members   : List Tid
  /-- a streaming command that started and waits, its weight stream buffers empty, for a page (R44) -/
  held      : Option QCmd
  /-- a move over the mesh: the tile it goes to, and its lines that have not committed there -/
  dest      : Option Tid
  left      : Nat
  deriving DecidableEq, Repr

/-- What a sampled check needs of a streaming command (R111, R112): where its weights lie, their format,
the reduction length, the first weight row, and each position's effective activations in BF16. -/
structure StreamRec where
  welem  : DWord
  wscale : DWord
  fromStack : Bool
  wq8    : Bool
  k      : Nat
  row0   : Nat
  acts   : List (List Half)
  deriving DecidableEq, Repr

/-- An accumulation group of the matrix engine (R43, R89). -/
structure Grp where
  opened   : Bool
  init     : Bool
  /-- P, FB and KS, fixed by the first stream (R140) -/
  shape    : Option (Nat × Nat × Nat)
  /-- elements that each slice has added, and blocks of the whole reduction -/
  elems    : Nat
  blocks   : Nat
  bf16     : Bool
  /-- positions of which some slice began with another group than Q4 × Q4 (R96, R142) -/
  notQ4    : List Nat
  streams  : List StreamRec
  deriving DecidableEq, Repr

/-- A configured Tadpole region: its rectangle and the bytes of its configuration image, which every core of it
holds in its memory (R150). -/
structure GridRegion where
  x0 : Nat
  y0 : Nat
  wd : Nat
  ht : Nat
  len : Nat
  deriving DecidableEq, Repr

/-- The capture of a sampled drain (R111): its streams, tensor scales and column, and for each output
of the column its position, feature block, drained FP32 value and count of rounding additions. -/
structure CaptureRow where
  pos    : Nat
  fb     : Nat
  dev    : Word
  rounds : Nat
  deriving DecidableEq, Repr

structure Capture where
  streams : List StreamRec
  ta     : Word
  tb     : Word
  column : Nat
  layer  : Nat
  rows   : List CaptureRow
  /-- recoverable outcomes that a read of the check met and waits for (R212) -/
  met    : List (Nat × Nat)
  deriving DecidableEq, Repr

/-- A TLB entry: virtual page and level-2 entry (R210). -/
structure TlbEntry where
  vpn : Word
  pte : DWord
  deriving DecidableEq, Repr

/-- A line on its way over the mesh (R190, R191): the tile and number of its transfer (no tile for a line of an edge die), the destination line, the
tiles at which it still turns with its destination last, or its multicast group, and its 256 bytes. -/
structure Packet where
  src    : Option Tid
  serial : Nat
  line   : Nat
  via    : List Nat
  group  : Option Nat
  data   : List Byte
  deriving DecidableEq, Repr

/-- An entry of a tile's multicast table (R191): the outputs that forward a line, and whether the tile keeps a
copy. -/
structure McEntry where
  outs : List Dir
  copy : Bool
  deriving DecidableEq, Repr

/-- One incoming crossing of a tile (R183 to R185): lines on their way, lines in the elastic buffer with the stage
count each took, the skid episode of its producer, since when the producer stalls for a credit, and since when a
line waits for a slice on the crossing. -/
structure Crossing where
  flight  : List Packet
  buf     : List (Nat × Packet)
  skid    : Bool
  stall   : Option Nat
  held    : Option Nat
  deriving DecidableEq, Repr

/-- The caps on a tile's pace step (Table 7.2); 15 when the cause sets none. -/
structure Caps where
  phase   : Nat
  turnOn  : Nat
  budget  : Nat
  sensor  : Nat
  thermal : Nat
  flow    : Nat
  deriving DecidableEq, Repr

/-- A test slice that runs on a tile. -/
structure SliceRun where
  id    : SliceId
  start : Nat
  /-- a fault has started it (R449) -/
  asked : Bool
  deriving DecidableEq, Repr

/-- A tile's program, engines, stores and translation unit. What the manual numbers as registers
(counters included) stands in `State.regs`. -/
structure TileState where
  -- scalar sequencer (R118 to R122)
  sregs   : List (Nat × DWord)
  preds   : Byte
  pc      : BitVec 17
  running : Bool
  entry   : BitVec 17
  waves   : DWord
  wait    : Option Wait
  /-- an issuing instruction that stalls on a full queue: queue, command, and its two-wave cost owed -/
  stall   : Option (Fin 6 × QCmd)
  /-- when the wait or the full queue began to stall the sequencer -/
  stallAt : Nat
  slotBase  : Nat
  slotCount : Nat
  groupAddr : Nat
  sdata   : List Host.Cell
  imem    : List (Nat × DWord)
  store   : List (Nat × Desc)
  -- command queues (R41)
  queues  : List (Nat × List QCmd)
  inflight : List InFlight
  qstop   : Bool
  serial  : Nat
  /-- the serial number at the last GDONE not yet reported, and the count of CSIGs then -/
  gdone   : Option (Nat × Nat)
  sigsSent : Nat
  -- matrix engine
  groups  : List (Nat × Grp)
  /-- running sums by group × 16,384 + 128 i + j; none while P is empty (R86) -/
  acc     : List (Nat × Option Word)
  lfsr    : List (Nat × BitVec 24)
  /-- lines in the weight stream buffers, newest first, by virtual line number; at most 8,192 (R40, R44) -/
  wlines  : List (Nat × List Byte)
  quadRot : BitVec 2
  drainNo : Nat
  samplePoint : Nat
  capture : Option Capture
  -- vector cores, Tadpole grid
  newtAlt : Bool
  newtTurn : Bool
  /-- logical vector cores that had a command in the current period of R48 -/
  newtUse : BitVec 2
  vreg0   : List Host.Cell
  vreg1   : List Host.Cell
  regions : List (Nat × GridRegion)
  /-- the memories of the 64 logical grid cores, 16 KiB each: 16,384 (8 y + x) and the offset (R40) -/
  coreMem : List Host.Cell
  gridOrient : BitVec 2
  gridWave : DWord
  quadWave : DWord
  newtWave : DWord
  -- tile buffer and side buffer (R52, R104)
  buf     : List Host.Cell
  side    : List Host.Cell
  bufBad  : List (Nat × Nat)
  writeBacks : List (Nat × Nat)
  bufNotices : List (Nat × Nat)
  /-- lines found uncorrectable within the last hour, with the stamp (R449) -/
  badHistory : List (Nat × Nat)
  -- storm window in progress (R109)
  winBlocks : Nat
  winFalls  : Nat
  /-- it ended a storm window in the die's episode, and it has since ended one that is none -/
  inEpisode : Bool
  stormClear : Bool
  /-- QC_STORM_PERCENT as the window in progress uses it; none before the first window of the tile -/
  winPercent : Option Nat
  -- translation unit (R210)
  tlb     : List (Nat × Option TlbEntry)
  tlbNext : List (Nat × Nat)
  walkCache : List (Nat × DWord)
  invPending : List Word
  -- mesh interface (R190, R191)
  routes  : List (Nat × List Nat)
  mcast   : List (Nat × McEntry)
  crossings : List (Nat × Crossing)
  /-- measured flight of the incoming crossings in ps, by direction (R184) -/
  flights : List (Nat × Nat)
  /-- lines that wait for an output: output, input port (4 the tile's own) and line, oldest first (R40, R190) -/
  staging : List (Nat × Nat × Packet)
  /-- input port that each output was granted to last -/
  granted : List (Nat × Nat)
  -- pace (R178, R179)
  caps    : Caps
  raise   : Option Nat
  settled : Bool
  stretch : Bool
  /-- the rail is below 0.50 V: no handshake proceeds (R175) -/
  lowRail : Bool
  /-- waves inside stretches and stalled for credit, below a unit of 1,024 -/
  stretchRem : Nat
  skidRem : Nat
  ringTrim : Int
  /-- forecast energy of the current window in µJ (R384) -/
  forecast : Nat
  -- tests, regulators, diodes
  slice   : Option SliceRun
  /-- a slice that a fault has started, ahead of the sweep order (R449) -/
  wanted  : List SliceId
  /-- kind of the tile's last sweep slice (R447) -/
  lastKind : Nat
  /-- 512-lane halves of in-die crossings that hold a failed lane, by direction, as a bit set (R446) -/
  halfBad : List (Nat × Nat)
  /-- why the tile is to be fenced -/
  fencePend : Option FenceCause
  /-- The THERMAL cap in force was set by H, and by S (R377). -/
  capHot : Bool
  capStack : Bool
  deriving DecidableEq, Repr

/-! ## Dies -/

/-- A frame-table record (R208, R316). -/
structure FrameRec where
  ctx     : Nat
  vpn     : Word
  type    : Nat
  slot    : Nat
  layer   : Nat
  version : Bool
  deriving DecidableEq, Repr

/-- A walker record (Table 9.3). -/
structure WRec where
  active    : Bool
  parked    : Bool
  len       : Nat
  posLast   : Nat
  pendCount : Nat
  pendMask  : Nat
  /-- positions that every head appended so far has stored, for the range in progress -/
  pendStored : Nat
  horizon   : Nat
  res       : Nat
  grant     : Nat
  remote    : Nat
  deriving DecidableEq, Repr

/-- A released frame on its way to the pool: its number, the virtual page it held, and the range
whose RES it credits, if any (R247). -/
structure RetFrame where
  frame  : Nat
  vpn    : Word
  credit : Option Nat
  /-- the slot whose GRANT it joins, after a page-out for a short grant (Table 9.4) -/
  grant  : Option Nat
  deriving DecidableEq, Repr

/-- A round of invalidation in progress: its frames and the tiles still to acknowledge (R211). -/
structure Round where
  frames  : List RetFrame
  waiting : List Nat
  deriving DecidableEq, Repr

/-- A page-out in progress (R226) and a page-in in progress (R227), with the port die that carries it. -/
structure PageOut where
  vpn    : Word
  frame  : Nat
  port   : Nat
  index  : Nat
  /-- owning slot -/
  slot   : Nat
  /-- tiles still to acknowledge that OUT is set; the page is written to the pool when none is left -/
  waiting : List Nat
  /-- the range was freed while the transfer ran: its frame goes to the pool (Tables 8.7, 9.6) -/
  orphan : Bool
  deriving DecidableEq, Repr

structure PageIn where
  vpn    : Word
  frame  : Nat
  port   : Nat
  index  : Nat
  tries  : Nat
  /-- MEM_SPILL_RETRIES as it stood when the transfer began (R232) -/
  limit  : Nat
  drain  : Bool
  orphan : Bool
  deriving DecidableEq, Repr

/-- A grant that is not complete (R255): rounds of invalidation ended since it began, page-outs begun and
completed for it, whether one failed, and KV_SPILL_LIMIT and whether KV_PARK_LIMIT_MS is not 0 as they stood when
it began (R261). -/
structure GrantJob where
  slot    : Nat
  rounds  : Nat
  begun   : Nat
  spilled : Nat
  failed  : Bool
  limit   : Nat
  parks   : Bool
  deriving DecidableEq, Repr

/-- A sequence parked on the die (R257), longest first. -/
structure ParkEnt where
  slot    : Nat
  since   : Nat
  spilled : Nat
  /-- the number of its park group, which tells when it reached the barrier of layer 0 (R30) -/
  group   : Nat
  deriving DecidableEq, Repr

/-- A pending or granted turn-on of a tile rail (R359). -/
structure TurnOn where
  tile  : Nat
  since : Nat
  /-- the granted span in µs; none while the grant is pending -/
  span  : Option Nat
  capped : List Nat
  deriving DecidableEq, Repr

/-- A test record (Table 19.3). -/
structure TestRec where
  stamp    : DWord
  tile     : Half
  kind     : Byte
  index    : Byte
  outcome  : Byte
  coverage : Byte
  micros   : Half
  deriving DecidableEq, Repr

structure DieState where
  -- stack (R205 to R209)
  mem     : List Host.Cell
  /-- lines read uncorrectable and not yet acted on: frame × 256 + line, and the wave group of the
      reading command plus 1, or 0 for none -/
  badLines : List (Nat × Nat)
  /-- level-1 entries of the context's table, and level-2 entries by virtual page -/
  l1      : List (Nat × DWord)
  l2      : List (Nat × DWord)
  tableLost : List (Nat × Nat)
  frames  : List (Nat × Option FrameRec)
  /-- free frames rewritten after an uncorrectable line (0) and frames retired (1) (Table 8.4) -/
  retired : List (Nat × Nat)
  nextCol : Nat
  nextCh  : List (Nat × Nat)
  chHour  : List (Nat × Nat)
  /-- soft copy in progress: column and channel -/
  swap    : Option (Nat × Nat)
  -- walker
  walkers : List (Nat × Option WRec)
  -- sampling unit
  /-- bitmaps of a slot's repetition set and presence set over the die's slice of the vocabulary (R292) -/
  bitmaps : List (Nat × Nat × Nat)
  /-- mask bits of the die's slice, by automaton and state (R299) -/
  masks   : List (List Nat)
  returnQ : List RetFrame
  round   : Option Round
  parkQ   : List ParkEnt
  grantJobs : List GrantJob
  pageOuts : List PageOut
  pageIns : List PageIn
  /-- pages whose page-in failed: their lines are delivered flagged uncorrectable (R228) -/
  pageFails : List Nat
  /-- ranges whose length the scheduler has set, and whose last value block waits for a page (R244, R227) -/
  requants : List Nat
  /-- frames of the page-in reserve, as the last load set it (R227, R232) -/
  reserve : Nat
  /-- when the last complete scrub pass ended -/
  scrubAt : Nat
  -- power
  /-- the last 100 input-power measurements in W, newest first (R356) -/
  powerHist : List Nat
  /-- the last second of measurements, newest first, as runs: 1 for P1 above B_c or 0, and how many -/
  overHist : List (Nat × Nat)
  /-- a BUDGET cap has been set since the die last held none -/
  budgetEpisode : Bool
  /-- measurements since the governor's last cut, while its condition holds; 0 when it does not -/
  lastCut : Nat
  turnOns : List TurnOn
  -- quantization control
  breaches : List (Nat × Nat)
  stormStart : Nat
  stormWindows : Nat
  stormTotal : Nat
  -- tests
  lateWritten : Bool
  ring    : List TestRec
  skids   : List (Nat × Nat)
  -- converters
  /-- consecutive scans discarded, by bank, and calibrations failed in succession, by slice -/
  scanFails : List (Nat × Nat)
  calFails : List (Nat × Nat)
  /-- since when each serving slice has held its bank -/
  served  : List (Nat × Nat)
  /-- slices whose calibration values are in force, as a bit set -/
  calibrated : Nat
  /-- banks that ADC_BANK_LOST has been written for -/
  banksTold : Nat
  -- temperatures (R374 to R377, R381)
  /-- diode paths and stack sensors that read above 105 °C at their last sample -/
  hotOnce : List Nat
  /-- every working converter slice has been calibrated since the die's input came on (R400) -/
  adcWarm : Bool
  /-- a conversion of a test DAC that waits for a sensor check: ADC_DAC_CTRL and the raw code (R397) -/
  dacAsk : Option (Nat × Nat)
  /-- SK_SWEEP_HOURS of the sweep in progress; none while no sweep runs (R447, R460) -/
  sweep : Option Nat
  failed  : Bool
  deriving DecidableEq, Repr

/-! ## What the device sends -/

/-- A TOKEN record (Table 10.2). -/
structure TokRec where
  no    : Nat
  first : Nat
  toks  : List Nat
  stamp : DWord
  deriving DecidableEq, Repr

/-- An END record (Table 10.2). -/
structure EndRec where
  reason : Nat
  gen    : Nat
  prompt : Nat
  last   : Word
  stamp  : DWord
  deriving DecidableEq, Repr

/-- A serving message from the device to a requester (Table 10.2). -/
inductive ServeMsg where
  | accept (slot : Nat) (cls : Nat) (clamped : Word) (seed : DWord) (prompt : Nat)
  | token (r : TokRec)
  | ended (e : EndRec)
  | cancelAck (result : Nat)
  | reject (reason : Nat) (detail : Word)
  deriving DecidableEq, Repr

/-- The 802.1Q tag of a frame, and DSCP and ECN of its packet (R337, R339). -/
structure FrameTag where
  vlan : Nat
  pcp  : Nat
  dscp : Nat
  ecn  : Nat
  deriving DecidableEq, Repr

/-- How a packet leaves: the port, its MAC address, the source address and the next hop (R336). -/
structure Link where
  port : Nat
  mac  : BitVec 48
  src  : BitVec 128
  hop  : BitVec 128
  tag  : FrameTag
  deriving DecidableEq, Repr

/-- What the device has sent, newest last. -/
inductive Out where
  /-- a serving message, with how it leaves, its nonce and its tag -/
  | serve (s : Session) (link : Link) (tenant : Nat) (req : DWord) (nonce : DWord) (m : ServeMsg)
      (tag : BitVec 128)
  /-- a record that no enabled port could carry (R33, R335), held for RESEND -/
  | heldBack (s : Session) (tenant : Nat) (req : DWord)
  /-- a management reply (R478): operation, status, TAG, body -/
  | reply (session : Nat) (op : Nat) (status : Nat) (tag : Word) (body : List Byte) (frame : FrameTag)
  | ringReply (status : Nat) (data : Word)
  /-- the data that a control-channel ACCESS has read -/
  | accessData (addr : DWord) (data : Word)
  | tlsAlert (session : Nat) (frame : FrameTag)
  /-- a frame of a port die's own: 0 ARP answer, 1 neighbour advertisement, 2 echo answer, 3 CNP, 4 PFC XOFF,
  5 PFC XON, 6 ARP request, 7 neighbour solicitation -/
  | net (p : Fin 2) (kind : Nat) (arg : Nat) (frame : FrameTag)
  /-- an operation of the RoCEv2 engine begins, with the server's queue pair and the path MTU (R341) -/
  | rdma (link : Link) (verb : RdmaVerb) (use : RdmaUse) (qpn : Word) (mtu : Nat)
  /-- a write over the bus of an optical module (R344) -/
  | cmis (p : Nat) (what : CmisWrite)
  /-- a remote page written to a pool (R226): port die, remote index, ciphertext, and the header's tag, generation
  count and frame record -/
  | pageWrite (p index : Nat) (text : List Byte) (tag : BitVec 128) (gen : Nat) (rec : FrameRec)
  deriving DecidableEq, Repr

/-! ## Port dies -/

/-- A life record (Table 13.5). -/
structure LifeRec where
  vendor : BitVec 128
  part   : BitVec 128
  serial : BitVec 128
  first  : DWord
  last   : DWord
  laserS : Nat
  ratedKh : Nat
  cage   : Fin 2
  lifeWarned : Bool
  biasWarned : Bool
  base   : List Half
  hour   : List Half
  seq    : DWord
  deriving DecidableEq, Repr

/-- A queue pair of the RoCEv2 engine (R341, R342). -/
structure QPair where
  /-- Mb/s -/
  rate    : Nat
  /-- when its rate was last cut, and when a CNP was last sent for it -/
  lastCut : Option Nat
  sentCnp : Option Nat
  /-- times the oldest unacknowledged packet was sent again -/
  resends : Nat
  deriving DecidableEq, Repr

structure Pool where
  params   : PoolParams
  used     : Nat
  draining : Bool
  broughtBack : Nat
  deriving DecidableEq, Repr

/-- A remote page: owner die, virtual page and owner range (R226). -/
structure RemotePage where
  die     : Nat
  vpn     : Word
  range   : Nat
  deriving DecidableEq, Repr

structure PortState where
  /-- mode and lane-group pairs tried in this training, and the pair being attempted -/
  tried    : List (Nat × Nat)
  attempt  : Option (Nat × Nat)
  /-- no group was left, or the module was not ready in time: PT_RETRY_S runs -/
  retryAt  : Bool
  /-- the fields that apply from a training or from an hourly evaluation on (R350), as they stood then -/
  cfg      : List (Nat × Nat)
  /-- priorities for which XOFF is sent (R340) -/
  xoff     : Byte
  paused   : Byte
  stormTold : Byte
  /-- frames that wait for a received pause to end, with their priorities, oldest first (R340) -/
  egress   : List (Nat × Out)
  /-- next hops whose MAC address the port has asked for (R337) -/
  neighbours : List (BitVec 128)
  fecLast  : Nat
  /-- corrected codewords below a unit of 1,024 -/
  fecRem   : Nat
  qps      : List (Nat × QPair)
  moduleIn : Option ModuleInfo
  missed   : Nat
  modFlags : Word
  laneFlags : Word
  /-- high power is requested of the module (R345) -/
  highPower : Bool
  /-- when the module's data path became active, on the run count, and laser-on time in ns that no record holds yet
  (R347) -/
  laserFrom : Option Nat
  laserNs  : Nat
  pools    : List (Nat × Option Pool)
  current  : Option Nat
  drainWait : Bool
  /-- generation count of the next page written (R226) -/
  nextGen  : Nat
  remote   : List (Nat × Option RemotePage)
  /-- chunk buffers: containers and chunks being read (R316) -/
  chunks   : List (Word × Word)
  deriving DecidableEq, Repr

/-! ## Serving -/

structure Tenant where
  defClass : Nat
  maxSeq   : Nat
  mask     : DWord
  /-- the unwrapped key (R266, R471) -/
  key      : BitVec 256
  /-- replay state (R268) -/
  highest  : Nat
  accepted : List Nat
  send     : Nat
  deriving DecidableEq, Repr

/-- Sequence states (Table 10.7). -/
inductive SeqSt where
  | queued | prefilling | decoding | parked | ended
  deriving DecidableEq, Repr

/-- A decode step or prefill chunk: first position, positions, proposals. -/
structure SeqStep where
  first   : Nat
  npos    : Nat
  drafts  : List Nat
  prefill : Bool
  lastChunk : Bool
  /-- grants complete on every die (R254) -/
  granted : Bool
  /-- an append of the step gave status 1: its result is discarded at its end (R259) -/
  noPage : Bool
  /-- its place in the order in which steps became ready (R279) -/
  order : Nat
  /-- SP_DRAFT_MAX, SP_OFF_PASSES and SP_OFF_TOKENS as the pass began (R308) -/
  spec : Nat × Nat × Nat
  deriving DecidableEq, Repr

/-- Sampling parameters after clamping (R277, R291). -/
structure Sampling where
  temp    : Word
  topK    : Nat
  topP    : Word
  minP    : Word
  repPen  : Word
  presPen : Word
  bias    : List (Nat × Word)
  stops   : List (List Nat)
  seed    : DWord
  grammar : Option Nat
  deriving DecidableEq, Repr

structure Seq where
  /-- its number in the order in which the table created its sequences -/
  uid     : Nat
  tenant  : Nat
  req     : DWord
  sess    : Session
  ctx     : Fin 4
  cls     : Nat
  st      : SeqSt
  /-- the state a parked sequence left -/
  back    : SeqSt
  slot    : Option Nat
  /-- the slot that a kept sequence gave up to the request that continues it: its records go when the slot is
      assigned again (R273) -/
  was     : Option Nat
  keep    : Bool
  kept    : Bool
  noSpec  : Bool
  maxNew  : Nat
  samp    : Sampling
  clamped : Word
  /-- the cache length from which its own prompt goes on (R275) -/
  base    : Nat
  prompt  : List Nat
  gen     : List Nat
  recNo   : Nat
  records : List TokRec
  ended   : Option EndRec
  cancelWait : List Session
  doomed  : Option Nat
  /-- it ends with END_MODEL_REPLACED at its next commit boundary (R323, R325) -/
  leaving : Bool
  /-- a commit of the sequence still inside the pipeline is discarded (R285) -/
  drain   : Bool
  /-- the step or chunk that waits for its grants or for a wave group -/
  step    : Option SeqStep
  dLen    : Nat
  allRej  : Nat
  offLeft : Nat
  seat    : Option Nat
  draftLen : Nat
  catchup : Bool
  deriving DecidableEq, Repr

/-- A request whose PART messages are still arriving (R270). -/
structure Assembly where
  sess   : Session
  tenant : Nat
  req    : DWord
  body   : List Byte
  count  : Nat
  parts  : List (Nat × List Byte)
  seed   : DWord
  deriving DecidableEq, Repr

/-- A member of a wave group: a slot and the step that it carries. -/
structure Member where
  slot   : Nat
  step   : SeqStep
  deriving DecidableEq, Repr

/-- A wave group in flight (R30, R278): where it is, and whether it is inside that layer group or
waits at its barrier. Layer `layers` of the context stands for the projection. -/
structure WGroup where
  id      : Nat
  ctx     : Fin 4
  prefill : Bool
  speed   : Bool
  bubble  : Bool
  members : List Member
  layer   : Nat
  inside  : Bool
  newVer  : Bool
  /-- it read a flagged weight line: its steps are discarded when they end (R319) -/
  discarded : Bool
  /-- rolled back: it enters layer 0 before every other group (R452) -/
  rerun   : Bool
  /-- when it reached the barrier where it waits -/
  since   : Nat
  /-- tiles of the layer group that reported DONE -/
  dones   : List Tid
  /-- the projection work of the group (R32), by place of the die: 0 waits at the barrier of the die's last layer,
      1 inside that layer group, 2 done -/
  proj    : List (Nat × Nat)
  deriving DecidableEq, Repr

/-- A partial record (Table 11.2). -/
structure Partial where
  maxz   : Word
  sumexp : Word
  winId  : Word
  winKey : Word
  cand   : List (Nat × Word)
  deriving DecidableEq, Repr

structure PartialAt where
  die    : Nat
  slot   : Nat
  pos    : Nat
  merged : Bool
  body   : Partial
  deriving DecidableEq, Repr

/-- A commit on its way to the sequence table (R32, R303). -/
structure Commit where
  slot   : Nat
  toks   : List Nat
  /-- the step that the commit came from, whether it read flagged weights, and the draft length, the
      all-reject count and the tokens still off as they stood before it (R452) -/
  step   : SeqStep
  flagged : Bool
  before : Nat × Nat × Nat
  /-- the sequence had its seat before the commit -/
  seated : Bool
  deriving DecidableEq, Repr

structure Lane where
  ctx    : Fin 4
  tiles  : List Tid
  seats  : Nat
  /-- slots that wait for a draft pass or a catch-up, in the order of their commits -/
  queue  : List Nat
  /-- the lane has begun the pass or catch-up at the head -/
  begun  : Bool
  deriving DecidableEq, Repr

structure Serving where
  boot     : Word
  tenants  : List (Nat × Option Tenant)
  seqs     : List Seq
  assembling : List Assembly
  /-- uid of the next sequence -/
  seqNo    : Nat
  /-- cancels answered before their request was assembled, with the time of the answer (R286) -/
  cancelled : List (Nat × DWord × Nat)
  /-- deficits by class, and the scan pointers, of the other and of the speed classes (R279, R280) -/
  deficit  : List (Nat × Nat)
  speedDeficit : List (Nat × Nat)
  scanPtr  : Nat
  speedPtr : Nat
  groups   : List WGroup
  groupId  : Nat
  /-- admission numbers by context × 65,536 + layer (R122) -/
  groupSeq : List (Nat × Nat)
  partials : List PartialAt
  commits  : List Commit
  lanes    : List (Nat × Option Lane)
  authFails : Nat
  lastTenant : Word
  lastEpoch : List (Session × Nat)
  /-- number of the next step to become ready -/
  readyNo  : Nat
  bubbleAt : List (Nat × Nat)
  /-- class fields that management changed since the scan pointer last advanced, with the values that still
      apply (R288) -/
  classHeld : List (Nat × Nat)
  deriving DecidableEq, Repr

/-! ## Contexts and the loader -/

/-- The load report (R173). -/
structure LoadReport where
  result   : Nat
  reason   : Nat
  tiles    : Nat
  layers   : Nat
  dies     : List Nat
  /-- route sets with the chosen variant and its class -/
  variants : List (Nat × Nat × Nat)
  disabled : Word
  density  : Nat
  pack     : BitVec 128
  detail   : Word
  /-- the field that a section broke a limit with (reason 0x05), by its place in R167's list; 0 else -/
  field    : Nat
  pipes    : List (Nat × Nat)
  sigSkipped : Bool
  deriving DecidableEq, Repr

/-- A replacement in progress (R320 to R324). -/
structure Replacing where
  entry   : Nat
  image   : Image
  manifest : ManifestEntry
  unit    : Nat
  since   : Nat
  /-- chunks of the whole replacement -/
  total   : Nat
  /-- chunks of the unit still to be written -/
  left    : List (Word × Word)
  writing : Bool
  /-- the policy is END (R323); the owner signature was not checked (R169) -/
  ends    : Bool
  sigSkipped : Bool
  /-- content keys of the new version, and headers and tag tables of its containers, as the manifest lists them -/
  keys    : List (BitVec 128)
  heads   : List ContainerHead
  deriving DecidableEq, Repr

structure Context where
  entry   : Nat
  image   : Image
  /-- the capability declaration as the load read it -/
  caps    : CapDecl
  manifest : ManifestEntry
  dies    : List Nat
  /-- the die set as the operation named it (R159) -/
  dieSet  : List Nat
  /-- the chosen placement template, as its place in the image's list, and its T and L -/
  pair    : Nat
  tiles   : Nat
  perDie  : Nat
  /-- slots assigned to the context -/
  slots   : List Nat
  /-- the tile that runs logical position `pos` of `layer`, by layer × 64 + pos -/
  place   : List (Nat × Tid)
  /-- fenced tiles and the spares that took over, oldest first, by wafer tile index (R121) -/
  moved   : List (Nat × Nat)
  rho     : Nat
  /-- QC_OUTLIER_DENSITY as the load applied it (R104), and QC_SAT_THRESH, QC_FLUSH_THRESH and
      QC_OUTLIER_RATIO as they stood at the load (R115) -/
  density : Nat
  satThr  : Nat
  flushThr : Nat
  ratio   : Nat
  variants : List (Nat × Nat)
  disabled : Word
  /-- weight chunks still to be read by a load -/
  left    : List (Word × Word)
  /-- retries spent, by container and chunk (R317) -/
  tries   : List (Word × Word × Nat)
  replacing : Option Replacing
  /-- content keys that Bonnet and the engines of both port dies hold for the context, and headers and tag tables
      of its containers, as the manifest lists them (R315, R316) -/
  keys    : List (BitVec 128)
  heads   : List ContainerHead
  sigSkipped : Bool
  /-- SP_LANE_SEATS as it stood at the load (R308) -/
  seats   : Nat
  /-- when the load or unload began, chunks of the load, sequences that the unload ended -/
  since   : Nat
  total   : Nat
  endedSeqs : Nat
  /-- chunks fetched again (R319): unit, VERSION bit of the frame, container and chunk -/
  refetch : List (Nat × Bool × Word × Word)
  deriving DecidableEq, Repr

/-- A queued loader operation. -/
inductive LoadOp where
  /-- `barred`: dies that an unload freed after the operation was received (Table 6.9) -/
  | load (c : Fin 4) (entry : Nat) (dies : List Nat) (barred : List Nat)
  | replace (c : Fin 4) (entry : Nat)
  deriving DecidableEq, Repr

structure Loader where
  queue    : List LoadOp
  paused   : Bool
  contexts : List (Nat × Option Context)
  reports  : List (Nat × Option LoadReport)
  deriving DecidableEq, Repr

/-! ## Flash, MRAM, log, timebase, pins, power -/

structure CfgKey where
  key     : BitVec 512
  counter : Nat
  wellFormed : Bool
  deriving DecidableEq, Repr

/-- A stored copy of the repair map: it verifies, its sequence number and its entries (R420, R421). -/
structure RmCopy where
  ok      : Bool
  seq     : Nat
  entries : List RmEntry
  deriving DecidableEq, Repr

structure Store where
  bciA    : BciImage
  bciB    : BciImage
  /-- the 384 bytes of the grade record in MRAM and of its mirror in flash, and the record in force (R423) -/
  gradeMram  : List Byte
  gradeFlash : List Byte
  grade   : GradeRec
  /-- the repair map in force, its sequence number, and its two copies in flash -/
  repair  : List RmEntry
  repairSeq : Nat
  copy0   : RmCopy
  copy1   : RmCopy
  overflow : List RmEntry
  manifest : List (Nat × Option ManifestEntry)
  /-- bytes of the optics life records, in flash device 0 and in flash device 1 (R347) -/
  life0   : List (Nat × List Byte)
  life1   : List (Nat × List Byte)
  cfg0    : CfgKey
  cfg1    : CfgKey
  moduleSerial : BitVec 128
  dieSerials : List (BitVec 128)
  stackSerials : List (BitVec 128)
  certificate : List Byte
  /-- the base MAC address of the identity block (R336) -/
  baseMac : BitVec 48
  /-- the device's public key, and its private key, which no message holds (R466, R468) -/
  deviceKey : BitVec 512
  devicePriv : BitVec 256
  deriving DecidableEq, Repr

/-- The configuration report (R415). -/
structure CfgEntry where
  id     : Half
  status : Byte
  len    : Half
  offset : Word
  stored : Nat
  effective : Nat
  deriving DecidableEq, Repr

structure CfgReport where
  image   : Bool
  seqA    : DWord
  seqB    : DWord
  rejA    : Nat
  rejB    : Nat
  counts  : List Nat
  entries : List CfgEntry
  deriving DecidableEq, Repr

/-- A log entry as written: its SEQNO and record. -/
structure LogEnt where
  seqno : Word
  body  : LogRec
  deriving DecidableEq, Repr

structure Timebase where
  count  : Nat
  sinceLoss : Nat
  setHigh : Word
  latched : Word
  lossTold : Bool
  deriving DecidableEq, Repr

structure Pins where
  modResetN  : Bool
  cpResetN   : Bool
  pgIn       : Bool
  ready      : Bool
  alertN     : Bool
  thermTripN : Bool
  deriving DecidableEq, Repr

/-- Coolant and supply measurements of the service dies (R372 to R380). -/
structure Plant where
  /-- flow samples of each circuit in the last 200 ms, newest first: 0 for a discarded one, else 1 + the code
      times TH_FLOW_FS, in units of 0.1 / 4,096 L/min -/
  flow0   : List Nat
  flow1   : List Nat
  /-- the last valid sample of each, in the same units -/
  last0   : Nat
  last1   : Nat
  lost0   : Bool
  lost1   : Bool
  warnEpisode : Bool
  /-- evaluations in a row, each 1 ms, with F at or above 92 % -/
  above   : Nat
  /-- a sudden stop is in force: the device holds, or rests, after it -/
  stopped : Bool
  holdSince : Nat
  /-- since when both circuits have been at or above 90 % -/
  flowOkSince : Option Nat
  endedInHold : Nat
  vinLow  : Bool
  /-- VIN48 is out of its operating range -/
  vinLost : Bool
  /-- PW_VIN_LOSS has been written for the loss in force (R366, R494) -/
  lossTold : Bool
  deriving DecidableEq, Repr

structure MgmtSession where
  id     : Nat
  /-- the Ethernet port that carries it -/
  port   : Fin 2
  clientKey : BitVec 512
  /-- SEC_MGMT_IDLE_S as it opened (R475) -/
  idle   : Nat
  deriving DecidableEq, Repr

/-- Power state of the module and of the compute plane (Tables 17.1, 18.1, 18.3). -/
structure Plane where
  /-- VAUX12 supplies the service and port dies -/
  vaux    : Bool
  /-- the site converters deliver the die inputs -/
  powered : Bool
  /-- the compute-plane reset request or pin still holds the tiles off -/
  cpHeld  : Bool
  dozing  : Bool
  dozeDone : Bool
  /-- the Doze in force is an automatic one (R436) -/
  autoDozed : Bool
  /-- tiles fenced since bring-up began -/
  fenced  : Nat
  /-- the primary service die is SD[1], and the standby is fit to take over -/
  primary : Bool
  standbyOk : Bool
  /-- interface revision of the running tile and Bowler firmware -/
  fwIface : Word
  /-- recipients of the firmware broadcast that asked for a resend: tile key, or 2,000 + die -/
  resend  : List (Nat × Nat)
  /-- the tiles are on after a compute-plane reset or Hold, and FW_TILE is to be multicast again (R431) -/
  fwCheck : Bool
  /-- refused handshakes of the second in progress, and the last reason (R473, Table 20.14) -/
  tlsRefused : Nat
  tlsReason  : Nat
  /-- the key under which pages are spilled, which Bonnet generates at each module reset (R226) -/
  spillKey : BitVec 128
  /-- the number of the next fresh free value: the model's own, not the device's -/
  freeCounter : Nat
  /-- ns that have passed, those at the last module reset, and those when the peak of the device power was last
      read: the model's own, for the means that measurements show (notes/assumptions/96) -/
  run     : Nat
  runFrom : Nat
  peakFrom : Nat
  deriving DecidableEq, Repr

/-- A control-channel message on its way (Table 7.5). -/
inductive CtrlMsg where
  /-- `no`: its number among the CSIGs of its source -/
  | signal (src dst : Tid) (index : Nat) (amount : Word) (no : Nat)
  | admitted (dst : Tid) (group : Nat) (seq : Nat)
  | order (dst : Tid) (o : Order)
  | report (src : Tid) (r : Report)
  deriving DecidableEq, Repr

/-- The state of the W56. -/
structure State where
  /-- register fields that hold another value than their reset value, by field key (Machine/Regs.lean) -/
  regs    : List (Nat × Nat)
  tiles   : List (Nat × TileState)
  dies    : List (Nat × DieState)
  ports   : List (Nat × PortState)
  /-- run settings: effective value by field ID; and as checked at bring-up (R485) -/
  fields  : List (Nat × Nat)
  bciFields : List (Nat × Nat)
  recorded : List (Nat × Nat)
  ctrl    : List CtrlMsg
  serving : Serving
  loader  : Loader
  store   : Store
  report  : CfgReport
  log     : List LogEnt
  time    : Timebase
  pins    : Pins
  plant   : Plant
  plane   : Plane
  sessions : List MgmtSession
  out     : List Out
  pending : List Instr
  deriving DecidableEq, Repr


/-! ## The state right after a cold power-on, at the entry of bring-up step 3 (R405)

Every value that no table of the spec gives is named in notes/assumptions (24, 25, 26). -/

def Caps.none : Caps := ⟨15, 15, 15, 15, 15, 15⟩

def TileState.reset : TileState where
  sregs := []
  preds := 0
  pc := 0
  running := false
  entry := 0
  waves := 0
  wait := .none
  stall := .none
  stallAt := 0
  slotBase := 0
  slotCount := 0
  groupAddr := 0
  sdata := []
  imem := []
  store := []
  queues := []
  inflight := []
  qstop := false
  serial := 0
  gdone := .none
  sigsSent := 0
  groups := []
  acc := []
  lfsr := []
  wlines := []
  quadRot := 0
  drainNo := 0
  samplePoint := 0
  capture := .none
  newtAlt := false
  newtTurn := false
  newtUse := 0
  vreg0 := []
  vreg1 := []
  regions := []
  coreMem := []
  gridOrient := 0
  gridWave := 0
  quadWave := 0
  newtWave := 0
  buf := []
  side := []
  bufBad := []
  writeBacks := []
  bufNotices := []
  badHistory := []
  winBlocks := 0
  winFalls := 0
  inEpisode := false
  stormClear := false
  winPercent := .none
  tlb := []
  tlbNext := []
  walkCache := []
  invPending := []
  routes := []
  mcast := []
  crossings := []
  flights := []
  staging := []
  granted := []
  caps := .none
  raise := .none
  settled := true
  stretch := false
  lowRail := false
  stretchRem := 0
  skidRem := 0
  ringTrim := 0
  forecast := 0
  slice := .none
  wanted := []
  lastKind := 4
  halfBad := []
  fencePend := .none
  capHot := false
  capStack := false

def DieState.reset : DieState where
  mem := []
  badLines := []
  l1 := []
  l2 := []
  tableLost := []
  frames := []
  retired := []
  nextCol := 0
  nextCh := []
  chHour := []
  swap := .none
  walkers := []
  bitmaps := []
  masks := []
  returnQ := []
  round := .none
  parkQ := []
  grantJobs := []
  pageOuts := []
  pageIns := []
  pageFails := []
  requants := []
  reserve := 64
  scrubAt := 0
  powerHist := []
  overHist := []
  budgetEpisode := false
  lastCut := 0
  turnOns := []
  breaches := []
  stormStart := 0
  stormWindows := 0
  stormTotal := 0
  lateWritten := false
  ring := []
  skids := []
  scanFails := []
  calFails := []
  served := []
  calibrated := 0
  banksTold := 0
  hotOnce := []
  adcWarm := false
  dacAsk := .none
  sweep := .none
  failed := false

def PortState.reset : PortState where
  tried := []
  attempt := .none
  retryAt := false
  cfg := []
  xoff := 0
  paused := 0
  stormTold := 0
  egress := []
  neighbours := []
  fecLast := 0
  fecRem := 0
  qps := []
  moduleIn := .none
  missed := 0
  modFlags := 0
  laneFlags := 0
  highPower := false
  laserFrom := .none
  laserNs := 0
  pools := []
  current := .none
  drainWait := false
  nextGen := 0
  remote := []
  chunks := []

def Serving.reset : Serving where
  boot := 0
  tenants := []
  seqs := []
  assembling := []
  seqNo := 0
  cancelled := []
  deficit := []
  speedDeficit := []
  scanPtr := 63
  speedPtr := 63
  groups := []
  groupId := 0
  groupSeq := []
  partials := []
  commits := []
  lanes := []
  authFails := 0
  lastTenant := 0
  lastEpoch := []
  readyNo := 0
  bubbleAt := []
  classHeld := []

def Loader.reset : Loader := ⟨[], false, [], []⟩

/-- The configuration image that a new module's flash holds: no byte (notes/assumptions/105). -/
def blankImage : BciImage := ⟨true, []⟩

/-- The grade record of a BYT-W56-X (Tables 0.1 and 17.12), spares at tiles 20 and 21 (R64). -/
def fullGrade : GradeRec where
  grade := 0
  serial := 0
  dies := 0x00FFFFFFFFFFFFFF
  gib := 72
  ports := 3
  units := 0x1F
  spares := List.replicate 56 (20, 21)
  digest := 0

def Store.reset : Store where
  bciA := blankImage
  bciB := blankImage
  gradeMram := []
  gradeFlash := []
  grade := fullGrade
  repair := []
  repairSeq := 0
  copy0 := ⟨true, 0, []⟩
  copy1 := ⟨true, 0, []⟩
  overflow := []
  manifest := []
  life0 := []
  life1 := []
  cfg0 := ⟨0, 0, true⟩
  cfg1 := ⟨0, 0, true⟩
  moduleSerial := 0
  dieSerials := List.replicate 60 0
  stackSerials := List.replicate 56 0
  certificate := []
  baseMac := 0
  deviceKey := 0
  devicePriv := 0

def CfgReport.empty : CfgReport := ⟨false, 0, 0, 0, 0, [], []⟩

def Timebase.reset : Timebase := ⟨0, 0, 0, 0, false⟩

def Pins.reset : Pins where
  modResetN := true
  cpResetN := true
  pgIn := false
  ready := false
  alertN := true
  thermTripN := true

def Plant.reset : Plant where
  flow0 := []
  flow1 := []
  last0 := 0
  last1 := 0
  lost0 := false
  lost1 := false
  warnEpisode := false
  above := 0
  stopped := false
  holdSince := 0
  flowOkSince := .none
  endedInHold := 0
  vinLow := false
  vinLost := false
  lossTold := false

def Plane.reset : Plane where
  vaux := true
  powered := false
  cpHeld := false
  dozing := false
  dozeDone := false
  autoDozed := false
  fenced := 0
  primary := false
  standbyOk := true
  fwIface := 0
  resend := []
  fwCheck := false
  tlsRefused := 0
  tlsReason := 0
  spillKey := 0
  freeCounter := 0
  run := 0
  runFrom := 0
  peakFrom := 0

/-- The machine right after reset: memories and sparse tables list nothing, every register field is
at the value of its "After module reset" column (Machine/Regs.lean), and no command waits. -/
def State.reset : State where
  regs := []
  tiles := []
  dies := []
  ports := []
  fields := []
  bciFields := []
  recorded := []
  ctrl := []
  serving := .reset
  loader := .reset
  store := .reset
  report := .empty
  log := []
  time := .reset
  pins := .reset
  plant := .reset
  plane := .reset
  sessions := []
  out := []
  pending := []

end Sys2Proof.Machine
end

