-- ==== Sys2Proof/Machine/Regs.lean ====
section
/-! DEFINITION. The register map: every register field of the field tables (R11) with its block
(Table 21.5), offset, place and access code (Table 0.5), the key under which `State.regs` holds its
value, and its value after module reset. A field that a table marks reserved has no entry: it reads 0
and ignores writes (R15). -/
namespace Sys2Proof.Machine

/-- Access codes (R12, Table 0.5). -/
inductive Acc where
  | rd | rw | w1c | wo | rc
  deriving DecidableEq, Repr

/-- A register field: its block, the offset of its register, its lowest bit and its width. -/
structure Fld where
  blk : Nat
  off : Nat
  lo  : Nat
  w   : Nat
  deriving DecidableEq, Repr

/-- A register of a block (`count` of them, `stride` bytes apart) with its fields. -/
structure RegDef where
  blk    : Nat
  off    : Nat
  count  : Nat
  stride : Nat
  fields : List (Nat × Nat × Acc)
  deriving DecidableEq, Repr

/-- The key of a field in `State.regs`: die and tile of the management address (R482), then the
field's place. Widths: tile below 32, block below 256, offset below 65,536, bit below 32. -/
def fkey (die tile : Nat) (f : Fld) : Nat :=
  ((((die * 32 + tile) * 256 + f.blk) * 65536 + f.off) * 32) + f.lo

/-- The field of the `n`-th register of an array whose registers lie `stride` bytes apart. -/
def Fld.at (f : Fld) (n : Nat) (stride : Nat := 4) : Fld := { f with off := f.off + stride * n }

/-! ## The fields by name: register, then field (R17) -/
namespace R

def TILE_ID_DIE_INDEX : Fld := ⟨0x00, 0x0000, 26, 6⟩
def TILE_ID_TILE_INDEX : Fld := ⟨0x00, 0x0000, 21, 5⟩
def TILE_ID_WAFER_X : Fld := ⟨0x00, 0x0000, 15, 6⟩
def TILE_ID_WAFER_Y : Fld := ⟨0x00, 0x0000, 10, 5⟩
def TILE_CTRL_FENCE_REQ : Fld := ⟨0x00, 0x0004, 1, 1⟩
def TILE_CTRL_TILE_RESET : Fld := ⟨0x00, 0x0004, 0, 1⟩
def TILE_STAT_ROLE : Fld := ⟨0x00, 0x0008, 30, 2⟩
def TILE_STAT_NEWT_FENCE : Fld := ⟨0x00, 0x0008, 28, 2⟩
def TILE_STAT_HALTED : Fld := ⟨0x00, 0x0008, 27, 1⟩
def TILE_STAT_CTX_VALID : Fld := ⟨0x00, 0x0008, 26, 1⟩
def TILE_STAT_CONTEXT : Fld := ⟨0x00, 0x0008, 24, 2⟩
def TILE_STAT_SLICE : Fld := ⟨0x00, 0x0008, 0, 16⟩
def TILE_FAULT_GRID_FAULT : Fld := ⟨0x00, 0x000C, 6, 1⟩
def TILE_FAULT_NEWT_LOST : Fld := ⟨0x00, 0x000C, 5, 1⟩
def TILE_FAULT_TRANS_FAULT : Fld := ⟨0x00, 0x000C, 4, 1⟩
def TILE_FAULT_CMD_FAULT : Fld := ⟨0x00, 0x000C, 3, 1⟩
def TILE_FAULT_ILLEGAL_INSTR : Fld := ⟨0x00, 0x000C, 2, 1⟩
def TILE_FAULT_ECC_UNCORR : Fld := ⟨0x00, 0x000C, 1, 1⟩
def TILE_FAULT_SYNC_FAULT : Fld := ⟨0x00, 0x000C, 0, 1⟩
def TILE_FAULT_PC_PC : Fld := ⟨0x00, 0x0010, 0, 17⟩
def TILE_FAULT_INFO_COUNTER : Fld := ⟨0x00, 0x0014, 24, 8⟩
def TILE_FAULT_INFO_KIND : Fld := ⟨0x00, 0x0014, 20, 4⟩
def TILE_FAULT_INFO_SLOT : Fld := ⟨0x00, 0x0014, 0, 20⟩
def TILE_BOUND_LOG2_BOUND : Fld := ⟨0x00, 0x0018, 0, 6⟩
def TILE_ECC_CORR_CORR_COUNT : Fld := ⟨0x00, 0x001C, 0, 16⟩
def TILE_ECC_ADDR_VALID : Fld := ⟨0x00, 0x0020, 31, 1⟩
def TILE_ECC_ADDR_WORD : Fld := ⟨0x00, 0x0020, 17, 5⟩
def TILE_ECC_ADDR_LINE : Fld := ⟨0x00, 0x0020, 0, 17⟩
def TILE_CNT_VALUE : Fld := ⟨0x00, 0x0400, 0, 32⟩
def NUM_FLAGS_NEWT_INVALID : Fld := ⟨0x01, 0x0000, 3, 1⟩
def NUM_FLAGS_NEWT_SAT : Fld := ⟨0x01, 0x0000, 2, 1⟩
def NUM_FLAGS_ACC_SAT : Fld := ⟨0x01, 0x0000, 1, 1⟩
def NUM_FLAGS_SPECIAL_IN : Fld := ⟨0x01, 0x0000, 0, 1⟩
def NUM_SPECIAL_COUNT_COUNT : Fld := ⟨0x01, 0x0004, 0, 32⟩
def NUM_SAT_COUNT_COUNT : Fld := ⟨0x01, 0x0008, 0, 32⟩
def QC_STAT_FORCED_Q8 : Fld := ⟨0x02, 0x0000, 31, 1⟩
def QC_STAT_STORM_WIN : Fld := ⟨0x02, 0x0000, 30, 1⟩
def QC_STAT_CHECK_BUSY : Fld := ⟨0x02, 0x0000, 29, 1⟩
def QC_STAT_LAYER : Fld := ⟨0x02, 0x0000, 0, 16⟩
def QC_BLOCKS_COUNT : Fld := ⟨0x02, 0x0004, 0, 32⟩
def QC_FALLBACK_COUNT : Fld := ⟨0x02, 0x0008, 0, 32⟩
def QC_OVERFLOW_COUNT : Fld := ⟨0x02, 0x000C, 0, 32⟩
def QC_OUTLIERS_COUNT : Fld := ⟨0x02, 0x0010, 0, 32⟩
def QC_SAT_ELEM_COUNT : Fld := ⟨0x02, 0x0014, 0, 32⟩
def QC_FLUSH_ELEM_COUNT : Fld := ⟨0x02, 0x0018, 0, 32⟩
def QC_CHECK_COUNT_DONE : Fld := ⟨0x02, 0x001C, 16, 16⟩
def QC_CHECK_COUNT_ABANDONED : Fld := ⟨0x02, 0x001C, 8, 8⟩
def QC_CHECK_COUNT_BREACHES : Fld := ⟨0x02, 0x001C, 0, 8⟩
def QC_WINDOW_VALID : Fld := ⟨0x02, 0x0020, 31, 1⟩
def QC_WINDOW_FRACTION : Fld := ⟨0x02, 0x0020, 0, 11⟩
def QC_DIE_STAT_STORM : Fld := ⟨0x10, 0x0000, 31, 1⟩
def QC_DIE_STAT_STORM_ENTRIES : Fld := ⟨0x10, 0x0000, 0, 8⟩
def PACE_STEP_OVERRIDE : Fld := ⟨0x03, 0x0000, 31, 1⟩
def PACE_STEP_OVR_STEP : Fld := ⟨0x03, 0x0000, 24, 4⟩
def PACE_STEP_TARGET : Fld := ⟨0x03, 0x0000, 16, 4⟩
def PACE_STEP_CAP : Fld := ⟨0x03, 0x0000, 8, 4⟩
def PACE_STEP_EFFECTIVE : Fld := ⟨0x03, 0x0000, 0, 4⟩
def PACE_CAP_MGMT : Fld := ⟨0x03, 0x0004, 7, 1⟩
def PACE_CAP_CAL : Fld := ⟨0x03, 0x0004, 6, 1⟩
def PACE_CAP_PHASE : Fld := ⟨0x03, 0x0004, 5, 1⟩
def PACE_CAP_TURN_ON : Fld := ⟨0x03, 0x0004, 4, 1⟩
def PACE_CAP_BUDGET : Fld := ⟨0x03, 0x0004, 3, 1⟩
def PACE_CAP_SENSOR : Fld := ⟨0x03, 0x0004, 2, 1⟩
def PACE_CAP_THERMAL : Fld := ⟨0x03, 0x0004, 1, 1⟩
def PACE_CAP_FLOW : Fld := ⟨0x03, 0x0004, 0, 1⟩
def PACE_RATE_RATE : Fld := ⟨0x03, 0x0008, 0, 12⟩
def STRETCH_STAT_EVENTS : Fld := ⟨0x03, 0x000C, 16, 16⟩
def STRETCH_STAT_KWAVES : Fld := ⟨0x03, 0x000C, 0, 16⟩
def SKID_STAT_EPISODES : Fld := ⟨0x03, 0x0010, 16, 16⟩
def SKID_STAT_STALL_KWAVES : Fld := ⟨0x03, 0x0010, 0, 16⟩
def CROSS_SKEW_SKEW_W : Fld := ⟨0x03, 0x0014, 12, 4⟩
def CROSS_SKEW_SKEW_S : Fld := ⟨0x03, 0x0014, 8, 4⟩
def CROSS_SKEW_SKEW_E : Fld := ⟨0x03, 0x0014, 4, 4⟩
def CROSS_SKEW_SKEW_N : Fld := ⟨0x03, 0x0014, 0, 4⟩
def CROSS_CAL_CAL_MAX_W : Fld := ⟨0x03, 0x0018, 12, 4⟩
def CROSS_CAL_CAL_MAX_S : Fld := ⟨0x03, 0x0018, 8, 4⟩
def CROSS_CAL_CAL_MAX_E : Fld := ⟨0x03, 0x0018, 4, 4⟩
def CROSS_CAL_CAL_MAX_N : Fld := ⟨0x03, 0x0018, 0, 4⟩
def TB_STAT_LOCKED : Fld := ⟨0x30, 0x0000, 31, 1⟩
def TB_STAT_SOURCE : Fld := ⟨0x30, 0x0000, 30, 1⟩
def TB_STAT_UNLOCKS : Fld := ⟨0x30, 0x0000, 0, 8⟩
def TB_NOW0_TIME : Fld := ⟨0x30, 0x0004, 0, 32⟩
def TB_NOW1_TIME : Fld := ⟨0x30, 0x0008, 0, 32⟩
def TB_SET0_VALUE : Fld := ⟨0x30, 0x000C, 0, 32⟩
def TB_SET1_VALUE : Fld := ⟨0x30, 0x0010, 0, 32⟩
def TU_FAULT_INFO_VALID : Fld := ⟨0x04, 0x0000, 31, 1⟩
def TU_FAULT_INFO_KIND : Fld := ⟨0x04, 0x0000, 28, 3⟩
def TU_FAULT_INFO_REQ : Fld := ⟨0x04, 0x0000, 25, 3⟩
def TU_FAULT_VA0_VA : Fld := ⟨0x04, 0x0004, 0, 32⟩
def TU_FAULT_VA1_VA : Fld := ⟨0x04, 0x0008, 0, 32⟩
def TU_MISS_COUNT : Fld := ⟨0x04, 0x000C, 0, 32⟩
def TU_PAGEIN_OUT_WAITS : Fld := ⟨0x04, 0x0010, 16, 16⟩
def TU_PAGEIN_PAGEINS : Fld := ⟨0x04, 0x0010, 0, 16⟩
def STK_STAT_SPARES_LEFT : Fld := ⟨0x11, 0x0000, 27, 5⟩
def STK_STAT_RETIRED : Fld := ⟨0x11, 0x0000, 19, 8⟩
def STK_STAT_SWAP_BUSY : Fld := ⟨0x11, 0x0000, 18, 1⟩
def STK_STAT_SCRUB_AGE : Fld := ⟨0x11, 0x0000, 0, 8⟩
def STK_FREE_FRAMES : Fld := ⟨0x11, 0x0004, 0, 21⟩
def STK_CORR_COUNT : Fld := ⟨0x11, 0x0008, 0, 32⟩
def STK_UNCORR_COUNT : Fld := ⟨0x11, 0x000C, 0, 32⟩
def STK_ECC_ADDR_VALID : Fld := ⟨0x11, 0x0010, 31, 1⟩
def STK_ECC_ADDR_COLUMN : Fld := ⟨0x11, 0x0010, 24, 5⟩
def STK_ECC_ADDR_FRAME : Fld := ⟨0x11, 0x0010, 8, 16⟩
def STK_ECC_ADDR_LINE : Fld := ⟨0x11, 0x0010, 0, 8⟩
def STK_COL_SPARED : Fld := ⟨0x11, 0x0100, 16, 10⟩
def STK_COL_RETIRED : Fld := ⟨0x11, 0x0100, 0, 10⟩
def SPILL_STAT_POOL_VALID : Fld := ⟨0x20, 0x0000, 31, 1⟩
def SPILL_STAT_ACTIVE : Fld := ⟨0x20, 0x0000, 30, 1⟩
def SPILL_STAT_DRAINING : Fld := ⟨0x20, 0x0000, 29, 1⟩
def SPILL_STAT_USED_KPAGES : Fld := ⟨0x20, 0x0000, 0, 24⟩
def SPILL_OUT_COUNT : Fld := ⟨0x20, 0x0004, 0, 32⟩
def SPILL_IN_COUNT : Fld := ⟨0x20, 0x0008, 0, 32⟩
def SPILL_FAIL_OUT_FAILS : Fld := ⟨0x20, 0x000C, 16, 16⟩
def SPILL_FAIL_IN_FAILS : Fld := ⟨0x20, 0x000C, 0, 16⟩
def KV_AVAIL_FRAMES : Fld := ⟨0x12, 0x0000, 0, 21⟩
def KV_RESERVED_FRAMES : Fld := ⟨0x12, 0x0004, 0, 21⟩
def KV_GRANTED_FRAMES : Fld := ⟨0x12, 0x0008, 0, 21⟩
def KV_PENDING_FRAMES : Fld := ⟨0x12, 0x000C, 0, 21⟩
def KV_PARK_PARKED : Fld := ⟨0x12, 0x0010, 19, 13⟩
def KV_PARK_OLDEST_MS : Fld := ⟨0x12, 0x0010, 0, 16⟩
def KV_EVENTS_PARKS : Fld := ⟨0x12, 0x0014, 16, 16⟩
def KV_EVENTS_CACHE_FULL : Fld := ⟨0x12, 0x0014, 0, 16⟩
def KV_SPILLS_COUNT : Fld := ⟨0x12, 0x0018, 0, 32⟩
def KV_FAULTS_NOPAGE : Fld := ⟨0x12, 0x001C, 16, 16⟩
def KV_FAULTS_SETLEN_CLAMP : Fld := ⟨0x12, 0x001C, 0, 16⟩
def SV_SLOT_USE_SLOTS : Fld := ⟨0x31, 0x0000, 16, 13⟩
def SV_SLOT_USE_QUEUED : Fld := ⟨0x31, 0x0000, 0, 15⟩
def SV_STATES0_FIRST : Fld := ⟨0x31, 0x0004, 16, 13⟩
def SV_STATES0_SECOND : Fld := ⟨0x31, 0x0004, 0, 13⟩
def SV_STATES1_FIRST : Fld := ⟨0x31, 0x0008, 16, 13⟩
def SV_STATES1_SECOND : Fld := ⟨0x31, 0x0008, 0, 13⟩
def SV_TOKENS_COUNT : Fld := ⟨0x31, 0x000C, 0, 32⟩
def SV_CLAMP_COUNT_COUNT : Fld := ⟨0x31, 0x0010, 0, 32⟩
def SV_REJECT_COUNT_REJECTS : Fld := ⟨0x31, 0x0014, 16, 16⟩
def SV_REJECT_COUNT_DROPPED : Fld := ⟨0x31, 0x0014, 0, 16⟩
def SV_AUTH_FAIL_COUNT : Fld := ⟨0x31, 0x0018, 0, 32⟩
def SV_CANCEL_STAT_CANCELLED : Fld := ⟨0x31, 0x001C, 20, 12⟩
def SV_CANCEL_STAT_ALREADY_DONE : Fld := ⟨0x31, 0x001C, 8, 12⟩
def SV_CANCEL_STAT_UNKNOWN : Fld := ⟨0x31, 0x001C, 0, 8⟩
def SEQ_END_COUNT_COUNT : Fld := ⟨0x31, 0x0020, 0, 32⟩
def SV_CLASS_QUEUE_DEFICIT : Fld := ⟨0x31, 0x0100, 16, 16⟩
def SV_CLASS_QUEUE_READY : Fld := ⟨0x31, 0x0100, 0, 15⟩
def SV_CLASS_TOKENS_COUNT : Fld := ⟨0x31, 0x0200, 0, 32⟩
def SP_PASSES_COUNT : Fld := ⟨0x32, 0x0000, 0, 32⟩
def SP_DRAFTED_COUNT : Fld := ⟨0x32, 0x0004, 0, 32⟩
def SP_ACCEPTED_COUNT : Fld := ⟨0x32, 0x0008, 0, 32⟩
def SP_ALLREJECT_PASSES : Fld := ⟨0x32, 0x000C, 16, 16⟩
def SP_ALLREJECT_OFF : Fld := ⟨0x32, 0x000C, 0, 16⟩
def SP_CATCHUP_COUNT : Fld := ⟨0x32, 0x0010, 0, 32⟩
def SP_LANE_STAT_OPEN : Fld := ⟨0x32, 0x0100, 31, 1⟩
def SP_LANE_STAT_SEATS : Fld := ⟨0x32, 0x0100, 18, 6⟩
def SP_LANE_STAT_SEATS_USED : Fld := ⟨0x32, 0x0100, 12, 6⟩
def SP_LANE_STAT_CONTEXT : Fld := ⟨0x32, 0x0100, 6, 2⟩
def SP_LANE_STAT_FIRST_DIE : Fld := ⟨0x32, 0x0100, 0, 6⟩
def CTX_STAT_STATE : Fld := ⟨0x33, 0x0000, 29, 3⟩
def CTX_STAT_POLICY : Fld := ⟨0x33, 0x0000, 28, 1⟩
def CTX_STAT_DIES : Fld := ⟨0x33, 0x0000, 22, 6⟩
def CTX_STAT_FIRST_DIE : Fld := ⟨0x33, 0x0000, 16, 6⟩
def CTX_STAT_ENTRY : Fld := ⟨0x33, 0x0000, 0, 6⟩
def CTX_VERSION_VERSION : Fld := ⟨0x33, 0x0004, 0, 32⟩
def WT_PROGRESS_UNIT : Fld := ⟨0x33, 0x0008, 16, 16⟩
def WT_PROGRESS_PERMILLE : Fld := ⟨0x33, 0x0008, 0, 10⟩
def WT_REFETCH_REFETCHES : Fld := ⟨0x33, 0x000C, 16, 16⟩
def WT_REFETCH_RETRIES : Fld := ⟨0x33, 0x000C, 0, 16⟩
def PT_STAT_UP : Fld := ⟨0x21, 0x0000, 31, 1⟩
def PT_STAT_MODE : Fld := ⟨0x21, 0x0000, 29, 2⟩
def PT_STAT_ENABLED : Fld := ⟨0x21, 0x0000, 28, 1⟩
def PT_STAT_TRAINED : Fld := ⟨0x21, 0x0000, 16, 8⟩
def PT_STAT_USED : Fld := ⟨0x21, 0x0000, 8, 8⟩
def PT_STAT_FLAPS : Fld := ⟨0x21, 0x0000, 0, 8⟩
def PT_CTRL_RETRAIN : Fld := ⟨0x21, 0x0004, 1, 1⟩
def PT_CTRL_PORT_RESET : Fld := ⟨0x21, 0x0004, 0, 1⟩
def PT_DROP_LOSSY_DROP : Fld := ⟨0x21, 0x0008, 16, 16⟩
def PT_DROP_FCS : Fld := ⟨0x21, 0x0008, 8, 8⟩
def PT_DROP_UNSERVED : Fld := ⟨0x21, 0x0008, 0, 8⟩
def PT_FEC_CORRECTED_K : Fld := ⟨0x21, 0x000C, 12, 20⟩
def PT_FEC_UNCORRECTED : Fld := ⟨0x21, 0x000C, 0, 12⟩
def PT_PFC_XOFF_SENT : Fld := ⟨0x21, 0x0010, 16, 16⟩
def PT_PFC_XOFF_RECEIVED : Fld := ⟨0x21, 0x0010, 0, 16⟩
def PT_RDMA_CNP_RECEIVED : Fld := ⟨0x21, 0x0014, 16, 16⟩
def PT_RDMA_RESENDS : Fld := ⟨0x21, 0x0014, 0, 16⟩
def PT_OPT_STAT_PRESENT : Fld := ⟨0x21, 0x0018, 31, 1⟩
def PT_OPT_STAT_READY : Fld := ⟨0x21, 0x0018, 30, 1⟩
def PT_OPT_STAT_LIFE_WARN : Fld := ⟨0x21, 0x0018, 29, 1⟩
def PT_OPT_STAT_BIAS_WARN : Fld := ⟨0x21, 0x0018, 28, 1⟩
def PT_OPT_STAT_CMIS_REV : Fld := ⟨0x21, 0x0018, 16, 8⟩
def PT_OPT_STAT_APP : Fld := ⟨0x21, 0x0018, 8, 8⟩
def PT_OPT_STAT_RECORD : Fld := ⟨0x21, 0x0018, 0, 6⟩
def PT_OPT_HOURS_HOURS : Fld := ⟨0x21, 0x001C, 12, 20⟩
def PT_OPT_HOURS_RATED_KH : Fld := ⟨0x21, 0x001C, 0, 12⟩
def MITTEN_TILE_RAIL : Fld := ⟨0x05, 0x0000, 30, 2⟩
def MITTEN_TILE_PHASES_OK : Fld := ⟨0x05, 0x0000, 24, 5⟩
def MITTEN_TILE_MAX_STEP : Fld := ⟨0x05, 0x0000, 20, 4⟩
def MITTEN_TILE_LAST_SPAN : Fld := ⟨0x05, 0x0000, 0, 8⟩
def MITTEN_RAIL_MV : Fld := ⟨0x05, 0x0004, 16, 10⟩
def MITTEN_RAIL_DECIAMPS : Fld := ⟨0x05, 0x0004, 0, 12⟩
def MITTEN_EVENTS_PHASE_FAULTS : Fld := ⟨0x05, 0x0008, 24, 8⟩
def MITTEN_EVENTS_SHORTS : Fld := ⟨0x05, 0x0008, 16, 8⟩
def MITTEN_EVENTS_TURN_ONS : Fld := ⟨0x05, 0x0008, 8, 8⟩
def MITTEN_EVENTS_SPREAD : Fld := ⟨0x05, 0x0008, 0, 8⟩
def MITTEN_STAT_FAILED : Fld := ⟨0x05, 0x0040, 31, 1⟩
def MITTEN_STAT_ISOLATED : Fld := ⟨0x05, 0x0040, 30, 1⟩
def MITTEN_STAT_CAUSE : Fld := ⟨0x05, 0x0040, 28, 2⟩
def MITTEN_STAT_CURRENT : Fld := ⟨0x05, 0x0040, 0, 12⟩
def PW_DIE_STAT_SITE : Fld := ⟨0x13, 0x0000, 30, 2⟩
def PW_DIE_STAT_BUDGET_CAP : Fld := ⟨0x13, 0x0000, 29, 1⟩
def PW_DIE_STAT_OVER_CONT : Fld := ⟨0x13, 0x0000, 28, 1⟩
def PW_DIE_STAT_PEAK_MS : Fld := ⟨0x13, 0x0000, 8, 8⟩
def PW_DIE_STAT_CAP_EPISODES : Fld := ⟨0x13, 0x0000, 0, 8⟩
def PW_DIE_POWER_PEAK_W : Fld := ⟨0x13, 0x0004, 16, 16⟩
def PW_DIE_POWER_MEAN_W : Fld := ⟨0x13, 0x0004, 0, 16⟩
def PW_SITE_TEMP : Fld := ⟨0x13, 0x0008, 24, 8⟩
def PW_SITE_VOUT : Fld := ⟨0x13, 0x0008, 12, 12⟩
def PW_SITE_IOUT : Fld := ⟨0x13, 0x0008, 0, 12⟩
def PW_SITE_CTRL_RETRY : Fld := ⟨0x13, 0x000C, 0, 1⟩
def PW_GRANT_STAT_PENDING : Fld := ⟨0x13, 0x0010, 24, 8⟩
def PW_GRANT_STAT_CAPPED : Fld := ⟨0x13, 0x0010, 16, 8⟩
def PW_GRANT_STAT_WAIT_MAX : Fld := ⟨0x13, 0x0010, 0, 16⟩
def PW_VIN_VOLTS : Fld := ⟨0x34, 0x0000, 16, 16⟩
def PW_VIN_AMPS : Fld := ⟨0x34, 0x0000, 0, 16⟩
def PW_VAUX_MV : Fld := ⟨0x34, 0x0004, 16, 16⟩
def PW_VAUX_MA : Fld := ⟨0x34, 0x0004, 0, 16⟩
def PW_DEV_POWER_PEAK : Fld := ⟨0x34, 0x0008, 16, 16⟩
def PW_DEV_POWER_MEAN : Fld := ⟨0x34, 0x0008, 0, 16⟩
def TH_DIODE_A_VALID : Fld := ⟨0x06, 0x0000, 31, 1⟩
def TH_DIODE_B_VALID : Fld := ⟨0x06, 0x0000, 30, 1⟩
def TH_DIODE_DIODE_A : Fld := ⟨0x06, 0x0000, 16, 12⟩
def TH_DIODE_DIODE_B : Fld := ⟨0x06, 0x0000, 0, 12⟩
def TH_HOT_SUSPECT : Fld := ⟨0x06, 0x0004, 31, 1⟩
def TH_HOT_A_FAILED : Fld := ⟨0x06, 0x0004, 30, 1⟩
def TH_HOT_B_FAILED : Fld := ⟨0x06, 0x0004, 29, 1⟩
def TH_HOT_ESTIMATE : Fld := ⟨0x06, 0x0004, 16, 12⟩
def TH_HOT_THERMAL_CAP : Fld := ⟨0x06, 0x0004, 12, 4⟩
def TH_HOT_HOT : Fld := ⟨0x06, 0x0004, 0, 12⟩
def TH_EVENTS_DISAGREE : Fld := ⟨0x06, 0x0008, 16, 16⟩
def TH_EVENTS_SUSPECTS : Fld := ⟨0x06, 0x0008, 8, 8⟩
def TH_EVENTS_DISCARDS : Fld := ⟨0x06, 0x0008, 0, 8⟩
def TH_STACK_HI_VALID : Fld := ⟨0x14, 0x0000, 31, 1⟩
def TH_STACK_LO_VALID : Fld := ⟨0x14, 0x0000, 30, 1⟩
def TH_STACK_SENSOR_HI : Fld := ⟨0x14, 0x0000, 16, 12⟩
def TH_STACK_SENSOR_LO : Fld := ⟨0x14, 0x0000, 0, 12⟩
def TH_DIE_STAT_STACK_SUSPECT : Fld := ⟨0x14, 0x0008, 31, 1⟩
def TH_DIE_STAT_STACK_TEMP : Fld := ⟨0x14, 0x0008, 16, 12⟩
def TH_DIE_STAT_FC_HOT : Fld := ⟨0x14, 0x0008, 8, 8⟩
def FC_STAT_FC_ENERGY : Fld := ⟨0x14, 0x000C, 16, 16⟩
def FC_STAT_FC_MISS : Fld := ⟨0x14, 0x000C, 0, 16⟩
def TH_COOL_STAT_STATE : Fld := ⟨0x35, 0x0000, 29, 3⟩
def TH_COOL_STAT_TRIP : Fld := ⟨0x35, 0x0000, 28, 1⟩
def TH_COOL_STAT_FLOW_CAP : Fld := ⟨0x35, 0x0000, 24, 4⟩
def TH_COOL_STAT_STOPS : Fld := ⟨0x35, 0x0000, 8, 8⟩
def TH_COOL_STAT_WARNS : Fld := ⟨0x35, 0x0000, 0, 8⟩
def TH_COOL_FLOW_TOP : Fld := ⟨0x35, 0x0004, 16, 16⟩
def TH_COOL_FLOW_CARRIER : Fld := ⟨0x35, 0x0004, 0, 16⟩
def TH_COOL_TEMP_INLET : Fld := ⟨0x35, 0x0008, 16, 12⟩
def TH_COOL_TEMP_OUTLET : Fld := ⟨0x35, 0x0008, 0, 12⟩
def ADC_STAT_BANKS_READ : Fld := ⟨0x15, 0x0000, 28, 4⟩
def ADC_STAT_ROTATE_ABORTS : Fld := ⟨0x15, 0x0000, 16, 8⟩
def ADC_STAT_REF_FAULTS : Fld := ⟨0x15, 0x0000, 0, 16⟩
def ADC_SLICE_STATE : Fld := ⟨0x15, 0x0004, 30, 2⟩
def ADC_SLICE_BANK : Fld := ⟨0x15, 0x0004, 28, 2⟩
def ADC_SLICE_OFFSET : Fld := ⟨0x15, 0x0004, 21, 7⟩
def ADC_SLICE_GAIN : Fld := ⟨0x15, 0x0004, 0, 16⟩
def ADC_DAC_CTRL_SLICE : Fld := ⟨0x15, 0x0020, 10, 3⟩
def ADC_DAC_CTRL_CODE : Fld := ⟨0x15, 0x0020, 0, 10⟩
def ADC_DAC_RESULT_DONE : Fld := ⟨0x15, 0x0024, 31, 1⟩
def ADC_DAC_RESULT_PASS : Fld := ⟨0x15, 0x0024, 30, 1⟩
def ADC_DAC_RESULT_CODE : Fld := ⟨0x15, 0x0024, 0, 12⟩
def ADC_RAW0_VALID : Fld := ⟨0x15, 0x0100, 31, 1⟩
def ADC_RAW0_SLICE : Fld := ⟨0x15, 0x0100, 28, 3⟩
def ADC_RAW0_CODE : Fld := ⟨0x15, 0x0100, 0, 12⟩
def ADC_RAW1_VALID : Fld := ⟨0x15, 0x0180, 31, 1⟩
def ADC_RAW1_SLICE : Fld := ⟨0x15, 0x0180, 28, 3⟩
def ADC_RAW1_CODE : Fld := ⟨0x15, 0x0180, 0, 12⟩
def ADC_RAW2_VALID : Fld := ⟨0x15, 0x0200, 31, 1⟩
def ADC_RAW2_SLICE : Fld := ⟨0x15, 0x0200, 28, 3⟩
def ADC_RAW2_CODE : Fld := ⟨0x15, 0x0200, 0, 12⟩
def ADC_RAW3_VALID : Fld := ⟨0x15, 0x0280, 31, 1⟩
def ADC_RAW3_SLICE : Fld := ⟨0x15, 0x0280, 28, 3⟩
def ADC_RAW3_CODE : Fld := ⟨0x15, 0x0280, 0, 12⟩
def BU_STAT_STEP : Fld := ⟨0x37, 0x0000, 28, 4⟩
def BU_STAT_STATE : Fld := ⟨0x37, 0x0000, 26, 2⟩
def BU_STAT_IMAGE : Fld := ⟨0x37, 0x0000, 25, 1⟩
def BU_STAT_LATE : Fld := ⟨0x37, 0x0000, 24, 1⟩
def BU_STAT_REJECT_A : Fld := ⟨0x37, 0x0000, 20, 4⟩
def BU_STAT_REJECT_B : Fld := ⟨0x37, 0x0000, 16, 4⟩
def BU_STAT_LISTED : Fld := ⟨0x37, 0x0000, 0, 16⟩
def BU_TIME_MS : Fld := ⟨0x37, 0x0004, 0, 32⟩
def CAP_WORD_WORD : Fld := ⟨0x37, 0x0040, 0, 32⟩
def LINK_WIDTH_W_STATE : Fld := ⟨0x16, 0x0000, 30, 2⟩
def LINK_WIDTH_W_HALF : Fld := ⟨0x16, 0x0000, 26, 4⟩
def LINK_WIDTH_W_CTRL : Fld := ⟨0x16, 0x0000, 24, 2⟩
def LINK_WIDTH_S_STATE : Fld := ⟨0x16, 0x0000, 22, 2⟩
def LINK_WIDTH_S_HALF : Fld := ⟨0x16, 0x0000, 18, 4⟩
def LINK_WIDTH_S_CTRL : Fld := ⟨0x16, 0x0000, 16, 2⟩
def LINK_WIDTH_E_STATE : Fld := ⟨0x16, 0x0000, 14, 2⟩
def LINK_WIDTH_E_HALF : Fld := ⟨0x16, 0x0000, 10, 4⟩
def LINK_WIDTH_E_CTRL : Fld := ⟨0x16, 0x0000, 8, 2⟩
def LINK_WIDTH_N_STATE : Fld := ⟨0x16, 0x0000, 6, 2⟩
def LINK_WIDTH_N_HALF : Fld := ⟨0x16, 0x0000, 2, 4⟩
def LINK_WIDTH_N_CTRL : Fld := ⟨0x16, 0x0000, 0, 2⟩
def LINK_LANES_W_SPARES : Fld := ⟨0x16, 0x0060, 24, 8⟩
def LINK_LANES_S_SPARES : Fld := ⟨0x16, 0x0060, 16, 8⟩
def LINK_LANES_E_SPARES : Fld := ⟨0x16, 0x0060, 8, 8⟩
def LINK_LANES_N_SPARES : Fld := ⟨0x16, 0x0060, 0, 8⟩
def RS_STAT_STATE : Fld := ⟨0x38, 0x0000, 29, 3⟩
def RS_STAT_LAST_CAUSE : Fld := ⟨0x38, 0x0000, 24, 4⟩
def RS_STAT_CP_CAUSE : Fld := ⟨0x38, 0x0000, 16, 8⟩
def RS_STAT_MOD_RESETS : Fld := ⟨0x38, 0x0000, 8, 8⟩
def RS_STAT_CP_RESETS : Fld := ⟨0x38, 0x0000, 0, 8⟩
def RS_CTRL_KEY : Fld := ⟨0x38, 0x0004, 24, 8⟩
def RS_CTRL_RUN : Fld := ⟨0x38, 0x0004, 5, 1⟩
def RS_CTRL_REST : Fld := ⟨0x38, 0x0004, 4, 1⟩
def RS_CTRL_HOLD : Fld := ⟨0x38, 0x0004, 3, 1⟩
def RS_CTRL_DOZE : Fld := ⟨0x38, 0x0004, 2, 1⟩
def RS_CTRL_CP_RESET : Fld := ⟨0x38, 0x0004, 1, 1⟩
def RS_CTRL_MOD_RESET : Fld := ⟨0x38, 0x0004, 0, 1⟩
def SK_TILE_STAT_PARTS_DONE : Fld := ⟨0x07, 0x0000, 25, 7⟩
def SK_TILE_STAT_QUAD_DONE : Fld := ⟨0x07, 0x0000, 21, 4⟩
def SK_TILE_STAT_NEWT_DONE : Fld := ⟨0x07, 0x0000, 19, 2⟩
def SK_TILE_STAT_CROSS_DONE : Fld := ⟨0x07, 0x0000, 15, 4⟩
def SK_TILE_STAT_MITTEN_DONE : Fld := ⟨0x07, 0x0000, 14, 1⟩
def SK_TILE_STAT_BUSY : Fld := ⟨0x07, 0x0000, 13, 1⟩
def SK_TILE_FAIL_ABANDONED : Fld := ⟨0x07, 0x0004, 16, 16⟩
def SK_TILE_FAIL_FAILED : Fld := ⟨0x07, 0x0004, 0, 16⟩
def SK_DIE_STAT_SWEEPS : Fld := ⟨0x17, 0x0000, 24, 8⟩
def SK_DIE_STAT_PROGRESS : Fld := ⟨0x17, 0x0000, 17, 7⟩
def SK_DIE_STAT_LATE : Fld := ⟨0x17, 0x0000, 16, 1⟩
def SK_DIE_STAT_BUBBLES : Fld := ⟨0x17, 0x0000, 0, 16⟩
def SK_WAITS_WAITS : Fld := ⟨0x17, 0x0004, 16, 16⟩
def SK_WAITS_WAIT_US_MAX : Fld := ⟨0x17, 0x0004, 0, 16⟩
def LOG_STAT_ALERT : Fld := ⟨0x39, 0x0000, 31, 1⟩
def LOG_STAT_MIRRORED : Fld := ⟨0x39, 0x0000, 30, 1⟩
def LOG_STAT_HELD : Fld := ⟨0x39, 0x0000, 0, 17⟩
def LOG_HEAD_SEQNO : Fld := ⟨0x39, 0x0004, 0, 32⟩
def LOG_LOST_COUNT : Fld := ⟨0x39, 0x0008, 0, 32⟩
def ID_SERIAL_WORD : Fld := ⟨0x18, 0x0000, 0, 32⟩
def ID_STACK_SERIAL_WORD : Fld := ⟨0x18, 0x0010, 0, 32⟩
def ID_LOCK_LOCKED : Fld := ⟨0x18, 0x0020, 31, 1⟩
def BON_STAT_KEY_OK_0 : Fld := ⟨0x3A, 0x0000, 31, 1⟩
def BON_STAT_KEY_OK_1 : Fld := ⟨0x3A, 0x0000, 30, 1⟩
def BON_STAT_TLS_REFUSED : Fld := ⟨0x3A, 0x0000, 8, 8⟩
def BON_STAT_UNWRAP_FAILS : Fld := ⟨0x3A, 0x0000, 0, 8⟩
def MODULE_SERIAL_WORD : Fld := ⟨0x3A, 0x0004, 0, 32⟩
def BON_KEYS_TENANTS : Fld := ⟨0x3A, 0x0014, 16, 11⟩
def BON_KEYS_CONTENT : Fld := ⟨0x3A, 0x0014, 0, 12⟩
def SADC_STAT_BANKS_READ : Fld := ⟨0x36, 0x0000, 28, 4⟩
def SADC_STAT_ROTATE_ABORTS : Fld := ⟨0x36, 0x0000, 16, 8⟩
def SADC_STAT_REF_FAULTS : Fld := ⟨0x36, 0x0000, 0, 16⟩
def SADC_SLICE_STATE : Fld := ⟨0x36, 0x0004, 30, 2⟩
def SADC_SLICE_BANK : Fld := ⟨0x36, 0x0004, 28, 2⟩
def SADC_SLICE_OFFSET : Fld := ⟨0x36, 0x0004, 21, 7⟩
def SADC_SLICE_GAIN : Fld := ⟨0x36, 0x0004, 0, 16⟩
def SADC_DAC_CTRL_SLICE : Fld := ⟨0x36, 0x0020, 10, 3⟩
def SADC_DAC_CTRL_CODE : Fld := ⟨0x36, 0x0020, 0, 10⟩
def SADC_DAC_RESULT_DONE : Fld := ⟨0x36, 0x0024, 31, 1⟩
def SADC_DAC_RESULT_PASS : Fld := ⟨0x36, 0x0024, 30, 1⟩
def SADC_DAC_RESULT_CODE : Fld := ⟨0x36, 0x0024, 0, 12⟩
def SADC_RAW0_VALID : Fld := ⟨0x36, 0x0100, 31, 1⟩
def SADC_RAW0_SLICE : Fld := ⟨0x36, 0x0100, 28, 3⟩
def SADC_RAW0_CODE : Fld := ⟨0x36, 0x0100, 0, 12⟩
def SADC_RAW1_VALID : Fld := ⟨0x36, 0x0180, 31, 1⟩
def SADC_RAW1_SLICE : Fld := ⟨0x36, 0x0180, 28, 3⟩
def SADC_RAW1_CODE : Fld := ⟨0x36, 0x0180, 0, 12⟩

end R

/-! ## The register table, in parts -/

def regTable0 : List RegDef := [
  /- TILE_ID -/ ⟨0x00, 0x0000, 1, 4, [(26, 6, .rd), (21, 5, .rd), (15, 6, .rd), (10, 5, .rd)]⟩,
  /- TILE_CTRL -/ ⟨0x00, 0x0004, 1, 4, [(1, 1, .wo), (0, 1, .wo)]⟩,
  /- TILE_STAT -/ ⟨0x00, 0x0008, 1, 4, [(30, 2, .rd), (28, 2, .rd), (27, 1, .rd), (26, 1, .rd), (24, 2, .rd), (0, 16, .rd)]⟩,
  /- TILE_FAULT -/ ⟨0x00, 0x000C, 1, 4, [(6, 1, .w1c), (5, 1, .w1c), (4, 1, .w1c), (3, 1, .w1c), (2, 1, .w1c), (1, 1, .w1c), (0, 1, .w1c)]⟩,
  /- TILE_FAULT_PC -/ ⟨0x00, 0x0010, 1, 4, [(0, 17, .rd)]⟩,
  /- TILE_FAULT_INFO -/ ⟨0x00, 0x0014, 1, 4, [(24, 8, .rd), (20, 4, .rd), (0, 20, .rd)]⟩,
  /- TILE_BOUND -/ ⟨0x00, 0x0018, 1, 4, [(0, 6, .rd)]⟩,
  /- TILE_ECC_CORR -/ ⟨0x00, 0x001C, 1, 4, [(0, 16, .rc)]⟩,
  /- TILE_ECC_ADDR -/ ⟨0x00, 0x0020, 1, 4, [(31, 1, .rd), (17, 5, .rd), (0, 17, .rd)]⟩,
  /- TILE_CNT -/ ⟨0x00, 0x0400, 256, 4, [(0, 32, .rd)]⟩,
  /- NUM_FLAGS -/ ⟨0x01, 0x0000, 1, 4, [(3, 1, .w1c), (2, 1, .w1c), (1, 1, .w1c), (0, 1, .w1c)]⟩,
  /- NUM_SPECIAL_COUNT -/ ⟨0x01, 0x0004, 1, 4, [(0, 32, .rc)]⟩,
  /- NUM_SAT_COUNT -/ ⟨0x01, 0x0008, 1, 4, [(0, 32, .rc)]⟩,
  /- QC_STAT -/ ⟨0x02, 0x0000, 1, 4, [(31, 1, .rd), (30, 1, .rd), (29, 1, .rd), (0, 16, .rd)]⟩,
  /- QC_BLOCKS -/ ⟨0x02, 0x0004, 1, 4, [(0, 32, .rc)]⟩,
  /- QC_FALLBACK -/ ⟨0x02, 0x0008, 1, 4, [(0, 32, .rc)]⟩]

def regTable1 : List RegDef := [
  /- QC_OVERFLOW -/ ⟨0x02, 0x000C, 1, 4, [(0, 32, .rc)]⟩,
  /- QC_OUTLIERS -/ ⟨0x02, 0x0010, 1, 4, [(0, 32, .rc)]⟩,
  /- QC_SAT_ELEM -/ ⟨0x02, 0x0014, 1, 4, [(0, 32, .rc)]⟩,
  /- QC_FLUSH_ELEM -/ ⟨0x02, 0x0018, 1, 4, [(0, 32, .rc)]⟩,
  /- QC_CHECK_COUNT -/ ⟨0x02, 0x001C, 1, 4, [(16, 16, .rc), (8, 8, .rc), (0, 8, .rc)]⟩,
  /- QC_WINDOW -/ ⟨0x02, 0x0020, 1, 4, [(31, 1, .rd), (0, 11, .rd)]⟩,
  /- QC_DIE_STAT -/ ⟨0x10, 0x0000, 1, 4, [(31, 1, .rd), (0, 8, .rc)]⟩,
  /- PACE_STEP -/ ⟨0x03, 0x0000, 1, 4, [(31, 1, .rw), (24, 4, .rw), (16, 4, .rd), (8, 4, .rd), (0, 4, .rd)]⟩,
  /- PACE_CAP -/ ⟨0x03, 0x0004, 1, 4, [(7, 1, .rd), (6, 1, .rd), (5, 1, .rd), (4, 1, .rd), (3, 1, .rd), (2, 1, .rd), (1, 1, .rd), (0, 1, .rd)]⟩,
  /- PACE_RATE -/ ⟨0x03, 0x0008, 1, 4, [(0, 12, .rd)]⟩,
  /- STRETCH_STAT -/ ⟨0x03, 0x000C, 1, 4, [(16, 16, .rc), (0, 16, .rc)]⟩,
  /- SKID_STAT -/ ⟨0x03, 0x0010, 1, 4, [(16, 16, .rc), (0, 16, .rc)]⟩,
  /- CROSS_SKEW -/ ⟨0x03, 0x0014, 1, 4, [(12, 4, .rc), (8, 4, .rc), (4, 4, .rc), (0, 4, .rc)]⟩,
  /- CROSS_CAL -/ ⟨0x03, 0x0018, 1, 4, [(12, 4, .rd), (8, 4, .rd), (4, 4, .rd), (0, 4, .rd)]⟩,
  /- TB_STAT -/ ⟨0x30, 0x0000, 1, 4, [(31, 1, .rd), (30, 1, .rd), (0, 8, .rc)]⟩,
  /- TB_NOW0 -/ ⟨0x30, 0x0004, 1, 4, [(0, 32, .rd)]⟩]

def regTable2 : List RegDef := [
  /- TB_NOW1 -/ ⟨0x30, 0x0008, 1, 4, [(0, 32, .rd)]⟩,
  /- TB_SET0 -/ ⟨0x30, 0x000C, 1, 4, [(0, 32, .wo)]⟩,
  /- TB_SET1 -/ ⟨0x30, 0x0010, 1, 4, [(0, 32, .wo)]⟩,
  /- TU_FAULT_INFO -/ ⟨0x04, 0x0000, 1, 4, [(31, 1, .rd), (28, 3, .rd), (25, 3, .rd)]⟩,
  /- TU_FAULT_VA0 -/ ⟨0x04, 0x0004, 1, 4, [(0, 32, .rd)]⟩,
  /- TU_FAULT_VA1 -/ ⟨0x04, 0x0008, 1, 4, [(0, 32, .rd)]⟩,
  /- TU_MISS -/ ⟨0x04, 0x000C, 1, 4, [(0, 32, .rc)]⟩,
  /- TU_PAGEIN -/ ⟨0x04, 0x0010, 1, 4, [(16, 16, .rc), (0, 16, .rc)]⟩,
  /- STK_STAT -/ ⟨0x11, 0x0000, 1, 4, [(27, 5, .rd), (19, 8, .rd), (18, 1, .rd), (0, 8, .rd)]⟩,
  /- STK_FREE -/ ⟨0x11, 0x0004, 1, 4, [(0, 21, .rd)]⟩,
  /- STK_CORR -/ ⟨0x11, 0x0008, 1, 4, [(0, 32, .rc)]⟩,
  /- STK_UNCORR -/ ⟨0x11, 0x000C, 1, 4, [(0, 32, .rc)]⟩,
  /- STK_ECC_ADDR -/ ⟨0x11, 0x0010, 1, 4, [(31, 1, .rd), (24, 5, .rd), (8, 16, .rd), (0, 8, .rd)]⟩,
  /- STK_COL -/ ⟨0x11, 0x0100, 24, 4, [(16, 10, .rd), (0, 10, .rd)]⟩,
  /- SPILL_STAT -/ ⟨0x20, 0x0000, 1, 4, [(31, 1, .rd), (30, 1, .rd), (29, 1, .rd), (0, 24, .rd)]⟩,
  /- SPILL_OUT -/ ⟨0x20, 0x0004, 1, 4, [(0, 32, .rc)]⟩]

def regTable3 : List RegDef := [
  /- SPILL_IN -/ ⟨0x20, 0x0008, 1, 4, [(0, 32, .rc)]⟩,
  /- SPILL_FAIL -/ ⟨0x20, 0x000C, 1, 4, [(16, 16, .rc), (0, 16, .rc)]⟩,
  /- KV_AVAIL -/ ⟨0x12, 0x0000, 1, 4, [(0, 21, .rd)]⟩,
  /- KV_RESERVED -/ ⟨0x12, 0x0004, 1, 4, [(0, 21, .rd)]⟩,
  /- KV_GRANTED -/ ⟨0x12, 0x0008, 1, 4, [(0, 21, .rd)]⟩,
  /- KV_PENDING -/ ⟨0x12, 0x000C, 1, 4, [(0, 21, .rd)]⟩,
  /- KV_PARK -/ ⟨0x12, 0x0010, 1, 4, [(19, 13, .rd), (0, 16, .rd)]⟩,
  /- KV_EVENTS -/ ⟨0x12, 0x0014, 1, 4, [(16, 16, .rc), (0, 16, .rc)]⟩,
  /- KV_SPILLS -/ ⟨0x12, 0x0018, 1, 4, [(0, 32, .rc)]⟩,
  /- KV_FAULTS -/ ⟨0x12, 0x001C, 1, 4, [(16, 16, .rc), (0, 16, .rc)]⟩,
  /- SV_SLOT_USE -/ ⟨0x31, 0x0000, 1, 4, [(16, 13, .rd), (0, 15, .rd)]⟩,
  /- SV_STATES0 -/ ⟨0x31, 0x0004, 1, 4, [(16, 13, .rd), (0, 13, .rd)]⟩,
  /- SV_STATES1 -/ ⟨0x31, 0x0008, 1, 4, [(16, 13, .rd), (0, 13, .rd)]⟩,
  /- SV_TOKENS -/ ⟨0x31, 0x000C, 1, 4, [(0, 32, .rc)]⟩,
  /- SV_CLAMP_COUNT -/ ⟨0x31, 0x0010, 1, 4, [(0, 32, .rc)]⟩,
  /- SV_REJECT_COUNT -/ ⟨0x31, 0x0014, 1, 4, [(16, 16, .rc), (0, 16, .rc)]⟩]

def regTable4 : List RegDef := [
  /- SV_AUTH_FAIL -/ ⟨0x31, 0x0018, 1, 4, [(0, 32, .rc)]⟩,
  /- SV_CANCEL_STAT -/ ⟨0x31, 0x001C, 1, 4, [(20, 12, .rc), (8, 12, .rc), (0, 8, .rc)]⟩,
  /- SEQ_END_COUNT -/ ⟨0x31, 0x0024, 7, 4, [(0, 32, .rc)]⟩,
  /- SV_CLASS_QUEUE -/ ⟨0x31, 0x0100, 64, 4, [(16, 16, .rd), (0, 15, .rd)]⟩,
  /- SV_CLASS_TOKENS -/ ⟨0x31, 0x0200, 64, 4, [(0, 32, .rc)]⟩,
  /- SP_PASSES -/ ⟨0x32, 0x0000, 1, 4, [(0, 32, .rc)]⟩,
  /- SP_DRAFTED -/ ⟨0x32, 0x0004, 1, 4, [(0, 32, .rc)]⟩,
  /- SP_ACCEPTED -/ ⟨0x32, 0x0008, 1, 4, [(0, 32, .rc)]⟩,
  /- SP_ALLREJECT -/ ⟨0x32, 0x000C, 1, 4, [(16, 16, .rc), (0, 16, .rc)]⟩,
  /- SP_CATCHUP -/ ⟨0x32, 0x0010, 1, 4, [(0, 32, .rc)]⟩,
  /- SP_LANE_STAT -/ ⟨0x32, 0x0100, 32, 4, [(31, 1, .rd), (18, 6, .rd), (12, 6, .rd), (6, 2, .rd), (0, 6, .rd)]⟩,
  /- CTX_STAT -/ ⟨0x33, 0x0000, 4, 16, [(29, 3, .rd), (28, 1, .rd), (22, 6, .rd), (16, 6, .rd), (0, 6, .rd)]⟩,
  /- CTX_VERSION -/ ⟨0x33, 0x0004, 4, 16, [(0, 32, .rd)]⟩,
  /- WT_PROGRESS -/ ⟨0x33, 0x0008, 4, 16, [(16, 16, .rd), (0, 10, .rd)]⟩,
  /- WT_REFETCH -/ ⟨0x33, 0x000C, 4, 16, [(16, 16, .rc), (0, 16, .rc)]⟩,
  /- PT_STAT -/ ⟨0x21, 0x0000, 1, 4, [(31, 1, .rd), (29, 2, .rd), (28, 1, .rd), (16, 8, .rd), (8, 8, .rd), (0, 8, .rc)]⟩]

def regTable5 : List RegDef := [
  /- PT_CTRL -/ ⟨0x21, 0x0004, 1, 4, [(1, 1, .wo), (0, 1, .wo)]⟩,
  /- PT_DROP -/ ⟨0x21, 0x0008, 1, 4, [(16, 16, .rc), (8, 8, .rc), (0, 8, .rc)]⟩,
  /- PT_FEC -/ ⟨0x21, 0x000C, 1, 4, [(12, 20, .rc), (0, 12, .rc)]⟩,
  /- PT_PFC -/ ⟨0x21, 0x0010, 1, 4, [(16, 16, .rc), (0, 16, .rc)]⟩,
  /- PT_RDMA -/ ⟨0x21, 0x0014, 1, 4, [(16, 16, .rc), (0, 16, .rc)]⟩,
  /- PT_OPT_STAT -/ ⟨0x21, 0x0018, 1, 4, [(31, 1, .rd), (30, 1, .rd), (29, 1, .rd), (28, 1, .rd), (16, 8, .rd), (8, 8, .rd), (0, 6, .rd)]⟩,
  /- PT_OPT_HOURS -/ ⟨0x21, 0x001C, 1, 4, [(12, 20, .rd), (0, 12, .rd)]⟩,
  /- MITTEN_TILE -/ ⟨0x05, 0x0000, 1, 4, [(30, 2, .rd), (24, 5, .rd), (20, 4, .rd), (0, 8, .rd)]⟩,
  /- MITTEN_RAIL -/ ⟨0x05, 0x0004, 1, 4, [(16, 10, .rd), (0, 12, .rd)]⟩,
  /- MITTEN_EVENTS -/ ⟨0x05, 0x0008, 1, 4, [(24, 8, .rc), (16, 8, .rc), (8, 8, .rc), (0, 8, .rc)]⟩,
  /- MITTEN_STAT -/ ⟨0x05, 0x0040, 16, 4, [(31, 1, .rd), (30, 1, .rd), (28, 2, .rd), (0, 12, .rd)]⟩,
  /- PW_DIE_STAT -/ ⟨0x13, 0x0000, 1, 4, [(30, 2, .rd), (29, 1, .rd), (28, 1, .rd), (8, 8, .rd), (0, 8, .rc)]⟩,
  /- PW_DIE_POWER -/ ⟨0x13, 0x0004, 1, 4, [(16, 16, .rc), (0, 16, .rd)]⟩,
  /- PW_SITE -/ ⟨0x13, 0x0008, 1, 4, [(24, 8, .rd), (12, 12, .rd), (0, 12, .rd)]⟩,
  /- PW_SITE_CTRL -/ ⟨0x13, 0x000C, 1, 4, [(0, 1, .wo)]⟩,
  /- PW_GRANT_STAT -/ ⟨0x13, 0x0010, 1, 4, [(24, 8, .rd), (16, 8, .rc), (0, 16, .rc)]⟩]

def regTable6 : List RegDef := [
  /- PW_VIN -/ ⟨0x34, 0x0000, 1, 4, [(16, 16, .rd), (0, 16, .rd)]⟩,
  /- PW_VAUX -/ ⟨0x34, 0x0004, 1, 4, [(16, 16, .rd), (0, 16, .rd)]⟩,
  /- PW_DEV_POWER -/ ⟨0x34, 0x0008, 1, 4, [(16, 16, .rc), (0, 16, .rd)]⟩,
  /- TH_DIODE -/ ⟨0x06, 0x0000, 1, 4, [(31, 1, .rd), (30, 1, .rd), (16, 12, .rd), (0, 12, .rd)]⟩,
  /- TH_HOT -/ ⟨0x06, 0x0004, 1, 4, [(31, 1, .rd), (30, 1, .rd), (29, 1, .rd), (16, 12, .rd), (12, 4, .rd), (0, 12, .rd)]⟩,
  /- TH_EVENTS -/ ⟨0x06, 0x0008, 1, 4, [(16, 16, .rc), (8, 8, .rc), (0, 8, .rc)]⟩,
  /- TH_STACK -/ ⟨0x14, 0x0000, 2, 4, [(31, 1, .rd), (30, 1, .rd), (16, 12, .rd), (0, 12, .rd)]⟩,
  /- TH_DIE_STAT -/ ⟨0x14, 0x0008, 1, 4, [(31, 1, .rd), (16, 12, .rd), (8, 8, .rd)]⟩,
  /- FC_STAT -/ ⟨0x14, 0x000C, 1, 4, [(16, 16, .rd), (0, 16, .rc)]⟩,
  /- TH_COOL_STAT -/ ⟨0x35, 0x0000, 1, 4, [(29, 3, .rd), (28, 1, .rd), (24, 4, .rd), (8, 8, .rc), (0, 8, .rc)]⟩,
  /- TH_COOL_FLOW -/ ⟨0x35, 0x0004, 1, 4, [(16, 16, .rd), (0, 16, .rd)]⟩,
  /- TH_COOL_TEMP -/ ⟨0x35, 0x0008, 2, 4, [(16, 12, .rd), (0, 12, .rd)]⟩,
  /- ADC_STAT -/ ⟨0x15, 0x0000, 1, 4, [(28, 4, .rd), (16, 8, .rc), (0, 16, .rc)]⟩,
  /- ADC_SLICE -/ ⟨0x15, 0x0004, 5, 4, [(30, 2, .rd), (28, 2, .rd), (21, 7, .rd), (0, 16, .rd)]⟩,
  /- ADC_DAC_CTRL -/ ⟨0x15, 0x0020, 1, 4, [(10, 3, .wo), (0, 10, .wo)]⟩,
  /- ADC_DAC_RESULT -/ ⟨0x15, 0x0024, 1, 4, [(31, 1, .rd), (30, 1, .rd), (0, 12, .rd)]⟩]

def regTable7 : List RegDef := [
  /- ADC_RAW0 -/ ⟨0x15, 0x0100, 32, 4, [(31, 1, .rd), (28, 3, .rd), (0, 12, .rd)]⟩,
  /- ADC_RAW1 -/ ⟨0x15, 0x0180, 32, 4, [(31, 1, .rd), (28, 3, .rd), (0, 12, .rd)]⟩,
  /- ADC_RAW2 -/ ⟨0x15, 0x0200, 32, 4, [(31, 1, .rd), (28, 3, .rd), (0, 12, .rd)]⟩,
  /- ADC_RAW3 -/ ⟨0x15, 0x0280, 32, 4, [(31, 1, .rd), (28, 3, .rd), (0, 12, .rd)]⟩,
  /- BU_STAT -/ ⟨0x37, 0x0000, 1, 4, [(28, 4, .rd), (26, 2, .rd), (25, 1, .rd), (24, 1, .rd), (20, 4, .rd), (16, 4, .rd), (0, 16, .rd)]⟩,
  /- BU_TIME -/ ⟨0x37, 0x0004, 1, 4, [(0, 32, .rd)]⟩,
  /- CAP_WORD -/ ⟨0x37, 0x0040, 16, 4, [(0, 32, .rd)]⟩,
  /- LINK_WIDTH -/ ⟨0x16, 0x0000, 24, 4, [(30, 2, .rd), (26, 4, .rd), (24, 2, .rd), (22, 2, .rd), (18, 4, .rd), (16, 2, .rd), (14, 2, .rd), (10, 4, .rd), (8, 2, .rd), (6, 2, .rd), (2, 4, .rd), (0, 2, .rd)]⟩,
  /- LINK_LANES -/ ⟨0x16, 0x0060, 24, 4, [(24, 8, .rd), (16, 8, .rd), (8, 8, .rd), (0, 8, .rd)]⟩,
  /- RS_STAT -/ ⟨0x38, 0x0000, 1, 4, [(29, 3, .rd), (24, 4, .rd), (16, 8, .rd), (8, 8, .rc), (0, 8, .rc)]⟩,
  /- RS_CTRL -/ ⟨0x38, 0x0004, 1, 4, [(24, 8, .wo), (5, 1, .wo), (4, 1, .wo), (3, 1, .wo), (2, 1, .wo), (1, 1, .wo), (0, 1, .wo)]⟩,
  /- SK_TILE_STAT -/ ⟨0x07, 0x0000, 1, 4, [(25, 7, .rd), (21, 4, .rd), (19, 2, .rd), (15, 4, .rd), (14, 1, .rd), (13, 1, .rd)]⟩,
  /- SK_TILE_FAIL -/ ⟨0x07, 0x0004, 1, 4, [(16, 16, .rc), (0, 16, .rc)]⟩,
  /- SK_DIE_STAT -/ ⟨0x17, 0x0000, 1, 4, [(24, 8, .rc), (17, 7, .rd), (16, 1, .rd), (0, 16, .rc)]⟩,
  /- SK_WAITS -/ ⟨0x17, 0x0004, 1, 4, [(16, 16, .rc), (0, 16, .rc)]⟩,
  /- LOG_STAT -/ ⟨0x39, 0x0000, 1, 4, [(31, 1, .w1c), (30, 1, .rd), (0, 17, .rd)]⟩]

def regTable8 : List RegDef := [
  /- LOG_HEAD -/ ⟨0x39, 0x0004, 1, 4, [(0, 32, .rd)]⟩,
  /- LOG_LOST -/ ⟨0x39, 0x0008, 1, 4, [(0, 32, .rc)]⟩,
  /- ID_SERIAL -/ ⟨0x18, 0x0000, 4, 4, [(0, 32, .rd)]⟩,
  /- ID_STACK_SERIAL -/ ⟨0x18, 0x0010, 4, 4, [(0, 32, .rd)]⟩,
  /- ID_LOCK -/ ⟨0x18, 0x0020, 1, 4, [(31, 1, .rd)]⟩,
  /- BON_STAT -/ ⟨0x3A, 0x0000, 1, 4, [(31, 1, .rd), (30, 1, .rd), (8, 8, .rc), (0, 8, .rc)]⟩,
  /- MODULE_SERIAL -/ ⟨0x3A, 0x0004, 4, 4, [(0, 32, .rd)]⟩,
  /- BON_KEYS -/ ⟨0x3A, 0x0014, 1, 4, [(16, 11, .rd), (0, 12, .rd)]⟩,
  /- SADC_STAT -/ ⟨0x36, 0x0000, 1, 4, [(28, 4, .rd), (16, 8, .rc), (0, 16, .rc)]⟩,
  /- SADC_SLICE -/ ⟨0x36, 0x0004, 3, 4, [(30, 2, .rd), (28, 2, .rd), (21, 7, .rd), (0, 16, .rd)]⟩,
  /- SADC_DAC_CTRL -/ ⟨0x36, 0x0020, 1, 4, [(10, 3, .wo), (0, 10, .wo)]⟩,
  /- SADC_DAC_RESULT -/ ⟨0x36, 0x0024, 1, 4, [(31, 1, .rd), (30, 1, .rd), (0, 12, .rd)]⟩,
  /- SADC_RAW0 -/ ⟨0x36, 0x0100, 32, 4, [(31, 1, .rd), (28, 3, .rd), (0, 12, .rd)]⟩,
  /- SADC_RAW1 -/ ⟨0x36, 0x0180, 32, 4, [(31, 1, .rd), (28, 3, .rd), (0, 12, .rd)]⟩]

/-- Every register of the device. -/
def regTable : List RegDef := regTable0 ++ regTable1 ++ regTable2 ++ regTable3 ++ regTable4 ++ regTable5 ++ regTable6 ++ regTable7 ++ regTable8

/-! ## Values after module reset -/

/-- Fields whose value after module reset is not 0, in any register of the array they lead (R11). -/
def resetTable : List (Fld × Nat) := [
  (R.TILE_BOUND_LOG2_BOUND, 24),
  (R.CROSS_CAL_CAL_MAX_W, 15), (R.CROSS_CAL_CAL_MAX_S, 15),
  (R.CROSS_CAL_CAL_MAX_E, 15), (R.CROSS_CAL_CAL_MAX_N, 15),
  (R.STK_STAT_SPARES_LEFT, 16),
  (R.MITTEN_TILE_RAIL, 2), (R.MITTEN_TILE_PHASES_OK, 16),
  (R.MITTEN_TILE_MAX_STEP, 15), (R.MITTEN_TILE_LAST_SPAN, 8),
  (R.PW_DIE_STAT_SITE, 2),
  (R.TH_HOT_THERMAL_CAP, 15), (R.TH_COOL_STAT_FLOW_CAP, 15),
  (R.ADC_STAT_BANKS_READ, 15), (R.SADC_STAT_BANKS_READ, 3),
  (R.BU_STAT_STEP, 3), (R.LOG_STAT_MIRRORED, 1), (R.ID_LOCK_LOCKED, 1),
  (R.BON_STAT_KEY_OK_0, 1), (R.BON_STAT_KEY_OK_1, 1)]

/-- The value of a field after module reset with an empty repair map: spares are tiles 20 and 21
(R64), an active tile starts at the default of PC_INIT_STEP and a spare at step 0 (R180). -/
def regReset (tile blk off lo : Nat) : Nat :=
  let at_ (f : Fld) : Bool := f.blk == blk && f.off == off && f.lo == lo
  if at_ R.TILE_STAT_ROLE then if tile = 20 ∨ tile = 21 then 1 else 0
  else if at_ R.PACE_STEP_TARGET then 11
  else if at_ R.PACE_STEP_EFFECTIVE then if tile = 20 ∨ tile = 21 then 0 else 11
  else if at_ (R.ADC_SLICE_STATE.at 4) || at_ (R.SADC_SLICE_STATE.at 2) then 1
  else ((resetTable.find? fun e => at_ e.1).map (·.2)).getD 0

/-- `regReset` as a function of the key of `State.regs` (see `fkey`). -/
def regDefault (key : Nat) : Nat :=
  regReset (key / 536870912 % 32) (key / 2097152 % 256) (key / 32 % 65536) (key % 32)

/-- The register that holds an offset of a block. -/
def regAt (blk off : Nat) : Option RegDef :=
  regTable.find? fun r =>
    r.blk = blk ∧ r.off ≤ off ∧ (off - r.off) % r.stride = 0 ∧ (off - r.off) / r.stride < r.count

end Sys2Proof.Machine
end

