-- ==== Sys2Proof/Machine/Ops.lean ====
section
/-! DEFINITION. The named operations over the state: sparse maps and byte memories in canonical form,
tiles, dies, ports and register fields by their coordinates, the timebase stamp, the trouble log and
the arrival counters. -/
namespace Sys2Proof.Machine

/-- An outcome of a step of this machine. -/
abbrev Res := Host.Outcome State Fault Refusal

/-! ## Sparse maps: keys strictly rise, and no entry equals what an unlisted key reads as -/

/-- The value at a key; an unlisted key reads `d k`. -/
def kget {α : Type} (d : Nat → α) : List (Nat × α) → Nat → α
  | [], k => d k
  | (k', v) :: r, k => if k = k' then v else kget d r k

/-- The list without the entry of a key. -/
def kdel {α : Type} : List (Nat × α) → Nat → List (Nat × α)
  | [], _ => []
  | (k', v) :: r, k => if k = k' then r else (k', v) :: kdel r k

/-- The list with the entry of a key replaced, or put at its place. -/
def kput {α : Type} : List (Nat × α) → Nat → α → List (Nat × α)
  | [], k, v => [(k, v)]
  | (k', v') :: r, k, v =>
    if k < k' then (k, v) :: (k', v') :: r
    else if k = k' then (k, v) :: r
    else (k', v') :: kput r k v

/-- Write a key: an entry equal to the default is removed. -/
def kset {α : Type} [DecidableEq α] (d : Nat → α) (m : List (Nat × α)) (k : Nat) (v : α) :
    List (Nat × α) :=
  if v = d k then kdel m k else kput m k v

/-- Every key of the list is above `b`. -/
def kabove {α : Type} (b : Nat) : List (Nat × α) → Bool
  | [] => true
  | (k, _) :: _ => b < k

/-- The canonical form. -/
def kwf {α : Type} [DecidableEq α] (d : Nat → α) : List (Nat × α) → Bool
  | [] => true
  | (k, v) :: r => kabove k r && !(decide (v = d k)) && kwf d r

/-! ## Byte memories -/

/-- What a byte of memory that nothing has written reads as (notes/assumptions/5: DESIGN CHOICE). -/
def emptyByte : Nat → Byte := fun _ => 0

def mget (m : List Host.Cell) (a : Nat) : Byte := kget emptyByte m a
def mset (m : List Host.Cell) (a : Nat) (b : Byte) : List Host.Cell := kset emptyByte m a b

/-- The canonical form of a byte memory. -/
def Memory.wf (m : List Host.Cell) : Bool := kwf emptyByte m

/-- The `n` bytes from `a`. -/
def mbytes (m : List Host.Cell) (a : Nat) : Nat → List Byte
  | 0 => []
  | n + 1 => mget m a :: mbytes m (a + 1) n

/-- Store bytes from `a` on. -/
def mstore (m : List Host.Cell) (a : Nat) : List Byte → List Host.Cell
  | [] => m
  | b :: r => mstore (mset m a b) (a + 1) r

/-- A list of bytes as a little-endian number (R10). -/
def leNat : List Byte → Nat
  | [] => 0
  | b :: r => b.toNat + 256 * leNat r

/-- The `n` low bytes of a number, little-endian (R10). -/
def leBytes : Nat → Nat → List Byte
  | 0, _ => []
  | n + 1, v => BitVec.ofNat 8 (v % 256) :: leBytes n (v / 256)

def mread (m : List Host.Cell) (a n : Nat) : Nat := leNat (mbytes m a n)
def mwrite (m : List Host.Cell) (a n v : Nat) : List Host.Cell := mstore m a (leBytes n v)

/-! ## Bit fields -/

/-- Bits `lo + w - 1` to `lo` of a number. -/
def bitsOf (v lo w : Nat) : Nat := v / 2 ^ lo % 2 ^ w

/-- Bits of a descriptor word. -/
def dbits (v : DWord) (lo w : Nat) : Nat := bitsOf v.toNat lo w

/-- Bit `i` of a number. -/
def tbit (v i : Nat) : Bool := v / 2 ^ i % 2 = 1

/-- A number with bit `i` set. -/
def setBit (v i : Nat) : Nat := if tbit v i then v else v + 2 ^ i

/-- A number with bit `i` cleared. -/
def clearBit (v i : Nat) : Nat := if tbit v i then v - 2 ^ i else v

def b2n (b : Bool) : Nat := if b then 1 else 0

/-- ⌈a / b⌉ -/
def cdiv (a b : Nat) : Nat := (a + b - 1) / b

/-! ## Tiles, dies and ports (R6) -/

/-- Wafer coordinates of a tile. -/
def waferX (t : Tid) : Nat := 6 * (t.d.val % 8) + t.t.val % 6
def waferY (t : Tid) : Nat := 4 * (t.d.val / 8) + t.t.val / 6

/-- Wafer tile index 48y + x. -/
def widx (t : Tid) : Nat := 48 * waferY t + waferX t

/-- The tile at wafer coordinates. -/
def tidAt (x y : Nat) : Tid :=
  ⟨Fin.ofNat 56 (8 * (y / 4) + x / 6), Fin.ofNat 24 (6 * (y % 4) + x % 6)⟩

/-- The tile of a wafer tile index below 1,344. -/
def tidOf (w : Nat) : Tid := tidAt (w % 48) (w / 48)

def tkey (t : Tid) : Nat := t.d.val * 24 + t.t.val

/-- The neighbour in a direction; none at the rim of the wafer. -/
def neighbour (t : Tid) : Dir → Option Tid
  | .n => if waferY t = 0 then none else some (tidAt (waferX t) (waferY t - 1))
  | .e => if waferX t = 47 then none else some (tidAt (waferX t + 1) (waferY t))
  | .s => if waferY t = 27 then none else some (tidAt (waferX t) (waferY t + 1))
  | .w => if waferX t = 0 then none else some (tidAt (waferX t - 1) (waferY t))

/-- Direction numbers of the logs and the repair map: N 0, E 1, S 2, W 3. -/
def dirNum : Dir → Nat
  | .n => 0 | .e => 1 | .s => 2 | .w => 3

def dirOpp : Dir → Dir
  | .n => .s | .e => .w | .s => .n | .w => .e

def allTiles : List (Fin 24) := List.finRange 24
def allDies : List (Fin 56) := List.finRange 56
def allCtx : List (Fin 4) := List.finRange 4

def tilesOfDie (d : Fin 56) : List Tid := allTiles.map (⟨d, ·⟩)

def tileOf (s : State) (t : Tid) : TileState := kget (fun _ => TileState.reset) s.tiles (tkey t)
def setTile (s : State) (t : Tid) (v : TileState) : State :=
  { s with tiles := kset (fun _ => TileState.reset) s.tiles (tkey t) v }
def modTile (s : State) (t : Tid) (f : TileState → TileState) : State := setTile s t (f (tileOf s t))

def dieOf (s : State) (d : Nat) : DieState := kget (fun _ => DieState.reset) s.dies d
def setDie (s : State) (d : Nat) (v : DieState) : State :=
  { s with dies := kset (fun _ => DieState.reset) s.dies d v }
def modDie (s : State) (d : Nat) (f : DieState → DieState) : State := setDie s d (f (dieOf s d))

def portOf (s : State) (p : Nat) : PortState := kget (fun _ => PortState.reset) s.ports p
def setPort (s : State) (p : Nat) (v : PortState) : State :=
  { s with ports := kset (fun _ => PortState.reset) s.ports p v }
def modPort (s : State) (p : Nat) (f : PortState → PortState) : State :=
  setPort s p (f (portOf s p))

def modServing (s : State) (f : Serving → Serving) : State := { s with serving := f s.serving }
def modStore (s : State) (f : Store → Store) : State := { s with store := f s.store }
def modPlane (s : State) (f : Plane → Plane) : State := { s with plane := f s.plane }
def modPlant (s : State) (f : Plant → Plant) : State := { s with plant := f s.plant }
def modPins (s : State) (f : Pins → Pins) : State := { s with pins := f s.pins }
def modTime (s : State) (f : Timebase → Timebase) : State := { s with time := f s.time }
def modLoader (s : State) (f : Loader → Loader) : State := { s with loader := f s.loader }

def noCtx : Nat → Option Context := fun _ => none
def ctxOf (s : State) (c : Nat) : Option Context := kget noCtx s.loader.contexts c
def setCtx (s : State) (c : Nat) (v : Option Context) : State :=
  modLoader s fun l => { l with contexts := kset noCtx l.contexts c v }
def modCtx (s : State) (c : Nat) (f : Context → Context) : State := setCtx s c ((ctxOf s c).map f)

/-- Apply an operation for every item of a list, in order. -/
def forEach {α : Type} (l : List α) (s : State) (f : State → α → State) : State := l.foldl f s

/-! ## Register fields (R11, R16) -/

/-- TILE of a management address that names the die itself (Table 21.4). -/
def dieScope : Nat := 31
/-- DIE of the primary service die and of the edge dies (Table 21.4). -/
def primaryDie : Nat := 0xFF

def rget (s : State) (die tile : Nat) (f : Fld) : Nat := kget regDefault s.regs (fkey die tile f)

/-- Set a field; a value is held in the field's width. -/
def rset (s : State) (die tile : Nat) (f : Fld) (v : Nat) : State :=
  { s with regs := kset regDefault s.regs (fkey die tile f) (v % 2 ^ f.w) }

/-- Add to a saturating event counter (R16). -/
def rinc (s : State) (die tile : Nat) (f : Fld) (n : Nat := 1) : State :=
  rset s die tile f (min (rget s die tile f + n) (2 ^ f.w - 1))

/-- Raise a field that keeps a maximum. -/
def rmax (s : State) (die tile : Nat) (f : Fld) (n : Nat) : State :=
  rset s die tile f (min (max (rget s die tile f) n) (2 ^ f.w - 1))

def tget (s : State) (t : Tid) (f : Fld) : Nat := rget s t.d.val t.t.val f
def tset (s : State) (t : Tid) (f : Fld) (v : Nat) : State := rset s t.d.val t.t.val f v
def tinc (s : State) (t : Tid) (f : Fld) (n : Nat := 1) : State := rinc s t.d.val t.t.val f n

def dget (s : State) (d : Nat) (f : Fld) : Nat := rget s d dieScope f
def dset (s : State) (d : Nat) (f : Fld) (v : Nat) : State := rset s d dieScope f v
def dinc (s : State) (d : Nat) (f : Fld) (n : Nat := 1) : State := rinc s d dieScope f n

/-- Fields of the primary service die. -/
def pget (s : State) (f : Fld) : Nat := rget s primaryDie dieScope f
def pset (s : State) (f : Fld) (v : Nat) : State := rset s primaryDie dieScope f v
def pinc (s : State) (f : Fld) (n : Nat := 1) : State := rinc s primaryDie dieScope f n

/-- Fields of port die `p`, and of service die `q`. -/
def portGet (s : State) (p : Nat) (f : Fld) : Nat := rget s (58 + p) dieScope f
def portSet (s : State) (p : Nat) (f : Fld) (v : Nat) : State := rset s (58 + p) dieScope f v
def portInc (s : State) (p : Nat) (f : Fld) (n : Nat := 1) : State := rinc s (58 + p) dieScope f n

/-! ## Run settings (R485) -/

/-- The effective value of a field now. -/
def fieldOf (s : State) (id : Nat) : Nat := kget fieldDefault s.fields id

/-! ## Time -/

/-- The device timebase in ns (R196). -/
def now (s : State) : Nat := s.time.count

/-- The unlocked flag (R197): 1 while the timebase is not locked to TB_REF. -/
def unlocked (s : State) : Bool := pget s R.TB_STAT_LOCKED = 0

/-- A time stamp: bits 62:0 of the count with the unlocked flag in bit 63 (R196). -/
def stamp (s : State) : DWord :=
  BitVec.ofNat 64 (now s % 2 ^ 63 + (if unlocked s then 2 ^ 63 else 0))

/-! ## The trouble log (R456, R457) -/

/-- Severities (Table 19.7). -/
def sevNotice : Nat := 1
def sevWarning : Nat := 2
def sevError : Nat := 3

/-- Sources of log entries (Table 19.6). -/
inductive LogSrc where
  | service (q : Nat) | port (p : Nat) | die (d : Nat) | tile (t : Tid)
  deriving DecidableEq, Repr

def LogSrc.kind : LogSrc → BitVec 3
  | .service _ => 0 | .port _ => 1 | .die _ => 2 | .tile _ => 3

def LogSrc.num : LogSrc → BitVec 13
  | .service q => BitVec.ofNat 13 q
  | .port p => BitVec.ofNat 13 p
  | .die d => BitVec.ofNat 13 d
  | .tile t => BitVec.ofNat 13 (widx t)

/-- Entries the ring holds (R456). -/
def logCap : Nat := 65536

/-- Append a formed entry: it takes the next SEQNO; with the ring full the entry of the lowest SEQNO
is overwritten and counts in LOST; severity error sets ALERT and asserts ALERT_N (R457). -/
def logRec (s : State) (e : LogRec) : State :=
  let seqno := pget s R.LOG_HEAD_SEQNO
  let s := pset s R.LOG_HEAD_SEQNO (seqno + 1)
  let s := if logCap ≤ s.log.length then pinc { s with log := s.log.drop 1 } R.LOG_LOST_COUNT else s
  let s := { s with log := s.log ++ [⟨BitVec.ofNat 32 seqno, e⟩] }
  if e.severity = 3 then
    modPins (pset s R.LOG_STAT_ALERT 1) fun p => { p with alertN := false }
  else s

/-- The entry that a source forms now (Table 19.6). -/
def logEntry (s : State) (code sev : Nat) (src : LogSrc) (p0 p1 p2 : Nat) : LogRec :=
  ⟨stamp s, BitVec.ofNat 16 code, BitVec.ofNat 4 sev, src.kind, src.num,
    BitVec.ofNat 32 p0, BitVec.ofNat 32 p1, BitVec.ofNat 32 p2⟩

/-- Write a log entry now. -/
def logPut (s : State) (code sev : Nat) (src : LogSrc) (p0 p1 p2 : Nat) : State :=
  logRec s (logEntry s code sev src p0 p1 p2)

/-- The service die that writes service entries: the primary. -/
def svcSrc (s : State) : LogSrc := .service (b2n s.plane.primary)

/-! ## Arrival counters (R58, R59) -/

def ctrGet (s : State) (t : Tid) (n : Nat) : Word :=
  BitVec.ofNat 32 (tget s t (R.TILE_CNT_VALUE.at n))

def ctrSet (s : State) (t : Tid) (n : Nat) (v : Word) : State :=
  tset s t (R.TILE_CNT_VALUE.at n) v.toNat

/-- An increment; counters wrap. -/
def ctrInc (s : State) (t : Tid) (n : Nat) (v : Word) : State :=
  ctrSet s t n (ctrGet s t n + v)

/-- A wait on a counter with a target (R59). -/
def waitOk (value target : Word) : Bool := (value - target).toNat < 2 ^ 31

/-! ## What the device sends -/

def send (s : State) (o : Out) : State := { s with out := s.out ++ [o] }

/-- A control-channel message on its way (R193: messages of one source and destination keep order). -/
def post (s : State) (m : CtrlMsg) : State := { s with ctrl := s.ctrl ++ [m] }

/-! ## Grade and repair map -/

/-- Whether the grade lists an active die (R3, Table 17.12). -/
def dieActive (s : State) (d : Nat) : Bool := d < 56 && tbit s.store.grade.dies.toNat d

/-- The repair map holds an entry of a kind for a die and item. -/
def rmHas (s : State) (kind die item : Nat) : Bool :=
  (s.store.repair ++ s.store.overflow).any fun e =>
    e.kind.toNat = kind && e.die.toNat = die && e.item.toNat = item

/-- A die with a DIE_FAILED entry. -/
def dieFailed (s : State) (d : Nat) : Bool := rmHas s 0x0C d 0

/-- A die that serves: active, not failed, and not out of service since a retry until the next module reset
(R365). -/
def dieUp (s : State) (d : Nat) : Bool := dieActive s d && !dieFailed s d && !(dieOf s d).failed

def upDies (s : State) : List (Fin 56) := allDies.filter fun d => dieUp s d.val

/-- Entries the repair map holds at most (R420). -/
def rmCap : Nat := 16384

/-- Put a map into force under the next sequence number; it is written over the copy of the lower one (R421). -/
def rmWrite (r : Store) (entries : List RmEntry) : Store :=
  let c : RmCopy := ⟨true, r.repairSeq + 1, entries⟩
  let r := { r with repair := entries, repairSeq := c.seq }
  if r.copy0.seq ≤ r.copy1.seq then { r with copy0 := c } else { r with copy1 := c }

/-- Write an entry into the repair map: an entry of the same kind, die, item (and detail, where one
item has several) is replaced; a full map holds the entry in SRAM and REPAIR_MAP_FULL is written.
Each write takes the next sequence number and goes to the copy with the lower one (R421). -/
def rmAdd (s : State) (kind die item detail : Nat) : State :=
  let e : RmEntry := ⟨BitVec.ofNat 8 kind, BitVec.ofNat 8 die, BitVec.ofNat 16 item,
    BitVec.ofNat 32 detail⟩
  let multi := kind = 0x04 ∨ kind = 0x08 ∨ kind = 0x09 ∨ kind = 0x0A
  let kept := s.store.repair.filter fun x =>
    !(x.kind = e.kind && x.die = e.die && x.item = e.item && (!multi || x.detail = e.detail))
  if rmCap ≤ kept.length then
    let s := modStore s fun r => { r with overflow := r.overflow ++ [e] }
    logPut s 0x1119 sevWarning (svcSrc s) s.store.overflow.length 0 0
  else
    modStore s fun r => rmWrite r (kept ++ [e])

/-- Remove the entries of a kind and die that satisfy a test (R365, R419). -/
def rmDrop (s : State) (p : RmEntry → Bool) : State :=
  if s.store.repair.any p then
    modStore s fun r => rmWrite r (r.repair.filter fun e => !p e)
  else s

/-! ## Tile roles (Table 2.9) and halting (R62) -/

def roleActive : Nat := 0
def roleSpare : Nat := 1
def roleLane : Nat := 2
def roleDark : Nat := 3

def roleOf (s : State) (t : Tid) : Nat := tget s t R.TILE_STAT_ROLE

/-- A tile whose rail is on (Table 14.9). -/
def railOn (s : State) (t : Tid) : Bool :=
  s.plane.powered && tget s t R.MITTEN_TILE_RAIL = 2 && roleOf s t ≠ roleDark

/-- The die's input is on (R483). -/
def dieOn (s : State) (d : Nat) : Bool :=
  s.plane.powered && dieActive s d && dget s d R.PW_DIE_STAT_SITE = 2

/-- Target rate of a step in Mwv/s (Table 7.1). -/
def stepRate (n : Nat) : Nat :=
  ([800, 900, 1000, 1100, 1200, 1300, 1400, 1550, 1700, 1800, 1900, 2000, 2150, 2300, 2450, 2600][n]?).getD 2600

/-- The effective step of a tile (R178). -/
def effStep (s : State) (t : Tid) : Nat := tget s t R.PACE_STEP_EFFECTIVE

/-- The tile's handshakes proceed: its governor admits waves (R436), and its rail is not below 0.50 V (R175). -/
def waving (s : State) (t : Tid) : Bool := !s.plane.dozeDone && !(tileOf s t).lowRail

/-- Waves of a tile since its reset, those that stall its sequencer included: they run at the rate of the effective
step (notes/assumptions/101). -/
def wavesNow (s : State) (t : Tid) : DWord :=
  let ts := tileOf s t
  let n := if ts.wait.isSome || ts.stall.isSome then (now s - ts.stallAt) * stepRate (effStep s t) / 1000 else 0
  ts.waves + BitVec.ofNat 64 n

/-- The context a tile serves. -/
def tileCtx (s : State) (t : Tid) : Option Nat :=
  if tget s t R.TILE_STAT_CTX_VALID = 1 then some (tget s t R.TILE_STAT_CONTEXT) else none

/-- A fresh free value's number; the counter advances (notes/assumptions/2). -/
def freeNo (s : State) : Nat := s.plane.freeCounter
def bumpFree (s : State) : State := modPlane s fun p => { p with freeCounter := p.freeCounter + 1 }

end Sys2Proof.Machine
end

