-- ==== Sys2Proof/Machine/Image.lean ====
section
/-! DEFINITION. What the loader reads from bytes: the header, the section table, the CAPS and the SIGNATURE of a
Kampiyn image (R156 to R158, R169), the digests of an image and of a manifest entry (R170, R311), and the header
and tag table of an Issaik container (R312). -/
namespace Sys2Proof.Machine

/-- The `n` bytes from an offset, as a little-endian number; bytes past the end read 0. -/
def leAt (b : List Byte) (off n : Nat) : Nat := leNat ((b.drop off).take n)

/-- The `n` bytes from an offset are there and are 0. -/
def zeroAt (b : List Byte) (off n : Nat) : Bool := off + n ≤ b.length && ((b.drop off).take n).all (· = 0)

/-! ## Kampiyn images (Tables 6.1 to 6.4) -/

def imgMagic (img : Image) : Nat := leAt img.bytes 0 4
def imgFmtMajor (img : Image) : Nat := leAt img.bytes 4 2
def imgLen (img : Image) : Nat := leAt img.bytes 8 8
def imgSectionCount (img : Image) : Nat := leAt img.bytes 16 2
def imgFwIface (img : Image) : Nat := leAt img.bytes 20 4
def imgModelId (img : Image) : BitVec 256 := BitVec.ofNat 256 (beNat ((img.bytes.drop 24).take 32))

/-- Entry `i` of the section table. -/
def sectionAt (b : List Byte) (i : Nat) : Section :=
  let e := 256 + 32 * i
  ⟨BitVec.ofNat 16 (leAt b e 2), BitVec.ofNat 16 (leAt b (e + 2) 2), BitVec.ofNat 64 (leAt b (e + 8) 8),
    BitVec.ofNat 64 (leAt b (e + 16) 8)⟩

def imgSections (img : Image) : List Section := (List.range (imgSectionCount img)).map (sectionAt img.bytes)

/-- The reserved bytes of the header and of the section table are 0. -/
def imgReservedOk (img : Image) : Bool :=
  zeroAt img.bytes 18 2 && zeroAt img.bytes 96 160
    && (List.range (imgSectionCount img)).all fun i =>
      zeroAt img.bytes (260 + 32 * i) 4 && zeroAt img.bytes (280 + 32 * i) 8

/-- The first section of a type. -/
def imgSection (img : Image) (type : Nat) : Option Section := (imgSections img).find? fun e => e.type.toNat = type

/-- Table 6.4 at an offset. -/
def capsAt (b : List Byte) (o : Nat) : CapDecl where
  required := BitVec.ofNat 32 (leAt b o 4)
  optional := BitVec.ofNat 32 (leAt b (o + 4) 4)
  minGib := BitVec.ofNat 16 (leAt b (o + 8) 2)
  maxSlots := BitVec.ofNat 16 (leAt b (o + 10) 2)
  layers := BitVec.ofNat 16 (leAt b (o + 12) 2)
  draftLayers := BitVec.ofNat 16 (leAt b (o + 14) 2)
  vocab := BitVec.ofNat 32 (leAt b (o + 16) 4)

/-- The capability declaration of an image: its section has type 0x0001. -/
def capsOf (img : Image) : CapDecl := capsAt img.bytes (((imgSection img 0x0001).map (·.offset.toNat)).getD 0)

/-- The units that a declaration names in either bitmap, and those that are optional alone (R158). -/
def namedUnits (c : CapDecl) : Word := c.required ||| c.optional
def optionalUnits (c : CapDecl) : Word := c.optional &&& ~~~c.required

/-- SM3 of the whole image. -/
def imgDigest (img : Image) : BitVec 256 := sm3 img.bytes

/-- The signature (r, s) of the SIGNATURE section, and SM3 of every byte before that section (R169). -/
def imgSignature (img : Image) : Option (BitVec 512 × BitVec 256) :=
  (imgSection img 0xFFFF).map fun e =>
    (BitVec.ofNat 512 (beNat ((img.bytes.drop e.offset.toNat).take 64)), sm3 (img.bytes.take e.offset.toNat))

/-! ## Manifest entries (Tables 12.1 to 12.3) -/

def bytes512 (v : BitVec 512) : List Byte := (List.range 64).map fun i => v.extractLsb' (504 - 8 * i) 8

def sourceBytes (x : Source) : List Byte :=
  leBytes 1 x.kind.toNat ++ leBytes 3 0 ++ beBytes 16 x.addr.toNat ++ leBytes 4 x.qpn.toNat ++ leBytes 4 x.rkey.toNat
    ++ leBytes 8 x.base.toNat ++ leBytes 4 x.nsid.toNat ++ beBytes 216 x.nqn.toNat

def containerBytes (k : Container) : List Byte :=
  leBytes 4 k.id.toNat ++ leBytes 1 k.source.toNat ++ leBytes 3 0 ++ leBytes 8 k.offset.toNat
    ++ leBytes 4 k.chunks.toNat ++ leBytes 4 0 ++ bytes256 k.digest ++ beBytes 128 k.wrapped.toNat ++ leBytes 8 0

/-- The header and the records of an entry, reserved bytes 0. -/
def manifestBytes (e : ManifestEntry) : List Byte :=
  bytes256 e.modelId ++ bytes256 e.imageDigest ++ bytes512 e.ownerKey ++ leBytes 1 e.imageSource.toNat
    ++ leBytes 1 e.sources.length ++ leBytes 2 e.containers.length ++ leBytes 8 e.imageOffset.toNat ++ leBytes 116 0
    ++ (e.sources.map sourceBytes).flatten ++ (e.containers.map containerBytes).flatten

def entryDigest (e : ManifestEntry) : BitVec 256 := sm3 (manifestBytes e)

/-! ## Issaik containers (R312, R313) -/

def headDigest (h : ContainerHead) : BitVec 256 := sm3 (h.header ++ h.tags)

/-- The header says what the manifest says of the container. -/
def headOk (h : ContainerHead) (ent : ManifestEntry) (k : Container) : Bool :=
  leAt h.header 0 4 = 0x4B535349 && leAt h.header 4 2 = 1 && leAt h.header 8 4 = k.id.toNat
    && leAt h.header 12 4 = k.chunks.toNat && BitVec.ofNat 256 (beNat ((h.header.drop 16).take 32)) = ent.modelId

/-- Entry `i` of the tag table. -/
def chunkTag (h : ContainerHead) (i : Nat) : BitVec 128 := BitVec.ofNat 128 (beNat ((h.tags.drop (16 * i)).take 16))

/-- The IV of a chunk: CONTAINER_ID, the chunk's number and four zero bytes. -/
def chunkIv (container chunk : Word) : BitVec 96 := container ++ chunk ++ (0 : BitVec 32)

/-- MODEL_ID ‖ CONTAINER_ID: the 36 bytes that a tag covers beside the chunk; the identifier as the record holds
it (notes/assumptions/98). -/
def chunkAad (modelId : BitVec 256) (container : Word) : List Byte := bytes256 modelId ++ leBytes 4 container.toNat

/-- Bytes of a page image of a chunk (R314). -/
def pageBytes : Nat := 65536

/-- The page images of a chunk whose tag verifies (R313, R314). -/
def openChunk (key : BitVec 128) (ent : ManifestEntry) (h : ContainerHead) (container chunk : Word)
    (text : List Byte) : Option (List (List Byte)) :=
  (gcmOpen key (chunkIv container chunk) (chunkAad ent.modelId container) text (chunkTag h chunk.toNat)).map fun l =>
    (List.range 16).map fun i => (l.drop (pageBytes * i)).take pageBytes

/-- The content key of a container, unwrapped with the device key: 113 bytes of ciphertext, then zeros (R315). -/
def contentKey (dev : Nat) (k : Container) : Option (BitVec 128) :=
  (sm2Decrypt dev ((beBytes 128 k.wrapped.toNat).take 113)).map fun l => BitVec.ofNat 128 (beNat l)

/-- A tenant's key from its wrapped form (Table 20.3). -/
def tenantSecret (dev : Nat) (wrapped : BitVec 1032) : Option (BitVec 256) :=
  (sm2Decrypt dev (beBytes 129 wrapped.toNat)).map fun l => BitVec.ofNat 256 (beNat l)

end Sys2Proof.Machine
end

