-- ==== Sys2Proof/Machine/Operands.lean ====
section
/-! DEFINITION. Operand forms: scalar registers, predicates and immediates of the sequencer (R118,
R123), counter references (Table 5.2), descriptor words (R134), vector operand references
(Table 5.12) and DMA addresses (Table 5.15). -/
namespace Sys2Proof.Machine

/-! ## Scalar registers and predicates (R118) -/

def zeroD : Nat → DWord := fun _ => 0

/-- A scalar register; s0 reads 0. -/
def sregGet (ts : TileState) (r : BitVec 5) : DWord :=
  if r = 0 then 0 else kget zeroD ts.sregs r.toNat

/-- Write a scalar register; a write of s0 has no effect. -/
def sregSet (ts : TileState) (r : BitVec 5) (v : DWord) : TileState :=
  if r = 0 then ts else { ts with sregs := kset zeroD ts.sregs r.toNat v }

/-- A predicate; p0 reads 1. -/
def predGet (ts : TileState) (p : Nat) : Bool := if p = 0 then true else ts.preds.getLsbD p

/-- Write a predicate; a write of p0 has no effect. -/
def predSet (ts : TileState) (p : Nat) (v : Bool) : TileState :=
  if p = 0 then ts
  else
    let m : Byte := BitVec.ofNat 8 (2 ^ p)
    { ts with preds := if v then ts.preds ||| m else ts.preds &&& ~~~m }

/-- The guard of an instruction (R124): p[GP] XOR GN. -/
def guardOk (ts : TileState) (w : GWord) : Bool := predGet ts w.gp.toNat != w.gn

def sextImm (w : GWord) : DWord := w.imm.signExtend 64

/-- Bits `lo + n - 1` to `lo` of the immediate. -/
def immBits (w : GWord) (lo n : Nat) : Nat := bitsOf w.imm.toNat lo n

/-- Bits 63:32 of an instruction word (Table 5.5). -/
def wordHi (w : GWord) : Nat :=
  w.op.toNat * 2 ^ 24 + w.gp.toNat * 2 ^ 21 + b2n w.gn * 2 ^ 20 + w.rd.toNat * 2 ^ 15
    + w.ra.toNat * 2 ^ 10 + w.rb.toNat * 2 ^ 5 + w.fn.toNat

/-- The scalar data address of an access (R126). -/
def sdataAddr (ts : TileState) (w : GWord) : Nat := (sregGet ts w.ra + sextImm w).toNat

/-- Size of scalar data memory in bytes (R119). -/
def sdataSize : Nat := 0x40000

/-- A scalar data access of `n` bytes is aligned and in range (R119, R125). -/
def sdataOk (a n : Nat) : Bool := a % n = 0 && a + n ≤ sdataSize

/-! ## ALU and compare functions (Table 5.6) -/

def maxAluFn : Nat := 13

/-- The ALU functions; shifts use bits 5:0 of the second operand. -/
def aluFn (fn : Nat) (a b : DWord) : DWord :=
  let sh := b.toNat % 64
  match fn with
  | 0 => a + b
  | 1 => a - b
  | 2 => a &&& b
  | 3 => a ||| b
  | 4 => a ^^^ b
  | 5 => a <<< sh
  | 6 => a >>> sh
  | 7 => a.sshiftRight sh
  | 8 => a * b
  | 9 => BitVec.ofNat 64 (a.toNat * b.toNat / 2 ^ 64)
  | 10 => if a.toInt ≤ b.toInt then a else b
  | 11 => if a.toInt ≤ b.toInt then b else a
  | 12 => if a.toNat ≤ b.toNat then a else b
  | _ => if a.toNat ≤ b.toNat then b else a

/-- The compare functions. -/
def cmpFn (fn : Nat) (a b : DWord) : Bool :=
  match fn with
  | 0 => a = b
  | 1 => a ≠ b
  | 2 => a.toInt < b.toInt
  | 3 => b.toInt ≤ a.toInt
  | 4 => a.toNat < b.toNat
  | _ => b.toNat ≤ a.toNat

/-- The predicate functions. -/
def plogFn (fn : Nat) (a b : Bool) : Bool :=
  match fn with
  | 0 => a && b
  | 1 => a || b
  | 2 => a != b
  | 3 => a && !b
  | _ => a

/-! ## Counter references (R121, Table 5.2) -/

structure CRef where
  v      : Bool
  remote : Bool
  rsvd   : Nat
  tile   : Nat
  index  : Nat
  deriving DecidableEq, Repr

def crefOf (w : Nat) : CRef :=
  ⟨tbit w 31, tbit w 30, bitsOf w 19 11, bitsOf w 8 11, bitsOf w 0 8⟩

/-- Highest counter index a program may write or name (R120). -/
def maxProgCtr : Nat := 239

/-- Tiles of the wafer (Table 5.2). -/
def waferTiles : Nat := 1344

/-- The tile whose counter a reference names, for a tile that issues it. -/
def crefTile (t : Tid) (c : CRef) : Tid := if c.remote then tidOf c.tile else t

/-- A reference that names another tile outside the issuing tile's context (Table 6.8). -/
def crefOutside (s : State) (t : Tid) (c : CRef) : Bool :=
  c.remote && c.tile ≠ widx t && (tileCtx s (tidOf c.tile) ≠ tileCtx s t || (tileCtx s t).isNone)

/-! ## Descriptors (R134, Table 5.8) -/

def descWord (d : Desc) (i : Nat) : DWord :=
  match i with
  | 0 => d.w0 | 1 => d.w1 | 2 => d.w2 | 3 => d.w3 | 4 => d.w4 | 5 => d.w5 | 6 => d.w6 | _ => d.w7

def descSet (d : Desc) (i : Nat) (v : DWord) : Desc :=
  match i with
  | 0 => { d with w0 := v } | 1 => { d with w1 := v } | 2 => { d with w2 := v }
  | 3 => { d with w3 := v } | 4 => { d with w4 := v } | 5 => { d with w5 := v }
  | 6 => { d with w6 := v } | _ => { d with w7 := v }

def descOp (d : Desc) : Nat := dbits d.w0 56 8
def descFlags (d : Desc) : Nat := dbits d.w0 48 8
def descCref (d : Desc) : CRef := crefOf (dbits d.w0 0 32)

/-- The 64-byte descriptor at an address of scalar data memory. -/
def descAt (m : List Host.Cell) (a : Nat) : Desc :=
  let w (i : Nat) : DWord := BitVec.ofNat 64 (mread m (a + 8 * i) 8)
  ⟨w 0, w 1, w 2, w 3, w 4, w 5, w 6, w 7⟩

def zeroDesc : Nat → Desc := fun _ => ⟨0, 0, 0, 0, 0, 0, 0, 0⟩

/-- The queue a command opcode belongs to (R134): queues 1 and 2 share their opcodes. -/
def opQueueOk (op q : Nat) : Bool :=
  match op / 16 with
  | 1 => q = 0
  | 2 => q = 1 || q = 2
  | 4 => q = 3
  | 5 => q = 4
  | 6 => q = 5
  | _ => false

/-- The defined command opcodes. -/
def opDefined (op : Nat) : Bool :=
  (0x10 ≤ op && op ≤ 0x13) || (0x20 ≤ op && op ≤ 0x25) || (0x40 ≤ op && op ≤ 0x42)
    || (0x50 ≤ op && op ≤ 0x52) || (0x60 ≤ op && op ≤ 0x62)

/-- Queue depths (Table 2.3), by queue number. -/
def queueDepth (q : Nat) : Nat :=
  match q with
  | 3 => 32
  | 4 => 128
  | 5 => 32
  | _ => 64

def noQueue : Nat → List QCmd := fun _ => []
def queueOf (ts : TileState) (q : Nat) : List QCmd := kget noQueue ts.queues q
def setQueue (ts : TileState) (q : Nat) (l : List QCmd) : TileState :=
  { ts with queues := kset noQueue ts.queues q l }

/-! ## Vector operand references (R143, Table 5.12) -/

inductive VFmt where
  | fp32 | bf16 | q4 | q8
  deriving DecidableEq, Repr

structure VRef where
  v     : Bool
  fmt   : VFmt
  reg   : Bool
  bcast : Bool
  rsvd  : Bool
  scale : Nat
  addr  : Nat
  deriving DecidableEq, Repr

def vfmtOf (n : Nat) : VFmt :=
  match n with
  | 0 => .fp32 | 1 => .bf16 | 2 => .q4 | _ => .q8

/-- A reference; `rsvd` tells a nonzero reserved bit (bits 58:35 and 17; bits 16:10 for a register). -/
def vrefOf (w : DWord) : VRef :=
  let loc := dbits w 60 1 = 1
  { v := dbits w 63 1 = 1
    fmt := vfmtOf (dbits w 61 2)
    reg := loc
    bcast := dbits w 59 1 = 1
    rsvd := dbits w 35 24 ≠ 0 || dbits w 17 1 ≠ 0 || (loc && dbits w 10 7 ≠ 0)
    scale := dbits w 18 17
    addr := if loc then dbits w 0 10 else dbits w 0 17 }

/-! ## DMA addresses (R151, Table 5.15) -/

inductive DAddr where
  | own (line : Nat)
  | other (line tile : Nat)
  | stack (va : Nat)
  | mcast (line group : Nat)
  | bad
  deriving DecidableEq, Repr

def daddrOf (w : DWord) : DAddr :=
  match dbits w 60 4 with
  | 0 => .own (dbits w 0 17)
  | 1 => .other (dbits w 0 17) (dbits w 17 11)
  | 2 => .stack (dbits w 0 48)
  | 3 => .mcast (dbits w 0 17) (dbits w 17 16)
  | _ => .bad

/-- A nonzero reserved bit of a DMA address. -/
def daddrRsvd (w : DWord) : Bool :=
  match dbits w 60 4 with
  | 0 => dbits w 17 43 ≠ 0
  | 1 => dbits w 28 32 ≠ 0
  | 2 => dbits w 48 12 ≠ 0
  | 3 => dbits w 33 27 ≠ 0
  | _ => false

/-- Lines of the tile buffer (R52). -/
def bufLines : Nat := 98304

end Sys2Proof.Machine
end

