-- ==== Sys2Proof/Machine/Flags.lean ====
section
/-! DEFINITION. Flag and fault-register computations: TILE_FAULT (Table 2.10), the fault registers
(Tables 2.11 and 2.12) and the numerics flags with their counters (Tables 3.11 to 3.13). -/
namespace Sys2Proof.Machine

/-- Set a fault flag of a tile; it stays until management clears it. -/
def raise (s : State) (t : Tid) (f : Fld) : State := tset s t f 1

/-- The word of TILE_FAULT_INFO (Table 2.12). -/
def faultInfoWord (counter kind slot : Nat) : Nat :=
  counter % 256 * 2 ^ 24 + kind % 16 * 2 ^ 20 + slot % 2 ^ 20

/-- Record a failed wait in TILE_FAULT_INFO. -/
def setFaultInfo (s : State) (t : Tid) (counter kind slot : Nat) : State :=
  tset (tset (tset s t R.TILE_FAULT_INFO_COUNTER counter) t R.TILE_FAULT_INFO_KIND kind)
    t R.TILE_FAULT_INFO_SLOT slot

/-- KIND of Table 2.12 for a wait. -/
def waitKindNo : WaitKind → Nat
  | .slotRead => 1
  | .slotWrite => 2
  | .plain => 3
  | .idle => 3

/-- What an engine's arithmetic met: replaced special operands (R76), saturated drains or BF16 running
sums (R90, R91), saturated vector results (R94), invalid special-function inputs (R95). -/
structure NumEv where
  special : Nat
  accSat  : Nat
  newtSat : Nat
  invalid : Nat
  deriving DecidableEq, Repr

def NumEv.zero : NumEv := ⟨0, 0, 0, 0⟩
def NumEv.add (a b : NumEv) : NumEv :=
  ⟨a.special + b.special, a.accSat + b.accSat, a.newtSat + b.newtSat, a.invalid + b.invalid⟩

def flagIf (s : State) (t : Tid) (f : Fld) (n : Nat) : State := if n = 0 then s else tset s t f 1

/-- Set the flags of the events and count them (Tables 3.11 to 3.13). -/
def noteNum (s : State) (t : Tid) (e : NumEv) : State :=
  let s := flagIf s t R.NUM_FLAGS_SPECIAL_IN e.special
  let s := flagIf s t R.NUM_FLAGS_ACC_SAT e.accSat
  let s := flagIf s t R.NUM_FLAGS_NEWT_SAT e.newtSat
  let s := flagIf s t R.NUM_FLAGS_NEWT_INVALID e.invalid
  let s := if e.special = 0 then s else tinc s t R.NUM_SPECIAL_COUNT_COUNT e.special
  let n := e.accSat + e.newtSat + e.invalid
  if n = 0 then s else tinc s t R.NUM_SAT_COUNT_COUNT n

end Sys2Proof.Machine
end

