-- ==== Sys2Proof/Machine/Memory.lean ====
section
/-! DEFINITION. Stacks and translation: frames and the free pool (R206, R207), page tables (R209,
Table 8.2), the TLB and its walks (R210), translation outcomes (R212, Table 8.3), virtual ranges of
the cache (R237 to R239), the walker's bookkeeping of frames (R241, R245, R253) and line access to
tile buffers and stacks. -/
namespace Sys2Proof.Machine

/-! ## Frames (Table 8.1) -/

def colFrames : Nat := 49152
def stackCols : Nat := 24
def frameBytes : Nat := 65536
def lineBytes : Nat := 256

/-- A frame of a die as one number. -/
def fid (col frame : Nat) : Nat := col * colFrames + frame
def fidCol (f : Nat) : Nat := f / colFrames
def fidFrame (f : Nat) : Nat := f % colFrames

/-- First test frame of a column (R445). -/
def testFrame0 : Nat := 49144

/-- Frames of a column that may be allocated: all but the test frames, or the first 32,768 in a grade
with 48 GiB per stack (R206, R445). -/
def colLimit (s : State) : Nat := if s.store.grade.gib = 48 then 32768 else testFrame0

def noFrame : Nat → Option FrameRec := fun _ => none
def frameOf (s : State) (d f : Nat) : Option FrameRec := kget noFrame (dieOf s d).frames f
def setFrame (s : State) (d f : Nat) (r : Option FrameRec) : State :=
  modDie s d fun x => { x with frames := kset noFrame x.frames f r }

/-- Channel `ch` of a column is retired. -/
def chRetired (s : State) (d col ch : Nat) : Bool := tbit (dget s d (R.STK_COL_RETIRED.at col)) ch

def frameRetired (s : State) (d f : Nat) : Bool := (dieOf s d).retired.any fun e => e.1 = f && e.2 = 1

/-- A frame is free: allocatable, on a channel in service, and held by nothing. -/
def frameFree (s : State) (d f : Nat) : Bool :=
  fidFrame f < colLimit s && !chRetired s d (fidCol f) (fidFrame f % 10) && !frameRetired s d f
    && (frameOf s d f).isNone

/-- Frames of the first `n` of a column that lie on a channel. -/
def chFrames (n ch : Nat) : Nat := (n + 9 - ch) / 10

/-- Frames of a column that its channels in service offer. -/
def colFramesUp (s : State) (d col : Nat) : Nat :=
  ((List.range 10).filter fun ch => !chRetired s d col ch).foldl
    (fun a ch => a + chFrames (colLimit s) ch) 0

/-- The frames of a die that may be allocated, free or not (R206, R222). -/
def allocatable (s : State) (d : Nat) : Nat :=
  (List.range stackCols).foldl (fun a c => a + colFramesUp s d c) 0
    - ((dieOf s d).retired.filter fun e => e.2 = 1 && fidFrame e.1 < colLimit s
        && !chRetired s d (fidCol e.1) (fidFrame e.1 % 10)).length

/-- A frame counts among the allocatable ones. -/
def frameCounts (s : State) (d f : Nat) : Bool :=
  fidFrame f < colLimit s && !chRetired s d (fidCol f) (fidFrame f % 10) && !frameRetired s d f

/-- The free pool of a die, page-in reserve included. -/
def poolSize (s : State) (d : Nat) : Nat :=
  allocatable s d - ((dieOf s d).frames.filter fun e => e.2.isSome && frameCounts s d e.1).length

def sumRes (s : State) (d : Nat) : Nat :=
  (dieOf s d).walkers.foldl (fun a w => a + (w.2.map (·.res)).getD 0) 0
def sumGrant (s : State) (d : Nat) : Nat :=
  (dieOf s d).walkers.foldl (fun a w => a + (w.2.map (·.grant)).getD 0) 0

/-- Available frames (R253): the pool less every RES and GRANT and less the page-in reserve. -/
def available (s : State) (d : Nat) : Nat :=
  poolSize s d - (sumRes s d + sumGrant s d + (dieOf s d).reserve)

/-- Frames in the return queue or in a round (Table 9.12). -/
def pendingFrames (s : State) (d : Nat) : Nat :=
  (dieOf s d).returnQ.length + (((dieOf s d).round.map (·.frames.length)).getD 0)

/-- The lowest free frame of a channel of a column. -/
def findOnCh (s : State) (d col : Nat) : Nat → Nat → Option Nat
  | 0, _ => none
  | fuel + 1, fr =>
    if colLimit s ≤ fr then none
    else if frameFree s d (fid col fr) then some fr
    else findOnCh s d col fuel (fr + 10)

/-- The next free frame of a column, over consecutive channels (R240). -/
def findInCol (s : State) (d col : Nat) : Option Nat :=
  let c0 := kget (fun _ => 0) (dieOf s d).nextCh col
  (List.range 10).findSome? fun i => findOnCh s d col 4916 ((c0 + i) % 10)

/-- The next free frame of the pool: round robin over the columns, within a column over consecutive
channels, the lowest frame of the channel (R206, R240). -/
def findFrame (s : State) (d : Nat) : Option Nat :=
  (List.range stackCols).findSome? fun i =>
    let col := ((dieOf s d).nextCol + i) % stackCols
    (findInCol s d col).map (fid col)

/-- Take a frame for a record; the pointers move past it. -/
def takeFrame (s : State) (d : Nat) (r : FrameRec) : Option (Nat × State) :=
  match findFrame s d with
  | none => none
  | some f =>
    let s := modDie s d fun x => { x with
      nextCol := (fidCol f + 1) % stackCols
      nextCh := kset (fun _ => 0) x.nextCh (fidCol f) ((fidFrame f + 1) % 10) }
    some (f, setFrame s d f (some r))

/-! ## Page tables (R209, Table 8.2) -/

def zeroE : Nat → DWord := fun _ => 0

def l1Of (s : State) (d i : Nat) : DWord := kget zeroE (dieOf s d).l1 i
def l2Of (s : State) (d vpn : Nat) : DWord := kget zeroE (dieOf s d).l2 vpn
def setL2 (s : State) (d vpn : Nat) (e : DWord) : State :=
  modDie s d fun x => { x with l2 := kset zeroE x.l2 vpn e }

def pteV (e : DWord) : Bool := dbits e 63 1 = 1
def pteRemote (e : DWord) : Bool := dbits e 62 1 = 1
def pteWr (e : DWord) : Bool := dbits e 61 1 = 1
def ptePin (e : DWord) : Bool := dbits e 60 1 = 1
def pteType (e : DWord) : Nat := dbits e 58 2
def pteOut (e : DWord) : Bool := dbits e 57 1 = 1
def pteFid (e : DWord) : Nat := fid (dbits e 16 5) (dbits e 0 16)

/-- A valid local entry. -/
def mkPte (wr pin : Bool) (type f : Nat) : DWord :=
  BitVec.ofNat 64 (2 ^ 63 + b2n wr * 2 ^ 61 + b2n pin * 2 ^ 60 + type % 4 * 2 ^ 58
    + fidCol f * 2 ^ 16 + fidFrame f)

/-- The entry of a page that lies in the remote pool. -/
def mkRemote (e : DWord) (index : Nat) : DWord :=
  BitVec.ofNat 64 (2 ^ 63 + 2 ^ 62 + b2n (pteWr e) * 2 ^ 61 + b2n (ptePin e) * 2 ^ 60
    + pteType e * 2 ^ 58 + index % 2 ^ 48)

def setOut (e : DWord) (b : Bool) : DWord :=
  if pteOut e = b then e
  else BitVec.ofNat 64 (if b then e.toNat + 2 ^ 57 else e.toNat - 2 ^ 57)

/-! ## Translation (R210, R212) -/

/-- Outcomes of Table 8.3, with the frame of an access that proceeds. -/
inductive TrOut where
  | ok (f : Nat)
  | fail (kind : Nat)
  deriving DecidableEq, Repr

def noTlb : Nat → Option TlbEntry := fun _ => none

/-- The TLB entry of a page: the set is given by address bits 21:16 (R210). -/
def tlbFind (ts : TileState) (vpn : Nat) : Option TlbEntry :=
  (List.range 8).findSome? fun w =>
    match kget noTlb ts.tlb (vpn % 64 * 8 + w) with
    | some e => if e.vpn.toNat = vpn then some e else none
    | none => none

/-- Put an entry into its set: in place of the page's own entry, else round robin (R210). -/
def tlbPut (ts : TileState) (vpn : Nat) (pte : DWord) : TileState :=
  let set := vpn % 64
  let own := (List.range 8).find? fun w =>
    ((kget noTlb ts.tlb (set * 8 + w)).map (·.vpn.toNat)) = some vpn
  let rr := kget (fun _ => 0) ts.tlbNext set
  let way := own.getD rr
  { ts with
    tlb := kset noTlb ts.tlb (set * 8 + way) (some ⟨BitVec.ofNat 32 vpn, pte⟩)
    tlbNext := if own.isSome then ts.tlbNext else kset (fun _ => 0) ts.tlbNext set ((rr + 1) % 8) }

/-- Drop a page's entry (R211). -/
def tlbDrop (ts : TileState) (vpn : Nat) : TileState :=
  { ts with tlb := (List.range 8).foldl (fun m w =>
      match kget noTlb m (vpn % 64 * 8 + w) with
      | some e => if e.vpn.toNat = vpn then kset noTlb m (vpn % 64 * 8 + w) none else m
      | none => m) ts.tlb }

/-- Keep a level-1 entry in the walk cache of 16 (R210). -/
def walkCachePut (ts : TileState) (i : Nat) (e : DWord) : TileState :=
  if ts.walkCache.any fun x => x.1 = i then ts
  else { ts with walkCache := (ts.walkCache ++ [(i, e)]).drop (ts.walkCache.length + 1 - 16) }

/-- A line of a table is lost, by its key (`lostKey`). -/
def lineLost (s : State) (d key : Nat) : Bool := (dieOf s d).tableLost.any fun e => e.1 = key

/-- The level-1 entry of a page: the walk cache's, or the table's; none when its line is lost (R210). -/
def walkEntry (s : State) (t : Tid) (i : Nat) : Option DWord :=
  match (tileOf s t).walkCache.find? fun e => e.1 = i with
  | some e => some e.2
  | none => if lineLost s t.d.val (2 ^ 40 + i / 32) then none else some (l1Of s t.d.val i)

/-- A walk: the level-1 entry, unless the walk cache holds it, then the line of 32 level-2 entries that holds the
page; every valid local entry of that line fills the TLB (R210). Its outcome is that of Table 8.3 which the tables
give, or 0. -/
def walk (s : State) (t : Tid) (vpn : Nat) : Nat × State :=
  let d := t.d.val
  let s := tinc s t R.TU_MISS_COUNT
  match walkEntry s t (vpn / 65536) with
  | none => (6, s)
  | some l1 =>
    if !pteV l1 then (1, s)
    else
      let s := modTile s t fun ts => walkCachePut ts (vpn / 65536) l1
      if lineLost s d (vpn / 32) then (6, s)
      else
        let base := vpn / 32 * 32
        (0, modTile s t fun ts =>
          (List.range 32).foldl (fun ts i =>
            let e := l2Of s d (base + i)
            if pteV e && !pteRemote e then tlbPut ts (base + i) e else ts) ts)

/-- REQ of the units that translate (Table 8.12). -/
def reqStream : Nat := 0
def reqDma : Nat := 1
def reqWalker : Nat := 2
def reqCheck : Nat := 3

/-- The outcome that an entry gives an access (Table 8.3). WR is the bit of the programs: it does not bind the
cache page walker. -/
def pteOutcome (e : DWord) (write : Bool) (req : Nat) : TrOut :=
  if !pteV e then .fail 1
  else if pteRemote e then .fail 3
  else if write && !pteWr e && req ≠ reqWalker then .fail 2
  else if write && pteOut e then .fail 4
  else .ok (pteFid e)

/-- Translate one page for a unit of a tile of the die that serves the context: a TLB hit, or a walk. -/
def translate (s : State) (t : Tid) (vpn : Nat) (write : Bool) (req : Nat) : TrOut × State :=
  match tlbFind (tileOf s t) vpn with
  | some e => (pteOutcome e.pte write req, s)
  | none =>
    let (k, s) := walk s t vpn
    if k = 0 then (pteOutcome (l2Of s t.d.val vpn) write req, s) else (.fail k, s)

/-- An outcome that a paused requester waits out (Table 8.3). -/
def trRecoverable (k : Nat) : Bool := k = 3 || k = 4

/-- Record an unrecoverable or PAGEIN_FAIL outcome: TRANS_FAULT, TU_FAULT_INFO, TU_FAULT_VA and the
TRANS_FAULT entry (R212). -/
def transFault (s : State) (t : Tid) (kind req va : Nat) : State :=
  let s := raise s t R.TILE_FAULT_TRANS_FAULT
  let s := tset s t R.TU_FAULT_INFO_VALID 1
  let s := tset s t R.TU_FAULT_INFO_KIND kind
  let s := tset s t R.TU_FAULT_INFO_REQ req
  let s := tset s t R.TU_FAULT_VA0_VA (va % 2 ^ 32)
  let s := tset s t R.TU_FAULT_VA1_VA (va / 2 ^ 32)
  logPut s 0x0810 sevError (.tile t) (kind * 2 ^ 28 + widx t * 2 ^ 17) (va % 2 ^ 32) (va / 2 ^ 32)

/-- Count a recoverable outcome (R212). -/
def countPause (s : State) (t : Tid) (kind : Nat) : State :=
  if kind = 3 then tinc s t R.TU_PAGEIN_PAGEINS else tinc s t R.TU_PAGEIN_OUT_WAITS

/-! ## Lines -/

/-- A line of a tile buffer (R52). -/
def bufLine (ts : TileState) (line : Nat) : List Byte := mbytes ts.buf (line * lineBytes) lineBytes

/-- Write bytes into the tile buffer from a byte address on. A write commits newer data: pending
correction write-backs and uncorrectable marks of the lines it touches are dropped (R219). -/
def bufWrite (ts : TileState) (a : Nat) (bs : List Byte) : TileState :=
  let lo := a / lineBytes
  let hi := (a + bs.length - 1) / lineBytes
  let touched (l : Nat) : Bool := lo ≤ l && l ≤ hi && bs.length ≠ 0
  { ts with
    buf := mstore ts.buf a bs
    writeBacks := ts.writeBacks.filter fun e => !touched e.1
    bufBad := ts.bufBad.filter fun e => !touched e.1 }

def bufRead (ts : TileState) (a n : Nat) : List Byte := mbytes ts.buf a n

/-- Bytes of a frame of a stack. -/
def stackRead (s : State) (d f off n : Nat) : List Byte := mbytes (dieOf s d).mem (f * frameBytes + off) n
def stackWrite (s : State) (d f off : Nat) (bs : List Byte) : State :=
  modDie s d fun x => { x with mem := mstore x.mem (f * frameBytes + off) bs }

/-- A byte of memory at an address belongs to a frame. -/
def inFrame (f a : Nat) : Bool := f * frameBytes ≤ a && a < (f + 1) * frameBytes

/-- Memory without the listed bytes of a frame (a frame of zeros), and with other bytes there. -/
def clearFrame (m : List Host.Cell) (f : Nat) : List Host.Cell := m.filter fun e => !inFrame f e.1
def putFrame (m : List Host.Cell) (f : Nat) (bytes : List Byte) : List Host.Cell :=
  mstore (clearFrame m f) (f * frameBytes) (bytes.take frameBytes)

/-! ## Virtual ranges of the cache (R237, R238, Table 9.2) -/

def kvPlanOf (c : Context) (layer : Nat) : KvPlan :=
  (c.image.kvplan[layer]?).getD ⟨0, 1, 0, 0, 0, 0⟩

def kvHeads (p : KvPlan) : Nat := p.heads.toNat
def kvFull (p : KvPlan) : Bool := p.pattern = 1
def keyQ8 (p : KvPlan) : Bool := p.kfmt = 0
def valQ8 (p : KvPlan) : Bool := p.vfmt = 1

def mib : Nat := 1048576
def ske (p : KvPlan) : Nat := if keyQ8 p then 128 * mib else 64 * mib
def sve (p : KvPlan) : Nat := if valQ8 p then 128 * mib else 64 * mib

/-- The planes of a range. -/
inductive Plane4 where
  | ke | ks | ve | vs
  deriving DecidableEq, Repr

def planes4 : List Plane4 := [.ke, .ks, .ve, .vs]

/-- Offset of a head's plane in its range (Table 9.2). -/
def planeOff (p : KvPlan) (pl : Plane4) (h : Nat) : Nat :=
  let hs := kvHeads p
  match pl with
  | .ke => h * ske p
  | .ks => hs * ske p + h * (8 * mib)
  | .ve => hs * (ske p + 8 * mib) + h * sve p
  | .vs => hs * (ske p + 8 * mib + sve p) + h * (8 * mib)

def tailOff (p : KvPlan) : Nat := kvHeads p * (ske p + sve p + 16 * mib)

/-- Positions per frame of a plane (Table 9.2). -/
def planeU (p : KvPlan) (pl : Plane4) : Nat :=
  match pl with
  | .ke => if keyQ8 p then 512 else 1024
  | .ve => if valQ8 p then 512 else 1024
  | _ => 8192

/-- Size of a layer's range, and the smallest ρ that holds the largest (R237). -/
def rangeSize (p : KvPlan) : Nat := tailOff p + 65536
def rhoOf (plans : List KvPlan) : Nat :=
  let m := plans.foldl (fun a p => max a (rangeSize p)) 0
  ((List.range 40).find? fun r => m ≤ 2 ^ r).getD 40

def rangeNo (lam slot : Nat) : Nat := 4096 * lam + slot
def rangeBase (rho n : Nat) : Nat := 0x800000000000 + n * 2 ^ rho

/-- The virtual page that holds frame `j` of a head's plane. -/
def planeVpn (rho n : Nat) (p : KvPlan) (pl : Plane4) (h j : Nat) : Nat :=
  (rangeBase rho n + planeOff p pl h) / frameBytes + j
def tailVpn (rho n : Nat) (p : KvPlan) : Nat := (rangeBase rho n + tailOff p) / frameBytes

/-- A virtual page belongs to a range. -/
def inRange (rho n vpn : Nat) : Bool :=
  rangeBase rho n ≤ vpn * frameBytes && vpn * frameBytes < rangeBase rho (n + 1)

/-- The die that runs a layer, and the layer's cache layer index there (R161, R236). -/
def layerDie (c : Context) (layer : Nat) : Nat := (c.dies[layer / c.perDie]?).getD 56
def layerLam (c : Context) (layer : Nat) : Nat := layer % c.perDie

def ctxLayers (c : Context) : Nat := c.caps.layers.toNat

/-- The layers of a context that a die runs, in layer order (R236). -/
def dieLayers (c : Context) (d : Nat) : List Nat :=
  (List.range (ctxLayers c)).filter fun l => layerDie c l = d

/-- The context that a die belongs to. -/
def dieCtx (s : State) (d : Nat) : Option Nat :=
  (List.range 4).find? fun c => ((ctxOf s c).map fun x => x.dies.contains d).getD false

/-! ## Walker records (R241) -/

def noWalker : Nat → Option WRec := fun _ => none
def walkerOf (s : State) (d n : Nat) : Option WRec := kget noWalker (dieOf s d).walkers n
def setWalker (s : State) (d n : Nat) (w : Option WRec) : State :=
  modDie s d fun x => { x with walkers := kset noWalker x.walkers n w }

def freshWRec (res : Nat) : WRec :=
  { active := true, parked := false, len := 0, posLast := 0, pendCount := 0, pendMask := 0,
    pendStored := 0, horizon := 0, res := res, grant := 0, remote := 0 }

/-- Frames a layer reserves for a sequence (R253). -/
def layerReserve (p : KvPlan) : Nat :=
  if kvFull p then 1
  else
    1 + kvHeads p * (planes4.foldl (fun a pl =>
      let u := planeU p pl
      a + ((p.w.toNat + 15) / u + 2 + cdiv (128 * p.g.toNat) u)) 0)

/-! ## Remote pages (R225, R229) -/

def noPool : Nat → Option Pool := fun _ => none
def noRemote : Nat → Option RemotePage := fun _ => none

def poolOf (s : State) (p i : Nat) : Option Pool := kget noPool (portOf s p).pools i
def setPool (s : State) (p i : Nat) (v : Option Pool) : State :=
  modPort s p fun x => { x with pools := kset noPool x.pools i v }

/-- The local queue pair of a pool slot (notes/assumptions/104). -/
def poolQp (i : Nat) : Nat := 254 + i

/-- The queue pair of a pool slot closes. -/
def closeQp (s : State) (p i : Nat) : State := modPort s p fun x => { x with qps := kdel x.qps (poolQp i) }

/-- A draining pool that holds no page closes (R225): its slot frees and SPILL_POOL_DONE is written. -/
def poolCheck (s : State) (p i : Nat) : State :=
  match poolOf s p i with
  | some q =>
    if q.draining && q.used = 0 then
      logPut (closeQp (setPool s p i none) p i) 0x0816 sevNotice (.port p) p i q.broughtBack
    else s
  | none => s

/-- Release a remote index of a port die (R229). -/
def releaseRemote (s : State) (p index : Nat) : State :=
  match kget noRemote (portOf s p).remote index with
  | none => s
  | some _ =>
    let i := index / 2 ^ 47
    let s := modPort s p fun x => { x with remote := kset noRemote x.remote index none }
    match poolOf s p i with
    | some q => poolCheck (setPool s p i (some { q with used := q.used - 1 })) p i
    | none => s

/-- The port die and index of the remote page that an entry of a die names; a page that a transfer for nobody
still brings in is not it. -/
def findRemote (s : State) (d vpn : Nat) : Option (Nat × Nat) :=
  let i := dbits (l2Of s d vpn) 0 48
  let left (p : Nat) : Bool := (dieOf s d).pageIns.any fun e => e.orphan && e.port = p && e.index = i
  if !(pteRemote (l2Of s d vpn)) then none
  else
    ([0, 1].find? fun p => !(left p) && ((kget noRemote (portOf s p).remote i).map fun r =>
      r.die = d && r.vpn.toNat = vpn).getD false).map fun p => (p, i)

/-- The entry of a remote page is cleared and its index is released. -/
def dropRemotePage (s : State) (d vpn : Nat) : State :=
  match findRemote s d vpn with
  | some (p, i) => releaseRemote (setL2 s d vpn 0) p i
  | none => setL2 s d vpn 0

/-! ## Freeing a range (R245, R247) -/

/-- Add a frame to a die's return queue (R247). -/
def queueReturn (s : State) (d : Nat) (r : RetFrame) : State :=
  modDie s d fun x => { x with returnQ := x.returnQ ++ [r] }

/-- A transfer of the page is in progress for its owner. -/
def inTransfer (s : State) (d vpn : Nat) : Bool :=
  (dieOf s d).pageOuts.any (fun e => e.vpn.toNat = vpn && !e.orphan)
    || (dieOf s d).pageIns.any (fun e => e.vpn.toNat = vpn && !e.orphan)

/-- A transfer of the range is in progress (R245). -/
def rangeInTransfer (s : State) (d rho n : Nat) : Bool :=
  (dieOf s d).pageOuts.any (fun e => inRange rho n e.vpn.toNat && !e.orphan)
    || (dieOf s d).pageIns.any (fun e => inRange rho n e.vpn.toNat && !e.orphan)

/-- A transfer goes on for nobody: its frame goes to the pool, and its remote index is released, when it ends
(Tables 8.7, 9.6). -/
def orphanTransfers (s : State) (d : Nat) (p : Nat → Bool) : State :=
  modDie s d fun x => { x with
    pageOuts := x.pageOuts.map fun e => if p e.vpn.toNat then { e with orphan := true } else e
    pageIns := x.pageIns.map fun e => if p e.vpn.toNat then { e with orphan := true } else e
    pageFails := x.pageFails.filter fun v => !(p v) }

/-- The frame of a page came from RES: every frame of a WINDOW layer and the TAIL frame (R245). -/
def fromRes (rho n : Nat) (p : KvPlan) (vpn : Nat) : Bool := !kvFull p || vpn = tailVpn rho n p

/-- Unmap one page of a range: a local frame goes to the return queue, a remote page is released; a transfer in
progress keeps the frame and the index until it ends. -/
def unmapPage (s : State) (d rho n : Nat) (p : KvPlan) (e : Nat × DWord) : State :=
  if inTransfer s d e.1 then setL2 s d e.1 0
  else if pteRemote e.2 then dropRemotePage s d e.1
  else
    queueReturn (setL2 s d e.1 0) d
      ⟨pteFid e.2, BitVec.ofNat 32 e.1, if fromRes rho n p e.1 then some n else none, none⟩

/-- Free every page of a range and empty its record (R245). -/
def freeRange (s : State) (d rho n : Nat) (p : KvPlan) : State :=
  let pages := (dieOf s d).l2.filter fun e => inRange rho n e.1 && pteV e.2
  let s := forEach pages s fun s e => unmapPage s d rho n p e
  let s := orphanTransfers s d (inRange rho n)
  let s := modDie s d fun x => { x with requants := x.requants.filter fun k => k ≠ n }
  match walkerOf s d n with
  | some w => setWalker s d n (some { w with
      pendMask := 0, pendStored := 0, len := 0, posLast := 0, horizon := 0, remote := 0 })
  | none => s

/-! ## Sampling bitmaps and masks (R292, R299) -/

def noBits : Nat → Nat × Nat := fun _ => (0, 0)
/-- The bitmaps of a slot's repetition set and presence set over a die's slice. -/
def bitmapsOf (s : State) (d slot : Nat) : Nat × Nat := kget noBits (dieOf s d).bitmaps slot
def setBitmaps (s : State) (d slot : Nat) (b : Nat × Nat) : State :=
  modDie s d fun x => { x with bitmaps := kset noBits x.bitmaps slot b }

/-- A bitmap of a slice with the bits of tokens set; tokens of other slices have none there. -/
def withBits (first n : Nat) (toks : List Nat) (b : Nat) : Nat :=
  toks.foldl (fun b v => if first ≤ v && v < first + n then b ||| 2 ^ (v - first) else b) b

/-- Mask bits of a slice for every state of the automata; a state that allows no token allows the end-of-sequence
token alone. -/
def maskBits (v : Serve) (first n : Nat) : List (List Nat) :=
  v.grammars.map fun g => g.2.map fun l => withBits first n (if l.isEmpty then [v.eos] else l) 0

/-- Take an unmapped state frame; `kind` is 1, or 2 for a draft cache. -/
def takeStateFrame (s : State) (d c kind : Nat) : State :=
  match takeFrame s d ⟨c, 0, 2, 0, kind, false⟩ with
  | none => s
  | some (_, s) => s

/-- Frames on their way to the pool credit no record of a range, nor the grant of a slot, that has ended (R245). -/
def dropCredits (s : State) (d n slot : Nat) : State :=
  let f (r : RetFrame) : RetFrame := { r with
    credit := if r.credit = some n then none else r.credit, grant := if r.grant = some slot then none else r.grant }
  modDie s d fun x => { x with
    returnQ := x.returnQ.map f, round := x.round.map fun r => { r with frames := r.frames.map f } }

/-- Free every range of a slot on every die of a context, and clear its records and its bitmaps (R245, R292). -/
def freeSlot (s : State) (c : Context) (slot : Nat) : State :=
  let s := forEach c.dies s fun s d => setBitmaps s d slot (0, 0)
  forEach (List.range (ctxLayers c)) s fun s layer =>
    let d := layerDie c layer
    let n := rangeNo (layerLam c layer) slot
    setWalker (dropCredits (freeRange s d c.rho n (kvPlanOf c layer)) d n slot) d n none

end Sys2Proof.Machine
end

