-- ==== Sys2Proof/Machine/Net.lean ====
section
/-! DEFINITION. What the port dies send (R336 to R342): addresses, VLAN tags, next hops, frames that a received pause
holds, and the operations of the RoCEv2 engine. -/
namespace Sys2Proof.Machine

/-! ## Ports and their fields (R332, R350) -/

/-- The grade enables the port (Table 0.1). -/
def portEnabled (s : State) (p : Nat) : Bool := tbit s.store.grade.ports.toNat p
def portUp (s : State) (p : Nat) : Bool := portEnabled s p && portGet s p R.PT_STAT_UP = 1

/-- A field as the port took it at its last training, or at its last hourly evaluation. -/
def portField (s : State) (p id : Nat) : Nat := kget fieldDefault (portOf s p).cfg id

/-- The grade lists the port and PT_ENABLE was 1 at its last training. -/
def portOn (s : State) (p : Nat) : Bool := portEnabled s p && portField s p (F.PT_ENABLE + p) = 1

/-- Fields that apply from a port's next training on. -/
def trainFields : List Nat :=
  [F.PT_ENABLE, F.PT_ENABLE + 1, F.PT_MTU, F.PT_PFC_MASK, F.PT_VLAN, F.PT_VLAN + 1]
    ++ (List.range 12).map (F.PT_IPV6_ADDR + ·)

/-- Fields that apply at the next hourly evaluation. -/
def opticFields : List Nat := [F.OPT_WARN_PERCENT, F.OPT_LIFE_DEFAULT_KH]

/-- A port takes fields as they stand now. -/
def latchFields (s : State) (p : Nat) (ids : List Nat) : State :=
  modPort s p fun x => { x with cfg := ids.foldl (fun m id => kset fieldDefault m id (fieldOf s id)) x.cfg }

/-! ## Addresses (R336) -/

/-- An IPv4 address among the addresses of sessions (notes/assumptions/104). -/
def v4Mapped (a : Nat) : BitVec 128 := BitVec.ofNat 128 (0xFFFF00000000 + a % 2 ^ 32)
def isV4 (a : BitVec 128) : Bool := a.toNat / 2 ^ 32 = 0xFFFF
def isLinkLocal (a : BitVec 128) : Bool := a.toNat / 2 ^ 118 = 0x3FA

def macOf (s : State) (p : Nat) : BitVec 48 := s.store.baseMac + BitVec.ofNat 48 p

/-- The link-local address that a port derives from its MAC address in EUI-64 form. -/
def linkLocal (s : State) (p : Nat) : BitVec 128 :=
  let m := (macOf s p).toNat
  let eui := (m / 2 ^ 24 ^^^ 0x020000) * 2 ^ 40 + 0xFFFE * 2 ^ 24 + m % 2 ^ 24
  BitVec.ofNat 128 (0xFE80 * 2 ^ 112 + eui)

/-- The address from which a port sends to a destination; none without one of its family. -/
def ownAddr (s : State) (p : Nat) (dst : BitVec 128) : Option (BitVec 128) :=
  if isV4 dst then
    match portField s p (F.PT_IPV4_ADDR + p) with
    | 0 => none
    | a => some (v4Mapped a)
  else
    match portField s p (F.PT_IPV6_ADDR + p) with
    | 0 => some (linkLocal s p)
    | a => some (if isLinkLocal dst then linkLocal s p else BitVec.ofNat 128 a)

/-- Two addresses of `w` bits agree in their first `n`. -/
def samePrefix (w n a b : Nat) : Bool := n = 0 || a / 2 ^ (w - n) = b / 2 ^ (w - n)

/-- The next hop of a destination: itself on-link, else the gateway; none without one. -/
def nextHop (s : State) (p : Nat) (dst : BitVec 128) : Option (BitVec 128) :=
  if isV4 dst then
    if samePrefix 32 (portField s p (F.PT_IPV4_PREFIX + p)) (portField s p (F.PT_IPV4_ADDR + p)) (dst.toNat % 2 ^ 32) then
      some dst
    else
      match portField s p (F.PT_IPV4_GW + p) with
      | 0 => none
      | g => some (v4Mapped g)
  else if isLinkLocal dst
      || samePrefix 128 (portField s p (F.PT_IPV6_PREFIX + p)) (portField s p (F.PT_IPV6_ADDR + p)) dst.toNat then
    some dst
  else
    match portField s p (F.PT_IPV6_GW + p) with
    | 0 => none
    | g => some (BitVec.ofNat 128 g)

/-! ## Frames (R337 to R340) -/

/-- Traffic of Table 13.3; ARP, neighbour discovery and echo go as management. -/
inductive Traffic where
  | serve
  | mgmt
  | rdma
  deriving DecidableEq, Repr

/-- The 802.1Q tag, DSCP and ECN of a kind of traffic on a port. -/
def frameTag (s : State) (p : Nat) (k : Traffic) : FrameTag :=
  let f : Nat × Nat × Nat := match k with
    | .serve => (F.PT_PCP_SERVE, F.PT_DSCP_SERVE, 0)
    | .mgmt => (F.PT_PCP_MGMT, F.PT_DSCP_MGMT, 0)
    | .rdma => (F.PT_PCP_RDMA, F.PT_DSCP_RDMA, 2)
  { vlan := portField s p (F.PT_VLAN + p), pcp := fieldOf s f.1, dscp := fieldOf s f.2.1, ecn := f.2.2 }

/-- How a port sends to a destination; none when it reaches it not. -/
def wayTo (s : State) (p : Nat) (k : Traffic) (dst : BitVec 128) : Option Link :=
  (ownAddr s p dst).bind fun src => (nextHop s p dst).map fun hop =>
    { port := p, mac := macOf s p, src := src, hop := hop, tag := frameTag s p k }

/-- A frame leaves a port, or waits there while its priority is paused. -/
def sendOn (s : State) (p prio : Nat) (o : Out) : State :=
  if tbit (portOf s p).paused.toNat prio then modPort s p fun x => { x with egress := x.egress ++ [(prio, o)] }
  else send s o

/-- A frame of the port die's own: 0 ARP answer, 1 neighbour advertisement, 2 echo answer, 3 CNP, 4 XOFF, 5 XON,
6 ARP request, 7 neighbour solicitation. -/
def sendNet (s : State) (p : Fin 2) (kind arg : Nat) : State :=
  let tag := frameTag s p.val (if kind = 3 then .rdma else .mgmt)
  if kind = 4 || kind = 5 then send s (.net p kind arg tag) else sendOn s p.val tag.pcp (.net p kind arg tag)

/-- The port asks for the MAC address of a next hop that it does not know yet. -/
def resolveHop (s : State) (p : Nat) (hop : BitVec 128) : State :=
  if (portOf s p).neighbours.contains hop then s
  else
    sendNet (modPort s p fun x => { x with neighbours := x.neighbours ++ [hop] }) (Fin.ofNat 2 p)
      (if isV4 hop then 6 else 7) hop.toNat

/-- Send over a link. -/
def sendLink (s : State) (l : Link) (o : Out) : State := sendOn (resolveHop s l.port l.hop) l.port l.tag.pcp o

/-- A received pause ends: what waited for it leaves, in order. -/
def releasePaused (s : State) (p prio : Nat) : State :=
  let l := (portOf s p).egress
  let s := modPort s p fun x => { x with egress := l.filter fun e => e.1 ≠ prio }
  forEach (l.filter fun e => e.1 = prio) s fun s e => send s e.2

/-- The longest serving message to or from an address that fits one packet (R338). -/
def serveMax (s : State) (p : Nat) (a : BitVec 128) : Nat := portField s p F.PT_MTU - if isV4 a then 28 else 48

/-! ## Operations of the RoCEv2 engine (R341) -/

/-- The MAC rate of a MODE in Mb/s (Table 13.1). -/
def macRate (mode : Nat) : Nat :=
  match mode with
  | 3 => 1600000
  | 2 => 800000
  | 1 => 400000
  | _ => 0

/-- The path MTU: the largest that fits PT_MTU less 96 bytes. -/
def pathMtu (s : State) (p : Nat) : Nat :=
  let n := portField s p F.PT_MTU - 96
  if 4096 ≤ n then 4096 else if 2048 ≤ n then 2048 else 1024

/-- An operation of the engine begins on a port, towards a server's queue pair. -/
def rdmaBegin (s : State) (p : Nat) (verb : RdmaVerb) (use : RdmaUse) (server : BitVec 128) (qpn : Word) : State :=
  match wayTo s p .rdma server with
  | none => s
  | some l => sendLink s l (.rdma l verb use qpn (pathMtu s p))

end Sys2Proof.Machine
end

