-- ==== Sys2Proof/Config.lean ====
section
/-! DEFINITION. What an implementation fixes and the manual leaves open: constants without a body, so
that nothing can be proved of their values (notes/assumptions/2). A free value that may differ each
time it appears is such a constant applied to the counter `Plane.freeCounter`. -/
namespace Sys2Proof.Config

/-! ## Arithmetic of the vector cores (R94, R95, Table 3.8)

Candidates for the results of the special functions. Machine/Numerics.lean takes a candidate where it
meets the bound of Table 3.8. -/

opaque expC : Word → Word
opaque exp2C : Word → Word
opaque recipC : Word → Word
opaque rsqrtC : Word → Word
opaque log2C : Word → Word
/-- log2 of the exact value (k + 1/2) × 2^-24 of a draw (R296). -/
opaque log2U : Nat → Word
opaque tanhC : Word → Word
opaque sigmoidC : Word → Word
opaque siluC : Word → Word
opaque geluC : Word → Word

/-- The FP32 quotient a vector core forms (R93, R146, R148 give no rounding of a division). -/
opaque quotC : Word → Word → Word
/-- The FP32 sum a vector core forms of many values (R145, R148 give no order of the additions). -/
opaque sumC : List Word → Word
/-- Whether c0 × s + bias of NV.SMAX is one operation with one rounding (R148 does not say). -/
opaque smaxFused : Bool
/-- What a measurement register shows of an interval of its mean, by register and number of the interval
(notes/assumptions/96). -/
opaque measure : Nat → Nat → Word
/-- Fresh free values, by number. -/
opaque freeWord : Nat → Word
opaque freeByte : Nat → Byte
/-- Keys that Bonnet generates, by number (R226). -/
opaque freeKey : Nat → BitVec 128

/-! ## Tadpole configurations (R150)

What a run of a configuration image computes: byte by byte of the output lines, from the image, the two
arguments, the input lines and what the cores' memories hold (the number of the run). The manual defines
no encoding of a configuration image. -/
opaque tadpole : List Byte → Word → Word → List Byte → Nat → Nat → Byte

/-- The stack virtual base of a context, which a descriptor patch may name (R166 gives no value). -/
opaque stackBase : Nat → DWord
/-- Microseconds that a procedure took, by number: the model's commands take no time. -/
opaque freeMicros : Nat → Nat

/-- COVERAGE of a test record whose slice kind Table 19.1 gives no percentage (Table 19.3). -/
opaque sliceCoverage : Nat → Byte

/-! ## Calibration records in MRAM (R374, R383, R394, R396): values of each module -/

/-- Thermal resistances of a die, in m°C per W. -/
opaque thetaT : Nat → Nat
opaque thetaD : Nat → Nat
/-- Leakage of a die's tile at a step, in mW. -/
opaque leak : Nat → Nat → Nat → Nat
/-- The temperature, in units of 0.125 °C, that a corrected code of a die's bank and input gives. -/
opaque codeTemp : Nat → Nat → Nat → Nat → Int
/-- The bandgap voltage of a die's converters, in units of 0.1 mV. -/
opaque vbg : Nat → Nat

/-! ## Public-key operations (R169, R266, R470 to R477), which the manual names and does not define -/

/-- Crinen's public keys in the mask ROM of the service dies (R465). -/
opaque gradeKey : BitVec 512
opaque firmwareKey : BitVec 512
/-- SM3 of the mask ROM of a service die (Table 20.4). -/
opaque romDigest : Nat → BitVec 256
/-- The magic value of the repair map's header (R420 gives none). -/
opaque rmMagic : BitVec 32
/-- The reason code of a SET_CONFIG_KEY that is refused (R470 gives none). -/
opaque keyRefused : Nat
opaque sm2Verify : BitVec 512 → BitVec 256 → BitVec 512 → Bool
opaque sm2Sign : BitVec 256 → BitVec 512

end Sys2Proof.Config
end

