-- ==== Sys2Proof/Machine/Numerics.lean ====
section
/-! DEFINITION. Number formats and arithmetic (chapter 3): the codecs of R68 to R71, special operands
(R76), rounding, the activation quantizer's scale and element choice (R77, R78), group values and the
stochastic accumulation of the matrix engine (R84 to R90), the drain (R91 to R93) and the arithmetic
of the vector cores (R94, R95). Values are exact rationals between the places where the manual
rounds. -/
namespace Sys2Proof.Machine

/-! ## Exact arithmetic -/

/-- 2^e -/
def pow2 (e : Int) : Rat := if 0 ≤ e then ((2 ^ e.toNat : Nat) : Rat) else 1 / ((2 ^ (-e).toNat : Nat) : Rat)

def floorR (x : Rat) : Int := x.num / (x.den : Int)
def absR (x : Rat) : Rat := if x < 0 then -x else x

/-- ⌊log2 x⌋ of a positive number. -/
def ilog2 (x : Rat) : Int :=
  let e : Int := (Nat.log2 x.num.natAbs : Int) - (Nat.log2 x.den : Int)
  if pow2 e ≤ x then e else e - 1

/-- The nearest integer, ties to even. -/
def rneInt (x : Rat) : Int :=
  let f := floorR x
  let r := x - (f : Rat)
  if r < 1 / 2 then f else if 1 / 2 < r then f + 1 else if f % 2 = 0 then f else f + 1

/-- Exponent of the last place of a magnitude, with `p` significant bits and no place below 2^qmin. -/
def lastPlace (p : Nat) (qmin : Int) (m : Rat) : Int := max (ilog2 m - ((p : Int) - 1)) qmin

/-- Round to nearest, ties to even, with `p` significant bits and no place below 2^qmin. -/
def fpRound (p : Nat) (qmin : Int) (x : Rat) : Rat :=
  if x = 0 then 0
  else
    let q := lastPlace p qmin (absR x)
    (rneInt (x / pow2 q) : Rat) * pow2 q

/-! ## Codes of a magnitude: `p` significant bits, smallest normal exponent `emin` -/

def decMag (p : Nat) (emin : Int) (c : Nat) : Rat :=
  let m := 2 ^ (p - 1)
  let ef := c / m
  let f := c % m
  if ef = 0 then (f : Rat) * pow2 (emin - (p : Int) + 1)
  else ((m + f : Nat) : Rat) * pow2 (emin + (ef : Int) - (p : Int))

/-- The code of a magnitude that the format holds exactly. -/
def encMag (p : Nat) (emin : Int) (x : Rat) : Nat :=
  if x = 0 then 0
  else
    let e := ilog2 x
    if e < emin then (floorR (x / pow2 (emin - (p : Int) + 1))).toNat
    else ((e - emin).toNat) * 2 ^ (p - 1) + (floorR (x / pow2 (e - (p : Int) + 1))).toNat

/-- An element format: significant bits, smallest normal exponent, largest magnitude (R68, R70). -/
structure EFmt where
  p    : Nat
  emin : Int
  m    : Rat
  deriving DecidableEq

def q4 : EFmt := ⟨2, 0, 6⟩
def q8 : EFmt := ⟨4, -6, 448⟩

/-- U5M3 block scales (R69). -/
def u5m3 (c : Nat) : Rat := decMag 4 (-14) c

/-- The smallest U5M3 code whose value is not below `x`; 0xFF above 122,880 (R77). -/
def u5m3Up (x : Rat) : Nat := ((List.range 256).find? fun c => x ≤ u5m3 c).getD 255

/-- The value of a Q4 code (R68). -/
def q4Val (c : Nat) : Rat := if tbit c 3 then -(decMag 2 0 (c % 8)) else decMag 2 0 (c % 8)

/-- The value of a Q8 code, and whether it was a NaN encoding read as +0 (R70, R76). -/
def q8Val (c : Nat) : Rat × Nat :=
  if c % 128 = 127 then (0, 1)
  else (if tbit c 7 then -(decMag 4 (-6) (c % 128)) else decMag 4 (-6) (c % 128), 0)

/-! ## FP32 and BF16 (R71): a value with the sign of its zero -/

structure FV where
  neg : Bool
  v   : Rat
  deriving DecidableEq

def FV.zero : FV := ⟨false, 0⟩
def FV.ofRat (x : Rat) : FV := ⟨decide (x < 0), x⟩

def maxF32 : Rat := ((2 ^ 24 - 1 : Nat) : Rat) * pow2 104
def maxBf : Rat := ((2 ^ 8 - 1 : Nat) : Rat) * pow2 120

/-- Encode a value that FP32 holds exactly. -/
def f32Enc (x : FV) : Word :=
  BitVec.ofNat 32 (b2n x.neg * 2 ^ 31 + encMag 24 (-126) (absR x.v))

def bfEnc (x : FV) : Half :=
  BitVec.ofNat 16 (b2n x.neg * 2 ^ 15 + encMag 8 (-126) (absR x.v))

/-- A NaN or an infinity of a layout with `f` fraction bits. -/
def isSpecial (f c : Nat) : Bool := c / 2 ^ f % 256 = 255
def isNan (f c : Nat) : Bool := isSpecial f c && c % 2 ^ f ≠ 0

/-- Read an operand with `f` fraction bits: NaN as +0, an infinity as the largest finite value, with
the count of Table 3.2. -/
def fpRead (f : Nat) (big : Rat) (c : Nat) : FV × Nat :=
  let neg := tbit c (f + 8)
  if isNan f c then (.zero, 1)
  else if isSpecial f c then (⟨neg, if neg then -big else big⟩, 1)
  else
    let m := decMag (f + 1) (-126) (c % 2 ^ (f + 8))
    (⟨neg, if neg then -m else m⟩, 0)

def f32Read (w : Word) : FV × Nat := fpRead 23 maxF32 w.toNat
def bfRead (h : Half) : FV × Nat := fpRead 7 maxBf h.toNat
def f32Val (w : Word) : Rat := (f32Read w).1.v

/-- A BF16 operand of the matrix engine: a subnormal reads as zero (Table 3.2). -/
def bfReadMx (h : Half) : Rat × Nat :=
  let (x, n) := bfRead h
  if absR x.v < pow2 (-126) then (0, n) else (x.v, n)

/-- Round to FP32, saturating; the second part tells saturation. -/
def toF32 (x : FV) : FV × Bool :=
  let r := fpRound 24 (-149) x.v
  if maxF32 < absR r then (⟨x.neg, if x.neg then -maxF32 else maxF32⟩, true) else (⟨x.neg, r⟩, false)

def toBf (x : FV) : FV × Bool :=
  let r := fpRound 8 (-133) x.v
  if maxBf < absR r then (⟨x.neg, if x.neg then -maxBf else maxBf⟩, true) else (⟨x.neg, r⟩, false)

/-- A word that is no NaN and no infinity: any other is held at the largest finite value (R76). -/
def finiteW (w : Word) : Word :=
  if isSpecial 23 w.toNat then f32Enc ⟨tbit w.toNat 31, if tbit w.toNat 31 then -maxF32 else maxF32⟩
  else w

/-! ## Tensor scales (R75) -/

/-- A tensor scale that a quantize command accepts: positive, finite and normal. -/
def scaleOkQuant (w : Word) : Bool :=
  !(tbit w.toNat 31) && !(isSpecial 23 w.toNat) && w.toNat / 2 ^ 23 % 256 ≠ 0

/-- A tensor scale that a drain accepts: finite. -/
def scaleOkDrain (w : Word) : Bool := !(isSpecial 23 w.toNat)

/-! ## The quantizer (R77, R78) -/

/-- The AMAX scale code of a base magnitude. -/
def amaxScale (f : EFmt) (t a : Rat) : Nat := if a = 0 then 0 else u5m3Up (a / (f.m * t))

/-- What became of a quantized element. -/
structure QElem where
  code : Nat
  sat  : Bool
  flush : Bool
  deriving DecidableEq

/-- Quantize one input on a scale (R78); `w` is the width of a code. -/
def quantElem (f : EFmt) (w : Nat) (t : Rat) (scale : Nat) (x : Rat) : QElem :=
  let s := u5m3 scale
  if x = 0 || s = 0 then ⟨0, false, false⟩
  else
    let v := absR x / (t * s)
    let sign := if x < 0 then 2 ^ (w - 1) else 0
    if f.m < v then ⟨sign + encMag f.p f.emin f.m, true, false⟩
    else
      let r := fpRound f.p (f.emin - (f.p : Int) + 1) v
      if r = 0 then ⟨0, false, true⟩ else ⟨sign + encMag f.p f.emin r, false, false⟩

def quantQ4 (t : Rat) (scale : Nat) (x : Rat) : QElem := quantElem q4 4 t scale x
def quantQ8 (t : Rat) (scale : Nat) (x : Rat) : QElem := quantElem q8 8 t scale x

def maxAbs (l : List Rat) : Rat := l.foldl (fun a x => max a (absR x)) 0

/-- A block quantized in AMAX mode: scale code and elements. -/
def quantBlockQ4 (t : Rat) (xs : List Rat) : Nat × List QElem :=
  let c := amaxScale q4 t (maxAbs xs)
  (c, xs.map (quantQ4 t c))
def quantBlockQ8 (t : Rat) (xs : List Rat) : Nat × List QElem :=
  let c := amaxScale q8 t (maxAbs xs)
  (c, xs.map (quantQ8 t c))

/-- The 8 element bytes of a Q4 block: element k in byte k / 2, low half when k is even (R73). -/
def packQ4 : List Nat → List Byte
  | a :: b :: r => BitVec.ofNat 8 (a + 16 * b) :: packQ4 r
  | [a] => [BitVec.ofNat 8 a]
  | [] => []

def unpackQ4 : List Byte → List Nat
  | [] => []
  | b :: r => b.toNat % 16 :: b.toNat / 16 :: unpackQ4 r

/-! ## Accumulation (R84 to R90) -/

def sumR (l : List Rat) : Rat := l.foldl (· + ·) 0

/-- One clock of a cell's LFSR (R87). -/
def lfsrClock (s : BitVec 24) : BitVec 24 :=
  let b := s.getLsbD 23 ^^ s.getLsbD 22 ^^ s.getLsbD 21 ^^ s.getLsbD 16
  (s <<< 1) ||| (if b then 1 else 0)

def lfsrClocks : Nat → BitVec 24 → BitVec 24
  | 0, s => s
  | n + 1, s => lfsrClocks n (lfsrClock s)

/-- An advance: 24 fresh bits. -/
def lfsrNext (s : BitVec 24) : BitVec 24 := lfsrClocks 24 s

/-- The state of a cell after a tile reset, by 128 i + j (R88). -/
def lfsrReset (k : Nat) : BitVec 24 := BitVec.ofNat 24 (k + 1)

/-- The state that a seed command loads (R88). -/
def lfsrSeed (rowSeed : Nat) (j : Nat) : BitVec 24 :=
  BitVec.ofNat 24 ((rowSeed + 0x9E37 * j) % (2 ^ 24 - 1) + 1)

/-- The running sum and the LFSR of one cell; no sum while P is empty. -/
structure Cell where
  p    : Option Word
  lfsr : BitVec 24
  sats : Nat
  deriving DecidableEq

/-- An FP32 value holds the number exactly. -/
def isF32 (x : Rat) : Bool := fpRound 24 (-149) x = x && absR x ≤ maxF32

/-- Round an exact sum stochastically with the draw `r` (R86), saturating (R90). -/
def stochRound (x : Rat) (r : Nat) : FV × Bool :=
  if x = 0 then (.zero, false)
  else
    let q := lastPlace 24 (-149) (absR x)
    let m := absR x / pow2 q
    let k := floorR m
    let f := floorR ((m - (k : Rat)) * ((2 ^ 24 : Nat) : Rat))
    let k := if (r : Int) < f then k + 1 else k
    let v := (k : Rat) * pow2 q
    let neg : Bool := decide (x < 0)
    if maxF32 < v then (⟨neg, if neg then -maxF32 else maxF32⟩, true)
    else (⟨neg, if neg then -v else v⟩, false)

/-- Add a group value to a cell (R86). -/
def cellAdd (c : Cell) (g : Rat) : Cell :=
  match c.p with
  | none =>
    if isF32 g then { c with p := some (f32Enc (.ofRat g)) }
    else
      let l := lfsrNext c.lfsr
      let (v, sat) := stochRound g l.toNat
      ⟨some (f32Enc v), l, c.sats + b2n sat⟩
  | some w =>
    let l := lfsrNext c.lfsr
    let (v, sat) := stochRound (f32Val w + g) l.toNat
    ⟨some (f32Enc v), l, c.sats + b2n sat⟩

/-- A BF16 group (R85): products aligned to the leading bit of the largest, 48 bits below it kept. -/
def bfGroup (ps : List Rat) : Rat :=
  let m := maxAbs ps
  if m = 0 then 0
  else
    let q := ilog2 m - 48
    let trunc (x : Rat) : Rat :=
      let k := (floorR (absR x / pow2 q) : Rat) * pow2 q
      if x < 0 then -k else k
    let s := sumR (ps.map trunc)
    if absR s < pow2 (-126) then 0 else s

/-! ## Drain (R91 to R93) -/

/-- P × t_a × t_b, rounded once (R91). -/
def drainVal (p ta tb : Word) : FV × Bool :=
  let (x, _) := f32Read p
  let (a, _) := f32Read ta
  let (b, _) := f32Read tb
  toF32 ⟨(x.neg != a.neg) != b.neg, x.v * a.v * b.v⟩

/-- Rounding in the internal format of a reduction: 40 significant bits (R92). -/
def r40 (x : Rat) : Rat :=
  if x = 0 then 0
  else
    let q := ilog2 (absR x) - 39
    (rneInt (x / pow2 q) : Rat) * pow2 q

/-- SUMSQ: Σx and Σx². -/
def sumsqStep (a : Rat × Rat) (x : Rat) : Rat × Rat := (r40 (a.1 + x), r40 (a.2 + r40 (x * x)))

/-- WELFORD: count, mean and M2. -/
def welfordStep (a : Nat × Rat × Rat) (x : Rat) : Nat × Rat × Rat :=
  let k := a.1 + 1
  let d := r40 (x - a.2.1)
  let mean := r40 (a.2.1 + r40 (d / (k : Rat)))
  (k, mean, r40 (a.2.2 + r40 (d * r40 (x - mean))))

/-- A reduction record (Table 3.7). -/
def recordBytes (count : Nat) (a b : Word) : List Byte :=
  leBytes 4 count ++ leBytes 4 a.toNat ++ leBytes 4 b.toNat ++ leBytes 4 0

/-- One rounding to FP32, held finite (R76). -/
def f32Of (x : Rat) : Word := f32Enc (toF32 (.ofRat x)).1

/-- The two fields of the record of a row of values, before their rounding to FP32; `welford` chooses the mode. -/
def redFields (welford : Bool) (xs : List Rat) : Rat × Rat :=
  if welford then (xs.foldl welfordStep (0, 0, 0)).2 else xs.foldl sumsqStep (0, 0)

/-- The record of a row of values. DESIGN CHOICE (notes/assumptions/100): a field that overflows FP32 is held at the
largest finite value, and at a drain it neither sets ACC_SAT nor counts. -/
def redRecord (welford : Bool) (xs : List Rat) : List Byte :=
  recordBytes xs.length (f32Of (redFields welford xs).1) (f32Of (redFields welford xs).2)

/-- Fields of a record that overflow FP32. -/
def redSats (welford : Bool) (xs : List Rat) : Nat :=
  let sat1 (x : Rat) : Nat := b2n (toF32 (.ofRat x)).2
  sat1 (redFields welford xs).1 + sat1 (redFields welford xs).2

/-! ## Vector-core operations (R94): one RNE rounding, overflow to the largest finite value -/

/-- A result with its saturation and invalid-input counts. -/
structure VRes where
  w   : Word
  sat : Nat
  inv : Nat
  deriving DecidableEq

def vround (x : FV) : VRes :=
  let (r, s) := toF32 x
  ⟨f32Enc r, b2n s, 0⟩

/-- The exact sum's sign; a zero sum of operands of one sign keeps it. -/
def addFV (a b : FV) : FV :=
  let x := a.v + b.v
  ⟨if x = 0 then a.neg && b.neg else decide (x < 0), x⟩
def mulFV (a b : FV) : FV := ⟨a.neg != b.neg, a.v * b.v⟩

def rd (w : Word) : FV := (f32Read w).1

def vadd (a b : Word) : VRes := vround (addFV (rd a) (rd b))
def vmul (a b : Word) : VRes := vround (mulFV (rd a) (rd b))
def vfma (a b c : Word) : VRes := vround (addFV (mulFV (rd a) (rd b)) (rd c))
def vneg (a : Word) : Word := a ^^^ 0x80000000
def vsub (a b : Word) : VRes := vadd a (vneg b)

/-! ## Special functions (R95, Table 3.8)

The manual bounds the results and does not fix them: a candidate of Config is the result where it meets
the bound against a rational approximation of relative error below 2^-60, and else the approximation
rounded to FP32 is (notes/assumptions/2). -/

/-- ln 2 and √(2/π) to more than 100 bits. -/
def ln2 : Rat := 878668439483319573618263538048 / 1267650600228229401496703205376
def sqrt2pi : Rat := 10000000000000000000000000000000 / 12533141373155002512078826424055

/-- Σ r^i / i! of degree `n`, by Horner's rule from term `i` on. -/
def expSeries : Nat → Nat → Rat → Rat
  | 0, _, _ => 1
  | n + 1, i, r => 1 + r / (i : Rat) * expSeries n (i + 1) r

/-- exp on rationals, held to a range where FP32 results lie. -/
def expR (x : Rat) : Rat :=
  let x := max (-200) (min x 200)
  let k := rneInt (x / ln2)
  expSeries 24 1 (x - (k : Rat) * ln2) * pow2 k

def atanhSeries : Nat → Nat → Rat → Rat
  | 0, _, _ => 0
  | n + 1, i, z2 => 1 / (i : Rat) + z2 * atanhSeries n (i + 2) z2

/-- log2 of a positive rational. -/
def log2R (x : Rat) : Rat :=
  let e := ilog2 x
  let m := x / pow2 e
  let z := (m - 1) / (m + 1)
  (e : Rat) + 2 * z * atanhSeries 32 1 (z * z) / ln2

def sigmoidR (x : Rat) : Rat := 1 / (1 + expR (-x))
def tanhR (x : Rat) : Rat := 2 * sigmoidR (2 * x) - 1
def geluR (x : Rat) : Rat :=
  x / 2 * (1 + tanhR (sqrt2pi * (x + 44715 / 1000000 * x * x * x)))

/-- One unit in the last place of a result. -/
def ulpOf (x : Rat) : Rat := if x = 0 then pow2 (-149) else pow2 (lastPlace 24 (-149) (absR x))

/-- The bound of `n` ulp. -/
def ulpBound (n : Nat) (x : Rat) : Rat := (n : Rat) * ulpOf x

/-- A value below the normal range of FP32, other than 0. -/
def isSub (x : Rat) : Bool := x ≠ 0 && absR x < pow2 (-126)

/-- The candidate where it lies within the bound, else the rounded value: a subnormal result is held to 2^-148
(R95). -/
def pick (cand : Word) (x bound : Rat) : Word :=
  let b := if isSub x || isSub (f32Val cand) then pow2 (-148) else bound
  if !(isSpecial 23 cand.toNat) && absR (f32Val cand - x) ≤ b then cand else f32Of x

def bigW (neg : Bool) : Word := if neg then 0xFF7FFFFF else 0x7F7FFFFF

def vexp (w : Word) : VRes :=
  let x := f32Val w
  if 8872 / 100 < x then ⟨bigW false, 0, 0⟩
  else if x < -10397 / 100 then ⟨0, 0, 0⟩
  else ⟨pick (Config.expC w) (expR x) (ulpBound 2 (expR x)), 0, 0⟩

/-- DESIGN CHOICE (notes/assumptions/100): exp and exp2 beyond their range give the largest finite value as a table
entry and not as an overflowing result, so that neither sets NEWT_SAT nor counts. -/
def vexp2 (w : Word) : VRes :=
  let x := f32Val w
  if 128 ≤ x then ⟨bigW false, 0, 0⟩
  else if x ≤ -150 then ⟨0, 0, 0⟩
  else
    let y := expR (x * ln2)
    ⟨pick (Config.exp2C w) y (ulpBound 1 y), 0, 0⟩

def vrecip (w : Word) : VRes :=
  let x := rd w
  if x.v = 0 then ⟨bigW x.neg, 0, 1⟩
  else if (toF32 (.ofRat (1 / x.v))).2 then ⟨bigW x.neg, 1, 0⟩
  else ⟨pick (Config.recipC w) (1 / x.v) (ulpBound 1 (1 / x.v)), 0, 0⟩

/-- DESIGN CHOICE (notes/assumptions/100): rsqrt of -0, which Table 3.8 does not name, is that of +0. -/
def vrsqrt (w : Word) : VRes :=
  let x := rd w
  if x.v < 0 then ⟨0, 0, 1⟩
  else if x.v = 0 then ⟨bigW false, 0, 1⟩
  else
    -- ⌊√(2^2n / x)⌋ / 2^n, by an integer square root
    let n : Int := 64 + (ilog2 x.v + 1) / 2
    let y := ((Nat.sqrt (floorR (pow2 (2 * n) / x.v)).toNat : Nat) : Rat) / pow2 n
    ⟨pick (Config.rsqrtC w) y (ulpBound 1 y), 0, 0⟩

def vlog2 (w : Word) : VRes :=
  let x := f32Val w
  if x ≤ 0 then ⟨bigW true, 0, 1⟩
  else
    let y := log2R x
    let b := if 1 / 2 ≤ x && x ≤ 2 then pow2 (-22) else ulpBound 2 y
    ⟨pick (Config.log2C w) y b, 0, 0⟩

def vtanh (w : Word) : VRes := ⟨pick (Config.tanhC w) (tanhR (f32Val w)) (pow2 (-22)), 0, 0⟩
def vsigmoid (w : Word) : VRes :=
  ⟨pick (Config.sigmoidC w) (sigmoidR (f32Val w)) (pow2 (-22)), 0, 0⟩
def vsilu (w : Word) : VRes :=
  let x := f32Val w
  let y := x * sigmoidR x
  ⟨pick (Config.siluC w) y (ulpOf y + pow2 (-22) * absR x), 0, 0⟩
def vgelu (w : Word) : VRes :=
  let x := f32Val w
  let y := geluR x
  ⟨pick (Config.geluC w) y (2 * ulpOf y + pow2 (-22) * absR x), 0, 0⟩

/-- max(a, b): the larger value; of equal values the first. -/
def vmax (a b : Word) : Word := if f32Val a < f32Val b then b else a

/-- The quotient and the sum that a vector core forms: free values (notes/assumptions/2). -/
def vquot (a b : Word) : Word := finiteW (Config.quotC a b)
def vsum (l : List Word) : Word := finiteW (Config.sumC l)

/-- An FP32 result rounded once to BF16 (R94). -/
def bfOf (w : Word) : Half × Bool :=
  let (r, s) := toBf (rd w)
  (bfEnc r, s)

/-- A BF16 value widened (Table 3.4). -/
def bfWiden (h : Half) : Word := h ++ (0 : Half)

/-! ## IEEE 754 binary16 entries of a bias table (R250) -/

/-- Widened to FP32: NaN as +0, an infinity as ±65,504, counted. -/
def halfRead (h : Nat) : Word × Nat :=
  let neg := tbit h 15
  let e := h / 1024 % 32
  if e = 31 then
    if h % 1024 ≠ 0 then (0, 1) else (f32Enc ⟨neg, if neg then -65504 else 65504⟩, 1)
  else
    let m := decMag 11 (-14) (h % 32768)
    (f32Enc ⟨neg, if neg then -m else m⟩, 0)

end Sys2Proof.Machine
end

