-- ==== Sys2Proof/Machine/Walker.lean ====
section
/-! DEFINITION. The cache page walker's data operations: reading and writing the planes of a range
through its page table entries, quantizing keys and values (R243), and setting a length (R244). -/
namespace Sys2Proof.Machine

/-- Read `n` bytes (within one frame) at an offset of a range; a page that is not local reads as nothing was
written. -/
def rangeRead (s : State) (d rho rn off n : Nat) : List Byte :=
  let a := rangeBase rho rn + off
  let e := l2Of s d (a / frameBytes)
  if !pteV e || pteRemote e then List.replicate n 0 else stackRead s d (pteFid e) (a % frameBytes) n

/-- Write bytes (within one frame) at an offset of a range; a page that is not local takes nothing. -/
def rangeWrite (s : State) (d rho rn off : Nat) (bs : List Byte) : State :=
  let a := rangeBase rho rn + off
  let e := l2Of s d (a / frameBytes)
  if !pteV e || pteRemote e then s else stackWrite s d (pteFid e) (a % frameBytes) bs

/-- Offset of position `p`'s value of head `h` in the range (R239, Tail). -/
def tailPos (p : KvPlan) (pos h : Nat) : Nat :=
  tailOff p + pos % 48 * kvHeads p * 256 + 256 * h

def halves : List Byte → List Half
  | a :: b :: r => (b ++ a) :: halves r
  | _ => []

/-- A BF16 operand as an engine takes it: a NaN or an infinity replaced (R76). -/
def bfSane (h : Half) : Half := if isSpecial 7 h.toNat then bfEnc (bfRead h).1 else h

/-- Replaced operands among BF16 codes. -/
def bfSpecials (l : List Half) : Nat := (l.filter fun h => isSpecial 7 h.toNat).length

/-- The BF16 values of a list of codes, special ones replaced (R76). -/
def bfVals (l : List Half) : List Rat := l.map fun h => (bfRead h).1.v

/-- Element bytes and scale byte of one block of 16, in AMAX mode with t = 1 (R243). -/
def kvBlock (wide : Bool) (xs : List Rat) : List Byte × Byte :=
  if wide then
    let (c, es) := quantBlockQ8 1 xs
    (es.map fun e => BitVec.ofNat 8 e.code, BitVec.ofNat 8 c)
  else
    let (c, es) := quantBlockQ4 1 xs
    (packQ4 (es.map (·.code)), BitVec.ofNat 8 c)

def chunksOf {α : Type} (n : Nat) : Nat → List α → List (List α)
  | 0, _ => []
  | fuel + 1, l => if l.isEmpty then [] else l.take n :: chunksOf n fuel (l.drop n)

/-- Write a position's key row of a head: 8 blocks of 16 dimensions (R243). -/
def writeKey (s : State) (d rho rn : Nat) (p : KvPlan) (pos h : Nat) (key : List Half) : State :=
  let blocks := (chunksOf 16 8 (bfVals key)).map (kvBlock (keyQ8 p))
  let row := if keyQ8 p then 128 else 64
  let s := rangeWrite s d rho rn (planeOff p .ke h + row * pos) (blocks.map (·.1)).flatten
  rangeWrite s d rho rn (planeOff p .ks h + 8 * pos) (blocks.map (·.2))

/-- Write a position's value of a head into TAIL: no engine writes a NaN or an infinity (R76). -/
def writeTail (s : State) (d rho rn : Nat) (p : KvPlan) (pos h : Nat) (value : List Half) : State :=
  rangeWrite s d rho rn (tailPos p pos h) ((value.map fun x => leBytes 2 (bfSane x).toNat).flatten)

/-- Quantize the value block `blk` (16 positions) of a head again from TAIL; positions at or above
`limit` are taken as zero (R243). -/
def quantValueBlock (s : State) (d rho rn : Nat) (p : KvPlan) (h blk limit : Nat) : State :=
  let rows := (List.range 16).map fun k =>
    let pos := 16 * blk + k
    if pos < limit then bfVals (halves (rangeRead s d rho rn (tailPos p pos h) 256))
    else List.replicate 128 0
  let page := blk / 8
  let b := blk % 8
  let eb := if valQ8 p then 16 else 8
  forEach (List.range 128) s fun s dim =>
    let (es, sc) := kvBlock (valQ8 p) (rows.map fun r => r[dim]?.getD 0)
    let s := rangeWrite s d rho rn (planeOff p .ve h + page * (1024 * eb) + (8 * dim + b) * eb) es
    rangeWrite s d rho rn (planeOff p .vs h + page * 1024 + 8 * dim + b) [sc]

/-! ## Page-ins as they begin (R227) -/

/-- Frame-table record of a cache page of a die's context, by its virtual page. -/
def cacheRec (s : State) (d vpn : Nat) : FrameRec :=
  let c := (dieCtx s d).getD 0
  let (lam, slot) := match ctxOf s c with
    | some x =>
      let n := (vpn * frameBytes - 0x800000000000) / 2 ^ x.rho
      (n / 4096, n % 4096)
    | none => (0, 0)
  let layer := match ctxOf s c with
    | some x => ((dieLayers x d)[lam]?).getD 0
    | none => 0
  ⟨c, BitVec.ofNat 32 vpn, 1, slot, layer, false⟩

/-- The RDMA READ of a remote page goes to the server of its pool (R227, R341). -/
def sendPageRead (s : State) (p d vpn index : Nat) : State :=
  match poolOf s p (index / 2 ^ 47) with
  | some q => rdmaBegin s p .read (.pageIn (Fin.ofNat 56 d) (BitVec.ofNat 32 vpn)) q.params.server q.params.qpn
  | none => s

/-- A page-in begins: a frame of the reserve (R227). -/
def startPageIn (s : State) (d vpn : Nat) : State :=
  if (dieOf s d).pageIns.any fun e => e.vpn.toNat = vpn && !e.orphan then s
  else
    match findRemote s d vpn, takeFrame s d (cacheRec s d vpn) with
    | some (p, i), some (f, s) =>
      let s := modDie s d fun x => { x with
        pageIns := x.pageIns ++ [⟨BitVec.ofNat 32 vpn, f, p, i, 0, fieldOf s F.MEM_SPILL_RETRIES, false, false⟩] }
      sendPageRead s p d vpn i
    | _, _ => s

def pageFailed (s : State) (d vpn : Nat) : Bool := (dieOf s d).pageFails.contains vpn

/-! ## Lengths (R244) -/

/-- Pages that a quantization of the value block that holds a position writes. -/
def valuePages (rho rn : Nat) (p : KvPlan) (pos : Nat) : List Nat :=
  (List.range (kvHeads p)).flatMap fun h =>
    [Plane4.ve, .vs].map fun pl => planeVpn rho rn p pl h (pos / planeU p pl)

/-- The record with a new length: a range in progress is discarded, and the length is clamped. -/
def clampLen (w : WRec) (len : Nat) : Nat :=
  if w.len < len then w.len else if len < w.posLast then w.posLast else len

def setLen (s : State) (d rn len : Nat) (w : WRec) : State :=
  let l := clampLen w len
  let s := setWalker s d rn (some { w with pendMask := 0, pendStored := 0, len := l })
  if l ≠ len then dinc s d R.KV_FAULTS_SETLEN_CLAMP else s

/-- Quantize the block that holds the last position of a range again, of every head. -/
def quantLast (s : State) (d rho rn : Nat) (p : KvPlan) (len : Nat) : State :=
  if len % 16 = 0 then s
  else forEach (List.range (kvHeads p)) s fun s h =>
    quantValueBlock s d rho rn p h ((len - 1) / 16) len

/-- Set the length of a range (R244), where the pages of its last block are local. -/
def kvSetLen (s : State) (d rho rn : Nat) (p : KvPlan) (len : Nat) : State :=
  match walkerOf s d rn with
  | none => s
  | some w => quantLast (setLen s d rn len w) d rho rn p (clampLen w len)

/-- A range whose last block waits for its pages: quantized once they are local and no page-out has them, after
page-ins of those that are remote (R227, R231); given up with a page whose page-in failed. -/
def settleRange (s : State) (d rho rn : Nat) (p : KvPlan) : State :=
  let s := modDie s d fun x => { x with requants := x.requants.filter fun k => k ≠ rn }
  match walkerOf s d rn with
  | none => s
  | some w =>
    if w.len % 16 = 0 then s
    else
      let pages := valuePages rho rn p (w.len - 1)
      let away (v : Nat) : Bool := pteRemote (l2Of s d v)
      let held (v : Nat) : Bool := away v || pteOut (l2Of s d v)
      if pages.any (pageFailed s d) then s
      else if pages.any held then
        let s := modDie s d fun x => { x with requants := x.requants ++ [rn] }
        forEach (pages.filter away) s fun s v => startPageIn s d v
      else quantLast s d rho rn p w.len

/-- Every range of a die that waits. -/
def settleDie (s : State) (d : Nat) : State :=
  match (dieCtx s d).bind (ctxOf s) with
  | none => s
  | some x => forEach (dieOf s d).requants s fun s rn =>
      settleRange s d x.rho rn (kvPlanOf x (((dieLayers x d)[rn / 4096]?).getD 0))

/-- The scheduler sets a length over the control channel (R244). -/
def schedSetLen (s : State) (d rho rn : Nat) (p : KvPlan) (len : Nat) : State :=
  match walkerOf s d rn with
  | none => s
  | some w => settleRange (setLen s d rn len w) d rho rn p

/-- Set the length of every range of a slot (R259, R283). -/
def slotSetLen (s : State) (c : Context) (slot len : Nat) : State :=
  forEach (List.range (ctxLayers c)) s fun s layer =>
    schedSetLen s (layerDie c layer) c.rho (rangeNo (layerLam c layer) slot) (kvPlanOf c layer) len

end Sys2Proof.Machine
end

