-- ==== Sys2Proof/Machine/Life.lean ====
section
/-! DEFINITION. The sequence table's shared operations: serving messages with their nonces and tags
(R266 to R269), the end of a sequence (R282, R285), the stop of a context and the halt of a tile
(R62). -/
namespace Sys2Proof.Machine

/-! ## Serving messages -/

def serveType : ServeMsg → Nat
  | .accept .. => 0x81
  | .token _ => 0x82
  | .ended _ => 0x83
  | .cancelAck _ => 0x84
  | .reject .. => 0x85

/-- The body of a message (Table 10.2). -/
def serveBody : ServeMsg → List Byte
  | .accept slot cls clamped seed prompt =>
    beBytes 2 slot ++ beBytes 2 (cls * 256) ++ beBytes 4 clamped.toNat ++ beBytes 8 seed.toNat
      ++ beBytes 4 prompt
  | .token r =>
    beBytes 4 r.no ++ beBytes 4 r.first ++ beBytes 1 r.toks.length ++ beBytes 7 0
      ++ beBytes 8 r.stamp.toNat ++ (r.toks.map (beBytes 4)).flatten
  | .ended e =>
    beBytes 1 e.reason ++ beBytes 3 0 ++ beBytes 4 e.gen ++ beBytes 4 e.prompt
      ++ beBytes 4 e.last.toNat ++ beBytes 8 e.stamp.toNat
  | .cancelAck r => beBytes 1 r
  | .reject r d => beBytes 1 r ++ beBytes 3 0 ++ beBytes 4 d.toNat

/-- A message with the given tag (Table 10.1). -/
def serveBytes (tenant req nonce : Nat) (m : ServeMsg) (tag : Nat) : List Byte :=
  let body := serveBody m
  beBytes 2 0x5253 ++ beBytes 1 1 ++ beBytes 1 (serveType m) ++ beBytes 2 tenant
    ++ beBytes 2 (40 + body.length) ++ beBytes 8 nonce ++ beBytes 8 req ++ beBytes 16 tag ++ body

/-- The first 16 bytes of HMAC-SM3 (R266). -/
def tagOf (key : BitVec 256) (bytes : List Byte) : BitVec 128 :=
  (hmacSm3 key bytes).extractLsb' 128 128

def noTenant : Nat → Option Tenant := fun _ => none
def tenantOf (s : State) (t : Nat) : Option Tenant := kget noTenant s.serving.tenants t
def setTenant (s : State) (t : Nat) (v : Option Tenant) : State :=
  modServing s fun x => { x with tenants := kset noTenant x.tenants t v }

/-- The context may use the second Ethernet port: its image names it, and it was usable at the load (R160). -/
def secondPort (x : Context) : Bool := tbit (namedUnits x.caps).toNat 0 && !(tbit x.disabled.toNat 0)

/-- The port die that serves a die for a context: PD[0] when its column is 0 to 3, PD[1] otherwise, or the other
one while it is down or not enabled (R224, R316); PD[0] alone for a context that does not use the second port. -/
def diePort (s : State) (c d : Nat) : Nat :=
  let p := if d % 8 ≤ 3 then 0 else 1
  if !(((ctxOf s c).map secondPort).getD true) then 0
  else if portUp s p then p else 1 - p

/-- The table still holds the sequence: it is live, or its END record is held (R273). -/
def seqHeld (q : Seq) : Bool := q.st ≠ .ended || q.ended.isSome

/-- The sequence that a tenant's REQ_ID names. -/
def seqOf (s : State) (tenant : Nat) (req : DWord) : Option Seq :=
  s.serving.seqs.find? fun q => q.tenant = tenant && q.req = req && seqHeld q

/-- The port by which a message to a session leaves (R33, R265): the session's, else the other one, the second one
only where `second` allows it. -/
def sendPort (s : State) (x : Session) (second : Bool) : Option Nat :=
  if portUp s x.port.val then some x.port.val
  else if portUp s (1 - x.port.val) && (x.port.val = 1 || second) then some (1 - x.port.val)
  else none

/-- The context of the request, where the table holds it, may use the second port (R160). -/
def mayUseSecond (s : State) (tenant : Nat) (req : DWord) : Bool :=
  (((seqOf s tenant req).bind fun q => ctxOf s q.ctx.val).map secondPort).getD true

/-- The port and the way by which a message to a session leaves; none when no port reaches it. -/
def serveLink (s : State) (x : Session) (second : Bool) : Option Link :=
  (sendPort s x second).bind fun p => wayTo s p .serve x.addr

/-- Send a message under the tenant's next nonce (R267); with no way to the session it is held for RESEND. -/
def sendServe (s : State) (x : Session) (tenant : Nat) (req : DWord) (m : ServeMsg) : State :=
  match tenantOf s tenant with
  | none => s
  | some tn =>
    match serveLink s x (mayUseSecond s tenant req) with
    | none => send s (.heldBack x tenant req)
    | some l =>
      let nonce := tn.send + 1
      let tag := tagOf (tn.key) (serveBytes tenant req.toNat nonce m 0)
      sendLink (setTenant s tenant (some { tn with send := nonce })) l
        (.serve x l tenant req (BitVec.ofNat 64 nonce) m tag)

/-! ## The sequence table -/

/-- The sequence as the table holds it now. -/
def seqNow (s : State) (q : Seq) : Option Seq := s.serving.seqs.find? fun x => x.uid = q.uid

def modThis (s : State) (q : Seq) (f : Seq → Seq) : State :=
  modServing s fun x => { x with seqs := x.seqs.map fun y => if y.uid = q.uid then f y else y }

/-- The sequence holds its slot: live, kept, or with work still in the pipeline (R281, R285). -/
def slotHeld (q : Seq) : Bool := q.st ≠ .ended || q.kept || q.drain

def seqBySlot (s : State) (slot : Nat) : Option Seq :=
  s.serving.seqs.find? fun q => q.slot = some slot && slotHeld q

/-- Work of the sequence's slot is in a wave group, or its commit is on its way. -/
def slotBusy (s : State) (q : Seq) : Bool :=
  s.serving.groups.any (fun g => g.members.any fun m => q.slot = some m.slot)
    || s.serving.commits.any fun c => q.slot = some c.slot

/-- The slot's work is that of a kept sequence whose place this one has taken, and which still drains (R285). -/
def waitsDrain (s : State) (q : Seq) : Bool :=
  s.serving.seqs.any fun y => y.uid ≠ q.uid && q.slot.isSome && y.slot = q.slot && y.drain

/-- A step or chunk of the sequence itself is in a wave group, or its commit is on its way. -/
def stepBusy (s : State) (q : Seq) : Bool := slotBusy s q && !(waitsDrain s q)

/-- Live: any state but ended. -/
def isLive (q : Seq) : Bool := q.st ≠ .ended

/-! ## Parks (R257) -/

def markParked (s : State) (d slot : Nat) (b : Bool) : State :=
  modDie s d fun x => { x with walkers := x.walkers.map fun e =>
    if e.1 % 4096 = slot then (e.1, e.2.map fun w => { w with parked := b }) else e }

def parkedOn (s : State) (d slot : Nat) : Option ParkEnt :=
  (dieOf s d).parkQ.find? fun e => e.slot = slot

/-- End a sequence's park on a die: KV_UNPARK with its outcome (R257, Table 9.17). -/
def unpark (s : State) (d slot outcome : Nat) : State :=
  match parkedOn s d slot with
  | none => s
  | some e =>
    let s := modDie s d fun x => { x with parkQ := x.parkQ.filter fun e => e.slot ≠ slot }
    logPut (markParked s d slot false) 0x0911 sevNotice (.die d)
      (outcome * 2 ^ 18 + d * 2 ^ 12 + slot) ((now s - e.since) / 1000000) e.spilled

/-- The park group of a slot. -/
def parkGroupNo (s : State) (slot : Nat) : Option Nat :=
  allDies.findSome? fun d => (parkedOn s d.val slot).map (·.group)

def unparkAll (s : State) (slot outcome : Nat) : State :=
  forEach allDies s fun s d => unpark s d.val slot outcome

def dropGrants (s : State) (slot : Nat) : State :=
  forEach allDies s fun s d =>
    if (dieOf s d.val).grantJobs.any fun g => g.slot = slot then
      modDie s d.val fun x => { x with grantJobs := x.grantJobs.filter fun g => g.slot ≠ slot }
    else s

/-! ## The end of a sequence -/

/-- Answer a cancel and count the answer (R286): 1 CANCELLED, 2 ALREADY_DONE, 3 UNKNOWN. -/
def answerCancel (s : State) (x : Session) (tenant : Nat) (req : DWord) (result : Nat) : State :=
  let s := sendServe s x tenant req (.cancelAck result)
  match result with
  | 1 => pinc s R.SV_CANCEL_STAT_CANCELLED
  | 2 => pinc s R.SV_CANCEL_STAT_ALREADY_DONE
  | _ => pinc s R.SV_CANCEL_STAT_UNKNOWN

/-- An ended sequence without work in the pipeline leaves the table when its END record is held no more. -/
def purgeSeq (s : State) (q : Seq) : State :=
  modServing s fun x => { x with
    seqs := x.seqs.filter fun y => y.uid ≠ q.uid || seqHeld y || y.drain }

/-- Release the slot, ranges and grants of an ended sequence. -/
def releaseSeq (s : State) (q : Seq) : State :=
  let s := modThis s q fun q => { q with drain := false, kept := false, step := none }
  let s := match q.slot, ctxOf s q.ctx.val with
    | some k, some c => freeSlot (dropGrants s k) c k
    | _, _ => s
  purgeSeq s q

/-- LAST_RECORD of an END (Table 10.2). -/
def lastRecord (q : Seq) : Word := if q.recNo = 0 then 0xFFFFFFFF else BitVec.ofNat 32 (q.recNo - 1)

/-! ## Draft lanes (R300, R302) -/

def noLane : Nat → Option Lane := fun _ => none
def laneOf (s : State) (l : Nat) : Option Lane := kget noLane s.serving.lanes l
def setLane (s : State) (l : Nat) (v : Option Lane) : State :=
  modServing s fun x => { x with lanes := kset noLane x.lanes l v }
def modLane (s : State) (l : Nat) (f : Lane → Lane) : State := setLane s l ((laneOf s l).map f)

/-- The loader fetches a chunk of the unit again: the barrier is closed to new groups (R319). -/
def unitClosed (x : Context) (unit : Nat) : Bool := x.refetch.any fun r => r.1 = unit

/-- The draft unit is being replaced or fetched again: its lanes are held (R321, R319). -/
def draftHeld (s : State) (c : Nat) : Bool :=
  ((ctxOf s c).map fun x =>
    let u := ctxLayers x + 1
    unitClosed x u || (x.replacing.map fun r => decide (r.unit = u)).getD false).getD true

/-- A free lane begins the pass or catch-up at the head of its queue; a catch-up counts from there (R302). -/
def beginLane (s : State) (l : Nat) : State :=
  match laneOf s l with
  | none => s
  | some x =>
    match x.queue.head? with
    | none => s
    | some k =>
      if x.begun || draftHeld s x.ctx.val then s
      else
        let s := modLane s l fun x => { x with begun := true }
        if ((seqBySlot s k).map (·.catchup)).getD false then pinc s R.SP_CATCHUP_COUNT else s

/-- A slot joins the queue of a lane. -/
def joinLane (s : State) (l slot : Nat) : State :=
  beginLane (modLane s l fun x => { x with queue := x.queue ++ [slot] }) l

/-- The queue of a lane changes; work at its head that is no longer there, or is to be begun again, ends. -/
def requeue (s : State) (l : Nat) (again : Bool) (f : List Nat → List Nat) : State :=
  beginLane (modLane s l fun x => { x with
    queue := f x.queue, begun := x.begun && !again && (f x.queue).head? = x.queue.head? }) l

/-- A slot leaves the lanes' queues; a lane that drafts for it abandons the pass (R307). -/
def dropSeat (s : State) (slot : Nat) : State :=
  let ls := s.serving.lanes.filter fun e => (e.2.map fun l => l.queue.contains slot).getD false
  forEach ls s fun s e => requeue s e.1 false fun q => q.filter fun k => k ≠ slot

/-- End a live sequence with a reason (R282); `code` is the event that ended it with a device error. -/
def endSeq (s : State) (q0 : Seq) (reason code : Nat) : State :=
  match seqNow s q0 with
  | none => s
  | some q =>
    if !isLive q then s
    else
      let slot := q.slot.getD 0
      let s := pinc s (R.SEQ_END_COUNT_COUNT.at reason)
      let s :=
        if reason = 6 then
          logPut s 0x0A11 sevError (svcSrc s) (slot + q.ctx.val * 2 ^ 12) q.gen.length code
        else s
      let s := if q.slot.isSome then dropSeat (dropGrants (unparkAll s slot 2) slot) slot else s
      let e : EndRec := ⟨reason, q.gen.length, q.prompt.length, lastRecord q, stamp s⟩
      let keepIt := q.keep && reason ≤ 3
      let busy := slotBusy s q
      let s := modThis s q fun q => { q with
        st := .ended, ended := some e, kept := keepIt, drain := busy, seat := none
        step := none, cancelWait := [], doomed := none, leaving := false }
      let s := sendServe s q.sess q.tenant q.req (.ended e)
      let s := forEach q.cancelWait s fun s x =>
        answerCancel s x q.tenant q.req (if reason = 4 then 1 else 2)
      if keepIt || busy then s else releaseSeq s q

/-! ## Steps and chunks -/

/-- A context with a FULL layer, whose steps need grants (R254). -/
def hasFull (x : Context) : Bool := (List.range (ctxLayers x)).any fun l => kvFull (kvPlanOf x l)

/-- The compute plane changes its power state (R435): RS_STATE with its cause, 0 management, 1 thermal, 2
VIN48 loss, 3 automatic Doze. -/
def planeState (s : State) (new cause : Nat) : State :=
  let old := pget s R.RS_STAT_STATE
  if old = new then s
  else logPut (pset s R.RS_STAT_STATE new) 0x1212 sevNotice (svcSrc s) old new cause

/-- Doze ends: the governors admit waves again, at step 0 (R436). -/
def leaveDoze (s : State) (cause : Nat) : State :=
  planeState (modPlane s fun p => { p with dozing := false, dozeDone := false, autoDozed := false }) 0 cause

/-- An automatic Doze ends at the next ready item (R436). -/
def wakeAuto (s : State) : State :=
  if s.plane.autoDozed && pget s R.RS_STAT_STATE = 1 then leaveDoze s 3 else s

/-- A step becomes ready: it takes the next place in the ready order (R279). -/
def markReady (s : State) (q : Seq) : State :=
  let s := wakeAuto s
  let n := s.serving.readyNo
  let s := modServing s fun x => { x with readyNo := n + 1 }
  modThis s q fun q => { q with step := q.step.map fun st => { st with granted := true, order := n } }

/-- Give a sequence its next step; without a FULL layer it needs no grant. -/
def giveStep (s : State) (q : Seq) (st : SeqStep) : State :=
  let s := modThis s q fun q => { q with step := some st }
  if st.granted || !((ctxOf s q.ctx.val).map hasFull).getD true then markReady s q else s

/-- The prefill chunk that starts at a position (R29). -/
def chunkStep (x : Context) (q : Seq) (first : Nat) : SeqStep :=
  let stop := q.base + q.prompt.length
  let n := min x.image.serve.chunk (stop - first)
  { first := first, npos := n, drafts := [], prefill := true, lastChunk := first + n = stop
    granted := false, noPage := false, order := 0, spec := (0, 0, 0) }

/-- Cache length of a kept sequence: every committed token but the last has its keys and values there
(R275). -/
def keptLen (q : Seq) : Nat := q.base + q.prompt.length + (q.gen.length - 1)

/-- The sequence that took over the slot of a kept one whose last work still runs. -/
def heirOf (s : State) (q : Seq) : Option Seq :=
  s.serving.seqs.find? fun y => y.uid ≠ q.uid && q.slot.isSome && y.slot = q.slot && slotHeld y

/-- The first chunk of a sequence that holds its slot. -/
def firstChunk (s : State) (q : Seq) : State :=
  match ctxOf s q.ctx.val with
  | some x => giveStep s q (chunkStep x q q.base)
  | none => s

/-- The work of an ended sequence has left the pipeline (R285): its slot is released, or, when it is kept, its
length is that of the kept tokens again; a sequence that continues it starts its prefill. -/
def drained (s : State) (q : Seq) : State :=
  let back (s : State) : State :=
    match q.slot, ctxOf s q.ctx.val with
    | some k, some c => slotSetLen s c k (keptLen q)
    | _, _ => s
  match heirOf s q with
  | some y =>
    let s := purgeSeq (modThis (back s) q fun q => { q with drain := false, slot := none }) q
    if isLive y then (if y.cancelWait.isEmpty then firstChunk s y else endSeq s y 4 0)
    else if y.drain then (if y.kept then modThis s y fun y => { y with drain := false } else releaseSeq s y)
    else s
  | none =>
    if q.kept then modThis (back s) q fun q => { q with drain := false } else releaseSeq s q

/-! ## The stop of a context and the halt of a tile (R62) -/

def ctxState (s : State) (c : Nat) : Nat := pget s (R.CTX_STAT_STATE.at c 16)
def setCtxState (s : State) (c v : Nat) : State := pset s (R.CTX_STAT_STATE.at c 16) v

/-- A context that serves, replacing included. -/
def ctxServing (s : State) (c : Nat) : Bool := ctxState s c = 2 || ctxState s c = 3

/-- Remove every wave group, partial and commit of a context; ended sequences are released. -/
def dropGroups (s : State) (c : Nat) : State :=
  let qs := s.serving.seqs.filter fun q => q.ctx.val = c
  let slots := qs.filterMap (·.slot)
  let s := modServing s fun x => { x with
    groups := x.groups.filter fun g => g.ctx.val ≠ c
    partials := x.partials.filter fun p => !(slots.contains p.slot)
    commits := x.commits.filter fun p => !(slots.contains p.slot) }
  forEach (qs.filter (·.drain)) s drained

/-- The context stops serving; its sequences end with END_DEVICE_ERROR (R62). -/
def stopContext (s : State) (c code : Nat) : State :=
  let s := forEach (s.serving.seqs.filter fun q => q.ctx.val = c && isLive q) s
    fun s q => endSeq s q 6 code
  let s := dropGroups s c
  if ctxServing s c then
    modCtx (setCtxState s c 5) c fun x => { x with replacing := none, refetch := [] }
  else s

/-- Halt a tile's program (R62): HALTED, the program counter in TILE_FAULT_PC, a report to the Bowler, no
further command starts, and its context stops serving. -/
def haltTile (s : State) (t : Tid) (pc code : Nat) : State :=
  let s := tset s t R.TILE_STAT_HALTED 1
  let s := tset s t R.TILE_FAULT_PC_PC pc
  let s := modTile s t fun ts => { ts with running := false, qstop := true, wait := none, stall := none }
  let s := post s (.report t .fault)
  match tileCtx s t with
  | some c => stopContext s c code
  | none => s

end Sys2Proof.Machine
end

