-- ==== Sys2Proof/Machine/Gecko.lean ====
section
/-! DEFINITION. The scalar sequencer (Gecko): every instruction of Table 5.6, the releases of its
stalls, and the synchronisation fault (R118 to R133). An instruction's row carries the 64-bit word the
tile executes; it acts when the tile's program runs and nothing stalls it. -/
namespace Sys2Proof.Machine

/-- Opcodes of Table 5.6. -/
def geckoOps : List Nat :=
  [0x00, 0x01, 0x02, 0x03, 0x04, 0x05, 0x06, 0x08, 0x09, 0x0A, 0x0B, 0x10, 0x11, 0x12, 0x13,
   0x20, 0x21, 0x22, 0x23, 0x24, 0x25, 0x26, 0x30, 0x31, 0x32, 0x38, 0x39, 0x3F]

/-- The sequencer issues an instruction: the program runs, no wait and no full queue stalls it, and
the governor admits waves (R41, R128, R436). -/
def canIssue (s : State) (t : Tid) : Bool :=
  let ts := tileOf s t
  ts.running && ts.wait.isNone && ts.stall.isNone && waving s t

/-- Highest branch target (R125). -/
def maxPc : Nat := 0x1FFFF

/-- The checks of R124 that hold whatever the guard: FN listed, unused fields 0, predicate, queue,
branch target, counter and slot numbers in range. -/
def encodingOk (ts : TileState) (w : GWord) : Bool :=
  let fn := w.fn.toNat
  let rd0 : Bool := w.rd = 0
  let ra0 : Bool := w.ra = 0
  let rb0 : Bool := w.rb = 0
  let fn0 : Bool := w.fn = 0
  let imm := w.imm.toNat
  match w.op.toNat with
  | 0x00 => rd0 && ra0 && rb0 && fn0 && imm = 0
  | 0x01 => fn ≤ maxAluFn && imm = 0
  | 0x02 => fn ≤ maxAluFn && fn ≠ 9 && rb0
  | 0x03 => ra0 && rb0 && fn0
  | 0x04 => w.rd.toNat ≤ 7 && fn ≤ 5 && imm = 0
  | 0x05 => w.rd.toNat ≤ 7 && fn ≤ 5 && rb0
  | 0x06 => w.rd.toNat ≤ 7 && w.ra.toNat ≤ 7 && w.rb.toNat ≤ 7 && fn ≤ 4 && imm = 0 && (fn ≠ 4 || rb0)
  | 0x08 => rb0 && fn0
  | 0x09 => rb0 && fn0
  | 0x0A => rd0 && fn0
  | 0x0B => rd0 && fn0
  | 0x10 => rd0 && ra0 && rb0 && fn0 && imm ≤ maxPc
  | 0x11 => ra0 && rb0 && fn0 && imm ≤ maxPc
  | 0x12 => rd0 && rb0 && fn0 && imm = 0
  | 0x13 => rd0 && rb0 && fn0 && imm ≤ maxPc
  | 0x20 => rd0 && rb0 && fn0 && imm ≤ maxProgCtr
  | 0x21 => rd0 && rb0 && imm % 256 ≤ maxProgCtr &&
      ((fn = 0 && imm / 256 = 0) || (fn = 1 && ra0))
  | 0x22 => ra0 && rb0 && fn0 && imm ≤ 255
  | 0x23 => rd0 && rb0 && (fn = 0 || (fn = 1 && imm % 256 = 240))
  | 0x24 => rd0 && rb0 && fn0
  | 0x25 => rd0 && ra0 && rb0 && fn0 && imm < 2 ^ 20 && imm < ts.slotCount
  | 0x26 => rd0 && ra0 && rb0 && fn0 && imm < 2 ^ 20 && imm < ts.slotCount
  | 0x30 => w.rd.toNat ≤ 5 && rb0 && fn0
  | 0x31 => w.rd.toNat ≤ 5 && fn0 && imm < 2 ^ 20 &&
      (if tbit imm 15 then bitsOf imm 12 3 ≠ 0 else bitsOf imm 12 3 = 0 && ra0) &&
      (if tbit imm 19 then bitsOf imm 16 3 ≠ 0 else bitsOf imm 16 3 = 0 && rb0)
  | 0x32 => rd0 && fn0
  | 0x38 => ra0 && rb0 && fn0 && imm ≤ 7
  | 0x39 => rd0 && ra0 && rb0 && fn0 && imm = 0
  | 0x3F => rd0 && ra0 && rb0 && fn0 && imm = 0
  | _ => false

/-- An illegal instruction (R125): ILLEGAL_INSTR, the index in TILE_FAULT_PC, the GECKO_ILLEGAL entry,
and the halt of R62. -/
def illegalInstr (s : State) (t : Tid) (w : GWord) : State :=
  let pc := (tileOf s t).pc.toNat
  let s := raise s t R.TILE_FAULT_ILLEGAL_INSTR
  let s := logPut s 0x0510 sevError (.tile t) pc (wordHi w) w.imm.toNat
  haltTile s t pc 0x0510

/-- The next instruction, after `n` waves. -/
def advance (ts : TileState) (n : Nat) : TileState :=
  { ts with pc := ts.pc + 1, waves := ts.waves + BitVec.ofNat 64 n }

/-- Continue at an instruction index, after `n` waves. -/
def jump (ts : TileState) (target : BitVec 17) (n : Nat) : TileState :=
  { ts with pc := target, waves := ts.waves + BitVec.ofNat 64 n }

/-- Execution of one instruction word of a row: nothing while the sequencer does not issue; an
undefined opcode is illegal whichever row carries it, the opcode of another row is not this row's
event; an illegal encoding is illegal whatever the guard; a false guard takes one wave (R124). -/
def geckoExec (op : Nat) (s : State) (t : Tid) (w : GWord) (body : State → State) : State :=
  if !canIssue s t then s
  else if !(geckoOps.contains w.op.toNat) then illegalInstr s t w
  else if w.op.toNat ≠ op then s
  else if !encodingOk (tileOf s t) w then illegalInstr s t w
  else if !guardOk (tileOf s t) w then modTile s t (advance · 1)
  else body s

/-- Write a scalar register and go on. -/
def writeReg (s : State) (t : Tid) (r : BitVec 5) (v : DWord) (waves : Nat) : State :=
  modTile s t fun ts => advance (sregSet ts r v) waves

def nopEff (t : Tid) (w : GWord) (s : State) : State :=
  geckoExec 0x00 s t w fun s => modTile s t (advance · 1)

def aluEff (t : Tid) (w : GWord) (s : State) : State :=
  geckoExec 0x01 s t w fun s =>
    let ts := tileOf s t
    writeReg s t w.rd (aluFn w.fn.toNat (sregGet ts w.ra) (sregGet ts w.rb)) 1

def aluiEff (t : Tid) (w : GWord) (s : State) : State :=
  geckoExec 0x02 s t w fun s =>
    writeReg s t w.rd (aluFn w.fn.toNat (sregGet (tileOf s t) w.ra) (sextImm w)) 1

def movhiEff (t : Tid) (w : GWord) (s : State) : State :=
  geckoExec 0x03 s t w fun s =>
    writeReg s t w.rd (w.imm ++ (sregGet (tileOf s t) w.rd).setWidth 32) 1

def cmpEff (t : Tid) (w : GWord) (s : State) : State :=
  geckoExec 0x04 s t w fun s => modTile s t fun ts =>
    advance (predSet ts w.rd.toNat (cmpFn w.fn.toNat (sregGet ts w.ra) (sregGet ts w.rb))) 1

def cmpiEff (t : Tid) (w : GWord) (s : State) : State :=
  geckoExec 0x05 s t w fun s => modTile s t fun ts =>
    advance (predSet ts w.rd.toNat (cmpFn w.fn.toNat (sregGet ts w.ra) (sextImm w))) 1

def plogEff (t : Tid) (w : GWord) (s : State) : State :=
  geckoExec 0x06 s t w fun s => modTile s t fun ts =>
    advance (predSet ts w.rd.toNat
      (plogFn w.fn.toNat (predGet ts w.ra.toNat) (predGet ts w.rb.toNat))) 1

/-- A load of `n` bytes, zero-extended (R126, R127). -/
def loadEff (op n : Nat) (t : Tid) (w : GWord) (s : State) : State :=
  geckoExec op s t w fun s =>
    let ts := tileOf s t
    let a := sdataAddr ts w
    if sdataOk a n then writeReg s t w.rd (BitVec.ofNat 64 (mread ts.sdata a n)) 1
    else illegalInstr s t w

/-- A store of the `n` low bytes of s[RB]. -/
def storeEff (op n : Nat) (t : Tid) (w : GWord) (s : State) : State :=
  geckoExec op s t w fun s =>
    let ts := tileOf s t
    let a := sdataAddr ts w
    if sdataOk a n then
      modTile s t fun ts =>
        advance { ts with sdata := mwrite ts.sdata a n (sregGet ts w.rb).toNat } 1
    else illegalInstr s t w

def brEff (t : Tid) (w : GWord) (s : State) : State :=
  geckoExec 0x10 s t w fun s => modTile s t fun ts => jump ts (w.imm.setWidth 17) 2

def jalEff (t : Tid) (w : GWord) (s : State) : State :=
  geckoExec 0x11 s t w fun s => modTile s t fun ts =>
    jump (sregSet ts w.rd (BitVec.ofNat 64 ((ts.pc.toNat + 1) % 2 ^ 17))) (w.imm.setWidth 17) 2

def jrEff (t : Tid) (w : GWord) (s : State) : State :=
  geckoExec 0x12 s t w fun s =>
    let v := sregGet (tileOf s t) w.ra
    if v.toNat ≤ maxPc then modTile s t fun ts => jump ts (v.setWidth 17) 2
    else illegalInstr s t w

/-- DESIGN CHOICE (notes/assumptions/100): with RA = s0, which reads 0 and cannot be written, the new value is -1, so
that the branch is taken. -/
def loopEff (t : Tid) (w : GWord) (s : State) : State :=
  geckoExec 0x13 s t w fun s => modTile s t fun ts =>
    let v := sregGet ts w.ra - 1
    let ts' := sregSet ts w.ra v
    if v ≠ 0 then jump ts' (w.imm.setWidth 17) 2 else advance ts' 1

def csetEff (t : Tid) (w : GWord) (s : State) : State :=
  geckoExec 0x20 s t w fun s =>
    let v := (sregGet (tileOf s t) w.ra).setWidth 32
    modTile (ctrSet s t (immBits w 0 8) v) t (advance · 1)

def cincEff (t : Tid) (w : GWord) (s : State) : State :=
  geckoExec 0x21 s t w fun s =>
    let v : Word := if w.fn = 0 then (sregGet (tileOf s t) w.ra).setWidth 32
      else BitVec.ofNat 32 (immBits w 8 24)
    modTile (ctrInc s t (immBits w 0 8) v) t (advance · 1)

def crdEff (t : Tid) (w : GWord) (s : State) : State :=
  geckoExec 0x22 s t w fun s => writeReg s t w.rd ((ctrGet s t (immBits w 0 8)).setWidth 64) 1

/-- Stall in a wait. -/
def enterWait (s : State) (t : Tid) (kind : WaitKind) (counter : Nat) (target : Word) (slot : Nat) :
    State :=
  modTile s t fun ts => { ts with wait := some ⟨kind, counter, target, slot⟩, stallAt := now s }

def waitEff (t : Tid) (w : GWord) (s : State) : State :=
  geckoExec 0x23 s t w fun s =>
    let n := immBits w 0 8
    let target : Word := (sregGet (tileOf s t) w.ra).setWidth 32 + BitVec.ofNat 32 (immBits w 8 24)
    if waitOk (ctrGet s t n) target then modTile s t (advance · 1)
    else enterWait s t (if w.fn = 1 then .idle else .plain) n target 0

/-- A stalled counter wait whose counter has reached its target proceeds (R128). -/
def waitReleaseEff (t : Tid) (s : State) : State :=
  match (tileOf s t).wait with
  | some ⟨.plain, n, target, _⟩ | some ⟨.idle, n, target, _⟩ =>
    if (tileOf s t).running && waving s t && waitOk (ctrGet s t n) target then
      let waves := wavesNow s t
      modTile s t fun ts => advance { ts with wait := none, waves := waves } 1
    else s
  | _ => s

/-! ## Slots (R129, Table 5.7) -/

/-- The address of a slot's entry. -/
def slotAddr (ts : TileState) (slot : Nat) : Nat := ts.slotBase + 16 * slot

def slotField (ts : TileState) (slot off n : Nat) : Nat := mread ts.sdata (slotAddr ts slot + off) n

/-- Counter and target of a slot wait. -/
def slotTarget (ts : TileState) (slot : Nat) (rd : Bool) : Nat × Word :=
  if rd then
    (slotField ts slot 0 1,
     BitVec.ofNat 32 ((slotField ts slot 8 4 + 1) * slotField ts slot 4 4))
  else
    (slotField ts slot 1 1,
     BitVec.ofNat 32 (slotField ts slot 12 4) + 1 - BitVec.ofNat 32 (slotField ts slot 2 1))

/-- A slot wait that succeeds adds 1 to READS or WRITES. -/
def slotTake (ts : TileState) (slot : Nat) (rd : Bool) : TileState :=
  let off := if rd then 8 else 12
  { ts with sdata := mwrite ts.sdata (slotAddr ts slot + off) 4 (slotField ts slot off 4 + 1) }

def slotWaitEff (op : Nat) (rd : Bool) (t : Tid) (w : GWord) (s : State) : State :=
  geckoExec op s t w fun s =>
    let slot := immBits w 0 20
    let (n, target) := slotTarget (tileOf s t) slot rd
    if waitOk (ctrGet s t n) target then modTile s t fun ts => advance (slotTake ts slot rd) 3
    else enterWait s t (if rd then .slotRead else .slotWrite) n target slot

/-- A stalled slot wait whose counter has reached its target proceeds (R129). -/
def slotWaitReleaseEff (t : Tid) (s : State) : State :=
  match (tileOf s t).wait with
  | some ⟨kind, n, target, slot⟩ =>
    if (kind = .slotRead || kind = .slotWrite) && (tileOf s t).running && waving s t
        && waitOk (ctrGet s t n) target then
      let waves := wavesNow s t
      modTile s t fun ts => advance (slotTake { ts with wait := none, waves := waves } slot (kind = .slotRead)) 3
    else s
  | none => s

/-! ## Signals (R130) -/

/-- A reference that makes a CSIG illegal. -/
def csigBad (s : State) (t : Tid) (c : CRef) : Bool :=
  c.v && (c.rsvd ≠ 0 || maxProgCtr < c.index || waferTiles ≤ c.tile || crefOutside s t c)

def csigEff (t : Tid) (w : GWord) (s : State) : State :=
  geckoExec 0x24 s t w fun s =>
    let c := crefOf ((sregGet (tileOf s t) w.ra).toNat % 2 ^ 32)
    if csigBad s t c then illegalInstr s t w
    else
      let s' :=
        if !c.v then s
        else if !c.remote || c.tile = widx t then ctrInc s t c.index w.imm
        else
          let no := (tileOf s t).sigsSent
          modTile (post s (.signal t (tidOf c.tile) c.index w.imm no)) t
            fun ts => { ts with sigsSent := no + 1 }
      modTile s' t (advance · 1)

/-! ## Issuing commands (R131, R41) -/

/-- The logical vector core that has a command in a queue, as a bit (R48). -/
def newtBit (q : Nat) : BitVec 2 := if q = 1 then 1 else if q = 2 then 2 else 0

/-- Put a command into its queue, or stall on the full queue. -/
def issueCmd (s : State) (t : Tid) (q : Nat) (d : Desc) : State :=
  let ts := tileOf s t
  let c : QCmd := ⟨d, ts.pc, ts.serial, []⟩
  if (queueOf ts q).length < queueDepth q then
    modTile s t fun ts => advance { setQueue ts q (queueOf ts q ++ [c]) with
      serial := ts.serial + 1, newtUse := ts.newtUse ||| newtBit q } 2
  else
    modTile s t fun ts => { ts with
      stall := some (Fin.ofNat 6 q, c), serial := ts.serial + 1, newtUse := ts.newtUse ||| newtBit q
      stallAt := now s }

def issueEff (t : Tid) (w : GWord) (s : State) : State :=
  geckoExec 0x30 s t w fun s =>
    let ts := tileOf s t
    let a := sdataAddr ts w
    if sdataOk a 64 then issueCmd s t w.rd.toNat (descAt ts.sdata a) else illegalInstr s t w

/-- DESIGN CHOICE (notes/assumptions/100): where both replacements name one word, that of s[RB] stands. -/
def issuesEff (t : Tid) (w : GWord) (s : State) : State :=
  geckoExec 0x31 s t w fun s =>
    let ts := tileOf s t
    let imm := w.imm.toNat
    let d := kget zeroDesc ts.store (bitsOf imm 0 12)
    let d := if tbit imm 15 then descSet d (bitsOf imm 12 3) (sregGet ts w.ra) else d
    let d := if tbit imm 19 then descSet d (bitsOf imm 16 3) (sregGet ts w.rb) else d
    issueCmd s t w.rd.toNat d

/-- The stalled issuing instruction proceeds once its queue has an entry free (R41). -/
def queueEntryFreedEff (t : Tid) (s : State) : State :=
  match (tileOf s t).stall with
  | some (q, c) =>
    if (tileOf s t).running && waving s t
        && (queueOf (tileOf s t) q.val).length < queueDepth q.val then
      let waves := wavesNow s t
      modTile s t fun ts => advance { setQueue ts q.val (queueOf ts q.val ++ [c]) with
        stall := none, waves := waves, newtUse := ts.newtUse ||| newtBit q.val } 2
    else s
  | none => s

def stdEff (t : Tid) (w : GWord) (s : State) : State :=
  geckoExec 0x32 s t w fun s =>
    let ts := tileOf s t
    let a := sdataAddr ts w
    if sdataOk a 64 then
      modTile s t fun ts =>
        advance { ts with
          store := kset zeroDesc ts.store (dbits (sregGet ts w.rb) 0 12) (descAt ts.sdata a) } 8
    else illegalInstr s t w

/-- The system words (Table 5.3). -/
def sysWord (s : State) (t : Tid) (i : Nat) : DWord :=
  match i with
  | 0 => BitVec.ofNat 64 (widx t)
  | 1 => BitVec.ofNat 64 (tget s t R.TILE_STAT_SLICE)
  | 2 => BitVec.ofNat 64 (tget s t R.TILE_STAT_CONTEXT)
  | 3 => BitVec.ofNat 64 (tget s t R.QC_STAT_LAYER)
  | 4 => (tileOf s t).waves
  | 5 => stamp s
  | 6 => BitVec.ofNat 64 (tileOf s t).groupAddr
  | _ => BitVec.ofNat 64 (tget s t R.TILE_BOUND_LOG2_BOUND)

def sysrEff (t : Tid) (w : GWord) (s : State) : State :=
  geckoExec 0x38 s t w fun s => writeReg s t w.rd (sysWord s t w.imm.toNat) 1

/-- GDONE is recorded at once, with the commands and signals issued before it (R132). -/
def gdoneEff (t : Tid) (w : GWord) (s : State) : State :=
  geckoExec 0x39 s t w fun s => modTile s t fun ts =>
    advance { ts with gdone := some (ts.serial, ts.sigsSent) } 1

/-- HALT ends the program; queued commands run on and HALTED stays 0 (R133). -/
def haltEff (t : Tid) (w : GWord) (s : State) : State :=
  geckoExec 0x3F s t w fun s => modTile s t fun ts => { ts with running := false }

/-- A bounded wait that is still unsatisfied exceeds the stall bound (R61): SYNC_FAULT, the fault registers, the log entry and
the halt of R62. An idle wait never counts toward the bound (R128). -/
def syncFaultEff (t : Tid) (s : State) : State :=
  match (tileOf s t).wait with
  | some ⟨kind, n, target, slot⟩ =>
    if kind = .idle || !(tileOf s t).running || !(waving s t) || waitOk (ctrGet s t n) target then s
    else
      let pc := (tileOf s t).pc.toNat
      let s := raise s t R.TILE_FAULT_SYNC_FAULT
      let s := setFaultInfo s t n (waitKindNo kind) slot
      let s := logPut s 0x0512 sevError (.tile t) pc (faultInfoWord n (waitKindNo kind) slot)
        target.toNat
      haltTile s t pc 0x0512
  | none => s

/-! ## The meanings -/

def execNop (t : Tid) (w : GWord) (s : State) : Res := .next (nopEff t w s)
def execAlu (t : Tid) (w : GWord) (s : State) : Res := .next (aluEff t w s)
def execAlui (t : Tid) (w : GWord) (s : State) : Res := .next (aluiEff t w s)
def execMovhi (t : Tid) (w : GWord) (s : State) : Res := .next (movhiEff t w s)
def execCmp (t : Tid) (w : GWord) (s : State) : Res := .next (cmpEff t w s)
def execCmpi (t : Tid) (w : GWord) (s : State) : Res := .next (cmpiEff t w s)
def execPlog (t : Tid) (w : GWord) (s : State) : Res := .next (plogEff t w s)
def execLd (t : Tid) (w : GWord) (s : State) : Res := .next (loadEff 0x08 8 t w s)
def execLdw (t : Tid) (w : GWord) (s : State) : Res := .next (loadEff 0x09 4 t w s)
def execSt (t : Tid) (w : GWord) (s : State) : Res := .next (storeEff 0x0A 8 t w s)
def execStw (t : Tid) (w : GWord) (s : State) : Res := .next (storeEff 0x0B 4 t w s)
def execBr (t : Tid) (w : GWord) (s : State) : Res := .next (brEff t w s)
def execJal (t : Tid) (w : GWord) (s : State) : Res := .next (jalEff t w s)
def execJr (t : Tid) (w : GWord) (s : State) : Res := .next (jrEff t w s)
def execLoop (t : Tid) (w : GWord) (s : State) : Res := .next (loopEff t w s)
def execCset (t : Tid) (w : GWord) (s : State) : Res := .next (csetEff t w s)
def execCinc (t : Tid) (w : GWord) (s : State) : Res := .next (cincEff t w s)
def execCrd (t : Tid) (w : GWord) (s : State) : Res := .next (crdEff t w s)
def execWait (t : Tid) (w : GWord) (s : State) : Res := .next (waitEff t w s)
def execWaitRelease (t : Tid) (s : State) : Res := .next (waitReleaseEff t s)
def execCsig (t : Tid) (w : GWord) (s : State) : Res := .next (csigEff t w s)
def execWslr (t : Tid) (w : GWord) (s : State) : Res := .next (slotWaitEff 0x25 true t w s)
def execWslw (t : Tid) (w : GWord) (s : State) : Res := .next (slotWaitEff 0x26 false t w s)
def execSlotWaitRelease (t : Tid) (s : State) : Res := .next (slotWaitReleaseEff t s)
def execIssue (t : Tid) (w : GWord) (s : State) : Res := .next (issueEff t w s)
def execIssues (t : Tid) (w : GWord) (s : State) : Res := .next (issuesEff t w s)
def execQueueEntryFreed (t : Tid) (s : State) : Res := .next (queueEntryFreedEff t s)
def execStd (t : Tid) (w : GWord) (s : State) : Res := .next (stdEff t w s)
def execSysr (t : Tid) (w : GWord) (s : State) : Res := .next (sysrEff t w s)
def execGdone (t : Tid) (w : GWord) (s : State) : Res := .next (gdoneEff t w s)
def execHalt (t : Tid) (w : GWord) (s : State) : Res := .next (haltEff t w s)
def execSyncFault (t : Tid) (s : State) : Res := .next (syncFaultEff t s)

end Sys2Proof.Machine
end

