-- ==== Sys2Proof/Machine/Stack.lean ====
section
/-! DEFINITION. Stack errors and channels: corrected words (R220), swaps to spare channels and the
retirement of channels (R222), uncorrectable lines by page type (Table 8.4), the refetch of weight
chunks (R319), and the patrol scrub (R221). -/
namespace Sys2Proof.Machine

/-! ## Wave groups and tiles of a die -/

/-- The layer of a tile's layer group. -/
def tileLayer (s : State) (t : Tid) : Nat := tget s t R.QC_STAT_LAYER

/-- A tile of a context's main pipeline: placed for a layer. -/
def placed (c : Context) (t : Tid) : Bool := c.place.any fun e => e.2 = t

/-- The wave group inside a tile's layer group. -/
def groupAt (s : State) (t : Tid) : Option WGroup :=
  match tileCtx s t with
  | none => none
  | some c => s.serving.groups.find? fun g =>
      g.ctx.val = c && g.inside && g.layer = tileLayer s t && ((ctxOf s c).map (placed · t)).getD false

/-- The tiles of a die that serve its context. -/
def dieTilesOf (s : State) (d : Nat) : List Tid :=
  if h : d < 56 then (tilesOfDie ⟨d, h⟩).filter fun t => (tileCtx s t).isSome else []

/-- The Bowler sends every serving tile of the die an invalidating ORDER (R211). -/
def invalidateAll (s : State) (d : Nat) (vpn : Nat) : State :=
  forEach (dieTilesOf s d) s fun s t => post s (.order t (.invalidate (BitVec.ofNat 32 vpn)))

def modGroup (s : State) (id : Nat) (f : WGroup → WGroup) : State :=
  modServing s fun x => { x with groups := x.groups.map fun g => if g.id = id then f g else g }

/-! ## Ends decided by a Bowler (R455) -/

/-- The sequence table learns that a sequence must end with END_DEVICE_ERROR: at the commit of its step
in flight, or at once when it has none. -/
def doomSeq (s : State) (q : Seq) (code : Nat) : State :=
  if !isLive q then s
  else if stepBusy s q then
    modThis s q fun q => { q with doomed := some (q.doomed.getD code) }
  else endSeq s q 6 code

def doomSlot (s : State) (slot code : Nat) : State :=
  match seqBySlot s slot with
  | some q => doomSeq s q code
  | none => s

/-- Every member of a wave group. -/
def doomGroup (s : State) (g : WGroup) (code : Nat) : State :=
  forEach g.members s fun s m => doomSlot s m.slot code

/-! ## Weight refetch (R319) -/

/-- A VERSION bit is that of the pending version, whose weights a replacement writes (R316). -/
def newVersion (s : State) (c : Nat) (version : Bool) : Bool :=
  version ≠ tbit (pget s (R.CTX_VERSION_VERSION.at c 16)) 0

/-- The image whose weights a frame holds: VERSION selects it (R316). -/
def versionImage (s : State) (c : Nat) (x : Context) (version : Bool) : Image :=
  if newVersion s c version then (x.replacing.map (·.image)).getD x.image else x.image

def noTemplate : Template where
  tiles := 0
  layers := 0
  groups := []
  slices := []
  regions := []
  routes := []
  weights := []
  mcast := []
  state := []
  proj := []

/-- The chosen placement template of a context in an image: both images of a replacement hold it. -/
def templateOf (x : Context) (img : Image) : Template := (img.templates[x.pair]?).getD noTemplate

/-- Rows of the vocabulary projection on the die at a place of `n` dies: first row and count (R162). -/
def projRows (t : Template) (n i : Nat) : Nat × Nat :=
  let rows := ((t.proj.find? fun e => e.1 = n).map (·.2)).getD []
  ((rows.take i).foldl (· + ·) 0, (rows[i]?).getD 0)

/-- Those of a context's running image. -/
def projSlice (x : Context) (i : Nat) : Nat × Nat := projRows (templateOf x x.image) x.dies.length i

/-- Set the bits of tokens in the slot's repetition set, and in its presence set, on every die of the context
(R292). -/
def addBits (s : State) (x : Context) (slot : Nat) (rep pres : List Nat) : State :=
  forEach x.dies.zipIdx s fun s e =>
    let sl := projSlice x e.2
    let b := bitmapsOf s e.1 slot
    setBitmaps s e.1 slot (withBits sl.1 sl.2 rep b.1, withBits sl.1 sl.2 pres b.2)

/-- The presence set of a request that continues a kept one starts empty (R292). -/
def clearPresence (s : State) (x : Context) (slot : Nat) : State :=
  forEach x.dies s fun s d => setBitmaps s d slot ((bitmapsOf s d slot).1, 0)

/-- The WEIGHTMAP row of a virtual page of a die. -/
def weightPageOf (x : Context) (img : Image) (d vpn : Nat) : Option WeightPage :=
  (templateOf x img).weights.find? fun w => x.dies[w.diePos]? = some d && w.vpn.toNat = vpn

/-- Close the barrier of the unit and ask the loader for the chunk that holds a weight page. A page of
the unit that a replacement is about to write is left (R327). -/
def startRefetch (s : State) (d vpn : Nat) (version : Bool) : State :=
  match dieCtx s d with
  | none => s
  | some c =>
    match ctxOf s c with
    | none => s
    | some x =>
      match weightPageOf x (versionImage s c x version) d vpn with
      | none => s
      | some w =>
        let old := (x.replacing.map fun r => r.writing && r.unit = w.unit && !(newVersion s c version)).getD false
        let job := (w.unit, version, w.container, w.chunk)
        if old || x.refetch.contains job then s
        else
          let s := modCtx s c fun x => { x with refetch := x.refetch ++ [job] }
          let s := pinc s (R.WT_REFETCH_REFETCHES.at c 16)
          logPut s 0x0C14 sevWarning (svcSrc s) (c * 2 ^ 30 + d * 2 ^ 12) w.container.toNat w.chunk.toNat

/-! ## Channels (R222) -/

/-- Code of a channel in the log and the repair map. -/
def chItem (col ch : Nat) : Nat := 16 * col + ch

/-- The spare channel, 0 to 15, that is next. -/
def nextSpare (s : State) (d : Nat) : Nat := 16 - dget s d R.STK_STAT_SPARES_LEFT

/-- Put a spare channel in a channel's place: CHANNEL_SPARED in the repair map, SPARED in STK_COL. -/
def spareIn (s : State) (d col ch spare : Nat) : State :=
  let s := rmAdd s 0x06 d (chItem col ch) spare
  let f := R.STK_COL_SPARED.at col
  dset s d f (setBit (dget s d f) ch)

/-- Take a spare for a channel and write CH_SPARED (Table 8.26). -/
def takeSpare (s : State) (d col ch hard : Nat) : State :=
  let left := dget s d R.STK_STAT_SPARES_LEFT - 1
  logPut (dset s d R.STK_STAT_SPARES_LEFT left) 0x0812 sevWarning (.die d) (col * 2 ^ 24 + ch) hard left

/-- A frame's record lies on a channel. -/
def onChannel (f col ch : Nat) : Bool := fidCol f = col && fidFrame f % 10 = ch

/-- Move a page to a free frame of the die, a state page as zeros: the entry is rewritten, and the old frame, which
leaves with its channel, is held by its record until a round has dropped the old translation (R211); false when the
pool has no frame. -/
def relocate (s : State) (d f : Nat) (r : FrameRec) : Bool × State :=
  match takeFrame s d r with
  | none => (false, s)
  | some (nf, s) =>
    let e := l2Of s d r.vpn.toNat
    let s := if r.type = 2 then modDie s d fun x => { x with mem := clearFrame x.mem nf } else s
    if pteV e && !pteRemote e && pteFid e = f then
      let s := setL2 s d r.vpn.toNat (mkPte (pteWr e) (ptePin e) (pteType e) nf)
      (true, queueReturn s d ⟨f, r.vpn, none, none⟩)
    else (true, setFrame s d f none)

/-- GRANT falls by the granted frames that the pool can no longer supply (Table 9.6). -/
def trimGrants (s : State) (d : Nat) : State :=
  let lack := sumRes s d + sumGrant s d - poolSize s d
  if lack = 0 then s
  else
    modDie s d fun x => { x with walkers := (x.walkers.foldl (fun (a : Nat × List (Nat × Option WRec)) e =>
      match e.2 with
      | some w =>
        let k := min a.1 w.grant
        (a.1 - k, a.2 ++ [(e.1, some { w with grant := w.grant - k })])
      | none => (a.1, a.2 ++ [e])) (lack, [])).2 }

/-- Retire a channel with no spare left (R222): its frames leave the capacity, weight frames move and
are fetched again, cache frames end their sequences, state frames move as zeros. -/
def retireChannel (s : State) (d col ch : Nat) : State :=
  let held := (dieOf s d).frames.filterMap fun e =>
    if onChannel e.1 col ch then e.2.map fun r => (e.1, r) else none
  let weights := held.filter fun e => e.2.type = 0
  let caches := held.filter fun e => e.2.type = 1
  let states := held.filter fun e => e.2.type = 2
  let f := R.STK_COL_RETIRED.at col
  let s := dset s d f (setBit (dget s d f) ch)
  let s := dset s d R.STK_STAT_RETIRED (dget s d R.STK_STAT_RETIRED + 1)
  let s := rmAdd s 0x07 d (chItem col ch) 0
  let (moved, s) := (weights ++ states).foldl (fun (a : List Nat × State) e =>
    let (ok, s) := relocate a.2 d e.1 e.2
    let s := if ok && e.2.type = 0 then startRefetch s d e.2.vpn.toNat e.2.version else s
    (if ok then a.1 ++ [e.2.type] else a.1, s)) ([], s)
  let ok : Bool := moved.length = weights.length + states.length
  let kept := (moved.filter fun ty => ty = 0).length
  let s := logPut s 0x0813 sevError (.die d) (col * 2 ^ 24 + ch) kept
    (weights.length - kept + caches.length + states.length)
  let s := forEach caches s fun s e => doomSlot s e.2.slot 0x0813
  let s := trimGrants s d
  if ok then s
  else
    match dieCtx s d with
    | some c => stopContext s c 0x0813
    | none => s

/-- A channel passes the hourly limit: a soft swap starts, or the channel is retired (R222). -/
def startSoftSwap (s : State) (d col ch : Nat) : State :=
  if (dieOf s d).swap.isSome || chRetired s d col ch then s
  else if dget s d R.STK_STAT_SPARES_LEFT = 0 then retireChannel s d col ch
  else
    let s := takeSpare s d col ch 0
    let s := dset s d R.STK_STAT_SWAP_BUSY 1
    modDie s d fun x => { x with swap := some (col, ch) }

def hourNs : Nat := 3600000000000

/-- The hour's corrected words of a channel: hour, limit in force and count in one number. -/
def hourPack (hour limit n : Nat) : Nat := (hour * 2 ^ 16 + limit) * 2 ^ 32 + n

/-- A corrected stack word (R220): STK_CORR and the channel's count of the hour. -/
def stkCorrected (s : State) (d col frame : Nat) : State :=
  let ch := frame % 10
  let key := col * 10 + ch
  let v := kget (fun _ => 0) (dieOf s d).chHour key
  let hour := now s / hourNs
  let v := if v / 2 ^ 48 = hour && v ≠ 0 then v + 1 else hourPack hour (fieldOf s F.MEM_CH_CORR_LIMIT) 1
  let s := dinc s d R.STK_CORR_COUNT
  let s := modDie s d fun x => { x with chHour := kset (fun _ => 0) x.chHour key v }
  if bitsOf v 32 16 < v % 2 ^ 32 then startSoftSwap s d col ch else s

/-! ## Uncorrectable lines (R220, Table 8.4) -/

/-- The word of STK_ECC_ADDR for a line. -/
def eccWord (col frame line : Nat) : Nat := 2 ^ 31 + col * 2 ^ 24 + frame * 2 ^ 8 + line

/-- The controller returns the line flagged: STK_ECC_ADDR, STK_UNCORR, and the line awaits the Bowler.
A wave group that read flagged weights has its step discarded (R319). -/
def stkUncorrRead (s : State) (d col frame line reader : Nat) : State :=
  let key := fid col frame * 256 + line
  let s := dset s d R.STK_ECC_ADDR_VALID 1
  let s := dset s d R.STK_ECC_ADDR_COLUMN col
  let s := dset s d R.STK_ECC_ADDR_FRAME frame
  let s := dset s d R.STK_ECC_ADDR_LINE line
  let s := dinc s d R.STK_UNCORR_COUNT
  let s := modDie s d fun x => { x with badLines := kput x.badLines key reader }
  match frameOf s d (fid col frame) with
  | some r =>
    if r.type = 0 && reader ≠ 0 then modGroup s (reader - 1) fun g => { g with discarded := true } else s
  | none => s

/-- The mirror frame of a table frame (R208). -/
def mirrorOf (f : Nat) : Nat := fid ((fidCol f + 12) % 24) (fidFrame f)

/-- Key of a lost table line: 32 entries of a level-2 table by page, of a level-1 table (LAYER of its record
is 1) above 2^40, of the frame table (LAYER 2), which no translation reads, above 2^41. -/
def lostKey (r : FrameRec) (line : Nat) : Nat :=
  (if r.layer = 0 then 0 else 2 ^ (39 + r.layer)) + (r.vpn.toNat + line * 32) / 32

/-- The Bowler acts on an uncorrectable line by the type of its page, and writes STK_UNCORR. -/
def actUncorr (s : State) (d col frame line : Nat) : State :=
  let f := fid col frame
  let key := f * 256 + line
  let bad := (dieOf s d).badLines
  let reader := (((bad.find? fun e => e.1 = key).map (·.2)).getD 0)
  let s := modDie s d fun x => { x with badLines := x.badLines.filter fun e => e.1 ≠ key }
  let rec? := frameOf s d f
  let ty := (rec?.map (·.type)).getD 0
  let slot := match rec? with
    | some r => if r.type = 1 then r.slot else 0xFFFFFFFF
    | none => 0xFFFFFFFF
  let s := logPut s 0x0811 sevError (.die d) (eccWord col frame line) ty slot
  match rec? with
  | none =>
    -- a free frame: rewritten with zeros and read back; a second failure retires it
    let s := modDie s d fun x => { x with mem := clearFrame x.mem f }
    if (dieOf s d).retired.any fun e => e.1 = f then
      rmAdd (modDie s d fun x => { x with retired := kput x.retired f 1 }) 0x08 d col frame
    else modDie s d fun x => { x with retired := kput x.retired f 0 }
  | some r =>
    match r.type with
    | 0 => startRefetch s d r.vpn.toNat r.version
    | 1 => doomSlot s r.slot 0x0811
    | 2 =>
      match s.serving.groups.find? fun g => reader ≠ 0 && g.id = reader - 1 with
      | some g => doomGroup s g 0x0811
      | none => modDie s d fun x => { x with mem := clearFrame x.mem f }
    | _ =>
      if bad.any fun e => e.1 = mirrorOf f * 256 + line then
        modDie s d fun x => { x with tableLost := kput x.tableLost (lostKey r line) 1 }
      else s

/-- Bowler's act on a line; a line that no read has flagged yet is one the controller reports now. -/
def stackUncorrEff (d : Fin 56) (col : Fin 24) (frame : BitVec 16) (line : Byte) (s : State) : State :=
  if !(dieUp s d.val) || colFrames ≤ frame.toNat then s
  else
    let key := fid col.val frame.toNat * 256 + line.toNat
    let s := if (dieOf s d.val).badLines.any fun e => e.1 = key then s
      else stkUncorrRead s d.val col.val frame.toNat line.toNat 0
    actUncorr s d.val col.val frame.toNat line.toNat

/-- The soft copy ends: the spare replaces the channel, with nothing lost, and counts from zero (R222). -/
def softSwapEff (d : Fin 56) (s : State) : State :=
  match (dieOf s d.val).swap with
  | none => s
  | some (col, ch) =>
    let s := modDie s d.val fun x => { x with
      swap := none, chHour := kset (fun _ => 0) x.chHour (col * 10 + ch) 0 }
    let s := dset s d.val R.STK_STAT_SWAP_BUSY 0
    spareIn s d.val col ch (nextSpare s d.val - 1)

/-- The patrol scrub reads every word, corrects and classifies; a complete pass restarts SCRUB_AGE
(R221). All lines of a batch are flagged before any is acted on. -/
def patrolEff (d : Fin 56) (errs : List MemErr) (complete : Bool) (s : State) : State :=
  if !(dieUp s d.val) then s
  else
    let s := forEach errs s fun s e =>
      match e with
      | .stkUncorr col frame line => stkUncorrRead s d.val col.val frame.toNat line.toNat 0
      | .stkCorr col frame _ => stkCorrected s d.val col.val frame.toNat
      | _ => s
    let s := forEach errs s fun s e =>
      match e with
      | .stkUncorr col frame line => actUncorr s d.val col.val frame.toNat line.toNat
      | _ => s
    if complete then modDie s d.val fun x => { x with scrubAt := now s } else s

def execStackUncorrectable (d : Fin 56) (col : Fin 24) (frame : BitVec 16) (line : Byte) (s : State) : Res :=
  .next (stackUncorrEff d col frame line s)
def execSoftSwapComplete (d : Fin 56) (s : State) : Res := .next (softSwapEff d s)
def execStackPatrolScrub (d : Fin 56) (errs : List MemErr) (complete : Bool) (s : State) : Res :=
  .next (patrolEff d errs complete s)

end Sys2Proof.Machine
end

