-- ==== Sys2Proof/Machine/Engine.lean ====
section
/-! DEFINITION. Command queues and engines: how a command starts (R41, R134), faults (R136), completes
(R135) and reads memory through the tile buffer (R57) and the translation unit (R212). -/
namespace Sys2Proof.Machine

/-! ## Command faults (R136, Table 5.9) -/

/-- The descriptor of a queued command, and what the fault log needs of it. -/
def cmdFault (s : State) (t : Tid) (q : Nat) (c : QCmd) (reason word : Nat) : State :=
  let s := raise s t R.TILE_FAULT_CMD_FAULT
  let s := logPut s 0x0511 sevError (.tile t)
    (descOp c.desc * 2 ^ 24 + q * 2 ^ 21 + reason * 2 ^ 17 + c.pc.toNat) word
    ((descWord c.desc word).toNat % 2 ^ 32)
  haltTile s t c.pc.toNat 0x0511

/-- A check of a command: whether it is broken, the reason and the offending word. -/
abbrev Check := Bool × Nat × Nat

def reasonUndefined : Nat := 2
def reasonReserved : Nat := 3
def reasonRange : Nat := 4
def reasonGroup : Nat := 5
def reasonScale : Nat := 7
def reasonTrans : Nat := 8
def reasonOrder : Nat := 9
def reasonCref : Nat := 10
def reasonRegion : Nat := 11
def reasonSlot : Nat := 12

/-- The broken check of the lowest reason code; of one code the first. -/
def firstBroken (l : List Check) : Option (Nat × Nat) :=
  (List.range 13).findSome? fun r => (l.find? fun c => c.1 && c.2.1 = r).map fun c => c.2

/-- Checks of a counter reference in word `word` (R121, Tables 5.9 and 6.8). -/
def crefChecks (s : State) (t : Tid) (c : CRef) (word : Nat) : List Check :=
  [(c.v && c.rsvd ≠ 0, reasonReserved, word),
   (c.v && (maxProgCtr < c.index || waferTiles ≤ c.tile || crefOutside s t c), reasonCref, word)]

/-- Checks of the header (Table 5.8); `flagMask` has the flag bits the command uses. -/
def headerChecks (s : State) (t : Tid) (d : Desc) (flagMask : Nat) : List Check :=
  let l : List Check :=
    [(dbits d.w0 32 16 ≠ 0, reasonReserved, 0),
     (descFlags d % 256 ≠ Nat.land (descFlags d) flagMask, reasonReserved, 0)]
  l ++ crefChecks s t (descCref d) 0

/-- Words that must be 0. -/
def zeroWords (d : Desc) (l : List Nat) : List Check :=
  l.map fun i => (descWord d i ≠ 0, reasonReserved, i)

/-- Bits of a word from `lo` on that must be 0. -/
def zeroFrom (d : Desc) (word lo : Nat) : Check :=
  ((descWord d word).toNat / 2 ^ lo ≠ 0, reasonReserved, word)

/-- A line range lies inside the tile buffer. -/
def linesOk (first n : Nat) : Bool := first + n ≤ bufLines

/-! ## Starting a command (R41) -/

/-- Commands in flight of a queue. -/
def inFlightOf (ts : TileState) (q : Nat) : List InFlight := ts.inflight.filter fun f => f.queue.val = q

/-- The engine takes the command at the head of its queue now (Table 2.3, R49, R138). -/
def engineFree (s : State) (t : Tid) (q op grp : Nat) : Bool :=
  let ts := tileOf s t
  let fl := inFlightOf ts q
  match q with
  | 0 =>
    if op = 0x12 then fl.all fun f => f.op.toNat = 0x13
    else if op = 0x13 then fl.all fun f => f.op.toNat = 0x12 && f.grp ≠ grp
    else fl.isEmpty
  | 3 => fl.all fun f => f.grp ≠ grp
  | 4 => (fl.map (·.serial)).eraseDups.length < 32
  | 5 => fl.length < 4
  | _ =>
    if tget s t R.TILE_STAT_NEWT_FENCE = 0 then fl.isEmpty
    else
      (inFlightOf ts 1).isEmpty && (inFlightOf ts 2).isEmpty
        && ((ts.newtTurn == (q == 2)) || (queueOf ts (3 - q)).isEmpty)

/-- The group or region that a command of a queue uses. -/
def cmdGrp (q : Nat) (d : Desc) : Nat :=
  if q = 0 then descFlags d % 8 else if q = 3 then descFlags d % 4 else 0

/-- The state with the head of a queue taken, `rest` staying. -/
def takeHead (s : State) (t : Tid) (q : Nat) (rest : List QCmd) : State := modTile s t fun ts => setQueue ts q rest

/-- Start the command at the head of a queue: nothing while the tile starts no command or the engine is
busy; a command of a wrong queue or unknown opcode faults whichever row of the queue it meets; the
opcode of another row is that row's event. `body` acts with the command taken from its queue. -/
def startCmd (op q : Nat) (s : State) (t : Tid) (body : QCmd → State → State) : State :=
  let ts := tileOf s t
  match queueOf ts q with
  | [] => s
  | c :: rest =>
    let o := descOp c.desc
    if ts.qstop || !(waving s t) || !(engineFree s t q o (cmdGrp q c.desc)) then s
    else
      let taken := takeHead s t q rest
      let known := [1, 2, 4, 5, 6].contains (o / 16)
      if !(opQueueOk o q) then cmdFault taken t q c (if known then 1 else reasonUndefined) 0
      else if !(opDefined o) then cmdFault taken t q c reasonUndefined 0
      else if o ≠ op then s
      else body c taken

/-- Run a command after its checks: the broken check of the lowest code faults it. -/
def checked (s : State) (t : Tid) (q : Nat) (c : QCmd) (l : List Check) (ok : State → State) : State :=
  match firstBroken l with
  | some (r, w) => cmdFault s t q c r w
  | none => ok s

/-- The results are in place; the completion is still to come (COMMAND_COMPLETE). -/
def launch (s : State) (t : Tid) (q : Nat) (c : QCmd) (amount : Nat) : State :=
  let cr := descCref c.desc
  let f : InFlight :=
    { queue := Fin.ofNat 6 q, op := BitVec.ofNat 8 (descOp c.desc), serial := c.serial
      cref := BitVec.ofNat 32 (dbits c.desc.w0 0 32), amount := BitVec.ofNat 32 amount
      homes := if cr.v then [crefTile t cr] else [], src := 0, srcAmount := 0
      grp := cmdGrp q c.desc, members := [], held := none, dest := none, left := 0 }
  let turn (b : Bool) : Bool := if q = 1 then true else if q = 2 then false else b
  modTile s t fun ts => { ts with inflight := ts.inflight ++ [f], newtTurn := turn ts.newtTurn }

/-- Put a command back at the head of its queue: it holds its place, with the recoverable outcomes it has met
(R212). -/
def holdPlace (s : State) (t : Tid) (q : Nat) (c : QCmd) (met : List (Nat × Nat)) : State :=
  modTile s t fun ts => setQueue ts q ({ c with met := met } :: queueOf ts q)

/-! ## Completion (R135, R58, R191) -/

/-- Post the increments of a completed command: its counter at every home (and 249 for a multicast),
and its source counter at the issuing tile, whatever tile the reference names (R152). -/
def postDone (s : State) (t : Tid) (f : InFlight) : State :=
  let c := crefOf f.cref.toNat
  let s := if c.v then forEach f.homes s fun s h => ctrInc s h c.index f.amount else s
  let s := forEach f.members s fun s h => ctrInc s h 249 1
  let sc := crefOf f.src.toNat
  if sc.v then ctrInc s t sc.index f.srcAmount else s

/-- A command in flight completes: not a streaming command that its empty buffers hold (R44), nor a move that has
lines on the mesh (R152). -/
def commandCompleteEff (t : Tid) (i : Nat) (s : State) : State :=
  match (tileOf s t).inflight[i]? with
  | none => s
  | some f =>
    if f.held.isSome || f.left ≠ 0 || !(waving s t) then s
    else postDone (modTile s t fun ts => { ts with inflight := ts.inflight.eraseIdx i }) t f

def execCommandComplete (t : Tid) (i : Nat) (s : State) : Res := .next (commandCompleteEff t i s)

/-! ## Buffer words (R57) -/

/-- A single-bit error on a read: corrected, counted, and to be written back. -/
def bufCorrected (s : State) (t : Tid) (line word : Nat) : State :=
  let s := tinc s t R.TILE_ECC_CORR_CORR_COUNT
  modTile s t fun ts =>
    if ts.writeBacks.contains (line, word) then ts
    else { ts with writeBacks := ts.writeBacks ++ [(line, word)] }

/-- The tile is of a slice wanted next, ahead of the sweep order (R449). -/
def wantSlice (ts : TileState) (k : SliceId) : TileState :=
  if ts.wanted.contains k then ts else { ts with wanted := ts.wanted ++ [k] }

/-- Bytes that an uncorrectable word or line reads as from now on: free values (notes/assumptions/2). -/
def freeBytes (s : State) (n : Nat) : List Byte :=
  (List.range n).map fun i => Config.freeByte (freeNo s * 2 ^ 32 + i)

/-- A word is read flagged uncorrectable: ECC_UNCORR, TILE_ECC_ADDR, and the Bowler is signalled; the same line
twice within an hour starts its buffer-part slice (R449). -/
def flagWord (s : State) (t : Tid) (line word : Nat) : State :=
  let s := raise s t R.TILE_FAULT_ECC_UNCORR
  let s := tset s t R.TILE_ECC_ADDR_VALID 1
  let s := tset s t R.TILE_ECC_ADDR_WORD word
  let s := tset s t R.TILE_ECC_ADDR_LINE line
  let s := post s (.report t .fault)
  let twice := (tileOf s t).badHistory.any fun e => e.1 = line && now s ≤ e.2 + hourNs
  modTile s t fun ts =>
    let ts := if twice then wantSlice ts ⟨1, line / 1536⟩ else ts
    { ts with
      bufNotices := ts.bufNotices ++ [(line, word)]
      badHistory := (ts.badHistory.filter fun e => e.1 ≠ line && now s ≤ e.2 + hourNs)
        ++ [(line, now s)] }

/-- A double-bit error: the word is lost until it is written again, and this read of it is flagged. -/
def bufUncorrectable (s : State) (t : Tid) (line word : Nat) : State :=
  let bs := freeBytes s 8
  let s := modTile (bumpFree s) t fun ts => { ts with
    buf := mstore ts.buf (line * lineBytes + 8 * word) bs
    bufBad := (ts.bufBad.filter fun e => e ≠ (line, word)) ++ [(line, word)] }
  flagWord s t line word

/-- The id of the wave group in the tile's layer group plus 1; 0 with none inside. -/
def readerOf (s : State) (t : Tid) : Nat := ((groupAt s t).map fun g => g.id + 1).getD 0

/-- A memory error met by a command of a tile. -/
def applyErr (s : State) (t : Tid) : MemErr → State
  | .bufSingle line word =>
    if line.toNat < bufLines then bufCorrected s t line.toNat word.toNat else s
  | .bufDouble line word =>
    if line.toNat < bufLines then bufUncorrectable s t line.toNat word.toNat else s
  | .stkCorr col frame _ => stkCorrected s t.d.val col.val frame.toNat
  | .stkUncorr col frame line =>
    let bs := freeBytes s lineBytes
    let s := stackWrite s t.d.val (fid col.val frame.toNat) (line.toNat * lineBytes) bs
    stkUncorrRead (bumpFree s) t.d.val col.val frame.toNat line.toNat (readerOf s t)

def applyErrs (s : State) (t : Tid) (errs : List MemErr) : State := forEach errs s fun s e => applyErr s t e

/-- A byte range of the tile buffer: first byte and length. -/
abbrev Span := Nat × Nat

/-- A word of the buffer lies in one of the ranges. -/
def inSpans (l : List Span) (line word : Nat) : Bool :=
  let a := line * lineBytes + 8 * word
  l.any fun x => x.1 < a + 8 && a < x.1 + x.2

/-- A command reads ranges of the buffer and meets the listed errors: those of the words it reads, with a word
that an earlier read found uncorrectable flagged again (R57), and those of stack lines. -/
def bufReads (s : State) (t : Tid) (spans : List Span) (errs : List MemErr) : State :=
  let again := (tileOf s t).bufBad.filter fun e => inSpans spans e.1 e.2
  let s := forEach again s fun s e => flagWord s t e.1 e.2
  applyErrs s t (errs.filter fun e =>
    match e with
    | .bufSingle l w => inSpans spans l.toNat w.toNat && !(again.contains (l.toNat, w.toNat))
    | .bufDouble l w => inSpans spans l.toNat w.toNat && !(again.contains (l.toNat, w.toNat))
    | _ => true)

/-! ## Translation of a command's pages (R212) -/

/-- What translating a list of pages met: the first unrecoverable outcome (kind and address), and the
recoverable ones (kind and page). -/
structure TrSum where
  fault : Option (Nat × Nat)
  waits : List (Nat × Nat)
  deriving DecidableEq

/-- Translate addresses in order, one for each page, up to the first unrecoverable outcome. A page whose
page-in failed delivers its lines flagged (PAGEIN_FAIL): recorded, not a fault of the command; a write to
it meets WRITE_PROT, for only cache pages are remote (R224, R240). -/
def transAll (t : Tid) (write : Bool) (req : Nat) : List Nat → State → TrSum × State
  | [], s => (⟨none, []⟩, s)
  | va :: r, s =>
    match translate s t (va / frameBytes) write req with
    | (.ok _, s) => transAll t write req r s
    | (.fail k, s) =>
      if k = 3 && write && req ≠ reqWalker && pageFailed s t.d.val (va / frameBytes) then (⟨some (2, va), []⟩, s)
      else if k = 3 && pageFailed s t.d.val (va / frameBytes) then
        transAll t write req r (transFault s t 5 req va)
      else if trRecoverable k then
        let (x, s) := transAll t write req r s
        (⟨x.fault, (k, va / frameBytes) :: x.waits⟩, s)
      else (⟨some (k, va), []⟩, s)

/-- Recoverable outcomes: counted when first met, and page-ins begun (R212). -/
def pauseFor (s : State) (t : Tid) (met waits : List (Nat × Nat)) : State :=
  forEach waits s fun s w =>
    let s := if met.contains w then s else countPause s t w.1
    if w.1 = 3 then startPageIn s t.d.val w.2 else s

/-- The frame an access to a page uses after translation. -/
def frameFor (s : State) (t : Tid) (vpn : Nat) : Option Nat :=
  match tlbFind (tileOf s t) vpn with
  | some e => some (pteFid e.pte)
  | none =>
    let e := l2Of s t.d.val vpn
    if pteV e && !pteRemote e then some (pteFid e) else none

/-- Bytes of virtual memory within one page; a page that was not delivered gives flagged bytes, which
are free values. -/
def vaBytes (s : State) (t : Tid) (va n : Nat) : List Byte :=
  match frameFor s t (va / frameBytes) with
  | some f => stackRead s t.d.val f (va % frameBytes) n
  | none => (List.range n).map fun i => Config.freeByte (freeNo s * 2 ^ 64 + va + i)

/-- The first address of each page of a byte range. -/
def pagesOf (va n : Nat) : List Nat :=
  if n = 0 then []
  else va :: (List.range ((va + n - 1) / frameBytes - va / frameBytes)).map fun i =>
    (va / frameBytes + 1 + i) * frameBytes

/-- An unrecoverable outcome faults the command with reason 0x08; a lost table stops the context
(R212). -/
def cmdTransFault (s : State) (t : Tid) (q : Nat) (c : QCmd) (req word : Nat) (f : Nat × Nat) : State :=
  cmdFault (transFault s t f.1 req f.2) t q c reasonTrans word

end Sys2Proof.Machine
end

