-- ==== Sys2Proof/Machine/Mesh.lean ====
section
/-! DEFINITION. The neighbour mesh (R187 to R191): crossings at their consumers, the routes of a transfer, the
trees of multicast groups, the lines that a tile's mesh interface stages for its outputs, and their delivery.
notes/assumptions/101. -/
namespace Sys2Proof.Machine

/-! ## Crossings (R183, R184) -/

def noCrossing : Nat → Crossing := fun _ => ⟨[], [], false, none, none⟩
def crossingOf (s : State) (t : Tid) (d : Dir) : Crossing :=
  kget noCrossing (tileOf s t).crossings (dirNum d)
def setCrossing (s : State) (t : Tid) (d : Dir) (c : Crossing) : State :=
  modTile s t fun ts => { ts with crossings := kset noCrossing ts.crossings (dirNum d) c }

def crossingDepth : Nat := 16
/-- Entries a streaming crossing holds at one step with no stretch, and consumer waves from sending to reading
(R184, R185). -/
def crossingRest : Nat := 6

/-- Entries of the buffer that lines occupy or that lines on their way have taken. -/
def occupied (c : Crossing) : Nat := c.flight.length + c.buf.length

/-- The producer holds a credit for the crossing. -/
def hasCredit (c : Crossing) : Bool := occupied c < crossingDepth

/-- Consumer waves of a flight time in ps at a step. -/
def flightWaves (ps step : Nat) : Nat := cdiv (ps * stepRate step) 1000000

/-- The stage count CAL[s] of a tile's incoming crossing, as calibrated: what is left of the 6 waves after the
flight (R184). -/
def stageCount (s : State) (t : Tid) (d : Dir) (step : Nat) : Nat :=
  crossingRest - flightWaves (kget (fun _ => 0) (tileOf s t).flights (dirNum d)) step

/-- The step of a tile's mesh domain: the effective step while the rail is on, else step 0 (R189). -/
def meshStep (s : State) (t : Tid) : Nat := if railOn s t then effStep s t else 0

/-- The edge die that a direction of a rim tile leads to (Table 1.2): 58, 59 port dies, 56, 57 service dies. -/
def edgeDie (t : Tid) (d : Dir) : Option Nat :=
  let col := t.d.val % 8
  let row := t.d.val / 8
  match d with
  | .w => if waferX t = 0 && 2 ≤ row && row ≤ 4 then some 58 else none
  | .e => if waferX t = 47 && 2 ≤ row && row ≤ 4 then some 59 else none
  | .n => if waferY t = 0 && 2 ≤ col && col ≤ 5 then some 56 else none
  | .s => if waferY t = 27 && 2 ≤ col && col ≤ 5 then some 57 else none

/-! ## Routes (R190) -/

def noTurns : Nat → List Nat := fun _ => []

/-- The output towards a tile: east or west first, then north or south; none at the tile itself. -/
def dirTo (t : Tid) (w : Nat) : Option Dir :=
  let u := tidOf w
  if waferX t < waferX u then some .e
  else if waferX u < waferX t then some .w
  else if waferY t < waferY u then some .s
  else if waferY u < waferY t then some .n
  else none

/-- The tiles at which a transfer turns, as the source's route table has them, and its destination. -/
def routeTo (ts : TileState) (w : Nat) : List Nat := (kget noTurns ts.routes w).filter (· < waferTiles) ++ [w]

/-- What is ahead of a line at a tile. -/
def aheadOf (t : Tid) (via : List Nat) : List Nat := via.dropWhile (· = widx t)

/-! ## Multicast (R191) -/

/-- Group 0 holds every powered tile: from the north-west tile east along row 0, and south from there. -/
def allGroup (s : State) (t : Tid) : McEntry :=
  ⟨(if waferY t = 0 && waferX t ≠ 47 then [.e] else []) ++ (if waferY t = 27 then [] else [.s]), railOn s t⟩

/-- A tile's entry for a group. -/
def mcEntry (s : State) (t : Tid) (g : Nat) : Option McEntry :=
  if g = 0 then some (allGroup s t) else ((tileOf s t).mcast.find? fun e => e.1 = g).map (·.2)

/-- Tiles that keep a copy, level by level of the tree from the given tiles on. -/
def treeMembers (s : State) (g : Nat) : Nat → List Tid → List Tid
  | 0, _ => []
  | fuel + 1, l =>
    if l.isEmpty then []
    else
      let keep := l.filter fun t => ((mcEntry s t g).map (·.copy)).getD false
      let next := (l.map fun t => (((mcEntry s t g).map (·.outs)).getD []).filterMap (neighbour t)).flatten
      keep ++ treeMembers s g fuel next

/-- Levels of a tree: the longest way over the wafer. -/
def treeDepth : Nat := 80

/-- Members of a group as its tree from the source tile reaches them; none where the source's table lacks the
group. -/
def mcastOf (s : State) (t : Tid) (g : Nat) : Option (List Tid) :=
  (mcEntry s t g).map fun _ => (treeMembers s g treeDepth [t]).eraseDups

/-! ## Lines on their way -/

/-- A line that an edge die sends, by the tiles at which it turns, its last tile at the end. -/
def edgeLine (way : List Nat) : Packet := ⟨none, 0, 0, way.filter (· < waferTiles), none, []⟩

/-- Number of a tile's own input port at its router. -/
def ownPort : Nat := 4

/-- A line commits at a tile that takes it in, and counts towards its transfer (R152, R191). What a line of an edge
die carries is the effect of its own transfer's command. -/
def commitLine (s : State) (t : Tid) (p : Packet) : State :=
  match p.src with
  | none => s
  | some src =>
    if railOn s t then
      let s := modTile s t fun ts => bufWrite ts (p.line * lineBytes) p.data
      modTile s src fun ts => { ts with inflight := ts.inflight.map fun f =>
        if f.serial = p.serial && f.dest = some t then { f with left := f.left - 1 } else f }
    else s

/-- A line joins those that the tile's mesh interface holds for an output. -/
def stageOut (s : State) (t : Tid) (port : Nat) (d : Dir) (p : Packet) : State :=
  modTile s t fun ts => { ts with staging := ts.staging ++ [(dirNum d, port, p)] }

/-- The router of a tile takes a line from an input port: a copy for the tile, and one for every output of its
way. -/
def routeLine (s : State) (t : Tid) (port : Nat) (p : Packet) : State :=
  match p.group with
  | some g =>
    match mcEntry s t g with
    | none => s
    | some e =>
      let s := if e.copy then commitLine s t p else s
      forEach e.outs s fun s d => stageOut s t port d p
  | none =>
    let via := aheadOf t p.via
    match via.head?.bind (dirTo t) with
    | none => commitLine s t p
    | some d => stageOut s t port d { p with via := via }

/-- Lines of other tiles that a mesh interface stages (Table 2.2: 768 KiB). -/
def stagingLines : Nat := 3072

/-- The interface has room for a line that passes through. -/
def stagingRoom (ts : TileState) : Bool := (ts.staging.filter fun e => e.2.1 ≠ ownPort).length < stagingLines

/-- The lines of transfers that some tiles began are dropped wherever they are, and their credits return: the
program that began them is gone (R452, R435). -/
def dropLines (s : State) (ts : List Tid) : State :=
  let keep (p : Packet) : Bool := !((p.src.map ts.contains).getD false)
  forEach (s.tiles.map (·.1)) s fun s k =>
    modTile s ⟨Fin.ofNat 56 (k / 24), Fin.ofNat 24 k⟩ fun x => { x with
      staging := x.staging.filter fun e => keep e.2.2
      crossings := x.crossings.foldl (fun m e =>
        kset noCrossing m e.1 { e.2 with
          flight := e.2.flight.filter keep, buf := e.2.buf.filter fun b => keep b.2 }) [] }

end Sys2Proof.Machine
end

