-- ==== Sys2Proof/Machine/Pace.lean ====
section
/-! DEFINITION. Pace steps: caps and the effective step (R178, R179), stretches (R181), governors (R176)
and the forecast (R35, R383, R384). -/
namespace Sys2Proof.Machine

/-! ## Steps and caps (Tables 7.1 and 7.2) -/

/-- Tile voltage of a step in mV. -/
def stepMv (n : Nat) : Nat :=
  ([550, 565, 580, 595, 610, 625, 640, 655, 670, 685, 700, 720, 760, 800, 840, 880][n]?).getD 880

/-- CAL_MAX of a tile's incoming crossing from a direction. -/
def calMax (s : State) (t : Tid) (d : Dir) : Nat :=
  match d with
  | .n => tget s t R.CROSS_CAL_CAL_MAX_N
  | .e => tget s t R.CROSS_CAL_CAL_MAX_E
  | .s => tget s t R.CROSS_CAL_CAL_MAX_S
  | .w => tget s t R.CROSS_CAL_CAL_MAX_W

def allDirs : List Dir := [.n, .e, .s, .w]

/-- The crossing calibration limit: the tile's incoming crossings, and its neighbours' from it. -/
def calCap (s : State) (t : Tid) : Nat :=
  allDirs.foldl (fun a d =>
    let own := min a (calMax s t d)
    match neighbour t d with
    | some n => min own (calMax s n (dirOpp d))
    | none => own) 15

/-- The caps that take effect at once. -/
def protCap (s : State) (t : Tid) : Nat :=
  let c := (tileOf s t).caps
  min (min (min c.phase c.turnOn) (min c.budget c.sensor)) (min (min c.thermal c.flow) (calCap s t))

/-- The lowest cap in force (Table 7.2). -/
def capOf (s : State) (t : Tid) : Nat := min (fieldOf s F.PC_MAX_STEP) (protCap s t)

/-- The requested step (R178). -/
def requestedStep (s : State) (t : Tid) : Nat :=
  if tget s t R.PACE_STEP_OVERRIDE = 1 then tget s t R.PACE_STEP_OVR_STEP else tget s t R.PACE_STEP_TARGET

def wantedStep (s : State) (t : Tid) : Nat := min (requestedStep s t) (capOf s t)

/-- Change the effective step; counter 250 counts each change (R179, R194). -/
def setStep (s : State) (t : Tid) (n : Nat) : State :=
  if effStep s t = n then s else ctrInc (tset s t R.PACE_STEP_EFFECTIVE n) t 250 1

/-- A protection cut takes effect at once, and the tile has its ORDER; a raise above the cap is abandoned
(R36, Table 14.4). -/
def enforceCaps (s : State) (t : Tid) : State :=
  let cap := protCap s t
  let above : Bool := (((tileOf s t).raise.map fun r => decide (cap < r)).getD false)
  let s := if above then modTile s t fun ts => { ts with raise := none, settled := true } else s
  if cap < effStep s t then post (setStep s t cap) (.order t (.paceCut (Fin.ofNat 16 cap))) else s

/-- Change a tile's caps and enforce them. -/
def withCaps (s : State) (t : Tid) (f : Caps → Caps) : State :=
  enforceCaps (modTile s t fun ts => { ts with caps := f ts.caps }) t

/-- At a barrier, or for a lane tile between passes: no wave group is inside the tile's layer group. -/
def atBarrier (s : State) (t : Tid) : Bool := (groupAt s t).isNone

/-- A forecast, override or management change: a cut at the barrier; a raise first ramps the voltage, and
switches the rate at a barrier after it settled, against the caps then in force (R179, Table 7.8). A free
spare stays at step 0 (R65). -/
def paceStepChangeEff (t : Tid) (s : State) : State :=
  if !(railOn s t) || roleOf s t = roleSpare then s
  else
    let ts := tileOf s t
    let want := wantedStep s t
    let eff := effStep s t
    if want < eff then
      if atBarrier s t then
        setStep (modTile s t fun ts => { ts with raise := none, settled := true }) t want
      else s
    else if want = eff then
      if ts.raise.isSome then modTile s t fun ts => { ts with raise := none, settled := true } else s
    else
      match ts.raise with
      | none => modTile s t fun ts => { ts with raise := some want, settled := false }
      | some r =>
        if ts.settled && !ts.stretch && atBarrier s t then
          setStep (modTile s t fun ts => { ts with raise := none }) t (min r want)
        else s

/-- The mitten reports the voltage of a raise settled; a stretch holds the raise back (R181). -/
def mittenSettledEff (t : Tid) (s : State) : State :=
  let ts := tileOf s t
  if ts.raise.isSome && !ts.settled && !ts.stretch then modTile s t fun ts => { ts with settled := true } else s

/-! ## Stretch and governor -/

/-- A rail below this voltage, in mV, stops the tile's handshakes (R175). -/
def lowMv : Nat := 500

/-- The droop detector fires when the rail falls more than 30 mV below the step's voltage; while it fires, a further
report tells how deep the rail now is. Below 0.50 V the tile's handshakes stop, with no state lost (R175, R181). -/
def stretchBeginEff (t : Tid) (droopMv : Nat) (s : State) : State :=
  if !(railOn s t) || droopMv ≤ 30 then s
  else
    let low : Bool := stepMv (effStep s t) < lowMv + droopMv
    if (tileOf s t).stretch then modTile s t fun ts => { ts with lowRail := low }
    else tinc (modTile s t fun ts => { ts with stretch := true, lowRail := low }) t R.STRETCH_STAT_EVENTS

/-- Release: the waves completed inside the stretch count in KWAVES, in units of 1,024, and the tile's summary goes
to its Bowler (Table 7.5). -/
def stretchEndEff (t : Tid) (waves : Nat) (s : State) : State :=
  let ts := tileOf s t
  if !ts.stretch then s
  else
    let n := ts.stretchRem + waves
    let s := modTile s t fun ts => { ts with stretch := false, lowRail := false, stretchRem := n % 1024 }
    let s := if n < 1024 then s else tinc s t R.STRETCH_STAT_KWAVES (n / 1024)
    post s (.report t .summary)

/-- The Bowler trims the governor's oscillator by the rate it measured against the timebase (R176). -/
def governorTrimEff (t : Tid) (rate : BitVec 12) (s : State) : State :=
  if !(railOn s t) then s
  else
    modTile s t fun ts => { ts with
      ringTrim := ts.ringTrim + ((stepRate (effStep s t) : Int) - (rate.toNat : Int)) }

/-! ## The forecast (R383, R384) -/

/-- A 12-bit two's complement temperature in °C. -/
def tempC (v : Nat) : Rat := (((BitVec.ofNat 12 v).toInt : Rat)) / 8

/-- Mean outlet rise of the two circuits. -/
def outletRise (s : State) : Rat :=
  let rise (i : Nat) : Rat :=
    tempC (pget s (R.TH_COOL_TEMP_OUTLET.at i)) - tempC (pget s (R.TH_COOL_TEMP_INLET.at i))
  (rise 0 + rise 1) / 2

/-- Forecast power of a tile at a step, in W. -/
def tilePower (d t e step : Nat) : Rat :=
  let v : Rat := (stepMv step : Rat) / 720
  (e : Rat) / 1000 * v * v + (Config.leak d t step : Rat) / 1000

/-- Forecast hot spot of a tile in °C. -/
def forecastHot (s : State) (d : Nat) (pdie p : Rat) : Rat :=
  tempC (pget s R.TH_COOL_TEMP_INLET) + outletRise s / 2 + (Config.thetaD d : Rat) / 1000 * pdie
    + (Config.thetaT d : Rat) / 1000 * p

/-- The highest step, from the cap down, that keeps the hot spot below the limit less the margin. -/
def coolStep (s : State) (d t e : Nat) (pdie : Rat) : Nat → Nat
  | 0 => 0
  | n + 1 =>
    if forecastHot s d pdie (tilePower d t e (n + 1))
        ≤ ((fieldOf s F.TH_LIMIT_C : Int) - (fieldOf s F.TH_MARGIN_C : Int) : Int) then n + 1
    else coolStep s d t e pdie n

/-- Sum of the forecast powers for targets by tile: tile, energy, target. -/
def sumPower (d : Nat) (l : List (Nat × Nat × Nat)) : Rat :=
  l.foldl (fun a x => a + tilePower d x.1 x.2.1 x.2.2) 0

/-- Lower the highest target (of equal ones the lowest tile's) until the die's power fits B_c (R357). -/
def fitBudget (d : Nat) (bc : Rat) : Nat → List (Nat × Nat × Nat) → List (Nat × Nat × Nat)
  | 0, l => l
  | fuel + 1, l =>
    let top := l.foldl (fun a x => max a x.2.2) 0
    if sumPower d l ≤ bc || top = 0 then l
    else
      match l.find? fun x => x.2.2 = top with
      | some y =>
        fitBudget d bc fuel (l.map fun x => if x.1 = y.1 then (x.1, x.2.1, top - 1) else x)
      | none => l

/-- Saturate a measure into a field of `w` bits. -/
def satW (w : Nat) (x : Rat) : Nat := min (floorR x).toNat (2 ^ w - 1)

def execPaceStepChange (t : Tid) (s : State) : Res := .next (paceStepChangeEff t s)
def execMittenSettled (t : Tid) (s : State) : Res := .next (mittenSettledEff t s)
def execStretchBegin (t : Tid) (droopMv : Nat) (s : State) : Res := .next (stretchBeginEff t droopMv s)
def execStretchEnd (t : Tid) (waves : Nat) (s : State) : Res := .next (stretchEndEff t waves s)
def execGovernorTrim (t : Tid) (rate : BitVec 12) (s : State) : Res := .next (governorTrimEff t rate s)

end Sys2Proof.Machine
end

