-- ==== Sys2Proof/Machine/Crossing.lean ====
section
/-! DEFINITION. Crossings between neighbouring tiles at work (R183, R185, R190): the router grants an output to a
staged line that holds a credit, lines enter the elastic buffer of 16 entries and leave it, and skid episodes. A
crossing is held at its consumer, by the direction it comes from. -/
namespace Sys2Proof.Machine

/-- A crossing-loopback slice runs on the crossing (R446). -/
def looped (s : State) (t : Tid) (d : Dir) : Bool :=
  ((tileOf s t).slice.map fun x => x.id.kind.val = 3 && x.id.index = dirNum d).getD false

/-- The first wave without credit: an episode of the producer begins (R185, counter 251). -/
def beginSkid (s : State) (p : Tid) : State :=
  let s := ctrInc (tinc s p R.SKID_STAT_EPISODES) p 251 1
  modDie s p.d.val fun x => { x with
    skids := kset (fun _ => 0) x.skids p.t.val (kget (fun _ => 0) x.skids p.t.val + 1) }

/-- The waves that a producer has stalled for credit since a time count in STALL_KWAVES. -/
def addStall (s : State) (p : Tid) (since : Nat) : State :=
  let waves := (now s - since) * stepRate (meshStep s p) / 1000
  let n := (tileOf s p).skidRem + waves
  let s := modTile s p fun ts => { ts with skidRem := n % 1024 }
  if n < 1024 then s else tinc s p R.SKID_STAT_STALL_KWAVES (n / 1024)

/-- The end of an episode: the producer's summary goes to its Bowler (Table 7.5). -/
def endSkid (s : State) (p : Tid) : State := post s (.report p .summary)

/-- The next input port after `k` in round-robin order that holds a line for an output (R190). -/
def nextPort (l : List (Nat × Nat × Packet)) (d : Dir) (k : Nat) : Option Nat :=
  ((List.range 5).map fun i => (k + 1 + i) % 5).find? fun q => l.any fun e => e.1 = dirNum d && e.2.1 = q

/-- The oldest line that an input port holds for an output, and the lines without it. -/
def takeStaged (l : List (Nat × Nat × Packet)) (d : Dir) (q : Nat) :
    Option (Packet × List (Nat × Nat × Packet)) :=
  (l.find? fun e => e.1 = dirNum d && e.2.1 = q).map fun e => (e.2.2, l.erase e)

/-- A line waits for an output of the tile. -/
def hasStaged (s : State) (t : Tid) (d : Dir) : Bool := (tileOf s t).staging.any fun e => e.1 = dirNum d

/-- A line waits for a slice to end on its crossing (R446). -/
def waitLoop (s : State) (n : Tid) (i : Dir) (c : Crossing) : State :=
  if c.held.isSome then s else dinc (setCrossing s n i { c with held := some (now s) }) n.d.val R.SK_WAITS_WAITS

/-- The edge die beside the rim tile `t` sends a line in when it holds a credit; it has no episodes of its own
(R183). -/
def edgeSend (t : Tid) (d : Dir) (way : List Nat) (s : State) : State :=
  let c := crossingOf s t d
  if (edgeDie t d).isNone || !(dieOn s t.d.val) then s
  else if looped s t d then waitLoop s t d c
  else if hasCredit c then setCrossing s t d { c with flight := c.flight ++ [edgeLine way] }
  else s

/-- The router of tile `t` grants the output of a direction: the next staged line crosses when a credit is held;
without one it waits, and the first such wave begins a skid. A line held by a slice counts as a slice wait and not
as a skid. The last line sent ends an episode (R185, R190). -/
def lineSendEff (t : Tid) (d : Dir) (edge : List Nat) (s : State) : State :=
  match neighbour t d with
  | none => edgeSend t d edge s
  | some n =>
    if !(dieOn s t.d.val) || !(dieOn s n.d.val) then s
    else
      let i := dirOpp d
      let c := crossingOf s n i
      let ts := tileOf s t
      match nextPort ts.staging d (kget (fun _ => 4) ts.granted (dirNum d)) with
      | none => s
      | some q =>
        match takeStaged ts.staging d q with
        | none => s
        | some (p, rest) =>
          if looped s n i then
            waitLoop s n i c
          else if hasCredit c then
            let s := modTile s t fun ts => { ts with
              staging := rest, granted := kset (fun _ => 4) ts.granted (dirNum d) q }
            let c := { c with flight := c.flight ++ [p] }
            if c.skid && !(hasStaged s t d) then endSkid (setCrossing s n i { c with skid := false }) t
            else setCrossing s n i c
          else if c.skid then
            if c.stall.isSome then s else setCrossing s n i { c with stall := some (now s) }
          else beginSkid (setCrossing s n i { c with skid := true, stall := some (now s) }) t

/-- Largest skew of an incoming crossing. -/
def skewFld (d : Dir) : Fld :=
  match d with
  | .n => R.CROSS_SKEW_SKEW_N
  | .e => R.CROSS_SKEW_SKEW_E
  | .s => R.CROSS_SKEW_SKEW_S
  | .w => R.CROSS_SKEW_SKEW_W

/-- A line enters the buffer with the stage count of the consumer's step in force. -/
def lineArriveEff (t : Tid) (d : Dir) (s : State) : State :=
  let c := crossingOf s t d
  match c.flight with
  | [] => s
  | p :: rest =>
    if !(dieOn s t.d.val) then s
    else
      let c := { c with flight := rest, buf := c.buf ++ [(stageCount s t d (meshStep s t), p)] }
      rmax (setCrossing s t d c) t.d.val t.t.val (skewFld d) (occupied c - crossingRest)

/-- The oldest entry leaves, into the tile or towards its next output, and its credit returns: a stalled producer
goes on, and an episode ends at 6 entries or less. An entry that finds no room in the mesh interface stays. -/
def creditReturnEff (t : Tid) (d : Dir) (s : State) : State :=
  let c := crossingOf s t d
  match c.buf with
  | [] => s
  | e :: rest =>
    if !(dieOn s t.d.val) || !(stagingRoom (tileOf s t)) then s
    else
      let c := { c with buf := rest }
      let past : Bool := c.skid && occupied c ≤ crossingRest
      let s := setCrossing s t d { c with stall := none, skid := c.skid && !past }
      let s := match neighbour t d with
        | none => s
        | some p =>
          let s := match c.stall with
            | some since => addStall s p since
            | none => s
          if past then endSkid s p else s
      routeLine s t (dirNum d) e.2

/-- When the slice on a crossing ends, the lines that waited go on. -/
def releaseLooped (s : State) (t : Tid) (d : Dir) : State :=
  let c := crossingOf s t d
  if c.held.isNone then s else setCrossing s t d { c with held := none }

/-- A second of skid episodes: one MESH_SKID_RATE entry above the limit (R201). -/
def skidRateEff (d : Fin 56) (s : State) : State :=
  let l := (dieOf s d.val).skids
  let total := l.foldl (fun a e => a + e.2) 0
  let worst := l.foldl (fun (a : Nat × Nat) e => if a.2 < e.2 then e else a) (0, 0)
  let s := if l.isEmpty then s else modDie s d.val fun x => { x with skids := [] }
  if fieldOf s F.MESH_SKID_LOG < total then
    logPut s 0x0713 sevNotice (.die d.val) total (widx ⟨d, Fin.ofNat 24 worst.1⟩) worst.2
  else s

def execCrossingLineSend (t : Tid) (dir : Dir) (edge : List Nat) (s : State) : Res :=
  .next (lineSendEff t dir edge s)
def execCrossingLineArrive (t : Tid) (dir : Dir) (s : State) : Res := .next (lineArriveEff t dir s)
def execCrossingCreditReturn (t : Tid) (dir : Dir) (s : State) : Res := .next (creditReturnEff t dir s)
def execSkidRateSecond (d : Fin 56) (s : State) : Res := .next (skidRateEff d s)

end Sys2Proof.Machine
end

