-- ==== Sys2Proof/Machine/Dma.lean ====
section
/-! DEFINITION. The commands of the DMA engine: DMA.MOVE (R151, R152, R190, R191, R213, R214), DMA.FILL and
DMA.COPY (R55, R153). -/
namespace Sys2Proof.Machine

/-- Where one line lies: in a tile's buffer, in a frame, or in a page that no page-in delivered. -/
inductive Loc where
  | buf (t : Tid) (line : Nat)
  | stk (frame line : Nat)
  | gone (va : Nat)
  deriving DecidableEq, Repr

/-- The bytes of a line; a line that was not delivered is flagged, and reads as free bytes. -/
def locRead (s : State) (d : Nat) : Loc → List Byte
  | .buf t line => bufLine (tileOf s t) line
  | .stk f line => stackRead s d f (line * lineBytes) lineBytes
  | .gone va => (List.range lineBytes).map fun i => Config.freeByte (freeNo s * 2 ^ 64 + va + i)

def locWrite (s : State) (d : Nat) (bs : List Byte) : Loc → State
  | .buf t line => modTile s t fun ts => bufWrite ts (line * lineBytes) bs
  | .stk f line => stackWrite s d f (line * lineBytes) bs
  | .gone _ => s

/-- Checks of a DMA address in word `word` of a move of `n` lines; a source may not be of kind 1 or 3. -/
def daddrChecks (s : State) (t : Tid) (d : Desc) (word n : Nat) (src : Bool) : List Check :=
  let w := descWord d word
  let range (l : Nat) : Check := (n ≠ 0 && !(linesOk l n), reasonRange, word)
  let own : List Check :=
    match daddrOf w with
    | .own l => [range l]
    | .other l k =>
      [(src, reasonRange, word), range l,
       (n ≠ 0 && (waferTiles ≤ k || (k ≠ widx t && (tileCtx s t).isNone)
          || (k ≠ widx t && tileCtx s (tidOf k) ≠ tileCtx s t)), reasonRange, word)]
    | .stack va => [(n ≠ 0 && va % lineBytes ≠ 0, reasonRange, word)]
    | .mcast l g => [(src, reasonRange, word), range l, (n ≠ 0 && (mcastOf s t g).isNone, reasonRange, word)]
    | .bad => [(true, reasonUndefined, word)]
  (daddrRsvd w, reasonReserved, word) :: own

def moveLines (d : Desc) : Nat := dbits d.w3 0 24
def moveSrcCref (d : Desc) : CRef := crefOf (dbits d.w4 0 32)

def moveChecks (s : State) (t : Tid) (d : Desc) : List Check :=
  headerChecks s t d 0 ++ zeroWords d [5, 6, 7] ++ [zeroFrom d 3 24, zeroFrom d 4 32]
    ++ crefChecks s t (moveSrcCref d) 4
    ++ daddrChecks s t d 1 (moveLines d) true ++ daddrChecks s t d 2 (moveLines d) false

/-- Tiles whose counter a completed move increments (R152): a local index names the destination tile, and every
member of a group; a reference to the issuing tile itself is a local one (R121). -/
def moveHomes (s : State) (t : Tid) (d : Desc) : List Tid :=
  let c := descCref d
  if !c.v then []
  else if c.remote && c.tile ≠ widx t then [tidOf c.tile]
  else
    match daddrOf d.w2 with
    | .other _ k => [tidOf k]
    | .mcast _ g => (mcastOf s t g).getD []
    | _ => [t]

/-- Members that count a completed multicast in counter 249. -/
def moveMembers (s : State) (t : Tid) (d : Desc) : List Tid :=
  match daddrOf d.w2 with
  | .mcast _ g => (mcastOf s t g).getD []
  | _ => []

/-- Pages that a stack side of a move touches. -/
def sidePages (w : DWord) (n : Nat) : List Nat :=
  match daddrOf w with
  | .stack va => pagesOf va (n * lineBytes)
  | _ => []

/-- Where line `i` of a side lies, after translation. -/
def sideLoc (s : State) (t : Tid) (w : DWord) (i : Nat) : List Loc :=
  match daddrOf w with
  | .own l => [.buf t (l + i)]
  | .other l k => [.buf (tidOf k) (l + i)]
  | .mcast l g => ((mcastOf s t g).getD []).map fun m => .buf m (l + i)
  | .stack va =>
    let a := va + i * lineBytes
    match frameFor s t (a / frameBytes) with
    | some f => [.stk f (a % frameBytes / lineBytes)]
    | none => [.gone a]
  | .bad => []

/-- The items of a list in an order that free values choose, for the lines of a move commit in any order. -/
def freeOrder (no : Nat) : Nat → List Nat → List Nat
  | 0, l => l
  | fuel + 1, l =>
    match l[(Config.freeWord (no * 2 ^ 32 + fuel)).toNat % max l.length 1]? with
    | some x => x :: freeOrder no fuel (l.filter (· ≠ x))
    | none => l

/-- Some line is read by the move and written by it in the place of another line. -/
def movesOver (s : State) (t : Tid) (d : Desc) (lines : List Nat) : Bool :=
  let reads := lines.map fun i => sideLoc s t d.w1 i
  lines.zipIdx.any fun x =>
    (sideLoc s t d.w2 x.1).any fun y => reads.zipIdx.any fun r => r.2 ≠ x.2 && r.1.contains y

/-- A destination over the mesh: its first line, and what leads there. -/
def meshDest (s : State) (t : Tid) (w : DWord) : Option (Nat × List Nat × Option Nat) :=
  match daddrOf w with
  | .other l k => if k = widx t then none else some (l, routeTo (tileOf s t) k, none)
  | .mcast l g => some (l, [], some g)
  | _ => none

/-- Tiles at which a move over the mesh commits. -/
def meshDests (s : State) (t : Tid) (w : DWord) : List Tid :=
  match daddrOf w with
  | .other _ k => if k = widx t then [] else [tidOf k]
  | .mcast _ g => (mcastOf s t g).getD []
  | _ => []

/-- Carry the given lines, one after the other: to the tile's own buffer or its die's stack at once, or into the mesh
as lines of transfer `serial`. -/
def copyLines (s : State) (t : Tid) (serial : Nat) (d : Desc) (lines : List Nat) : State :=
  let order := if movesOver s t d lines then freeOrder (freeNo s) lines.length lines else lines
  let bytes (s : State) (i : Nat) : List Byte := ((sideLoc s t d.w1 i).map (locRead s t.d.val)).flatten
  match meshDest s t d.w2 with
  | some (l, via, g) =>
    forEach (order.map fun i => (⟨some t, serial, l + i, via, g, bytes s i⟩ : Packet)) s fun s p => routeLine s t ownPort p
  | none =>
    forEach order s fun s i =>
      forEach (sideLoc s t d.w2 i) s fun s l => locWrite s t.d.val (bytes s i) l

/-- Lines of a move that its unrecoverable outcome does not keep from committing: those whose pages all
translate, each committed or not as a free value has it (R213). -/
def partialLines (s : State) (t : Tid) (d : Desc) : List Nat :=
  let okSide (w : DWord) (write : Bool) (i : Nat) : Bool :=
    match daddrOf w with
    | .stack va =>
      let vpn := (va + i * lineBytes) / frameBytes
      match (translate s t vpn write reqDma).1 with
      | .ok _ => true
      | .fail k => k = 3 && !write && pageFailed s t.d.val vpn
    | _ => true
  (List.range (moveLines d)).filter fun i =>
    okSide d.w1 false i && okSide d.w2 true i
      && (Config.freeWord (freeNo s * 2 ^ 32 + i)).toNat % 2 = 1

/-- The line of the move whose address an outcome names. -/
def lineOfVa (w : DWord) (va : Nat) : Nat :=
  match daddrOf w with
  | .stack a => (va - a) / lineBytes
  | _ => 0

/-- The first fault of the two sides in move order, with the word that names the side. -/
def firstFault (d : Desc) (a b : Option (Nat × Nat)) : Option (Nat × Nat × Nat) :=
  match a, b with
  | some x, some y =>
    if lineOfVa d.w1 x.2 ≤ lineOfVa d.w2 y.2 then some (1, x) else some (2, y)
  | some x, none => some (1, x)
  | none, some y => some (2, y)
  | none, none => none

/-- The move in flight: both counters by the line count. A multicast with a local counter completes at each member
by itself (R191); its first part counts the lines read. -/
def moveParts (s : State) (t : Tid) (c : QCmd) : List InFlight :=
  let d := c.desc
  let n := moveLines d
  let part (homes members : List Tid) (src : Bool) (dest : Option Tid) (left : Nat) : InFlight :=
    { queue := 4, op := 0x50, serial := c.serial, cref := BitVec.ofNat 32 (dbits d.w0 0 32)
      amount := BitVec.ofNat 32 n, homes := homes
      src := if src then BitVec.ofNat 32 (dbits d.w4 0 32) else 0
      srcAmount := BitVec.ofNat 32 n, grp := 0, members := members, held := none, dest := dest, left := left }
  let homes := moveHomes s t d
  match meshDests s t d.w2 with
  | [] => [part homes (moveMembers s t d) true none 0]
  | [k] => [part homes (moveMembers s t d) true (some k) n]
  | l =>
    l.zipIdx.map fun m =>
      part (if homes = l then [m.1] else if m.2 = 0 then homes else []) [m.1] (m.2 = 0) (some m.1) n

def launchMove (s : State) (t : Tid) (c : QCmd) : State :=
  let fs := moveParts s t c
  modTile s t fun ts => { ts with inflight := ts.inflight ++ fs }

/-- The bytes of the issuing tile's buffer that a move reads. -/
def moveSpans (d : Desc) : List Span :=
  match daddrOf d.w1 with
  | .own l => [(l * lineBytes, moveLines d * lineBytes)]
  | _ => []

def dmaMoveEff (t : Tid) (errs : List MemErr) (s : State) : State :=
  startCmd 0x50 4 s t fun c s =>
    let d := c.desc
    checked s t 4 c (moveChecks s t d) fun s =>
      let n := moveLines d
      -- length 0 posts its completion at once, with increments of 0 (R214)
      if n = 0 then s
      else
        let (a, s) := transAll t false 1 (sidePages d.w1 n) s
        let (b, s) := transAll t true 1 (sidePages d.w2 n) s
        match firstFault d a.fault b.fault with
        | some (word, f) =>
          let s := bumpFree (copyLines s t c.serial d (partialLines s t d))
          cmdTransFault s t 4 c 1 word f
        | none =>
          let waits := a.waits ++ b.waits
          if !waits.isEmpty then holdPlace (pauseFor s t c.met waits) t 4 c waits
          else bumpFree (copyLines (launchMove (bufReads s t (moveSpans d) errs) t c) t c.serial d (List.range n))

def line17 (w : DWord) : Nat := dbits w 0 17

def fillChecks (s : State) (t : Tid) (d : Desc) : List Check :=
  let n := line17 d.w2
  headerChecks s t d 0 ++ zeroWords d [4, 5, 6, 7]
    ++ [zeroFrom d 1 17, zeroFrom d 2 17, (n ≠ 0 && !(linesOk (line17 d.w1) n), reasonRange, 1)]

/-- Fill: the 64-bit pattern in every word of the range (R55). -/
def dmaFillEff (t : Tid) (s : State) : State :=
  startCmd 0x51 4 s t fun c s =>
    let d := c.desc
    checked s t 4 c (fillChecks s t d) fun s =>
      let n := line17 d.w2
      if n = 0 then s
      else
        let bs := (List.replicate (32 * n) (leBytes 8 d.w3.toNat)).flatten
        launch (modTile s t fun ts => bufWrite ts (line17 d.w1 * lineBytes) bs) t 4 c n

def copyChecks (s : State) (t : Tid) (d : Desc) : List Check :=
  let n := line17 d.w3
  headerChecks s t d 0 ++ zeroWords d [4, 5, 6, 7]
    ++ [zeroFrom d 1 17, zeroFrom d 2 17, zeroFrom d 3 17,
        (n ≠ 0 && !(linesOk (line17 d.w1) n), reasonRange, 1),
        (n ≠ 0 && !(linesOk (line17 d.w2) n), reasonRange, 2)]

/-- Copy: the destination holds what the source held before the copy began (R55). -/
def dmaCopyEff (t : Tid) (errs : List MemErr) (s : State) : State :=
  startCmd 0x52 4 s t fun c s =>
    let d := c.desc
    checked s t 4 c (copyChecks s t d) fun s =>
      let n := line17 d.w3
      if n = 0 then s
      else
        let s := bufReads s t [(line17 d.w1 * lineBytes, n * lineBytes)] errs
        let bs := bufRead (tileOf s t) (line17 d.w1 * lineBytes) (n * lineBytes)
        launch (modTile s t fun ts => bufWrite ts (line17 d.w2 * lineBytes) bs) t 4 c n

def execDmaMove (t : Tid) (errs : List MemErr) (s : State) : Res := .next (dmaMoveEff t errs s)
def execDmaFill (t : Tid) (s : State) : Res := .next (dmaFillEff t s)
def execDmaCopy (t : TileRun) (s : State) : Res := .next (dmaCopyEff t.tile t.errs s)

end Sys2Proof.Machine
end

