-- ==== Sys2Proof/Machine/Matrix.lean ====
section
/-! DEFINITION. The matrix engine's commands (R138 to R142, Table 5.11) over the arithmetic of
Numerics.lean: seeding, opening, streaming with fallback and outliers (R105), draining with records
(R91 to R93), and the sample of the wide check (R110, R111). -/
namespace Sys2Proof.Machine

def noGrp : Nat → Grp := fun _ => ⟨false, false, none, 0, 0, false, [], []⟩
def grpOf (ts : TileState) (g : Nat) : Grp := kget noGrp ts.groups g
def setGrp (ts : TileState) (g : Nat) (v : Grp) : TileState := { ts with groups := kset noGrp ts.groups g v }

def noSum : Nat → Option Word := fun _ => none
/-- Cells of the array; the key of a running sum. -/
def cells : Nat := 16384
def accKey (g i j : Nat) : Nat := g * cells + 128 * i + j
def accGet (ts : TileState) (g i j : Nat) : Option Word := kget noSum ts.acc (accKey g i j)
def accClear (ts : TileState) (g : Nat) : TileState :=
  { ts with acc := ts.acc.filter fun e => !(g * cells ≤ e.1 && e.1 < (g + 1) * cells) }
def lfsrGet (ts : TileState) (i j : Nat) : BitVec 24 := kget lfsrReset ts.lfsr (128 * i + j)

/-- A command of the matrix engine that has done its work. -/
def mxDone (s : State) (t : Tid) (c : QCmd) : State := launch s t 0 c 1

/-! ## MX.SEED (R88, R139) -/

def seedAll (rowSeed : Nat → Nat) : List (Nat × BitVec 24) :=
  (List.range cells).filterMap fun k =>
    let v := lfsrSeed (rowSeed (k / 128)) (k % 128)
    if v = lfsrReset k then none else some (k, v)

def seedChecks (s : State) (t : Tid) (d : Desc) : List Check :=
  let table := tbit (descFlags d) 0
  headerChecks s t d 1 ++ zeroWords d [2, 3, 4, 5, 6, 7]
    ++ [zeroFrom d 1 (if table then 17 else 32), (table && !(linesOk (dbits d.w1 0 17) 2), reasonRange, 1)]

def mxSeedEff (t : Tid) (errs : List MemErr) (s : State) : State :=
  startCmd 0x10 0 s t fun c s =>
    let d := c.desc
    let table := tbit (descFlags d) 0
    let line := dbits d.w1 0 17
    checked s t 0 c (seedChecks s t d) fun s =>
      let s := bufReads s t (if table then [(line * lineBytes, 512)] else []) errs
      let ts := tileOf s t
      let row (i : Nat) : Nat :=
        if table then leNat (bufRead ts (line * lineBytes + 4 * i) 4)
        else (dbits d.w1 0 32 + 0xB5 * i) % 2 ^ 32
      mxDone (modTile s t fun ts => { ts with lfsr := seedAll row }) t c

/-! ## MX.OPEN (R89, R139) -/

def openChecks (s : State) (t : Tid) (d : Desc) : List Check :=
  headerChecks s t d 15 ++ zeroWords d [2, 3, 4, 5, 6, 7]
    ++ [zeroFrom d 1 17, (tbit (descFlags d) 3 && !(linesOk (dbits d.w1 0 17) 256), reasonRange, 1),
        ((grpOf (tileOf s t) (descFlags d % 8)).opened, reasonGroup, 0)]

def mxOpenEff (t : Tid) (errs : List MemErr) (s : State) : State :=
  startCmd 0x11 0 s t fun c s =>
    let d := c.desc
    let g := descFlags d % 8
    let init := tbit (descFlags d) 3
    let line := dbits d.w1 0 17
    checked s t 0 c (openChecks s t d) fun s =>
      let s := bufReads s t (if init then [(line * lineBytes, 4 * cells)] else []) errs
      let ts := tileOf s t
      let cs := if init then
          (List.range cells).map fun k =>
            let (v, n) := f32Read (BitVec.ofNat 32 (leNat (bufRead ts (line * lineBytes + 4 * k) 4)))
            (g * cells + k, some (f32Enc v), n)
        else []
      let s := modTile s t fun ts =>
        let ts := setGrp (accClear ts g) g ⟨true, init, none, 0, 0, false, [], []⟩
        { ts with acc := cs.foldl (fun m e => kset noSum m e.1 e.2.1) ts.acc }
      let s := noteNum s t { NumEv.zero with special := cs.foldl (fun a e => a + e.2.2) 0 }
      mxDone s t c

/-! ## MX.STREAM (R140, R105) -/

/-- The operand words of an MX.STREAM (Table 5.11). -/
structure StreamOps where
  g : Nat
  pair : Nat
  qc : Bool
  wbuf : Bool
  order : Bool
  aElem : Nat
  aScale : Nat
  k : Nat
  p : Nat
  fb : Nat
  ks : Nat
  row0 : Nat
  mask : Nat
  fbElem : Nat
  fbScale : Nat
  outBase : Nat

def streamOps (d : Desc) : StreamOps :=
  let f := descFlags d
  { g := f % 8, pair := bitsOf f 3 2, qc := tbit f 5, wbuf := tbit f 6, order := tbit f 7
    aElem := dbits d.w3 0 17, aScale := dbits d.w3 17 17, k := dbits d.w3 34 21
    p := dbits d.w4 0 8, fb := dbits d.w4 8 8, ks := dbits d.w4 16 8, row0 := dbits d.w4 24 20
    mask := dbits d.w5 0 17, fbElem := dbits d.w5 17 17, fbScale := dbits d.w5 34 17
    outBase := dbits d.w6 0 17 }

/-- Element formats: 0 Q4, 1 Q8, 2 BF16. -/
def StreamOps.wFmt (o : StreamOps) : Nat :=
  match o.pair with
  | 0 => 0
  | 1 => if o.order then 1 else 0
  | 2 => 1
  | _ => 2
def StreamOps.aFmt (o : StreamOps) : Nat :=
  match o.pair with
  | 0 => 0
  | 1 => if o.order then 0 else 1
  | 2 => 1
  | _ => 2

/-- Bytes of `n` elements of a format. -/
def fmtBytes (fmt n : Nat) : Nat := match fmt with
  | 0 => n / 2
  | 1 => n
  | _ => 2 * n

/-- A plane of `bytes` bytes from a line lies inside the buffer. -/
def planeOk (line bytes : Nat) : Bool := linesOk line (cdiv bytes lineBytes)

/-- Entries of the outlier area (R104). -/
def outEntries : Nat := 122880

/-- An outlier entry (Table 4.2): block, element, scale and element code. -/
structure OutEnt where
  block : Nat
  k     : Nat
  scale : Nat
  elem  : Nat
  deriving DecidableEq

def outEnt (side : List Host.Cell) (e : Nat) : OutEnt :=
  let v := mread side (8 * e) 8
  ⟨bitsOf v 32 32, bitsOf v 28 4, bitsOf v 8 8, bitsOf v 0 8⟩

/-- The entries from `e` up to the terminator; none when the area ends first. -/
def outList (side : List Host.Cell) : Nat → Nat → Option (List OutEnt)
  | 0, _ => none
  | fuel + 1, e =>
    if outEntries ≤ e then none
    else
      let x := outEnt side e
      if x.block = 0xFFFFFFFF then some [] else (outList side fuel (e + 1)).map (x :: ·)

/-- Entries ascend in block and element, and every block lies in the tensor (R103, R105). -/
def outOrdered (blocks : Nat) : List OutEnt → Bool
  | [] => true
  | [a] => a.block < blocks
  | a :: b :: r =>
    a.block < blocks && (a.block < b.block || (a.block = b.block && a.k < b.k))
      && outOrdered blocks (b :: r)

/-- Values of the 16 elements of a block, with the count of replaced operands. -/
def q4Block (es : List Byte) (scale : Byte) : List Rat :=
  (unpackQ4 es).map fun c => q4Val c * u5m3 scale.toNat
def q8Block (es : List Byte) (scale : Byte) : List Rat × Nat :=
  let vs := es.map fun b => q8Val b.toNat
  (vs.map fun v => v.1 * u5m3 scale.toNat, vs.foldl (fun a v => a + v.2) 0)

/-- A block of operands: its values, the count of replaced operands, and whether it makes a Q4 × Q4
group with a Q4 weight block. -/
structure Block where
  vals  : List Rat
  spec  : Nat
  plain : Bool

def bfBlock (bs : List Byte) : Block :=
  let vs := (halves bs).map bfReadMx
  ⟨vs.map (·.1), vs.foldl (fun a v => a + v.2) 0, false⟩

/-- A block of a format from its element bytes and scale byte. -/
def mkBlock (fmt : Nat) (es : List Byte) (scale : Byte) : Block :=
  match fmt with
  | 0 => ⟨q4Block es scale, 0, true⟩
  | 1 => let (v, n) := q8Block es scale; ⟨v, n, false⟩
  | _ => bfBlock es

/-- Put the outliers of a block in place of their elements. -/
def withOutliers (outs : List OutEnt) (b : Block) : Block :=
  if outs.isEmpty then b
  else
    { vals := (List.range 16).map fun k =>
        match outs.find? fun o => o.k = k with
        | some o => (q8Val o.elem).1 * u5m3 o.scale
        | none => b.vals[k]?.getD 0
      spec := b.spec + outs.foldl (fun a o => a + (q8Val o.elem).2) 0
      plain := false }

/-- Block `kb` of activation row `p` in its effective form (R105). -/
def actBlock (ts : TileState) (o : StreamOps) (outs : List OutEnt) (p kb : Nat) : Block :=
  let fmt := o.aFmt
  let b := p * (o.k / 16) + kb
  let eb := fmtBytes fmt 16
  let masked := o.qc && tbit (mget ts.buf (o.mask * lineBytes + b / 8)).toNat (b % 8)
  if masked then
    mkBlock 1 (bufRead ts (o.fbElem * lineBytes + 16 * b) 16) (mget ts.buf (o.fbScale * lineBytes + b))
  else
    let base := mkBlock fmt (bufRead ts (o.aElem * lineBytes + eb * b) eb)
      (mget ts.buf (o.aScale * lineBytes + b))
    if o.qc then withOutliers (outs.filter fun e => e.block = b) base else base

/-- Lines that the weight stream buffers hold (Table 2.2). -/
def streamLines : Nat := 8192

/-- A weight line by way of the stream buffers, with what they then hold: a line that they lack comes from the
stack (R44). -/
def weightLine (s : State) (t : Tid) (m : List (Nat × List Byte)) (n : Nat) :
    List Byte × List (Nat × List Byte) :=
  match m.find? fun e => e.1 = n with
  | some e => (e.2, m)
  | none =>
    let bs := vaBytes s t (n * lineBytes) lineBytes
    (bs, ((n, bs) :: m).take streamLines)

/-- `n` bytes of one weight line. -/
def weightBytes (s : State) (t : Tid) (m : List (Nat × List Byte)) (va n : Nat) :
    List Byte × List (Nat × List Byte) :=
  let (bs, m) := weightLine s t m (va / lineBytes)
  ((bs.drop (va % lineBytes)).take n, m)

/-- Block `kb` of weight row `f` (counted from W_ROW0), with what the stream buffers then hold. -/
def weightBlock (s : State) (t : Tid) (d : Desc) (o : StreamOps) (m : List (Nat × List Byte)) (f kb : Nat) :
    Block × List (Nat × List Byte) :=
  let fmt := o.wFmt
  let b := (o.row0 + f) * (o.k / 16) + kb
  let eb := fmtBytes fmt 16
  if o.wbuf then
    let ts := tileOf s t
    (mkBlock fmt (bufRead ts (dbits d.w1 0 17 * lineBytes + eb * b) eb)
      (mget ts.buf (dbits d.w2 0 17 * lineBytes + b)), m)
  else
    let (es, m) := weightBytes s t m (dbits d.w1 0 48 + eb * b) eb
    if fmt = 2 then (mkBlock fmt es 0, m)
    else
      let (sc, m) := weightBytes s t m (dbits d.w2 0 48 + b) 1
      (mkBlock fmt es (sc.headD 0), m)

/-- The blocks of the first `n` weight rows, row by row in ascending k. -/
def weightRows (s : State) (t : Tid) (d : Desc) (o : StreamOps) (m : List (Nat × List Byte)) (n : Nat) :
    List (List Block) × List (Nat × List Byte) :=
  (List.range n).foldl (fun a f =>
    let r := (List.range (o.k / 16)).foldl (fun (b : List Block × List (Nat × List Byte)) kb =>
      let (x, m) := weightBlock s t d o b.2 f kb
      (b.1 ++ [x], m)) ([], a.2)
    (a.1 ++ [r.1], r.2)) ([], m)

/-- The static checks of an MX.STREAM. -/
def streamChecks (s : State) (t : Tid) (d : Desc) : List Check :=
  let o := streamOps d
  let g := grpOf (tileOf s t) o.g
  let bf : Bool := o.pair = 3
  let run : Bool := o.k ≠ 0
  let blocks := o.p * (o.k / 16)
  let wbytes := fmtBytes o.wFmt o.k * (o.row0 + 128 * o.fb)
  let wsc := o.k / 16 * (o.row0 + 128 * o.fb)
  let shapeBad : Bool := o.p = 0 || 128 < o.p || o.fb = 0 || 128 < o.fb || o.ks = 0 || 128 < o.ks
    || 128 < o.p * o.fb * o.ks
  headerChecks s t d 255 ++ zeroWords d (if o.qc then [7] else [5, 6, 7])
    ++ [((o.qc && o.pair ≠ 0) || (o.order && o.pair ≠ 1), reasonUndefined, 0),
        zeroFrom d 1 (if o.wbuf then 17 else 48), zeroFrom d 2 (if o.wbuf then 17 else 48),
        (bf && d.w2 ≠ 0, reasonReserved, 2), (bf && o.aScale ≠ 0, reasonReserved, 3),
        zeroFrom d 3 55, zeroFrom d 4 44,
        (o.qc && dbits d.w5 51 13 ≠ 0, reasonReserved, 5), (o.qc && dbits d.w6 17 47 ≠ 0, reasonReserved, 6),
        (shapeBad, reasonRange, 4),
        (!shapeBad && o.k % (16 * o.ks) ≠ 0 || 2 ^ 20 < o.k, reasonRange, 3),
        (run && !o.wbuf && dbits d.w1 0 8 ≠ 0, reasonRange, 1),
        (run && !o.wbuf && dbits d.w2 0 8 ≠ 0, reasonRange, 2),
        (run && o.wbuf && !(planeOk (dbits d.w1 0 17) wbytes), reasonRange, 1),
        (run && o.wbuf && !bf && !(planeOk (dbits d.w2 0 17) wsc), reasonRange, 2),
        (run && !(planeOk o.aElem (fmtBytes o.aFmt 16 * blocks)), reasonRange, 3),
        (run && !bf && !(planeOk o.aScale blocks), reasonRange, 3),
        (run && o.qc && !(planeOk o.mask (cdiv blocks 8)), reasonRange, 5),
        (run && o.qc && !(planeOk o.fbElem (16 * blocks)), reasonRange, 5),
        (run && o.qc && !(planeOk o.fbScale blocks), reasonRange, 5),
        (run && o.qc && (outList (tileOf s t).side outEntries o.outBase).isNone, reasonRange, 6),
        (!g.opened, reasonGroup, 0),
        (run && (match g.shape with
          | some sh => sh ≠ (o.p, o.fb, o.ks)
          | none => false), reasonGroup, 4),
        (run && !shapeBad && 2 ^ 20 < g.elems + o.k / o.ks, reasonGroup, 3),
        (run && o.qc && (match outList (tileOf s t).side outEntries o.outBase with
          | some l => !(outOrdered blocks l)
          | none => false), reasonOrder, 6)]

/-- The first address of every weight page of the command: element plane, then scale plane. -/
def weightPages (d : Desc) (o : StreamOps) : List Nat :=
  let eb := fmtBytes o.wFmt o.k
  let e := pagesOf (dbits d.w1 0 48 + eb * o.row0) (eb * 128 * o.fb)
  if o.pair = 3 then e
  else e ++ pagesOf (dbits d.w2 0 48 + o.k / 16 * o.row0) (o.k / 16 * 128 * o.fb)

/-- Add the products of row `i`, column `j` (R84 to R86): the group steps of its slice in ascending k. -/
def addRow (o : StreamOps) (acts : List (List Block)) (wts : List (List Block)) (i j : Nat) (c : Cell) : Cell :=
  let p := i % o.p
  let fb := i / o.p % o.fb
  let sl := i / (o.p * o.fb)
  let n := o.k / o.ks / 16
  let a := ((acts[p]?.getD []).drop (sl * n)).take n
  let w := ((wts[128 * fb + j]?.getD []).drop (sl * n)).take n
  (List.zip a w).foldl (fun c x =>
    let ps := List.zipWith (· * ·) x.1.vals x.2.vals
    cellAdd c (if o.pair = 3 then bfGroup ps else sumR ps)) c

/-- Whether position `p` has a slice whose first group is not Q4 × Q4. -/
def beginsOther (o : StreamOps) (acts : List (List Block)) (p : Nat) : Bool :=
  o.pair ≠ 0 || (List.range o.ks).any fun sl =>
    !(((acts[p]?.getD [])[sl * (o.k / o.ks / 16)]?.map (·.plain)).getD false)

/-- Largest reduction of a sampled drain, in blocks (R110). -/
def maxCheckBlocks : Nat := 2560

/-- Carry out a stream whose checks hold and whose pages are translated. DESIGN CHOICE (notes/assumptions/100): a
special operand element counts once for each block that the command reads, however many rows or cells it
multiplies. -/
def runStream (s : State) (t : Tid) (d : Desc) : State :=
  let o := streamOps d
  let ts := tileOf s t
  let outs := if o.qc then (outList ts.side outEntries o.outBase).getD [] else []
  let nb := o.k / 16
  let acts := (List.range o.p).map fun p => (List.range nb).map fun kb => actBlock ts o outs p kb
  let (wts, lines) := weightRows s t d o ts.wlines (128 * o.fb)
  let spec (l : List (List Block)) : Nat := l.foldl (fun a r => r.foldl (fun a b => a + b.spec) a) 0
  let rows := o.p * o.fb * o.ks
  let upd := (List.range (rows * 128)).map fun x =>
    let i := x / 128
    let j := x % 128
    (i, j, addRow o acts wts i j ⟨accGet ts o.g i j, lfsrGet ts i j, 0⟩)
  let sats := upd.foldl (fun a u => a + u.2.2.sats) 0
  let g := grpOf ts o.g
  let first : Bool := g.shape.isNone && !g.init
  let rec' : StreamRec :=
    { welem := d.w1, wscale := d.w2, fromStack := !o.wbuf, wq8 := o.wFmt = 1, k := o.k, row0 := o.row0
      acts := acts.map fun r => (r.map (·.vals)).flatten.map fun v => bfEnc (.ofRat v) }
  let keep : Bool := !g.init && !g.bf16 && o.pair ≠ 3 && g.blocks + nb ≤ maxCheckBlocks
  let g' : Grp :=
    { g with
      shape := some (o.p, o.fb, o.ks), elems := g.elems + o.k / o.ks, blocks := g.blocks + nb
      bf16 := g.bf16 || o.pair = 3
      notQ4 := if first then (List.range o.p).filter (beginsOther o acts) else g.notQ4
      streams := if keep then g.streams ++ [rec'] else [] }
  let s := modTile s t fun ts =>
    let ts := setGrp ts o.g g'
    { ts with
      wlines := lines
      acc := upd.foldl (fun m u => kset noSum m (accKey o.g u.1 u.2.1) u.2.2.p) ts.acc
      lfsr := upd.foldl (fun m u => kset lfsrReset m (128 * u.1 + u.2.1) u.2.2.lfsr) ts.lfsr }
  noteNum s t { NumEv.zero with special := spec acts + spec wts, accSat := sats }

/-- The bytes of the tile buffer that a stream takes in: its activation planes, the fallback blocks of the masked
ones, and weights that lie in the buffer. -/
def streamSpans (ts : TileState) (d : Desc) (o : StreamOps) : List Span :=
  let blocks := o.p * (o.k / 16)
  let rows := o.row0 + 128 * o.fb
  let bf : Bool := o.pair = 3
  let masked := if o.qc then (List.range blocks).filter fun b =>
      tbit (mget ts.buf (o.mask * lineBytes + b / 8)).toNat (b % 8) else []
  [(o.aElem * lineBytes, fmtBytes o.aFmt 16 * blocks)]
    ++ (if bf then [] else [(o.aScale * lineBytes, blocks)])
    ++ (if o.qc then [(o.mask * lineBytes, cdiv blocks 8)] else [])
    ++ (masked.map fun b => [(o.fbElem * lineBytes + 16 * b, 16), (o.fbScale * lineBytes + b, 1)]).flatten
    ++ (if o.wbuf then [(dbits d.w1 0 17 * lineBytes + fmtBytes o.wFmt o.k * o.row0, fmtBytes o.wFmt o.k * (rows - o.row0))]
        else [])
    ++ (if o.wbuf && !bf then [(dbits d.w2 0 17 * lineBytes + o.k / 16 * o.row0, o.k / 16 * (rows - o.row0))]
        else [])

/-- Take a streaming command that paused out of its engine. -/
def dropHeld (s : State) (t : Tid) : State :=
  modTile s t fun ts => { ts with inflight := ts.inflight.filter fun f => f.held.isNone }

/-- The stream buffers are empty in the middle of a command: it pauses, its first line taken and no product lost or
repeated, until the pages it lacks are local (R44). -/
def pauseStream (s : State) (t : Tid) (c : QCmd) (o : StreamOps) (waits : List (Nat × Nat)) : State :=
  let f : InFlight :=
    { queue := 0, op := 0x12, serial := c.serial, cref := 0, amount := 0, homes := [], src := 0, srcAmount := 0
      grp := cmdGrp 0 c.desc, members := [], held := some { c with met := waits }, dest := none, left := 0 }
  let first := dbits c.desc.w1 0 48 + fmtBytes o.wFmt o.k * o.row0
  modTile s t fun ts => { ts with
    inflight := ts.inflight ++ [f], wlines := (weightLine s t [] (first / lineBytes)).2 }

/-- A streaming command that has started, or that starts once the first line of its weights is in a stream buffer
(R44). -/
def streamOn (s : State) (t : Tid) (c : QCmd) (errs : List MemErr) : State :=
  let d := c.desc
  let o := streamOps d
  let pages := weightPages d o
  let (tr, s) := if o.wbuf then (⟨none, []⟩, s) else transAll t false 0 pages s
  match tr.fault with
  | some f => cmdTransFault s t 0 c 0 1 f
  | none =>
    if tr.waits.isEmpty then
      let s := modTile s t fun ts => { ts with wlines := [] }
      mxDone (bumpFree (runStream (bufReads s t (streamSpans (tileOf s t) d o) errs) t d)) t c
    else
      let s := pauseFor s t c.met tr.waits
      if tr.waits.any (fun w => w.2 = pages.headD 0 / frameBytes) then holdPlace s t 0 c tr.waits
      else pauseStream s t c o tr.waits

def mxStreamEff (t : Tid) (errs : List MemErr) (s : State) : State :=
  match (tileOf s t).inflight.findSome? (·.held) with
  | some c => if !(waving s t) then s else streamOn (dropHeld s t) t c errs
  | none =>
    startCmd 0x12 0 s t fun c s =>
      checked s t 0 c (streamChecks s t c.desc) fun s =>
        if (streamOps c.desc).k = 0 then mxDone s t c else streamOn s t c errs

/-! ## MX.DRAIN (R142, R91, R92) -/

structure DrainOps where
  g : Nat
  close : Bool
  obf : Bool
  red : Nat
  tonewt : Bool
  out : Nat
  recLine : Nat
  j0 : Nat
  jc : Nat
  ta : Word
  tb : Word
  vreg : Nat
  vcore : Nat

def drainOps (d : Desc) : DrainOps :=
  let f := descFlags d
  { g := f % 8, close := tbit f 3, obf := tbit f 4, red := bitsOf f 5 2, tonewt := tbit f 7
    out := dbits d.w1 0 17, recLine := dbits d.w1 17 17, j0 := dbits d.w1 34 7, jc := dbits d.w1 41 8
    ta := BitVec.ofNat 32 (dbits d.w2 0 32), tb := BitVec.ofNat 32 (dbits d.w2 32 32)
    vreg := dbits d.w3 0 10, vcore := dbits d.w3 10 1 }

/-- Registers of a vector register file (R47). -/
def vregs : Nat := 1024

/-- The shape a drain works on; no rows while no stream has fixed it. -/
def drainRows (g : Grp) : Nat × Nat × Nat := g.shape.getD (0, 0, 1)

/-- DESIGN CHOICE (notes/assumptions/100): a NaN or an infinite tensor scale faults also where the drain includes no
column, or its group has no shape yet. -/
def drainChecks (s : State) (t : Tid) (d : Desc) : List Check :=
  let o := drainOps d
  let g := grpOf (tileOf s t) o.g
  let (p, fb, _) := drainRows g
  let bytes := p * fb * o.jc * (if o.obf then 2 else 4)
  let writes : Bool := o.jc ≠ 0 && p * fb ≠ 0
  headerChecks s t d 255 ++ zeroWords d [4, 5, 6, 7]
    ++ [zeroFrom d 1 49, zeroFrom d 3 11, (o.red = 3, reasonUndefined, 0),
        (128 < o.j0 + o.jc, reasonRange, 1),
        (writes && !o.tonewt && !(planeOk o.out bytes), reasonRange, 1),
        (writes && o.tonewt && vregs < o.vreg + cdiv bytes lineBytes, reasonRange, 3),
        (writes && o.red ≠ 0 && !(planeOk o.recLine (16 * p * fb)), reasonRange, 1),
        (!g.opened, reasonGroup, 0),
        (!(scaleOkDrain o.ta) || !(scaleOkDrain o.tb), reasonScale, 2)]

/-- The sum of an output over its slices (R142): slice 0, then each further slice added under R86 with
the draw of the cell that holds it. -/
def sliceSum (ts : TileState) (g p fb ks r0 j : Nat) : Cell × List (Nat × BitVec 24) :=
  (List.range (ks - 1)).foldl (fun (a : Cell × List (Nat × BitVec 24)) x =>
    let i := r0 + p * fb * (x + 1)
    let l := lfsrNext (lfsrGet ts i j)
    let (v, sat) := stochRound (f32Val (a.1.p.getD 0) + f32Val ((accGet ts g i j).getD 0)) l.toNat
    (⟨some (f32Enc v), a.1.lfsr, a.1.sats + b2n sat⟩, a.2 ++ [(128 * i + j, l)]))
    (⟨accGet ts g r0 j, 0, 0⟩, [])

/-- The values of one used row, over the included columns. -/
structure DrainRow where
  vals : List FV
  outs : List Byte
  sats : Nat
  lfsr : List (Nat × BitVec 24)

def drainRow (ts : TileState) (o : DrainOps) (p fb ks r0 : Nat) : DrainRow :=
  (List.range o.jc).foldl (fun (a : DrainRow) x =>
    let (c, ls) := sliceSum ts o.g p fb ks r0 (o.j0 + x)
    let (v, sat) := drainVal (c.p.getD 0) o.ta o.tb
    let (b, bsat) := toBf v
    let bytes := if o.obf then leBytes 2 (bfEnc b).toNat else leBytes 4 (f32Enc v).toNat
    ⟨a.vals ++ [v], a.outs ++ bytes, a.sats + c.sats + b2n (sat || (o.obf && bsat)), a.lfsr ++ ls⟩)
    ⟨[], [], 0, []⟩

/-- The register file of a logical vector core. DESIGN CHOICE (notes/assumptions/100): a logical core keeps its
file, with its contents, when one physical core is fenced or the cores alternate. -/
def vregFile (ts : TileState) (core : Nat) : List Host.Cell := if core = 0 then ts.vreg0 else ts.vreg1
def setVregFile (ts : TileState) (core : Nat) (m : List Host.Cell) : TileState :=
  if core = 0 then { ts with vreg0 := m } else { ts with vreg1 := m }

/-- The least sample point that is not below `n` (R110). -/
def samplePointFrom (t : Tid) (interval n : Nat) : Nat :=
  let r := widx t % interval
  n + (r + interval - n % interval) % interval

/-- The sample of a drain (R110, R111): the first eligible drain at or past the next sample point is
captured; while a check is unfinished its points pass. DESIGN CHOICE (notes/assumptions/100): a change of
QC_CHECK_INTERVAL takes the pending sample point of the new interval at once, and a drain that includes no column, or
of a group with no blocks, is not eligible. -/
def sampleDrain (s : State) (t : Tid) (o : DrainOps) (g : Grp) (rows : List (Nat × Nat × DrainRow)) : State :=
  let ts := tileOf s t
  let n := ts.drainNo
  let interval := fieldOf s F.QC_CHECK_INTERVAL
  let s := modTile s t fun ts => { ts with drainNo := n + 1 }
  let eligible : Bool := !g.init && !g.bf16 && g.blocks ≤ maxCheckBlocks && g.blocks ≠ 0
    && o.jc ≠ 0 && !g.streams.isEmpty
  if interval = 0 || n < samplePointFrom t interval ts.samplePoint then s
  else if ts.capture.isSome then modTile s t fun ts => { ts with samplePoint := n + 1 }
  else if !eligible then s
  else
    let x := n / interval % o.jc
    let ks := (drainRows g).2.2
    let cap : Capture :=
      { streams := g.streams, ta := o.ta, tb := o.tb, column := o.j0 + x, layer := tileLayer s t
        rows := rows.map fun r =>
          ⟨r.1, r.2.1, f32Enc (r.2.2.vals[x]?.getD .zero),
            if g.notQ4.contains r.1 then g.blocks + ks - 1 else g.blocks - 1⟩
        met := [] }
    let s := tset s t R.QC_STAT_CHECK_BUSY 1
    modTile s t fun ts => { ts with samplePoint := n + 1, capture := some cap }

def closeGroup (ts : TileState) (g : Nat) : TileState := setGrp (accClear ts g) g (noGrp g)

/-- What a drain writes in its tile: the values to a vector register or the buffer, the records, and the cells'
next draws (R91, R142). -/
def drainWrite (ts : TileState) (o : DrainOps) (bytes recs : List Byte) (draws : List (Nat × BitVec 24)) : TileState :=
  let ts := if bytes.isEmpty then ts
    else if o.tonewt then
      setVregFile ts o.vcore (mstore (vregFile ts o.vcore) (o.vreg * lineBytes) bytes)
    else bufWrite ts (o.out * lineBytes) bytes
  let ts := if recs.isEmpty then ts else bufWrite ts (o.recLine * lineBytes) recs
  { ts with lfsr := draws.foldl (fun m e => kset lfsrReset m e.1 e.2) ts.lfsr }

def mxDrainEff (t : Tid) (s : State) : State :=
  startCmd 0x13 0 s t fun c s =>
    let d := c.desc
    let o := drainOps d
    checked s t 0 c (drainChecks s t d) fun s =>
      let ts := tileOf s t
      let g := grpOf ts o.g
      let (p, fb, ks) := drainRows g
      let rows := (List.range (p * fb)).map fun x =>
        (x / fb, x % fb, drainRow ts o p fb ks (x % fb * p + x / fb))
      let bytes := (rows.map fun r => r.2.2.outs).flatten
      let recs := if o.red = 0 || o.jc = 0 then []
        else (rows.map fun r => redRecord (o.red = 2) (r.2.2.vals.map (·.v))).flatten
      let s := modTile s t fun ts => drainWrite ts o bytes recs (rows.map fun r => r.2.2.lfsr).flatten
      let s := noteNum s t { NumEv.zero with accSat := rows.foldl (fun a r => a + r.2.2.sats) 0 }
      let s := sampleDrain s t o g rows
      let s := if o.close then modTile s t fun ts => closeGroup ts o.g else s
      mxDone s t c

def execMxSeed (t : TileRun) (s : State) : Res := .next (mxSeedEff t.tile t.errs s)
def execMxOpen (t : TileRun) (s : State) : Res := .next (mxOpenEff t.tile t.errs s)
def execMxStream (t : Tid) (errs : List MemErr) (s : State) : Res := .next (mxStreamEff t errs s)
def execMxDrain (t : Tid) (s : State) : Res := .next (mxDrainEff t s)

end Sys2Proof.Machine
end

