-- ==== Sys2Proof/Machine/Steps.lean ====
section
/-! DEFINITION. Steps and chunks of sequences: what makes one ready (R278, R254), generated tokens that the
last die has committed, seats on draft lanes (R300), draft lengths (R305), and the discard of work in
flight by which a rollback or a reset begins (R259, R431, R452). -/
namespace Sys2Proof.Machine

/-! ## Steps -/

/-- Every token that the last die has committed for the sequence, those still on their way included. -/
def allGen (s : State) (q : Seq) : List Nat :=
  q.gen ++ ((s.serving.commits.filter fun c => q.slot = some c.slot).map (·.toks)).flatten

/-- The position of the last committed token: the first of the next decode step (R304). -/
def nextPos (s : State) (q : Seq) : Nat := q.base + q.prompt.length + (allGen s q).length - 1

def decodeStep (first : Nat) (drafts : List Nat) (spec : Nat × Nat × Nat) : SeqStep where
  first := first
  npos := 1 + drafts.length
  drafts := drafts
  prefill := false
  lastChunk := false
  granted := false
  noPage := false
  order := 0
  spec := spec

/-- The settings that a pass begins with (R308). -/
def specNow (s : State) : Nat × Nat × Nat :=
  (fieldOf s F.SP_DRAFT_MAX, fieldOf s F.SP_OFF_PASSES, fieldOf s F.SP_OFF_TOKENS)

/-- A decode step without proposals. -/
def plainStep (first : Nat) : SeqStep := decodeStep first [] (0, 0, 0)

/-! ## Draft lanes and seats (R300, R305) -/

/-- The open lanes of a context in ascending number. -/
def lanesOf (s : State) (c : Nat) : List (Nat × Lane) :=
  s.serving.lanes.filterMap fun e => e.2.bind fun l => if l.ctx.val = c then some (e.1, l) else none

def seatsUsed (s : State) (l : Nat) : Nat := (s.serving.seqs.filter fun q => q.seat = some l).length

/-- The value of a class field that applies: the one before a change, until the scan pointer advances (R288). -/
def classField (s : State) (f : Nat) : Nat :=
  ((s.serving.classHeld.find? fun e => e.1 = f).map (·.2)).getD (fieldOf s f)

def isSpeed (s : State) (k : Nat) : Bool := classField s (F.SV_CLASS_SPEED + k) = 1
def speedClasses (s : State) : List Nat := (List.range 64).filter (isSpeed s)

/-- Lanes reserved for speed classes. -/
def reservedLanes (s : State) : Nat :=
  (speedClasses s).foldl (fun a k => a + classField s (F.SV_CLASS_LANES + k)) 0

/-- The lane with the most free seats; of equal ones the first. -/
def roomiest (s : State) (l : List (Nat × Lane)) : Option Nat :=
  (l.foldl (fun (a : Option (Nat × Nat)) e =>
    let free := e.2.seats - seatsUsed s e.1
    match a with
    | none => if free = 0 then none else some (e.1, free)
    | some b => if b.2 < free then some (e.1, free) else some b) none).map (·.1)

/-- The lane on which a sequence finds a seat. -/
def seatFor (s : State) (q : Seq) : Option Nat :=
  let l := lanesOf s q.ctx.val
  let own := l.take (reservedLanes s)
  let rest := l.drop (reservedLanes s)
  if isSpeed s q.cls then (roomiest s own).orElse fun _ => roomiest s rest else roomiest s rest

/-- A sequence without a seat asks for one; with one it waits for its catch-up (R302). -/
def askSeat (s : State) (q : Seq) : State :=
  if q.noSpec || q.seat.isSome then s
  else
    match seatFor s q, q.slot with
    | some l, some k =>
      -- speculation that is off stays off (R305)
      joinLane (modThis s q fun q => { q with
        seat := some l, catchup := true, draftLen := 0, dLen := fieldOf s F.SP_DRAFT_INIT, allRej := 0 }) l k
    | _, _ => s

/-- The draft length of the next pass (R305). -/
def passLen (s : State) (q : Seq) : Nat :=
  let room := if isSpeed s q.cls then fieldOf s F.SV_SPEED_GROUP_MAX_POS else fieldOf s F.SV_GROUP_MAX_POS
  if q.seat.isNone || q.catchup || q.offLeft ≠ 0 then 0
  else
    min (min (min q.dLen (fieldOf s F.SP_DRAFT_MAX)) 16)
      (min (room - 1) (q.maxNew - (allGen s q).length - 1))

/-- The next decode step of a sequence after a commit: a seated one first waits for its lane (R32); one that
ends at its boundary under a replacement takes none (R323). -/
def nextDecode (s : State) (q0 : Seq) : State :=
  match seqNow s q0 with
  | none => s
  | some q =>
    if q.leaving then s
    else
    match q.seat, q.slot with
    | some l, some k =>
      if passLen s q = 0 then giveStep s q (plainStep (nextPos s q)) else joinLane s l k
    | _, _ => giveStep s q (plainStep (nextPos s q))

/-! ## Discarding work in flight (R259 steps 1 to 3) -/

/-- A sequence whose work is being discarded: lengths go back to the first position of its earliest step,
on every die; the draft cache falls with them (R307). -/
def setBack (s : State) (c : Nat) (slot first : Nat) : State :=
  let s := match ctxOf s c with
    | some x => slotSetLen s x slot first
    | none => s
  match seqBySlot s slot with
  | some q => modThis s q fun q => { q with draftLen := min q.draftLen first }
  | none => s

/-- The group in which one discarded step goes back to layer 0. -/
def rerunGroup (c : Fin 4) (id since : Nat) (m : Member) (speed : Bool) : WGroup where
  id := id
  ctx := c
  prefill := m.step.prefill
  speed := speed
  bubble := false
  members := [m]
  layer := 0
  inside := false
  newVer := false
  discarded := false
  rerun := true
  since := since
  dones := []
  proj := []

/-- Discard every wave group and every commit on its way of a context; each step goes back to the barrier
of layer 0 with the proposals it carried, in the original order. The groups discarded are counted. -/
def discardAll (s : State) (c : Fin 4) : State :=
  let commits := s.serving.commits.filter fun k =>
    ((seqBySlot s k.slot).map fun q => decide (q.ctx = c)).getD false
  let groups := s.serving.groups.filter fun g => g.ctx = c
  let live (k : Nat) : Bool := ((seqBySlot s k).map isLive).getD false
  let undone (k : Nat) : Bool := commits.any fun m => m.slot = k
  let first (k : Nat) : List Nat :=
    (commits.filter fun m => m.slot = k).map (·.step.first)
      ++ ((groups.map (·.members)).flatten.filter fun m => m.slot = k).map (·.step.first)
  let slots := (commits.map (·.slot) ++ ((groups.map (·.members)).flatten.map (·.slot))).eraseDups
  -- a commit that is discarded takes every later step of its sequence with it
  let s := forEach (commits.filter fun m => live m.slot) s fun s m =>
    match seqBySlot s m.slot with
    | some q =>
      -- a queued catch-up stays (R302), and a seat taken at the commit keeps its first draft length
      modThis (if q.catchup then s else dropSeat s m.slot) q fun q => { q with
        step := none, offLeft := m.before.2.2
        dLen := if m.seated then m.before.1 else q.dLen, allRej := if m.seated then m.before.2.1 else q.allRej }
    | none => s
  let old := (commits.filter fun m => live m.slot).zipIdx.map fun e =>
    rerunGroup c (s.serving.groupId + e.2) (now s) ⟨e.1.slot, { e.1.step with noPage := false }⟩
      (((seqBySlot s e.1.slot).map fun q => isSpeed s q.cls).getD false)
  let kept := (groups.filter fun g => !g.bubble).map fun g => { g with
    members := (g.members.filter fun m => live m.slot && !undone m.slot).map fun m =>
      { m with step := { m.step with noPage := false } }
    layer := 0, inside := false, newVer := false, discarded := false, rerun := true
    since := now s, dones := [], proj := [] }
  let sorted := kept.mergeSort fun a b => a.id ≤ b.id
  let s := modServing s fun x => { x with
    groups := old ++ (sorted.filter fun g => !g.members.isEmpty) ++ x.groups.filter fun g => g.ctx ≠ c
    groupId := x.groupId + old.length
    partials := x.partials.filter fun p => !(slots.contains p.slot)
    commits := x.commits.filter fun k => !(commits.contains k) }
  let s := forEach slots s fun s k =>
    match (first k).min? with
    | some p => setBack s c.val k p
    | none => s
  -- draft passes and catch-ups in progress are abandoned, and begin again
  let s := forEach (lanesOf s c.val) s fun s e => requeue s e.1 true id
  forEach (s.serving.seqs.filter fun q => q.ctx = c && q.drain) s drained

end Sys2Proof.Machine
end

