-- ==== Sys2Proof/Machine/Storm.lean ====
section
/-! DEFINITION. Storm windows of the quantizer and the storm state of a die (R109). -/
namespace Sys2Proof.Machine

/-- Tiles of a die that ended a storm window in its episode. -/
def episodeTiles (s : State) (d : Fin 56) : List Tid :=
  (tilesOfDie d).filter fun t => (tileOf s t).inEpisode

/-- The clearing rule: every tile of the episode has, since the last storm window of the die, ended a window
that is none. -/
def clearStorm (s : State) (d : Fin 56) : State :=
  if dget s d.val R.QC_DIE_STAT_STORM = 0 || !((episodeTiles s d).all fun t => (tileOf s t).stormClear) then s
  else
    let s := dset s d.val R.QC_DIE_STAT_STORM 0
    let x := dieOf s d.val
    let s := forEach (episodeTiles s d) s fun s t =>
      modTile s t fun ts => { ts with inEpisode := false, stormClear := false }
    logPut s 0x0411 sevNotice (.die d.val) ((now s - x.stormStart) / 1000000) x.stormWindows 0

/-- A tile leaves the episode: fenced, or its rail isolated; its window in progress is discarded. -/
def leaveEpisode (s : State) (t : Tid) : State :=
  clearStorm (modTile s t fun ts => { ts with
    inEpisode := false, stormClear := false, winBlocks := 0, winFalls := 0 }) t.d

/-- A tile begins a window afresh, with the percentage in force now (R109, R115). -/
def freshWindow (s : State) (t : Tid) : State :=
  modTile s t fun ts => { ts with
    winBlocks := 0, winFalls := 0, winPercent := some (fieldOf s F.QC_STORM_PERCENT) }

/-- A storm window ends on a tile: the die enters its storm state, or stays in it with every part to clear
anew. -/
def stormWindow (s : State) (t : Tid) (fraction : Nat) : State :=
  let d := t.d.val
  let s :=
    if dget s d R.QC_DIE_STAT_STORM = 1 then s
    else
      let s := dinc (dset s d R.QC_DIE_STAT_STORM 1) d R.QC_DIE_STAT_STORM_ENTRIES
      let s := modDie s d fun x => { x with
        stormStart := now s, stormWindows := 0, stormTotal := x.stormTotal + 1 }
      logPut s 0x0410 sevWarning (.die d) (widx t) fraction (dieOf s d).stormTotal
  let s := modDie s d fun x => { x with stormWindows := x.stormWindows + 1 }
  let s := modTile s t fun ts => { ts with inEpisode := true }
  forEach (episodeTiles s t.d) s fun s t => modTile s t fun ts => { ts with stormClear := false }

/-- A storm window of a tile ends. -/
def stormWindowEff (t : Tid) (s : State) : State :=
  if !(railOn s t) then s
  else
    let ts := tileOf s t
    let b := ts.winBlocks
    let f := ts.winFalls
    let percent := ts.winPercent.getD (fieldOf s F.QC_STORM_PERCENT)
    let storm : Bool := 0 < b && percent * b < 100 * f
    let fraction := f * 1024 / b
    let s := freshWindow s t
    let s := if b = 0 then s
      else tset (tset s t R.QC_WINDOW_VALID 1) t R.QC_WINDOW_FRACTION fraction
    let s := post (tset s t R.QC_STAT_STORM_WIN (b2n storm)) (.report t .window)
    if storm then stormWindow s t fraction
    else if (tileOf s t).inEpisode then
      clearStorm (modTile s t fun ts => { ts with stormClear := true }) t.d
    else s

def execStormWindowEnd (t : Tid) (s : State) : Res := .next (stormWindowEff t s)

end Sys2Proof.Machine
end

