-- ==== Sys2Proof/Machine/Place.lean ====
section
/-! DEFINITION. The loader's work on tiles: mapping a template onto a die's tiles (R163), writing a slice
with its patches (R166), resident weights (R316), draft lanes (R27, R300), the reset of a tile's state
(R432, R434) and the end of a test slice (R445). -/
namespace Sys2Proof.Machine

/-! ## Halves, spares and roles (R64, R163) -/

/-- Half of the die: 0 left, 1 right. -/
def halfOf (t : Nat) : Nat := if t % 6 ≤ 2 then 0 else 1

def tileFailed (s : State) (t : Tid) : Bool := rmHas s 0x01 t.d.val t.t.val

/-- The spare position of a half: of the repair map, else of the grade record. -/
def sparePos (s : State) (d half : Nat) : Nat :=
  match s.store.repair.find? fun e =>
      e.kind.toNat = 0x02 && e.die.toNat = d && e.item.toNat = half with
  | some e => e.detail.toNat
  | none =>
    let p := (s.store.grade.spares[d]?).getD (20, 21)
    if half = 0 then p.1 else p.2

def tileNo (i : Nat) : Fin 24 := Fin.ofNat 24 i

/-- The spares of a die that stand in for failed tiles (R64, R66): each failed tile that is no spare takes the
good spare of its half, else that of the other half. -/
def standIns (s : State) (d : Fin 56) : List Nat :=
  let spares := [0, 1].map (sparePos s d.val)
  let lost := (List.range 24).filter fun i => !(spares.contains i) && tileFailed s ⟨d, tileNo i⟩
  lost.foldl (fun used i =>
    let free (h : Nat) : Option Nat :=
      let p := sparePos s d.val h
      if used.contains p || tileFailed s ⟨d, tileNo p⟩ then none else some p
    match (free (halfOf i)).orElse fun _ => free (1 - halfOf i) with
    | some p => used ++ [p]
    | none => used) []

/-- ROLE as the repair map gives it. -/
def homeRole (s : State) (t : Tid) : Nat :=
  if tileFailed s t then roleDark
  else if sparePos s t.d.val (halfOf t.t.val) = t.t.val && !((standIns s t.d).contains t.t.val) then roleSpare
  else roleActive

def setRole (s : State) (t : Tid) (r : Nat) : State := tset s t R.TILE_STAT_ROLE r

/-- The tile that runs a template index: the tile itself, else the spare of its half, else an unused tile of that
half, which counts as a spare of it, else the same of the other half (R163, as R66 maps a failed tile;
notes/assumptions/35). -/
def pickTile (s : State) (d : Fin 56) (idx : List Nat) (taken : List Nat) (i : Nat) : Option Nat :=
  let good (j : Nat) : Bool := roleOf s ⟨d, tileNo j⟩ ≠ roleDark
  let free (j : Nat) : Bool := good j && !(idx.contains j) && !(taken.contains j)
  let inHalf (h : Nat) : Option Nat :=
    (sparePos s d.val h :: List.range 24).find? fun j => free j && halfOf j = h
  if i < 24 && good i then some i
  else (inHalf (halfOf i)).orElse fun _ => inHalf (1 - halfOf i)

/-- Tiles for all template indices of a die; none when one finds no tile. -/
def mapDie (s : State) (d : Fin 56) (idx : List Nat) : Option (List (Nat × Nat)) :=
  idx.foldl (fun acc i => acc.bind fun l =>
    (pickTile s d idx (l.map (·.2)) i).map fun j => l ++ [(i, j)]) (some [])

def posKey (layer pos : Nat) : Nat := layer * 64 + pos

/-- The placement of a die's layers: `first` is the die's first layer. -/
def placeDie (s : State) (d : Fin 56) (tm : Template) (first count : Nat) : Option (List (Nat × Tid)) :=
  let groups := tm.groups.take count
  (mapDie s d groups.flatten).map fun m =>
    (groups.zipIdx.map fun g => g.1.zipIdx.filterMap fun i =>
      (m.find? fun e => e.1 = i.1).map fun e =>
        (posKey (first + g.2) i.2, (⟨d, tileNo e.2⟩ : Tid))).flatten

/-! ## Where a position runs -/

/-- The tile of a logical position: of the main pipeline, or of the lane being written. -/
def locOf (x : Context) (lane : List Tid) (key : Nat) : Option Tid :=
  if key / 64 < ctxLayers x then (x.place.find? fun e => e.1 = key).map (·.2)
  else lane[key / 64 - ctxLayers x]?

/-- The logical position of a tile in the main pipeline. -/
def placeOf (x : Context) (t : Tid) : Option Nat := (x.place.find? fun e => e.2 = t).map (·.1)

/-- The number of an image's multicast group on the device (R191: groups 16 to 65,535 are the
contexts'; notes/assumptions/41). -/
def groupNo (c g : Nat) : Nat := 16 + c * 16380 + g

/-! ## Slices and patches (R166, R121) -/

def sliceOf (x : Context) (layer pos : Nat) : Option Slice :=
  (templateOf x x.image).slices.find? fun l => l.layer = layer && l.pos = pos

/-- A word with bits `lo + w - 1` to `lo` replaced. -/
def patchBits (v : DWord) (lo w n : Nat) : DWord :=
  BitVec.ofNat 64 (v.toNat - bitsOf v.toNat lo w * 2 ^ lo + n % 2 ^ w * 2 ^ lo)

def setDescWord (d : Desc) (i : Fin 8) (v : DWord) : Desc :=
  match i with
  | 0 => { d with w0 := v }
  | 1 => { d with w1 := v }
  | 2 => { d with w2 := v }
  | 3 => { d with w3 := v }
  | 4 => { d with w4 := v }
  | 5 => { d with w5 := v }
  | 6 => { d with w6 := v }
  | 7 => { d with w7 := v }

/-- Outlier capacity of a quantize command (R104). -/
def outlierCap (elems rho : Nat) : Nat := cdiv (elems * rho) 1024

def patchValue (c : Nat) (x : Context) (lane : List Tid) (sl : Slice) (p : Patch) : Nat :=
  match p.val with
  | .outlierCap => outlierCap (((sl.quantElems.find? fun e => e.1 = p.entry).map (·.2)).getD 0) x.density
  | .tileIndex l => ((locOf x lane l).map widx).getD 0
  | .multicast g => groupNo c g
  | .stackBase => (Config.stackBase c).toNat

/-- A 32-bit word that is a counter reference to tile `a` names tile `b` instead. -/
def moveRef (a b w : Nat) : Nat :=
  let r := crefOf w
  if r.v && r.remote && r.rsvd = 0 && r.tile = a && r.index ≤ maxProgCtr then
    w - a * 256 + b * 256
  else w

def moveLow (a b : Nat) (v : DWord) : DWord := patchBits v 0 32 (moveRef a b (dbits v 0 32))

/-- A DMA address of kind 1 that names tile `a` names tile `b` instead. -/
def moveAddr (a b : Nat) (v : DWord) : DWord :=
  if dbits v 60 4 = 1 && dbits v 17 11 = a then patchBits v 17 11 b else v

def opDmaMove : Nat := 0x50

/-- Every reference of a descriptor to a fenced tile names its spare. -/
def moveDesc (m : Nat × Nat) (d : Desc) : Desc :=
  let d := { d with w0 := moveLow m.1 m.2 d.w0 }
  if descOp d = opDmaMove then
    { d with w1 := moveAddr m.1 m.2 d.w1, w2 := moveAddr m.1 m.2 d.w2, w4 := moveLow m.1 m.2 d.w4 }
  else d

/-- The stored descriptors of a slice with their patches. -/
def patchedDescr (c : Nat) (x : Context) (lane : List Tid) (sl : Slice) : List (Nat × Desc) :=
  (sl.descr.zipIdx.foldl (fun m e =>
    let d := (sl.patches.filter fun p => p.entry = e.2).foldl (fun d p =>
      setDescWord d p.word (patchBits (descWord d p.word.val) p.lo p.width (patchValue c x lane sl p))) e.1
    kset zeroDesc m e.2 (x.moved.foldl (fun d k => moveDesc k d) d)) [])

/-- Initial scalar data, with the references to fenced tiles moved: every aligned word that is one. -/
def initialSdata (x : Context) (sl : Slice) : List Host.Cell :=
  let m := mstore [] 0 sl.sdata
  x.moved.foldl (fun m k => (List.range (sl.sdata.length / 4)).foldl (fun m i =>
    let w := mread m (4 * i) 4
    let v := moveRef k.1 k.2 w
    if v = w then m else mwrite m (4 * i) 4 v) m) m

/-- The output by which the way from one tile to another goes on at a tile, where it passes it. -/
def hopOn (t a b : Tid) : Option Dir :=
  let between (u v w : Nat) : Bool := (u ≤ v && v ≤ w) || (w ≤ v && v ≤ u)
  let passes : Bool := (waferY t = waferY a && between (waferX a) (waferX t) (waferX b))
    || (waferX t = waferX b && between (waferY a) (waferY t) (waferY b))
  if passes then dirTo t (widx b) else none

/-- The entry of a tile in the tree of a multicast group from its source tile to its members: each member is reached
as a destination with no route entry is (R190, R191). -/
def treeEntry (t src : Tid) (members : List Tid) : Option McEntry :=
  let outs := [Dir.n, .e, .s, .w].filter fun d => members.any fun m => hopOn t src m = some d
  let copy := members.contains t
  if outs.isEmpty && !copy && t ≠ src then none else some ⟨outs, copy⟩

/-- The entries of a tile for the multicast groups of a context. -/
def mcastTable (c : Nat) (x : Context) (t : Tid) : List (Nat × McEntry) :=
  (templateOf x x.image).mcast.filterMap fun g =>
    (locOf x [] g.2.1).bind fun src =>
      (treeEntry t src (g.2.2.filterMap (locOf x []))).map fun e => (groupNo c g.1, e)

/-- A group number of a context. -/
def groupOfCtx (c g : Nat) : Bool := groupNo c 0 ≤ g && g < groupNo (c + 1) 0

/-- Entries of a multicast table (R191). -/
def mcastCap : Nat := 256

/-- The loader writes a context's groups into the tables of every tile on their trees. -/
def meshTables (s : State) (c : Nat) (x : Context) : State :=
  if (templateOf x x.image).mcast.isEmpty then s
  else forEach allDies s fun s d => forEach (tilesOfDie d) s fun s t =>
    modTile s t fun ts => { ts with
      mcast := ((ts.mcast.filter fun e => !(groupOfCtx c e.1)) ++ mcastTable c x t).take mcastCap }

/-- The groups of a context leave every table. -/
def dropGroupTables (s : State) (c : Nat) : State :=
  forEach (s.tiles.map (·.1)) s fun s k =>
    modTile s ⟨Fin.ofNat 56 (k / 24), Fin.ofNat 24 k⟩ fun ts => { ts with
      mcast := ts.mcast.filter fun e => !(groupOfCtx c e.1) }

/-! ## Route tables (R164, R190) -/

/-- Consecutive dies of the order. -/
def dieSteps (dies : List Nat) : List (Nat × Nat) := dies.zip (dies.drop 1)

def dispOf (e : Nat × Nat) : Int × Int :=
  ((e.2 % 8 : Nat) - (e.1 % 8 : Nat), (e.2 / 8 : Nat) - (e.1 / 8 : Nat))

/-- A tile by its place relative to a die's north-west tile. -/
def relTile (d : Nat) (r : Rel) : Option Tid :=
  let x : Int := (6 * (d % 8) : Nat) + r.1
  let y : Int := (4 * (d / 8) : Nat) + r.2
  if 0 ≤ x && x < 48 && 0 ≤ y && y < 28 then some (tidAt x.toNat y.toNat) else none

/-- The chosen variants by die-to-die step: source die, route set, variant. -/
def stepVariants (x : Context) : List (Nat × Nat × RouteVariant) :=
  let tm := templateOf x x.image
  (dieSteps x.dies).filterMap fun e =>
    (tm.routes.zipIdx.find? fun r => (r.1.dc, r.1.dr) = dispOf e).bind fun r =>
      ((x.variants.find? fun v => v.1 = r.2).map (·.2)).bind fun v =>
        (r.1.variants[v]?).map fun rv => (e.1, r.2, rv)

/-- The rows of the SCHED instances that the chosen variants bring with them (R164). -/
def schedRows (x : Context) : List Sched :=
  let tm := templateOf x x.image
  (x.variants.filterMap fun v => (tm.routes[v.1]?).bind fun r => (r.variants[v.2]?).map (·.sched)).flatten

/-- The route-table entries of a tile, with references to fenced tiles moved to their spares. -/
def routeTable (x : Context) (t : Tid) : List (Nat × List Nat) :=
  let now' (w : Nat) : Nat := x.moved.foldl (fun w k => if w = k.1 then k.2 else w) w
  (stepVariants x).foldl (fun m v => v.2.2.entries.foldl (fun m e =>
    match relTile v.1 e.src, relTile v.1 e.dst with
    | some a, some b =>
      if now' (widx a) = widx t then
        kset noTurns m (now' (widx b)) (e.turns.filterMap fun r => (relTile v.1 r).map widx)
      else m
    | _, _ => m) m) []

/-! ## Writing, starting and restoring a slice -/

/-- Scalar state, queues, commands in flight and accumulation groups of a program that starts anew. -/
def blankProgram (ts : TileState) : TileState :=
  { ts with
    sregs := [], preds := 0, wait := none, stall := none, queues := [], inflight := []
    qstop := false, gdone := none, groups := [], acc := [], running := false }

/-- Counters 0 to `n - 1` of a tile read 0. -/
def clearCtrs (s : State) (t : Tid) (n : Nat) : State :=
  let lo := fkey t.d.val t.t.val (R.TILE_CNT_VALUE.at 0)
  let hi := fkey t.d.val t.t.val (R.TILE_CNT_VALUE.at n)
  { s with regs := s.regs.filter fun e => !(lo ≤ e.1 && e.1 < hi) }

/-- The single-seed form of R88. -/
def seedRow (seed : Word) (i : Nat) : Nat := (seed.toNat + 0xB5 * i) % 2 ^ 32

def zeroD64 : Nat → DWord := fun _ => 0

/-- Write a slice into a tile: instruction memory, scalar data, descriptors, bound, seed and tables; counters
0 to 247 read 0 (R166, step 10 of Table 6.5). -/
def programTile (s : State) (c : Nat) (x : Context) (lane : List Tid) (layer pos : Nat) (t : Tid) : State :=
  match sliceOf x layer pos with
  | none => s
  | some sl =>
    let s := modTile s t fun ts => { blankProgram ts with
      imem := sl.program.zipIdx.foldl (fun m e => kset zeroD64 m e.2 e.1) []
      entry := BitVec.ofNat 17 sl.entry, pc := BitVec.ofNat 17 sl.entry
      sdata := initialSdata x sl, slotBase := sl.slotBase, slotCount := sl.slots.length
      groupAddr := sl.group, store := patchedDescr c x lane sl
      lfsr := seedAll (seedRow sl.seed), routes := routeTable x t }
    let s := tset s t R.TILE_BOUND_LOG2_BOUND sl.bound
    let s := tset s t R.TILE_STAT_CTX_VALID 1
    let s := tset s t R.TILE_STAT_CONTEXT c
    let s := tset s t R.TILE_STAT_SLICE (layer * x.tiles + pos)
    let s := tset s t R.TILE_STAT_HALTED 0
    let s := tset s t R.QC_STAT_LAYER layer
    let s := tset s t R.QC_STAT_FORCED_Q8 0
    clearCtrs s t 248

/-- A tile of a rolled-back context: its scalar data from the initial copy, counters, registers and LFSRs
as after a load, descriptors patched; instruction memory and weights are kept (R452 step 5). -/
def restoreTile (s : State) (c : Nat) (x : Context) (key : Nat) (t : Tid) : State :=
  match sliceOf x (key / 64) (key % 64) with
  | none => s
  | some sl =>
    let m := x.moved.getLast?
    let patch (ts : TileState) : List (Nat × Desc) :=
      let l := match m with
        | some k => ts.store.foldl (fun l e => kset zeroDesc l e.1 (moveDesc k e.2)) []
        | none => ts.store
      sl.patches.foldl (fun l p =>
        match p.val with
        | .tileIndex _ =>
          let d := kget zeroDesc l p.entry
          kset zeroDesc l p.entry (setDescWord d p.word
            (patchBits (descWord d p.word.val) p.lo p.width (patchValue c x [] sl p)))
        | _ => l) l
    let s := modTile s t fun ts => { blankProgram ts with
      pc := BitVec.ofNat 17 sl.entry, sdata := initialSdata x sl, store := patch ts
      lfsr := seedAll (seedRow sl.seed), routes := routeTable x t }
    let s := tset s t R.TILE_STAT_HALTED 0
    clearCtrs s t 248

/-- Start a slice at its entry index. -/
def startTile (s : State) (t : Tid) : State :=
  modTile s t fun ts => { ts with running := true, pc := ts.entry }

/-- The Bowler copies resident weights from their stack pages into the tile buffer (R316 step 5). -/
def residentCopy (s : State) (x : Context) (img : Image) (layer pos : Nat) (t : Tid) : State :=
  let rs := (templateOf x img).regions.filter fun r => r.layer = layer && r.pos = pos && r.kind = 0
  forEach rs s fun s r =>
    forEach (List.range r.count) s fun s i =>
      let va := r.va + i * lineBytes
      let e := l2Of s t.d.val (va / frameBytes)
      if pteV e then
        let bs := stackRead s t.d.val (pteFid e) (va % frameBytes) lineBytes
        modTile s t fun ts => bufWrite ts ((r.first + i) * lineBytes) bs
      else s

/-- Messages of a context's tiles on the control channel, and their lines on the mesh, are lost with their
program. -/
def dropCtrl (s : State) (ts : List Tid) : State :=
  dropLines { s with ctrl := s.ctrl.filter fun m => match m with
      | .signal a b _ _ _ => !(ts.contains a || ts.contains b)
      | .admitted t _ _ => !(ts.contains t)
      | _ => true } ts

/-! ## Draft lanes (R27, R300) -/

def laneTileOf (s : State) (t : Tid) : Option Nat :=
  (s.serving.lanes.find? fun e => (e.2.map fun l => l.tiles.contains t).getD false).map (·.1)

/-- A tile becomes a free spare again: ROLE 0b01 and step 0 (R65). -/
def freeSpare (s : State) (t : Tid) : State :=
  if roleOf s t = roleDark then s
  else
    let s := setRole s t roleSpare
    let s := tset s t R.TILE_STAT_CTX_VALID 0
    let s := tset s t R.TILE_STAT_CONTEXT 0
    let s := tset s t R.TILE_STAT_SLICE 0
    let s := tset s t R.PACE_STEP_TARGET 0
    setStep (modTile s t fun ts => { blankProgram ts with raise := none, settled := true }) t 0

def clearLaneStat (s : State) (l : Nat) : State :=
  let s := pset s (R.SP_LANE_STAT_OPEN.at l) 0
  let s := pset s (R.SP_LANE_STAT_SEATS.at l) 0
  let s := pset s (R.SP_LANE_STAT_CONTEXT.at l) 0
  pset s (R.SP_LANE_STAT_FIRST_DIE.at l) 0

/-- The seats of a lane are lost; a sequence whose pass had not started takes its next step with no
proposals. -/
def loseSeats (s : State) (l : Nat) (x : Lane) : State :=
  forEach (s.serving.seqs.filter fun q => q.seat = some l) s fun s q =>
    let waits := !q.catchup && (q.slot.map fun k => x.queue.contains k).getD false
    let s := modThis s q fun q => { q with seat := none, catchup := false, draftLen := 0 }
    if waits && isLive q then giveStep s q (plainStep (nextPos s q)) else s

/-- A lane closes; `taken` is the spare that leaves it (R27). -/
def closeLane (s : State) (l : Nat) (taken : Tid) : State :=
  match laneOf s l with
  | none => s
  | some x =>
    let seated := seatsUsed s l
    let s := loseSeats (setLane s l none) l x
    let s := clearLaneStat s l
    let s := forEach (x.tiles.filter fun t => t ≠ taken) s fun s t =>
      if roleOf s t = roleLane then freeSpare s t else s
    logPut s 0x0B11 sevWarning (svcSrc s) (x.ctx.val * 2 ^ 30 + l) (widx taken) seated

/-- Free spares of a context's dies, by die and tile (R300). -/
def freeSpares (s : State) (x : Context) : List Tid :=
  (((allDies.filter fun d => x.dies.contains d.val).map tilesOfDie).flatten).filter fun t =>
    roleOf s t = roleSpare

/-- The context uses draft-model tiles (R160). -/
def usesDraft (x : Context) : Bool :=
  x.caps.draftLayers.toNat ≠ 0 && !(tbit x.disabled.toNat 2) && tbit (namedUnits x.caps).toNat 2

/-- The lowest lane number that no open lane holds. -/
def freeLaneNo (s : State) : Option Nat := (List.range 32).find? fun l => (laneOf s l).isNone

/-- The die of a lane's first tile. -/
def laneDie (l : Lane) : Nat := (l.tiles.head?.map fun t => t.d.val).getD 0

/-- State frames for the draft caches of the seats of the lanes whose first die this is; those that a closed lane
left there serve again (R302). -/
def takeDraftFrames (s : State) (c : Nat) (x : Context) (d : Nat) : State :=
  let lanes := ((lanesOf s c).filter fun e => laneDie e.2 = d).length
  let held := ((dieOf s d).frames.filter fun e =>
    (e.2.map fun r => decide (r.type = 2 ∧ r.layer = 2)).getD false).length
  forEach (List.range (lanes * x.seats * cdiv x.image.serve.draftBytes frameBytes - held)) s fun s _ =>
    takeStateFrame s d c 2

/-- One lane forms from the first free spares; none forms without enough spares or a number. -/
def formLane (s : State) (c : Fin 4) : Option State :=
  match ctxOf s c.val with
  | none => none
  | some x =>
    let n := x.caps.draftLayers.toNat
    let spares := freeSpares s x
    match freeLaneNo s with
    | none => none
    | some l =>
      if !(usesDraft x) || spares.length < n then none
      else
        let ts := spares.take n
        let s := setLane s l (some ⟨c, ts, x.seats, [], false⟩)
        let s := takeDraftFrames s c.val x (laneDie ⟨c, ts, x.seats, [], false⟩)
        let s := pset s (R.SP_LANE_STAT_OPEN.at l) 1
        let s := pset s (R.SP_LANE_STAT_SEATS.at l) x.seats
        let s := pset s (R.SP_LANE_STAT_CONTEXT.at l) c.val
        let s := pset s (R.SP_LANE_STAT_FIRST_DIE.at l) (laneDie ⟨c, ts, x.seats, [], false⟩)
        some (forEach ts.zipIdx s fun s e =>
          let s := setRole s e.1 roleLane
          let s := programTile s c.val x ts (ctxLayers x + e.2) 0 e.1
          let s := tset s e.1 R.PACE_STEP_TARGET 0
          startTile (residentCopy s x x.image (ctxLayers x + e.2) 0 e.1) e.1)

/-- SP_LANES_FORMED (Table 11.15). -/
def logLanes (s : State) (c : Fin 4) (n : Nat) : State :=
  match ctxOf s c.val with
  | none => s
  | some x => logPut s 0x0B10 sevNotice (svcSrc s) (c.val * 2 ^ 30 + n) x.seats (freeSpares s x).length

/-- Every lane that the free spares allow, at a load. -/
def formLanes (c : Fin 4) : Nat → Nat → State → State
  | 0, n, s => if n = 0 then s else logLanes s c n
  | fuel + 1, n, s =>
    match formLane s c with
    | some s => formLanes c fuel (n + 1) s
    | none => if n = 0 then s else logLanes s c n

/-! ## The state of a tile after a reset (R432, R434) -/

def keyDie (k : Nat) : Nat := k / 17179869184
def keyTile (k : Nat) : Nat := k / 536870912 % 32
def keyBlk (k : Nat) : Nat := k / 2097152 % 256
def keyOff (k : Nat) : Nat := k / 32 % 65536
def keyLo (k : Nat) : Nat := k % 32

/-- A field that keeps its value: "from repair map" or "from calibration"; RAIL is set by the reset. -/
def keptByTile (k : Nat) : Bool :=
  let at_ (f : Fld) : Bool := f.blk = keyBlk k && f.off = keyOff k && f.lo = keyLo k
  at_ R.TILE_STAT_ROLE || at_ R.MITTEN_TILE_RAIL || at_ R.MITTEN_TILE_PHASES_OK || at_ R.MITTEN_TILE_MAX_STEP
    || at_ R.TH_HOT_A_FAILED || at_ R.TH_HOT_B_FAILED
    || (keyBlk k = R.CROSS_CAL_CAL_MAX_N.blk && keyOff k = R.CROSS_CAL_CAL_MAX_N.off)
    || (keyBlk k = R.MITTEN_STAT_FAILED.blk && 0x40 ≤ keyOff k && keyOff k < 0x80
      && keyLo k ≠ R.MITTEN_STAT_CURRENT.lo)

/-- Highest block of the tile blocks that R434 names. -/
def lastResetBlk : Nat := 6

/-- Registers after a tile reset. DEDUCED (notes/assumptions/100): R434 resets QC_STAT with its block, so FORCED_Q8
reads 0 at once, although R113 keeps a forced layer until a reload. -/
def resetTileRegs (s : State) (t : Tid) : State :=
  let s := { s with regs := s.regs.filter fun e =>
    !(keyDie e.1 = t.d.val && keyTile e.1 = t.t.val && keyBlk e.1 ≤ lastResetBlk && !(keptByTile e.1)) }
  let s := tset s t R.PACE_STEP_TARGET (fieldOf s F.PC_INIT_STEP)
  tset s t R.PACE_STEP_EFFECTIVE 0

/-- What a tile holds once its rail has been off: stores as at power-on; caps that other rules keep, and what its mesh
domain holds, which stays powered (R189). -/
def coldTile (ts : TileState) : TileState :=
  { TileState.reset with
    crossings := ts.crossings, staging := ts.staging, granted := ts.granted, flights := ts.flights
    routes := ts.routes, mcast := ts.mcast, serial := ts.serial, ringTrim := ts.ringTrim, halfBad := ts.halfBad
    inEpisode := ts.inEpisode, stormClear := ts.stormClear
    wanted := ts.wanted, badHistory := ts.badHistory, fencePend := ts.fencePend
    caps := { Caps.none with phase := ts.caps.phase, budget := ts.caps.budget, flow := ts.caps.flow } }

/-- The reset of a tile: its registers and what it holds; a check in progress counts as abandoned in the registers
after the reset (R112). -/
def resetTile (s : State) (t : Tid) : State :=
  let busy := (tileOf s t).capture.isSome
  let s := modTile (resetTileRegs s t) t coldTile
  if busy then tinc s t R.QC_CHECK_COUNT_ABANDONED else s

/-! ## The end of a turn-on (R360) -/

/-- A turn-on leaves the list; TURN_ON caps that it alone held are released. -/
def endTurnOn (s : State) (t : Tid) : State :=
  match (dieOf s t.d.val).turnOns.find? fun e => e.tile = t.t.val with
  | none => s
  | some e =>
    let s := modDie s t.d.val fun x => { x with turnOns := x.turnOns.filter fun y => y.tile ≠ t.t.val }
    let still (i : Nat) : Bool := (dieOf s t.d.val).turnOns.any fun y => y.capped.contains i
    forEach (e.capped.filter fun i => !(still i)) s fun s i =>
      modTile s ⟨t.d, tileNo i⟩ fun ts => { ts with caps := { ts.caps with turnOn := 15 } }

/-! ## The end of a test slice (R445, R451) -/

/-- Coverage of a slice kind in percent (Table 19.1). -/
def coverageOf (kind : Nat) : Byte :=
  match kind with
  | 0 => 97
  | 1 => 100
  | 2 => 95
  | n => Config.sliceCoverage n

/-- Test records that a die keeps. -/
def ringSize : Nat := 256

def pushRecord (s : State) (d : Nat) (r : TestRec) : State :=
  modDie s d fun x => { x with ring := (x.ring ++ [r]).drop (x.ring.length + 1 - ringSize) }

def dirOf (i : Nat) : Dir :=
  match i with
  | 0 => .n
  | 1 => .e
  | 2 => .s
  | _ => .w

/-- What waited for a slice: groups at the layer's barrier, and lines at a looped crossing. -/
def noteWaits (s : State) (t : Tid) (x : SliceRun) : State :=
  let longest (since : Nat) : Nat := (now s - max since x.start) / 1000
  let gs := s.serving.groups.filter fun g =>
    tileCtx s t = some g.ctx.val && g.layer = tileLayer s t && !g.inside && x.start ≤ g.since
  let s := forEach gs s fun s g => rmax s t.d.val dieScope R.SK_WAITS_WAIT_US_MAX (longest g.since)
  let c := crossingOf s t (dirOf x.id.index)
  match c.held with
  | some since =>
    if x.id.kind.val = 3 then rmax s t.d.val dieScope R.SK_WAITS_WAIT_US_MAX (longest since) else s
  | none => s

/-- A slice ends: its record, what waited for it, and the crossing it held (0 passed, 1 failed, 2
abandoned). -/
def closeSlice (s : State) (t : Tid) (x : SliceRun) (outcome : Byte) (micros : Half) : State :=
  let s := noteWaits s t x
  let s := modTile s t fun ts => { ts with slice := none }
  let s := tset s t R.SK_TILE_STAT_BUSY 0
  let s := pushRecord s t.d.val
    { stamp := stamp s, tile := BitVec.ofNat 16 (widx t), kind := BitVec.ofNat 8 x.id.kind.val
      index := BitVec.ofNat 8 x.id.index, outcome := outcome
      coverage := if outcome = 2 then 0 else coverageOf x.id.kind.val, micros := micros }
  if x.id.kind.val = 3 then releaseLooped s t (dirOf x.id.index) else s

/-- A slice that runs on the tile is abandoned; one that a fault has started is placed again later (R445). -/
def abandonSlice (s : State) (t : Tid) : State :=
  match (tileOf s t).slice with
  | none => s
  | some x =>
    let s := closeSlice (tinc s t R.SK_TILE_FAIL_ABANDONED) t x 2 (BitVec.ofNat 16 ((now s - x.start) / 1000))
    if x.asked then modTile s t fun ts => { ts with wanted := x.id :: ts.wanted } else s

/-- A check in progress is abandoned (R112). -/
def abandonCheck (s : State) (t : Tid) : State :=
  if (tileOf s t).capture.isNone then s
  else
    let s := tset (tinc s t R.QC_CHECK_COUNT_ABANDONED) t R.QC_STAT_CHECK_BUSY 0
    modTile s t fun ts => { ts with capture := none }

end Sys2Proof.Machine
end

