-- ==== Sys2Proof/Machine/Contexts.lean ====
section
/-! DEFINITION. The end of a context: its lanes, tiles, frames, remote pages and keys are released (R159,
R325), and the refusal of a load (Table 6.6). -/
namespace Sys2Proof.Machine

/-! ## Releasing what a context holds -/

/-- The lanes of a context are released. -/
def releaseLanes (s : State) (c : Nat) : State :=
  forEach (lanesOf s c) s fun s e => clearLaneStat (loseSeats (setLane s e.1 none) e.1 e.2) e.1

/-- A tile serves no context any more: its role is that of the repair map, its program and translations
are gone. -/
def vacateTile (s : State) (t : Tid) : State :=
  if roleOf s t = roleDark then s
  else
    let home := homeRole s t
    let s := freeSpare (abandonCheck s t) t
    let s := modTile s t fun ts => { ts with tlb := [], tlbNext := [], walkCache := [], invPending := [] }
    if home = roleSpare then s
    else setRole (tset s t R.PACE_STEP_TARGET (fieldOf s F.PC_INIT_STEP)) t home

/-- The pool no longer counts a page-out that is dropped. -/
def dropPageOut (s : State) (e : PageOut) : State :=
  let i := e.index / 2 ^ 47
  poolCheck (setPool s e.port i ((poolOf s e.port i).map fun q => { q with used := q.used - 1 })) e.port i

/-- Remote pages of a die are released (R229). -/
def dropRemote (s : State) (d : Nat) : State :=
  let s := forEach (dieOf s d).pageOuts s dropPageOut
  forEach [0, 1] s fun s p =>
    forEach ((portOf s p).remote.filter fun e => (e.2.map fun r => decide (r.die = d)).getD false) s
      fun s e => releaseRemote s p e.1

/-- Every frame of a die is filled with zeros and returns to no context (R325); its tables and walker records
go with them. -/
def clearStack (s : State) (d : Nat) : State :=
  modDie (dropRemote s d) d fun x => { x with
    mem := [], badLines := [], l1 := [], l2 := [], tableLost := [], frames := [], walkers := [], bitmaps := [], masks := []
    returnQ := [], round := none, parkQ := [], grantJobs := [], pageOuts := [], pageIns := []
    pageFails := [], requants := [], breaches := [] }

def setCtxRegs (s : State) (c state dies first entry : Nat) : State :=
  let s := setCtxState s c state
  let s := pset s (R.CTX_STAT_DIES.at c 16) dies
  let s := pset s (R.CTX_STAT_FIRST_DIE.at c 16) first
  pset s (R.CTX_STAT_ENTRY.at c 16) entry

def setProgress (s : State) (c unit permille : Nat) : State :=
  let s := pset s (R.WT_PROGRESS_UNIT.at c 16) unit
  pset s (R.WT_PROGRESS_PERMILLE.at c 16) permille

/-- The tiles of a context's dies. -/
def ctxTiles (x : Context) : List Tid :=
  ((allDies.filter fun d => x.dies.contains d.val).map tilesOfDie).flatten

/-- Live sequences of a context end with a reason; `code` names the event. -/
def endLive (s : State) (c reason code : Nat) : State :=
  forEach (s.serving.seqs.filter fun q => q.ctx.val = c && isLive q) s fun s q => endSeq s q reason code

/-- Everything that a context holds is released, and its dies return to no context. Sequences that a full
load after a reset still held (R326) end with a device error. -/
def teardown (s : State) (c : Nat) : State :=
  match ctxOf s c with
  | none => s
  | some x =>
    let s := endLive s c 6 0x0611
    let s := forEach (s.serving.seqs.filter fun q => q.ctx.val = c && q.kept) s releaseSeq
    let s := releaseLanes (dropGroups s c) c
    let s := modServing s fun v => { v with
      groupSeq := v.groupSeq.filter fun e => e.1 / 65536 ≠ c }
    let s := dropGroupTables (dropCtrl s (ctxTiles x)) c
    let s := forEach (ctxTiles x) s vacateTile
    let s := forEach x.dies s clearStack
    let s := setCtxRegs (setCtx s c none) c 0 0 0 0
    let s := pset s (R.CTX_VERSION_VERSION.at c 16) 0
    setProgress s c 0 0

/-! ## The load report and refusals (Tables 6.6 and 6.11) -/

def noReport : Nat → Option LoadReport := fun _ => none
def reportOf (s : State) (c : Nat) : Option LoadReport := kget noReport s.loader.reports c
def setReport (s : State) (c : Nat) (r : LoadReport) : State :=
  modLoader s fun l => { l with reports := kset noReport l.reports c (some r) }

def blankReport : LoadReport where
  result := 0
  reason := 0
  tiles := 0
  layers := 0
  dies := []
  variants := []
  disabled := 0
  density := 0
  pack := 0
  detail := 0
  field := 0
  pipes := []
  sigSkipped := false

/-- A loader operation is refused: its load report and LOAD_REFUSED. -/
def refuseOp (s : State) (c reason detail step : Nat) (r : LoadReport) : State :=
  let s := setReport s c { r with
    result := 1, reason := reason, detail := BitVec.ofNat 32 detail }
  logPut s 0x0611 sevError (svcSrc s) (c * 2 ^ 30 + reason) detail step

def reasonProgramming : Nat := 0x0D
def reasonWeights : Nat := 0x0E

/-- A load that ends at step 9 or later: what it wrote is unloaded (R159). -/
def failLoad (s : State) (c reason detail step : Nat) : State :=
  refuseOp (teardown s c) c reason detail step ((reportOf s c).getD blankReport)

/-- A context that is being unloaded loses its work in flight: its sequences are at a boundary and end there
(R285, R325). -/
def cutUnload (s : State) (c : Nat) : State :=
  if ctxState s c ≠ 4 then s
  else
    let s := forEach (s.serving.seqs.filter fun q => q.ctx.val = c && isLive q) s fun s q =>
      endSeq s q (if q.cancelWait.isEmpty then 7 else 4) 0
    dropGroups s c

/-- A context is loading and its operation named a die (Table 6.9). -/
def loadUses (s : State) (c d : Nat) : Bool :=
  ctxState s c = 1 && ((ctxOf s c).map fun x => x.dieSet.contains d || x.dies.contains d).getD false

/-- A load in progress is abandoned (Tables 6.9 and 18.5): reason 0x0D while its weights stream. -/
def abandonLoad (s : State) (c detail : Nat) : State := failLoad s c reasonProgramming detail 11

end Sys2Proof.Machine
end

