-- ==== Sys2Proof/Machine/Fence.lean ====
section
/-! DEFINITION. A fence with its takeover and rollback restart (R66, R452), and a failed die (R364, R453). -/
namespace Sys2Proof.Machine

/-! ## A fence and its takeover (R66, R452) -/

def causeDetail : FenceCause → Nat
  | .factory => 0 | .phases => 1 | .railShort => 2 | .slice => 3 | .firmware => 4 | .cores => 5
  | .grid => 6 | .request => 7

/-- The spare for a fenced tile: of its half, else of the other half; a spare outside a lane first. -/
def chooseSpare (s : State) (t : Tid) : Option Tid :=
  let find (half role : Nat) : Option Tid :=
    (tilesOfDie t.d).find? fun j => j ≠ t && halfOf j.t.val = half && roleOf s j = role
  let h := halfOf t.t.val
  (find h roleSpare).orElse fun _ => (find h roleLane).orElse fun _ =>
    (find (1 - h) roleSpare).orElse fun _ => find (1 - h) roleLane

/-- Dies on the straight way from one die to another, east or west first (R190). -/
def pathDies (a b : Nat) : List Nat :=
  let between (p q : Nat) : List Nat :=
    if p ≤ q then (List.range (q - p + 1)).map (p + ·) else (List.range (p - q + 1)).map (q + ·)
  ((between (a % 8) (b % 8)).map fun c => 8 * (a / 8) + c)
    ++ (between (a / 8) (b / 8)).map fun r => 8 * r + b % 8

/-- A context uses a die, or its routes or the projection's multicast tree cross it (R364). -/
def crossesDie (x : Context) (d : Nat) : Bool :=
  x.dies.contains d
    || ((stepVariants x).any fun v => v.2.2.subs.any fun l =>
      ((relTile v.1 l.1).map fun t => decide (t.d.val = d)).getD false)
    || match x.dies.getLast? with
      | some last => x.dies.any fun m => (pathDies last m).contains d
      | none => false

/-- A die has failed: the repair map, its lanes, the contexts that use or cross it, DIE_FAILED (R364,
R453). -/
def failDie (s : State) (d : Fin 56) (detail : Nat) : State :=
  if dieFailed s d.val then s
  else
    let s := rmAdd s 0x0C d.val 0 detail
    let s := modDie s d.val fun x => { x with failed := true }
    let s := forEach (tilesOfDie d) s fun s t =>
      match laneTileOf s t with
      | some l => closeLane s l t
      | none => s
    let hit := (List.range 4).filter fun c =>
      ctxServing s c && ((ctxOf s c).map fun x => crossesDie x d.val).getD false
    let s := forEach hit s fun s c => stopContext s c 0x1313
    let s := forEach (List.range 4) s fun s c =>
      if loadUses s c d.val then abandonLoad s c d.val else s
    logPut s 0x1313 sevError (svcSrc s) d.val detail (hit.foldl (fun a c => a + 2 ^ c) 0)

/-- Replace a fenced tile by its spare in the context's placement, and write the spare. -/
def takeOver (s : State) (c : Nat) (t spare : Tid) (key : Nat) : State :=
  let s := modCtx s c fun x => { x with
    place := x.place.map fun e => if e.2 = t then (e.1, spare) else e
    moved := x.moved ++ [(widx t, widx spare)] }
  match ctxOf s c with
  | none => s
  | some x =>
    let s := freshWindow (setRole s spare roleActive) spare
    let s := meshTables (programTile s c x [] (key / 64) (key % 64) spare) c x
    let s := tset s spare R.QC_STAT_FORCED_Q8 (tget s t R.QC_STAT_FORCED_Q8)
    let img := match x.replacing with
      | some r => if key / 64 < r.unit then r.image else x.image
      | none => x.image
    residentCopy s x img (key / 64) (key % 64) spare

/-- The rollback restart of a serving context after its spare is written (R452 steps 5 and 6). -/
def restartSlices (s : State) (c : Fin 4) (spare : Tid) : State :=
  match ctxOf s c.val with
  | none => s
  | some x =>
    let s := dropCtrl s (x.place.map (·.2))
    let s := forEach x.place s fun s e =>
      startTile (if e.2 = spare then s else restoreTile s c.val x e.1 e.2) e.2
    forEach (lanesOf s c.val) s fun s l => forEach l.2.tiles.zipIdx s fun s e =>
      startTile (restoreTile s c.val x (posKey (ctxLayers x + e.2) 0) e.1) e.1

/-- A takeover between steps 10 and 12 of a load: what the loader has written into the other tiles names the spare
(R121, R166, Table 6.9). -/
def patchOthers (s : State) (c : Nat) (spare : Tid) : State :=
  match ctxOf s c with
  | none => s
  | some x => forEach x.place s fun s e => if e.2 = spare then s else restoreTile s c x e.1 e.2

/-- A fenced tile is dark: ROLE 0b11, its program gone, its slice abandoned without a restore; it leaves the
die's storm episode. -/
def darken (s : State) (t : Tid) : State :=
  let s := leaveEpisode (abandonCheck (abandonSlice (endTurnOn s t) t) t) t
  let s := setRole s t roleDark
  let s := tset s t R.TILE_STAT_CTX_VALID 0
  let s := tset s t R.PACE_STEP_EFFECTIVE 0
  let s := if tget s t R.MITTEN_TILE_RAIL = 3 then s else tset s t R.MITTEN_TILE_RAIL 0
  modTile s t fun ts => { blankProgram ts with
    qstop := true, wanted := [], raise := none, fencePend := none }

def tileFenced (s : State) (t : Tid) (detail spare : Nat) : State :=
  logPut s 0x1311 sevWarning (.tile t) (widx t * 2 ^ 16) detail spare

/-- A fenced active tile that holds no slice: a spare stands in for it, or the die has failed (R66). -/
def idleTakeOver (s : State) (t : Tid) (detail : Nat) : State :=
  match chooseSpare s t with
  | none => failDie (tileFenced s t detail 0xFFFFFFFF) t.d 1
  | some spare =>
    let s := tileFenced s t detail (widx spare)
    let s := match laneTileOf s spare with
      | some l => closeLane s l spare
      | none => s
    setRole s spare roleActive

/-- A dark tile's place: a tile of a main pipeline is taken over by a spare, and the context, when it serves,
rolls back and restarts (R452). -/
def fenceHome (s : State) (t : Tid) (detail : Nat) (active : Bool) (home : Option (Nat × Nat)) : State :=
  match home with
  | none => if active then idleTakeOver s t detail else tileFenced s t detail 0xFFFFFFFF
  | some (c, key) =>
    match chooseSpare s t with
    | none => failDie (tileFenced s t detail 0xFFFFFFFF) t.d 1
    | some spare =>
      let s := tileFenced s t detail (widx spare)
      let serving := ctxServing s c && s.plane.powered && !s.plane.cpHeld
      let cf : Fin 4 := Fin.ofNat 4 c
      let n := (s.serving.groups.filter fun g => g.ctx = cf).length
      let s := if serving then discardAll s cf else cutUnload s c
      let s := match laneTileOf s spare with
        | some l => closeLane s l spare
        | none => s
      let s := takeOver s c t spare key
      if serving then
        let s := restartSlices s cf spare
        let us := Config.freeMicros (freeNo s)
        logPut (bumpFree s) 0x1312 sevNotice (svcSrc s) (c * 2 ^ 30 + widx spare * 2 ^ 16) us n
      else if ctxState s c = 1 then patchOthers s c spare
      else s

/-- Fence a tile (R452): it goes dark, the repair map takes it, and its place is taken. -/
def fenceTile (s : State) (t : Tid) (cause : FenceCause) : State :=
  if roleOf s t = roleDark then s
  else
    let home := (tileCtx s t).bind fun c => (ctxOf s c).bind fun x => (placeOf x t).map fun k => (c, k)
    let v := rmAdd (darken s t) 0x01 t.d.val t.t.val (causeDetail cause)
    fenceHome (modPlane v fun p => { p with fenced := p.fenced + 1 }) t (causeDetail cause)
      (roleOf s t = roleActive) home

end Sys2Proof.Machine
end

