-- ==== Sys2Proof/Machine/Tadpole.lean ====
section
/-! DEFINITION. The commands of the Tadpole grid (R150), with the orientation of R382. -/
namespace Sys2Proof.Machine

def noRegion : Nat → GridRegion := fun _ => ⟨0, 0, 0, 0, 0⟩

/-- A configured region; a region of width 0 is not configured. -/
def regionOf (ts : TileState) (r : Nat) : Option GridRegion :=
  let g := kget noRegion ts.regions r
  if g.wd = 0 then none else some g

def setRegion (ts : TileState) (r : Nat) (g : GridRegion) : TileState :=
  { ts with regions := kset noRegion ts.regions r g }

/-- Two rectangles share a core. -/
def rectsMeet (a b : GridRegion) : Bool :=
  a.x0 < b.x0 + b.wd && b.x0 < a.x0 + a.wd && a.y0 < b.y0 + b.ht && b.y0 < a.y0 + a.ht

/-- Bytes of a core's memory. -/
def coreBytes : Nat := 16384

/-- The address of a logical core's memory. -/
def coreAddr (x y : Nat) : Nat := coreBytes * (8 * y + x)

/-- Every core of a region holds the configuration image from the start of its memory on. -/
def loadCores (ts : TileState) (g : GridRegion) (image : List Byte) : TileState :=
  { ts with coreMem := (List.range g.ht).foldl (fun m j => (List.range g.wd).foldl (fun m i =>
      mstore m (coreAddr (g.x0 + i) (g.y0 + j)) image) m) ts.coreMem }

/-- The configuration image of a region, as its first core's memory holds it. -/
def regionImage (ts : TileState) (g : GridRegion) : List Byte := mbytes ts.coreMem (coreAddr g.x0 g.y0) g.len

/-- A logical core lies in a region. -/
def rectHas (a : GridRegion) (x y : Nat) : Bool :=
  a.x0 ≤ x && x < a.x0 + a.wd && a.y0 ≤ y && y < a.y0 + a.ht

/-- The rectangle of word 1 of TG.CFG. -/
def cfgRect (d : Desc) : GridRegion :=
  ⟨dbits d.w1 0 3, dbits d.w1 3 3, dbits d.w1 6 3 + 1, dbits d.w1 9 3 + 1, 0⟩

/-- A line range of a descriptor word: line 16:0, count 33:17. -/
def lineRange (w : DWord) : Nat × Nat := (dbits w 0 17, dbits w 17 17)

/-- The lines of a nonempty range lie inside the buffer. -/
def rangeBad (w : DWord) : Bool := (lineRange w).2 ≠ 0 && !(linesOk (lineRange w).1 (lineRange w).2)

def tgRegion (d : Desc) : Nat := descFlags d % 4

def tgCfgChecks (s : State) (t : Tid) (d : Desc) : List Check :=
  let r := cfgRect d
  let meets (i : Nat) : Bool :=
    i ≠ tgRegion d && ((regionOf (tileOf s t) i).map (rectsMeet r)).getD false
  headerChecks s t d 3 ++ zeroWords d [3, 4, 5, 6, 7]
    ++ [zeroFrom d 1 12, zeroFrom d 2 34, (8 < r.x0 + r.wd || 8 < r.y0 + r.ht, reasonRange, 1),
        (64 < (lineRange d.w2).2 || rangeBad d.w2, reasonRange, 2),
        ((List.range 4).any meets, reasonRegion, 1)]

/-- Waves between changes of the orientation (R382). -/
def orientWaves : Nat := 2 ^ 20

/-- The orientation advances at a TG.CFG with no region configured (R382). -/
def orient (ts : TileState) (waves : DWord) : TileState :=
  if (List.range 4).all (fun r => (regionOf ts r).isNone)
      && orientWaves ≤ waves.toNat - ts.gridWave.toNat then
    { ts with gridOrient := ts.gridOrient + 1, gridWave := waves }
  else ts

def tgCfgEff (t : Tid) (errs : List MemErr) (s : State) : State :=
  startCmd 0x40 3 s t fun c s =>
    let d := c.desc
    checked s t 3 c (tgCfgChecks s t d) fun s =>
      let (line, n) := lineRange d.w2
      let s :=
        if n = 0 then s
        else
          let waves := wavesNow s t
          modTile (bufReads s t [(line * lineBytes, n * lineBytes)] errs) t fun ts =>
            let g := { cfgRect d with len := n * lineBytes }
            loadCores (setRegion (orient ts waves) (tgRegion d) g) g (bufRead ts (line * lineBytes) (n * lineBytes))
      launch s t 3 c 1

def tgRunChecks (s : State) (t : Tid) (d : Desc) : List Check :=
  headerChecks s t d 3 ++ zeroWords d [4, 5, 6, 7]
    ++ [zeroFrom d 2 34, zeroFrom d 3 34, (rangeBad d.w2, reasonRange, 2), (rangeBad d.w3, reasonRange, 3),
        ((regionOf (tileOf s t) (tgRegion d)).isNone, reasonRegion, 0)]

/-- The output bytes of a run: what the configuration gives (notes/assumptions/2). -/
def runOutput (s : State) (image : List Byte) (args : DWord) (input : List Byte) (n : Nat) : List Byte :=
  (List.range n).map fun i =>
    Config.tadpole image (args.extractLsb' 0 32) (args.extractLsb' 32 32) input (freeNo s) i

def tgRunEff (t : Tid) (errs : List MemErr) (s : State) : State :=
  startCmd 0x41 3 s t fun c s =>
    let d := c.desc
    checked s t 3 c (tgRunChecks s t d) fun s =>
      let (il, ic) := lineRange d.w2
      let (ol, oc) := lineRange d.w3
      let s :=
        match regionOf (tileOf s t) (tgRegion d) with
        | none => s
        | some g =>
          if ic = 0 || oc = 0 then s
          else
            let s := bufReads s t [(il * lineBytes, ic * lineBytes)] errs
            let input := bufRead (tileOf s t) (il * lineBytes) (ic * lineBytes)
            let out := runOutput s (regionImage (tileOf s t) g) d.w1 input (oc * lineBytes)
            bumpFree (modTile s t fun ts => bufWrite ts (ol * lineBytes) out)
      launch s t 3 c 1

def tgFreeChecks (s : State) (t : Tid) (d : Desc) : List Check :=
  headerChecks s t d 3 ++ zeroWords d [1, 2, 3, 4, 5, 6, 7]

def tgFreeEff (t : Tid) (s : State) : State :=
  startCmd 0x42 3 s t fun c s =>
    let d := c.desc
    checked s t 3 c (tgFreeChecks s t d) fun s =>
      launch (modTile s t fun ts => setRegion ts (tgRegion d) (noRegion 0)) t 3 c 1

def execTgCfg (t : TileRun) (s : State) : Res := .next (tgCfgEff t.tile t.errs s)
def execTgRun (t : TileRun) (s : State) : Res := .next (tgRunEff t.tile t.errs s)
def execTgFree (t : Tid) (s : State) : Res := .next (tgFreeEff t s)

end Sys2Proof.Machine
end

