-- ==== Sys2Proof/Machine/TileEvents.lean ====
section
/-! DEFINITION. Events of a tile: buffer words (R57, R219, R455), rotation of quadrants and vector cores
(R45, R48, R382), a failed grid core (R51), the fence request, the tile reset (R432), the fence (R452), and
draft lanes that close and form (R27, R300). -/
namespace Sys2Proof.Machine

/-! ## Buffer words (R57) -/

/-- A pending write-back of a corrected word takes place; newer data that committed since has dropped it
(R219). -/
def eccWritebackEff (t : Tid) (line word : Nat) (s : State) : State :=
  if (tileOf s t).writeBacks.contains (line, word) then
    modTile s t fun ts => { ts with writeBacks := ts.writeBacks.filter fun e => e ≠ (line, word) }
  else s

/-- Layer and position of the slice that a tile runs, a lane's tile included. -/
def sliceKey (s : State) (t : Tid) (x : Context) : Nat × Nat :=
  let n := tget s t R.TILE_STAT_SLICE
  (n / x.tiles, n % x.tiles)

/-- The row of the region table that holds a line of a tile. -/
def regionAt (s : State) (t : Tid) (line : Nat) : Option (Nat × Context × Region) :=
  match tileCtx s t with
  | none => none
  | some c =>
    match ctxOf s c with
    | none => none
    | some x =>
      let k := sliceKey s t x
      ((templateOf x x.image).regions.find? fun r =>
        r.layer = k.1 && r.pos = k.2 && r.first ≤ line && line < r.first + r.count).map fun r => (c, x, r)

/-- A word of TILE_ECC_ADDR. -/
def eccAddrWord (line word : Nat) : Nat := 2 ^ 31 + word * 2 ^ 17 + line

/-- A line of resident weights: the loader fetches its page's chunk again, the page is copied into the
buffer again, and the group inside has its step discarded (R57, R319). -/
def residentLost (s : State) (t : Tid) (x : Context) (r : Region) (line : Nat) : State :=
  let va := r.va + (line - r.first) * lineBytes
  let vpn := va / frameBytes
  let e := l2Of s t.d.val vpn
  let s := match groupAt s t with
    | some g => modGroup s g.id fun g => { g with discarded := true }
    | none => s
  if pteV e then
    let f := pteFid e
    let s := modTile s t fun ts =>
      bufWrite ts (line * lineBytes) (stackRead s t.d.val f (va % frameBytes) lineBytes)
    match frameOf s t.d.val f with
    | some k => startRefetch s t.d.val vpn k.version
    | none => s
  else s

/-- The Bowler acts on the oldest signalled word: BUF_UNCORR; weights are copied again, other state ends
every member of the group inside (Table 19.5). -/
def bowlerBufferEff (t : Tid) (s : State) : State :=
  match (tileOf s t).bufNotices with
  | [] => s
  | (line, word) :: rest =>
    let s := modTile s t fun ts => { ts with bufNotices := rest }
    let row := regionAt s t line
    let kind := (row.map fun r => r.2.2.kind.val).getD 3
    let s := logPut s 0x1314 sevError (.die t.d.val) (widx t * 2 ^ 16) (eccAddrWord line word) kind
    match row with
    | some (_, x, r) =>
      if r.kind = 0 then residentLost s t x r line
      else
        match groupAt s t with
        | some g => doomGroup s g 0x1314
        | none => s
    | none =>
      match groupAt s t with
      | some g => doomGroup s g 0x1314
      | none => s

/-- The scrub walks the words of a powered tile's buffer and meets the listed errors. -/
def bufferScrubEff (t : Tid) (errs : List MemErr) (s : State) : State :=
  if !(railOn s t) then s
  else forEach errs s fun s e =>
    match e with
    | .bufSingle .. | .bufDouble .. => applyErr s t e
    | _ => s

/-! ## Rotation (R45, R48) -/

/-- Waves between rotations of the quadrants and alternations of the vector cores. -/
def rotateWaves : Nat := 2 ^ 16

/-- An accumulation group of the tile is open. -/
def anyOpen (ts : TileState) : Bool := ts.groups.any fun g => g.2.opened

def quadrantRotateEff (t : Tid) (s : State) : State :=
  let ts := tileOf s t
  let waves := wavesNow s t
  if waves.toNat - ts.quadWave.toNat < rotateWaves || anyOpen ts then s
  else modTile s t fun ts => { ts with quadRot := ts.quadRot + 1, quadWave := waves }

/-- The logical cores with a command in a queue, as bits. -/
def newtQueued (ts : TileState) : BitVec 2 :=
  (if (queueOf ts 1).isEmpty then 0 else 1) ||| (if (queueOf ts 2).isEmpty then 0 else 2)

/-- At a command boundary after the period: where one logical core alone had commands, issued or waiting, it moves
to the other physical core. -/
def newtAlternateEff (t : Tid) (s : State) : State :=
  let ts := tileOf s t
  let waves := wavesNow s t
  if waves.toNat - ts.newtWave.toNat < rotateWaves || tget s t R.TILE_STAT_NEWT_FENCE ≠ 0
      || !(inFlightOf ts 1).isEmpty || !(inFlightOf ts 2).isEmpty then s
  else
    let one := ts.newtUse = 1 || ts.newtUse = 2
    modTile s t fun ts => { ts with
      newtAlt := if one then !ts.newtAlt else ts.newtAlt, newtWave := waves, newtUse := newtQueued ts }

/-! ## A failed grid core (R51) -/

/-- The logical core that a physical core serves (R382). -/
def logicalCore (o : BitVec 2) (x y : Nat) : Nat × Nat :=
  (if o.getLsbD 0 then 7 - x else x, if o.getLsbD 1 then 7 - y else y)

/-- A physical core of a region that runs a command fails: the Bowler is to fence the tile. -/
def gridFaultEff (t : Tid) (x y : Nat) (s : State) : State :=
  let ts := tileOf s t
  let c := logicalCore ts.gridOrient x y
  let hit := ts.inflight.any fun f => f.queue.val = 3 && f.op = 0x41
    && ((regionOf ts f.grp).map fun g => rectHas g c.1 c.2).getD false
  if hit && roleOf s t ≠ roleDark then
    modTile (raise s t R.TILE_FAULT_GRID_FAULT) t fun ts => { ts with fencePend := some .grid }
  else s

/-! ## Fence and reset -/

/-- FENCE_REQ of TILE_CTRL: the Bowler sends the tile its ORDER; a dark tile ignores it. -/
def fenceReqEff (t : Tid) (s : State) : State :=
  if roleOf s t = roleDark then s
  else post (modTile s t fun ts => { ts with fencePend := some (ts.fencePend.getD .request) }) (.order t .fence)

/-- The tile loses what it holds without power: state, stores and registers of its blocks (R432, R434). -/
def loseTile (s : State) (t : Tid) : State :=
  let s := abandonSlice s t
  let s := endTurnOn s t
  let s := resetTile s t
  tset s t R.MITTEN_TILE_RAIL 0

/-- TILE_RESET of TILE_CTRL: the served context stops, and the rail goes off; TURN_ON_REQUEST turns it on
again. A dark tile or an isolated rail ignores it, and a reset or state that holds every rail off absorbs
it. -/
def tileResetEff (t : Tid) (s : State) : State :=
  if roleOf s t = roleDark || tget s t R.MITTEN_TILE_RAIL = 3 || !s.plane.powered || s.plane.cpHeld
      || 2 ≤ pget s R.RS_STAT_STATE then s
  else
    let s := match laneTileOf s t with
      | some l => closeLane s l t
      | none => s
    let s := match tileCtx s t with
      | some c => stopContext s c 0
      | none => s
    let s := post (loseTile s t) (.order t .reset)
    if roleOf s t = roleLane then setRole s t roleSpare else s

def tileFenceEff (t : Tid) (cause : FenceCause) (s : State) : State :=
  if (tileOf s t).fencePend = some cause then fenceTile s t cause else s

/-! ## Lanes -/

/-- A lane whose tile has left it, to take over or fenced, closes (R27). -/
def laneCloseEff (l : Fin 32) (spare : Tid) (s : State) : State :=
  match laneOf s l.val with
  | some x => if x.tiles.contains spare && roleOf s spare ≠ roleLane then closeLane s l.val spare else s
  | none => s

/-- The loader forms one more lane from free spares (R300). -/
def laneFormEff (c : Fin 4) (s : State) : State :=
  if ctxServing s c.val then
    match formLane s c with
    | some s => logLanes s c 1
    | none => s
  else s

def execEccWriteback (t : Tid) (line : BitVec 17) (word : BitVec 5) (s : State) : Res :=
  .next (eccWritebackEff t line.toNat word.toNat s)
def execBowlerBufferUncorr (t : Tid) (s : State) : Res := .next (bowlerBufferEff t s)
def execBufferScrub (t : Tid) (errs : List MemErr) (s : State) : Res := .next (bufferScrubEff t errs s)
def execQuadrantRotate (t : Tid) (s : State) : Res := .next (quadrantRotateEff t s)
def execNewtAlternate (t : Tid) (s : State) : Res := .next (newtAlternateEff t s)
def execGridFault (t : Tid) (x y : BitVec 3) (s : State) : Res := .next (gridFaultEff t x.toNat y.toNat s)
def execFenceReq (t : Tid) (s : State) : Res := .next (fenceReqEff t s)
def execTileReset (t : Tid) (s : State) : Res := .next (tileResetEff t s)
def execTileFence (t : Tid) (cause : FenceCause) (s : State) : Res := .next (tileFenceEff t cause s)
def execLaneClose (l : Fin 32) (spare : Tid) (s : State) : Res := .next (laneCloseEff l spare s)
def execLaneForm (c : Fin 4) (s : State) : Res := .next (laneFormEff c s)

end Sys2Proof.Machine
end

