-- ==== Sys2Proof/Machine/Barrier.lean ====
section
/-! DEFINITION. Layer-entry barriers (R29, R30, R122, R132) and the messages of the control channel (R192,
R193): wave groups enter and leave layer groups, and admissions, signals, orders and reports arrive. -/
namespace Sys2Proof.Machine

/-! ## Layer groups -/

def layerTiles (x : Context) (layer : Nat) : List Tid :=
  x.place.filterMap fun e => if e.1 / 64 = layer then some e.2 else none

/-- The compute plane admits new groups: it is in Run with no reset in progress. -/
def planeOpen (s : State) : Bool :=
  s.plane.powered && !s.plane.cpHeld && !s.plane.dozing && pget s R.RS_STAT_STATE = 0

/-- Layer 0 admits groups of the context. -/
def admissionOpen (s : State) (c : Nat) : Bool := planeOpen s && ctxServing s c

/-- A replacement holds the group at the barrier of a unit (R322). -/
def heldByReplace (x : Context) (g : WGroup) (layer : Nat) : Bool :=
  match x.replacing with
  | none => false
  | some r => if layer = 0 then r.unit = 0 else g.newVer && r.unit ≤ layer

/-- The preceding chunk of the same sequence has not left the layer (R29). -/
def chunkBlocked (s : State) (g : WGroup) (layer : Nat) : Bool :=
  g.prefill && s.serving.groups.any fun h =>
    h.id ≠ g.id && h.ctx = g.ctx && h.prefill && h.layer ≤ layer
      && h.members.any fun m => g.members.any fun n => n.slot = m.slot && m.step.first < n.step.first

/-- Rank at a barrier: discarded steps, speed decode, decode, prefill and bubbles. -/
def groupRank (g : WGroup) : Nat :=
  if g.rerun then 0 else if g.prefill || g.bubble then 3 else if g.speed then 1 else 2

/-- Of the groups that may enter, the first of the best rank; groups stand in the order in which they
reached their barriers. -/
def bestGroup (l : List WGroup) : Option WGroup :=
  (List.range 4).findSome? fun r => l.find? fun g => groupRank g = r

/-- The group waits at the barrier of a layer and may enter. -/
def canEnter (s : State) (c : Nat) (x : Context) (layer : Nat) (g : WGroup) : Bool :=
  g.ctx.val = c && !g.inside && g.layer = layer && !(heldByReplace x g layer) && !(chunkBlocked s g layer)

def mayEnter (s : State) (c : Nat) (x : Context) (layer : Nat) : List WGroup :=
  s.serving.groups.filter (canEnter s c x layer)

/-- The layer whose layer group computes the projection slice of the die at a place (R32). -/
def projLayer (x : Context) (i : Nat) : Nat := min (x.perDie * (i + 1)) (ctxLayers x) - 1

/-- The group's projection work is in a state at the layer group of a layer. -/
def projAt (x : Context) (layer st : Nat) (g : WGroup) : Bool :=
  g.proj.any fun e => projLayer x e.1 = layer && e.2 = st

/-- What waits at the barrier of a layer and may enter: wave groups, and projection work with the rank of its
group (R32). -/
def waitingAt (s : State) (c : Nat) (x : Context) (layer : Nat) : List WGroup :=
  s.serving.groups.filter fun g => canEnter s c x layer g || (g.ctx.val = c && projAt x layer 0 g)

/-- A slice runs on a tile of the layer group. -/
def sliceIn (s : State) (l : List Tid) : Bool := l.any fun t => (tileOf s t).slice.isSome

/-- The layer group holds a wave group or the projection work of one. -/
def layerBusy (s : State) (c layer : Nat) : Bool :=
  s.serving.groups.any fun g => g.ctx.val = c
    && ((g.inside && g.layer = layer) || ((ctxOf s c).map fun x => projAt x layer 1 g).getD false)

/-- Projection work of a group at a place goes on to a state. -/
def setProj (s : State) (id : Nat) (p : Nat → Bool) (st : Nat) : State :=
  modGroup s id fun g => { g with proj := g.proj.map fun e => if p e.1 then (e.1, st) else e }

def layerKey (c layer : Nat) : Nat := c * 65536 + layer
def zeroN : Nat → Nat := fun _ => 0

/-- A group enters a layer group: it takes the layer's next admission number, and every tile has its ADMIT
message. -/
def enterLayer (s : State) (c : Nat) (x : Context) (g : WGroup) (layer : Nat) : State :=
  let no := kget zeroN s.serving.groupSeq (layerKey c layer)
  let s := modGroup s g.id fun h => { h with
    inside := true, dones := [], rerun := false
    newVer := if layer = 0 then x.replacing.isSome else h.newVer }
  let s := modServing s fun v => { v with
    groupSeq := kset zeroN v.groupSeq (layerKey c layer) ((no + 1) % 2 ^ 32) }
  if g.bubble then s else forEach (layerTiles x layer) s fun s t => post s (.admitted t g.id no)

/-- A group moves to the barrier of a layer and waits there behind the groups that reached it before. -/
def moveGroup (s : State) (g : WGroup) (layer : Nat) (inside : Bool) : State :=
  modServing s fun x => { x with
    groups := (x.groups.filter fun h => h.id ≠ g.id) ++
      [{ g with layer := layer, inside := inside, since := now s, dones := [] }] }

/-- A slice wait of a layer group whose barrier is reached while a slice runs in it (R37). -/
def countWait (s : State) (x : Context) (layer : Nat) : State :=
  if sliceIn s (layerTiles x layer) then dinc s (layerDie x layer) R.SK_WAITS_WAITS else s

/-- The hidden states reach every die of the context: their work waits at the barrier of each die's last layer
(R32). -/
def beginProj (s : State) (x : Context) (g : WGroup) : State :=
  let is := List.range x.dies.length
  forEach is (moveGroup s { g with proj := is.map fun i => (i, 0) } (ctxLayers x) true) fun s i =>
    countWait s x (projLayer x i)

/-- A free layer group admits the next group in rank order (R30). Layer LAYERS stands for the projection,
where only a replacement or a refetch holds groups. -/
def barrierAdmitEff (c : Fin 4) (layer : Nat) (s : State) : State :=
  match ctxOf s c.val with
  | none => s
  | some x =>
    let n := ctxLayers x
    let opened : Bool := if layer = 0 then admissionOpen s c.val
      else ctxServing s c.val || ctxState s c.val = 4
    if !opened || n < layer || unitClosed x layer then s
    else if layer = n then
      match (mayEnter s c.val x layer).head? with
      | some g => beginProj s x g
      | none => s
    else if layerBusy s c.val layer || sliceIn s (layerTiles x layer) then s
    else
      match bestGroup (waitingAt s c.val x layer) with
      | some g =>
        if canEnter s c.val x layer g then enterLayer s c.val x g layer
        else setProj s g.id (fun i => projLayer x i = layer) 1
      | none => s

/-! ## ADMIT (R122, Table 5.4) -/

/-- Bits 63:0 of a member's entry. -/
def memberWord (m : Member) : Nat := m.slot + m.step.npos * 2 ^ 12 + m.step.first * 2 ^ 25

def totalPos (l : List Member) : Nat := l.foldl (fun a m => a + m.step.npos) 0

/-- Write the header and the members' entries of the wave-group record. -/
def writeRecord (m : List Host.Cell) (a : Nat) (g : WGroup) (no : Nat) : List Host.Cell :=
  let head := g.members.length + b2n g.prefill * 2 ^ 8 + totalPos g.members * 2 ^ 16 + no % 2 ^ 32 * 2 ^ 32
  (g.members.foldl (fun (x : List Host.Cell × Nat × Nat) e =>
    let b := a + 8 + 16 * x.2.1
    (mwrite (mwrite x.1 b 8 (memberWord e)) (b + 8) 8 x.2.2, x.2.1 + 1, x.2.2 + e.step.npos))
    (mwrite m a 8 head, 0, 0)).1

/-- The tile at whose node a message arrives: that of tile 0 of the die for a Bowler (R192). -/
def ctrlNode : CtrlMsg → Tid
  | .signal _ d _ _ _ => d
  | .admitted d _ _ => d
  | .order d _ => d
  | .report t _ => ⟨t.d, 0⟩

/-- Messages that a node's buffer holds; those behind them wait in its neighbours for credit (R193). -/
def nodeDepth : Nat := 8

/-- Messages in the buffers of their nodes, oldest first. -/
def arrived (l : List CtrlMsg) : List CtrlMsg :=
  (l.zipIdx.filter fun m => ((l.take m.2).filter fun o => ctrlNode o = ctrlNode m.1).length < nodeDepth).map (·.1)

/-- The first message in its node's buffer that satisfies a test, and the queue without it. -/
def takeCtrl (s : State) (p : CtrlMsg → Bool) : Option (CtrlMsg × State) :=
  match (arrived s.ctrl).find? p with
  | none => none
  | some m => some (m, { s with ctrl := s.ctrl.erase m })

/-- An ADMIT message to a tile. -/
def admitTo (t : Tid) : CtrlMsg → Bool
  | .admitted d _ _ => d = t
  | _ => false

/-- A signal of one tile to another. -/
def signalFrom (src dst : Tid) : CtrlMsg → Bool
  | .signal a b _ _ _ => a = src && b = dst
  | _ => false

/-- An order to a tile. -/
def orderTo (t : Tid) : CtrlMsg → Bool
  | .order d _ => d = t
  | _ => false

/-- A tile that takes part: its rail is on. -/
def hears (s : State) (t : Tid) : Bool := railOn s t

def admitEff (t : Tid) (s : State) : State :=
  match takeCtrl s (admitTo t) with
  | some (.admitted _ id no, s) =>
    match s.serving.groups.find? fun g => g.id = id with
    | some g =>
      if hears s t then
        ctrInc (modTile s t fun ts => { ts with sdata := writeRecord ts.sdata ts.groupAddr g no }) t 240 1
      else s
    | none => s
  | _ => s

/-! ## DONE (R132, R455) -/

/-- A queued command that counts as complete from its issue: a DMA move of length 0 (R214). -/
def countsDone (c : QCmd) : Bool := descOp c.desc = opDmaMove && moveLines c.desc = 0

/-- Every command and signal issued before the GDONE is through. -/
def gdoneReady (s : State) (t : Tid) (serial sigs : Nat) : Bool :=
  let ts := tileOf s t
  ts.queues.all (fun q => q.2.all fun c => serial ≤ c.serial || countsDone c)
    && ts.inflight.all (fun f => serial ≤ f.serial || (f.op = 0x50 && f.amount = 0))
    && s.ctrl.all fun m => match m with
      | .signal a _ _ _ no => a ≠ t || sigs ≤ no
      | _ => true

/-- The Bowler has a notice pending for the group of the tile (R455). -/
def noticePending (s : State) (t : Tid) : Bool :=
  !(tileOf s t).bufNotices.isEmpty
    || (match groupAt s t with
      | some g => (dieOf s t.d.val).badLines.any fun e => e.2 = g.id + 1
      | none => false)

def dropGroup (s : State) (id : Nat) : State :=
  modServing s fun x => { x with groups := x.groups.filter fun g => g.id ≠ id }

/-- A group that reaches a barrier while a slice runs in the layer group counts as a slice wait (R37). -/
def arriveAt (s : State) (x : Context) (g : WGroup) (layer : Nat) : State :=
  countWait (moveGroup s g layer false) x layer

/-- Later steps of a sequence leave their groups: they follow a step that is discarded. -/
def dropLater (s : State) (slot first : Nat) : State :=
  modServing s fun x => { x with
    groups := (x.groups.map fun g => { g with
      members := g.members.filter fun m => !(m.slot = slot && first < m.step.first) }).filter fun g =>
        g.bubble || !g.members.isEmpty }

/-- A step whose grants are complete ends what its sequence still waited for: a short grant, or a park. -/
def clearShort (s : State) (q : Seq) (slot : Nat) : State :=
  let s := unparkAll (dropGrants s slot) slot 0
  modThis s q fun q => { q with st := if q.st = .parked then q.back else q.st }

/-- A discarded step goes back to layer 0: its lengths are set back; grants are kept, or asked for again
after a KV_NOPAGE (R259, R319). -/
def redoStep (s : State) (c : Nat) (q : Seq) (st : SeqStep) : State :=
  match q.slot with
  | none => s
  | some k =>
    let s := dropLater (setBack s c k st.first) k st.first
    let s := if st.noPage then s else clearShort s q k
    giveStep s q { st with granted := !st.noPage, noPage := false }

/-- A commit boundary (R285): a waiting cancel takes effect, else the end under a replacement or an unload
(R323, R325, Table 12.5). -/
def boundary (s : State) (q0 : Seq) : State :=
  match seqNow s q0 with
  | some q =>
    if !isLive q then s
    else if !q.cancelWait.isEmpty then endSeq s q 4 0
    else if q.leaving then endSeq s q 7 0
    else s
  | none => s

/-- A sequence with no step or chunk in flight is at a boundary already. -/
def idleBoundary (s : State) (q0 : Seq) : State :=
  match seqNow s q0 with
  | some q => if stepBusy s q then s else boundary s q
  | none => s

/-- A sequence that has ended and whose work has left the pipeline. -/
def releaseDrained (s : State) (q0 : Seq) : State :=
  match seqNow s q0 with
  | some q => if q.drain && !slotBusy s q then drained s q else s
  | none => s

/-- A chunk leaves the last layer with no token to commit: a chunk before the last one, or the last chunk
of a request with MAX_NEW = 0 (R276). -/
def endChunk (s : State) (g : WGroup) (m : Member) : State :=
  match seqBySlot s m.slot with
  | none => s
  | some q =>
    if !isLive q then releaseDrained s q
    else
      match q.doomed with
      | some code => releaseDrained (endSeq s q 6 code) q
      | none =>
        if g.discarded || m.step.noPage then idleBoundary (redoStep s g.ctx.val q m.step) q
        else if m.step.lastChunk then endSeq s q 3 0
        else boundary s q

/-- The next chunk of a sequence follows when the one before it leaves layer 0. -/
def nextChunk (s : State) (x : Context) (m : Member) : State :=
  match seqBySlot s m.slot with
  | some q =>
    if isLive q && !q.leaving && q.step.isNone && !m.step.lastChunk then
      giveStep s q (chunkStep x q (m.step.first + m.step.npos))
    else s
  | none => s

/-- A group reaches the projection, and begins it unless a replacement or a refetch holds it. -/
def reachProj (s : State) (x : Context) (g : WGroup) : State :=
  let n := ctxLayers x
  if heldByReplace x g n || unitClosed x n then moveGroup s g n false else beginProj s x g

/-- The member's work ends at the last layer: a chunk that commits no token. -/
def endsThere (s : State) (g : WGroup) (m : Member) : Bool :=
  g.prefill && (!m.step.lastChunk || ((seqBySlot s m.slot).map fun q => decide (q.maxNew = 0)).getD true)

/-- A group leaves the last layer: chunks that commit no token end, the other members reach the projection. -/
def leaveLast (s : State) (x : Context) (g : WGroup) : State :=
  let on := g.members.filter fun m => !(endsThere s g m)
  let off := g.members.filter (endsThere s g)
  if off.isEmpty then reachProj s x g
  else
    let s := if on.isEmpty then dropGroup s g.id else reachProj s x { g with members := on }
    forEach off s fun s m => endChunk s g m

/-- A group leaves a layer group (R30, R278). -/
def leaveLayer (s : State) (x : Context) (g : WGroup) : State :=
  let s := if g.prefill && g.layer = 0 then forEach g.members s fun s m => nextChunk s x m else s
  if g.layer + 1 < ctxLayers x then arriveAt s x g (g.layer + 1)
  else if g.bubble then dropGroup s g.id
  else leaveLast s x g

/-- A tile's GDONE counts; when every tile of the layer group is done, the group leaves. -/
def doneEff (t : Tid) (s : State) : State :=
  match (tileOf s t).gdone, groupAt s t with
  | some (serial, sigs), some g =>
    if !(gdoneReady s t serial sigs) || noticePending s t || g.bubble then s
    else
      let s := modTile s t fun ts => { ts with gdone := none }
      let g := { g with dones := if g.dones.contains t then g.dones else g.dones ++ [t] }
      match ctxOf s g.ctx.val with
      | none => s
      | some x =>
        if (layerTiles x g.layer).all g.dones.contains then leaveLayer s x g
        else modGroup s g.id fun h => { h with dones := g.dones }
  | _, _ => s

/-! ## SIGNAL, ORDER and REPORT -/

/-- The oldest signal from one tile to another arrives (R130). -/
def signalEff (src dst : Tid) (s : State) : State :=
  match takeCtrl s (signalFrom src dst) with
  | some (.signal _ _ i amount _, s) => if hears s dst then ctrInc s dst i amount else s
  | _ => s

/-- The oldest order to a tile arrives: counter 248, and a page to drop (R194, R211). The other kinds act
where the Bowler decided them. -/
def orderEff (t : Tid) (o : Order) (s : State) : State :=
  match takeCtrl s (orderTo t) with
  | some (.order _ o', s') =>
    if o' ≠ o then s
    else
      let s' := if hears s' t then ctrInc s' t 248 1 else s'
      match o with
      | .invalidate vpn => modTile s' t fun ts => { tlbDrop ts vpn.toNat with
          invPending := ts.invPending ++ [vpn] }
      | _ => s'
  | _ => s

/-- A report of a tile. -/
def reportFrom (t : Tid) : CtrlMsg → Bool
  | .report a _ => a = t
  | _ => false

/-- The oldest report of a tile reaches its Bowler (R193). -/
def reportEff (t : Tid) (r : Report) (s : State) : State :=
  match takeCtrl s (reportFrom t) with
  | some (.report _ r', s') => if r' = r then s' else s
  | _ => s

def execBarrierAdmit (c : Fin 4) (layer : Nat) (s : State) : Res := .next (barrierAdmitEff c layer s)
def execAdmitMsg (t : Tid) (s : State) : Res := .next (admitEff t s)
def execDone (t : Tid) (s : State) : Res := .next (doneEff t s)
def execSignal (src dst : Tid) (s : State) : Res := .next (signalEff src dst s)
def execOrder (t : Tid) (o : Order) (s : State) : Res := .next (orderEff t o s)
def execReport (t : Tid) (r : Report) (s : State) : Res := .next (reportEff t r s)

end Sys2Proof.Machine
end

