-- ==== Sys2Proof/Machine/KvCmd.lean ====
section
/-! DEFINITION. The commands of the cache page walker (R154, R155): appends with their frames, their
quantization and their status (R242, R243, R259), the release of a window (R247), KV.SETLEN and KV.FREE. -/
namespace Sys2Proof.Machine

/-! ## Windows (R247) -/

/-- The page holds frame `j` of a plane of the range: plane, head and `j`; none for TAIL. -/
def planeOfVpn (rho n : Nat) (p : KvPlan) (vpn : Nat) : Option (Plane4 × Nat × Nat) :=
  let off := vpn * frameBytes - rangeBase rho n
  planes4.findSome? fun pl =>
    (List.range (kvHeads p)).findSome? fun h =>
      let size := match pl with
        | .ke => ske p
        | .ve => sve p
        | _ => 8 * mib
      let o := planeOff p pl h
      if o ≤ off && off < o + size then some (pl, h, (off - o) / frameBytes) else none

/-- Release every mapped frame whose positions all lie below `pos - W + 1` and at or above 128 G, and set
HORIZON. -/
def releaseWindow (s : State) (d rho n : Nat) (p : KvPlan) (pos : Nat) : State :=
  let h := pos + 1 - p.w.toNat
  let gone (e : Nat × DWord) : Bool :=
    inRange rho n e.1 && pteV e.2 &&
      match planeOfVpn rho n p e.1 with
      | some (pl, _, j) => (j + 1) * planeU p pl ≤ h && 128 * p.g.toNat ≤ j * planeU p pl
      | none => false
  let s := forEach ((dieOf s d).l2.filter gone) s fun s e => unmapPage s d rho n p e
  match walkerOf s d n with
  | some w => setWalker s d n (some { w with horizon := h })
  | none => s

/-! ## Frames of a position (R242 step 4) -/

/-- Pages a position of the named heads needs, TAIL first. -/
def posPages (rho n : Nat) (p : KvPlan) (heads : List Nat) (pos : Nat) : List Nat :=
  tailVpn rho n p :: (heads.map fun h =>
    planes4.map fun pl => planeVpn rho n p pl h (pos / planeU p pl)).flatten

/-- Those of them that are not mapped. -/
def needPages (s : State) (d rho n : Nat) (p : KvPlan) (heads : List Nat) (pos : Nat) : List Nat :=
  ((posPages rho n p heads pos).filter fun v => !pteV (l2Of s d v)).eraseDups

/-- Map one page of a range to a frame from RES or GRANT, or from the available frames. -/
def mapPage (s : State) (d c slot layer n rho : Nat) (p : KvPlan) (vpn : Nat) : State :=
  match walkerOf s d n with
  | none => s
  | some w =>
    let res := fromRes rho n p vpn
    let w := if res then { w with res := w.res - 1 } else { w with grant := w.grant - 1 }
    match takeFrame s d ⟨c, BitVec.ofNat 32 vpn, 1, slot, layer, false⟩ with
    | none => s
    | some (f, s) => setL2 (setWalker s d n (some w)) d vpn (mkPte false res 1 f)

/-- Frames needed beyond RES (for pages from RES) and beyond GRANT (for the others). -/
def lackOf (w : WRec) (rho n : Nat) (p : KvPlan) (pages : List Nat) : Nat × Nat :=
  let r := (pages.filter (fromRes rho n p)).length
  (r - w.res, pages.length - r - w.grant)

/-- Released frames of the range that are still to reach the pool. -/
def pendingOf (s : State) (d n : Nat) : Nat :=
  let l := (dieOf s d).returnQ ++ (((dieOf s d).round.map (·.frames)).getD [])
  (l.filter fun f => f.credit = some n).length

/-- The walker waits for a round of invalidation: RES is short only by frames still in a round (R247). -/
def waitsRound (s : State) (d rho n : Nat) (p : KvPlan) (heads : List Nat) (pos count : Nat) : Bool :=
  match walkerOf s d n with
  | none => false
  | some w =>
    let pages := ((List.range count).map fun i => needPages s d rho n p heads (pos + i)).flatten.eraseDups
    let r := (lackOf w rho n p pages).1
    r ≠ 0 && r ≤ pendingOf s d n

/-- Take the frames of the positions in ascending order; the number of leading positions that got all
theirs. -/
def takePositions (d c slot layer n rho : Nat) (p : KvPlan) (heads : List Nat) (pos : Nat) :
    Nat → Nat → State → Nat × State
  | 0, done, s => (done, s)
  | fuel + 1, done, s =>
    match walkerOf s d n with
    | none => (done, s)
    | some w =>
      let pages := needPages s d rho n p heads (pos + done)
      let (a, b) := lackOf w rho n p pages
      if available s d < a + b || poolSize s d < pages.length then (done, s)
      else
        takePositions d c slot layer n rho p heads pos fuel (done + 1)
          (forEach pages s fun s v => mapPage s d c slot layer n rho p v)

/-! ## KV.APPEND -/

structure AppendOps where
  slot   : Nat
  layer  : Nat
  pos    : Nat
  count  : Nat
  key    : Nat
  val    : Nat
  mask   : Nat
  status : Nat

def appendOps (d : Desc) : AppendOps :=
  { slot := dbits d.w1 0 12, layer := dbits d.w1 12 16, pos := dbits d.w1 28 20, count := dbits d.w1 48 5
    key := dbits d.w2 0 17, val := dbits d.w3 0 17, mask := dbits d.w3 17 4, status := dbits d.w4 0 17 }

/-- Heads that a mask names, in order. -/
def maskHeads (m : Nat) : List Nat := (List.range 4).filter (tbit m)

/-- The context of a tile, its number, and the range of a slot and layer. -/
structure KvAt where
  c     : Nat
  x     : Context
  n     : Nat
  plan  : KvPlan
  deriving DecidableEq

def kvAt (s : State) (t : Tid) (slot layer : Nat) : Option KvAt :=
  match tileCtx s t with
  | none => none
  | some c =>
    match ctxOf s c with
    | none => none
    | some x =>
      let n := rangeNo (layerLam x layer) slot
      let active := ((walkerOf s t.d.val n).map (·.active)).getD false
      if x.slots.contains slot && layer < ctxLayers x && layerDie x layer = t.d.val && active then
        some ⟨c, x, n, kvPlanOf x layer⟩
      else none

/-- Step 1 of R242, and R155: slot, layer and record. -/
def slotCheck (s : State) (t : Tid) (d : Desc) : Check :=
  ((kvAt s t (dbits d.w1 0 12) (dbits d.w1 12 16)).isNone, reasonSlot, 1)

def appendFirst (s : State) (t : Tid) (d : Desc) : List Check :=
  headerChecks s t d 0 ++ zeroWords d [5, 6, 7]
    ++ [zeroFrom d 1 53, zeroFrom d 2 17, zeroFrom d 3 21, zeroFrom d 4 17, slotCheck s t d]

/-- Highest count of one append, and positions of a range. -/
def maxAppend : Nat := 17
def maxPos : Nat := 2 ^ 20

/-- Step 2 of R242, and the line ranges. -/
def appendSecond (w : WRec) (p : KvPlan) (o : AppendOps) : List Check :=
  let lines := o.count * (maskHeads o.mask).length
  let posOk : Bool :=
    if w.pendMask = 0 then o.pos = w.len || (w.posLast ≤ o.pos && o.pos < w.len)
    else o.pos = w.len && o.count = w.pendCount
  [(maxAppend < o.count || !posOk || maxPos < o.pos + o.count, reasonRange, 1),
   (!(linesOk o.key lines), reasonRange, 2), (!(linesOk o.val lines), reasonRange, 3),
   (o.mask = 0 || 2 ^ kvHeads p ≤ o.mask || Nat.land o.mask w.pendMask ≠ 0, reasonRange, 3),
   (!(linesOk o.status 1), reasonRange, 4)]

/-- Step 5: keys and values of the stored positions, then the touched value blocks of each head. -/
def storeKv (s : State) (t : Tid) (a : KvAt) (o : AppendOps) (stored : Nat) : State :=
  let heads := maskHeads o.mask
  let d := t.d.val
  let row (line i j : Nat) : List Half := halves (bufLine (tileOf s t) (line + i * heads.length + j))
  let s := forEach (List.range stored) s fun s' i =>
    forEach heads.zipIdx s' fun s' h =>
      let s' := writeKey s' d a.x.rho a.n a.plan (o.pos + i) h.1 (row o.key i h.2)
      let s' := writeTail s' d a.x.rho a.n a.plan (o.pos + i) h.1 (row o.val i h.2)
      noteNum s' t { NumEv.zero with special := bfSpecials (row o.key i h.2) + bfSpecials (row o.val i h.2) }
  let last := o.pos + stored
  let blocks := if stored = 0 then [] else
    (List.range ((last - 1) / 16 + 1 - o.pos / 16)).map fun b => o.pos / 16 + b
  forEach heads s fun s h =>
    forEach blocks s fun s b => quantValueBlock s d a.x.rho a.n a.plan h b last

/-- Step 7: the heads join PEND_MASK; with all of them LEN and POS_LAST move, and the block of LEN - 1 is
quantized again for heads that stored more. -/
def closeRange (s : State) (d : Nat) (a : KvAt) (o : AppendOps) (stored : Nat) : State :=
  match walkerOf s d a.n with
  | none => s
  | some w =>
    let pend := if w.pendMask = 0 then stored else min w.pendStored stored
    let mask := Nat.lor w.pendMask o.mask
    if mask + 1 = 2 ^ kvHeads a.plan then
      let len := o.pos + pend
      let s := setWalker s d a.n (some { w with
        pendMask := 0, pendStored := 0, pendCount := 0, len := len, posLast := o.pos })
      if pend = o.count || len % 16 = 0 then s
      else forEach (List.range (kvHeads a.plan)) s fun s h =>
        quantValueBlock s d a.x.rho a.n a.plan h ((len - 1) / 16) len
    else setWalker s d a.n (some { w with pendMask := mask, pendCount := o.count, pendStored := pend })

/-- KV_NOPAGE: positions given status 1, counted and reported; the step's result will be discarded
(R259). -/
def reportNoPage (s : State) (t : Tid) (o : AppendOps) (stored : Nat) : State :=
  let d := t.d.val
  if stored = o.count then s
  else
    let s := dinc s d R.KV_FAULTS_NOPAGE (o.count - stored)
    let s := logPut s 0x0913 sevError (.die d) (o.layer * 2 ^ 16 + o.slot) (o.pos + stored) d
    match groupAt s t with
    | some g => modGroup s g.id fun g => { g with members := g.members.map fun m =>
        if m.slot = o.slot then { m with step := { m.step with noPage := true } } else m }
    | none => s

/-- An append below the stored length first cuts it back, and a window layer gives up what left its window;
nothing while an append of the range is under way (R242, R247). -/
def appendCut (s : State) (d : Nat) (a : KvAt) (w : WRec) (pos : Nat) : State :=
  if w.pendMask ≠ 0 then s
  else
    let s := if pos < w.len then kvSetLen s d a.x.rho a.n a.plan pos else s
    if kvFull a.plan then s else releaseWindow s d a.x.rho a.n a.plan pos

/-- Addresses of the mapped pages that an append reads or writes: of the positions, and of the block that a cut
quantizes again. -/
def appendAddrs (s : State) (d : Nat) (a : KvAt) (o : AppendOps) (len : Nat) : List Nat :=
  let heads := maskHeads o.mask
  let pages := ((List.range o.count).map fun i => posPages a.x.rho a.n a.plan heads (o.pos + i)).flatten
  let cut := if o.pos < len && o.pos % 16 ≠ 0 then valuePages a.x.rho a.n a.plan (o.pos - 1) else []
  (((cut ++ pages).eraseDups).filter fun v => pteV (l2Of s d v)).map (· * frameBytes)

/-- The walker's accesses of a command through the translation unit: an unrecoverable outcome faults it, one that
a page-in or a page-out can end holds its place (R212, R227, R231). -/
def walkerAccess (s : State) (t : Tid) (c : QCmd) (addrs : List Nat) (ok : State → State) : State :=
  let (tr, s) := transAll t true reqWalker addrs s
  match tr.fault with
  | some f => cmdTransFault s t 5 c reqWalker 1 f
  | none => if tr.waits.isEmpty then ok s else holdPlace (pauseFor s t c.met tr.waits) t 5 c tr.waits

/-- The lines of keys and values that the stored positions read. -/
def appendSpans (o : AppendOps) (stored : Nat) : List Span :=
  let n := stored * (maskHeads o.mask).length * lineBytes
  [(o.key * lineBytes, n), (o.val * lineBytes, n)]

def kvAppendEff (t : Tid) (errs : List MemErr) (s : State) : State :=
  startCmd 0x60 5 s t fun c s =>
    let o := appendOps c.desc
    let d := t.d.val
    checked s t 5 c (appendFirst s t c.desc) fun s =>
      match kvAt s t o.slot o.layer with
      | none => s
      | some a =>
        if o.count = 0 then launch s t 5 c 1
        else
          let w := (walkerOf s d a.n).getD (freshWRec 0)
          checked s t 5 c (appendSecond w a.plan o) fun s =>
            let old := appendAddrs s d a o w.len
            walkerAccess s t c old fun s =>
              let s := appendCut s d a w o.pos
              let heads := maskHeads o.mask
              if waitsRound s d a.x.rho a.n a.plan heads o.pos o.count then holdPlace s t 5 c c.met
              else
                let (stored, s) :=
                  takePositions d a.c o.slot o.layer a.n a.x.rho a.plan heads o.pos o.count 0 s
                let new := (appendAddrs s d a o o.pos).filter fun v => !(old.contains v)
                let s := bufReads (transAll t true reqWalker new s).2 t (appendSpans o stored) errs
                let s := storeKv s t a o stored
                let s := modTile s t fun ts =>
                  bufWrite ts (o.status * lineBytes)
                    ((List.range o.count).map fun i => if i < stored then 0 else 1)
                let s := closeRange s d a o stored
                launch (reportNoPage s t o stored) t 5 c 1

/-! ## KV.SETLEN and KV.FREE (R155, R244, R245) -/

def setlenChecks (s : State) (t : Tid) (d : Desc) : List Check :=
  headerChecks s t d 0 ++ zeroWords d [3, 4, 5, 6, 7] ++ [zeroFrom d 1 28, zeroFrom d 2 21, slotCheck s t d]

def kvFreeChecks (s : State) (t : Tid) (d : Desc) : List Check :=
  headerChecks s t d 0 ++ zeroWords d [2, 3, 4, 5, 6, 7] ++ [zeroFrom d 1 28, slotCheck s t d]

def kvSetlenEff (t : Tid) (s : State) : State :=
  startCmd 0x61 5 s t fun c s =>
    let d := c.desc
    checked s t 5 c (setlenChecks s t d) fun s =>
      match kvAt s t (dbits d.w1 0 12) (dbits d.w1 12 16) with
      | none => s
      | some a =>
        let len := clampLen ((walkerOf s t.d.val a.n).getD (freshWRec 0)) (dbits d.w2 0 21)
        let pages := if len % 16 = 0 then [] else tailVpn a.x.rho a.n a.plan :: valuePages a.x.rho a.n a.plan (len - 1)
        walkerAccess s t c ((pages.filter fun v => pteV (l2Of s t.d.val v)).map (· * frameBytes)) fun s =>
          launch (kvSetLen s t.d.val a.x.rho a.n a.plan (dbits d.w2 0 21)) t 5 c 1

def kvFreeEff (t : Tid) (s : State) : State :=
  startCmd 0x62 5 s t fun c s =>
    let d := c.desc
    checked s t 5 c (kvFreeChecks s t d) fun s =>
      match kvAt s t (dbits d.w1 0 12) (dbits d.w1 12 16) with
      | none => s
      | some a =>
        -- a transfer of the range in progress completes first (R245)
        if rangeInTransfer s t.d.val a.x.rho a.n then holdPlace s t 5 c c.met
        else launch (freeRange s t.d.val a.x.rho a.n a.plan) t 5 c 1

def execKvAppend (t : TileRun) (s : State) : Res := .next (kvAppendEff t.tile t.errs s)
def execKvSetlen (t : Tid) (s : State) : Res := .next (kvSetlenEff t s)
def execKvFree (t : Tid) (s : State) : Res := .next (kvFreeEff t s)

end Sys2Proof.Machine
end

