-- ==== Sys2Proof/Machine/Grants.lean ====
section
/-! DEFINITION. Grants of cache frames (R254), the order of steps when a grant is short (R255, R256), parks
(R257, R258) and page-outs as far as a grant begins them (R226). -/
namespace Sys2Proof.Machine

/-! ## What a step needs (R254) -/

/-- Frames of a range's planes that hold one of the positions and are not mapped. -/
def missingFrames (s : State) (d rho n : Nat) (p : KvPlan) (first npos : Nat) : Nat :=
  let pages := (List.range (kvHeads p)).flatMap fun h => planes4.flatMap fun pl =>
    let u := planeU p pl
    (List.range ((first + npos - 1) / u - first / u + 1)).map fun j => planeVpn rho n p pl h (first / u + j)
  (pages.filter fun v => !(pteV (l2Of s d v))).length

/-- FULL layers of a context on a die. -/
def fullLayers (x : Context) (d : Nat) : List Nat := (dieLayers x d).filter fun l => kvFull (kvPlanOf x l)

/-- What each range still lacks in GRANT: range number and frames. -/
def grantNeeds (s : State) (x : Context) (d slot : Nat) (st : SeqStep) : List (Nat × Nat) :=
  if st.npos = 0 then []
  else (fullLayers x d).map fun l =>
    let n := rangeNo (layerLam x l) slot
    let g := ((walkerOf s d n).map (·.grant)).getD 0
    (n, missingFrames s d x.rho n (kvPlanOf x l) st.first st.npos - g)

def shortBy (s : State) (x : Context) (d slot : Nat) (st : SeqStep) : Nat :=
  (grantNeeds s x d slot st).foldl (fun a e => a + e.2) 0

def addGrant (s : State) (d n k : Nat) : State :=
  match walkerOf s d n with
  | some w => setWalker s d n (some { w with grant := w.grant + k })
  | none => s

/-- Take every available frame, up to what the step lacks. -/
def takeAvail (s : State) (x : Context) (d slot : Nat) (st : SeqStep) : State :=
  forEach (grantNeeds s x d slot st) s fun s e =>
    let k := min e.2 (available s d)
    if k = 0 then s else addGrant s d e.1 k

/-! ## The port that serves a die (R224) -/

/-- The port die of a die, or the other one while its port is down. -/
def spillPort (s : State) (d : Nat) : Nat := diePort s ((dieCtx s d).getD 4) d

/-- Remote spill is usable for the context's frames on a die. -/
def spillUsable (s : State) (x : Context) (d : Nat) : Bool :=
  let p := spillPort s d
  tbit (namedUnits x.caps).toNat 1 && !(tbit x.disabled.toNat 1)
    && portUp s p && ((portOf s p).current.map fun i => (poolOf s p i).isSome).getD false

/-! ## Page-outs (R226, R228) -/

/-- Page-outs of a slot in progress on a die. -/
def outsOf (s : State) (d slot : Nat) : List PageOut :=
  (dieOf s d).pageOuts.filter fun e => e.slot = slot && !e.orphan

def whyFull : Nat := 0

/-- A page-out failed: the entry has OUT clear again and the frame stays; SPILL_FAIL. -/
def pageOutFailed (s : State) (d p slot why : Nat) : State :=
  let s := portInc s p R.SPILL_FAIL_OUT_FAILS
  let s := modDie s d fun x => { x with
    grantJobs := x.grantJobs.map fun g => if g.slot = slot then { g with failed := true } else g }
  logPut s 0x0814 sevWarning (.port p) d why slot

/-- The lowest page of a pool slot that no remote page and no page-out in progress uses. -/
def freeIndex (s : State) (p i : Nat) : Nat :=
  let base := i * 2 ^ 47
  let outs := (allDies.map fun d => ((dieOf s d.val).pageOuts.filter fun e => e.port = p).map (·.index)).flatten
  let busy := (portOf s p).remote.map (·.1) ++ outs
  base + ((List.range (busy.length + 1)).find? fun j => !(busy.contains (base + j))).getD 0

/-- The IV of a remote page: its index, its generation count and 16 zero bits (R226). -/
def pageIv (index gen : Nat) : BitVec 96 := BitVec.ofNat 48 index ++ BitVec.ofNat 32 gen ++ (0 : BitVec 16)

/-- The engine reads the frame, encrypts it under the spill key and writes it to the pool (R226). -/
def sendPage (s : State) (d : Nat) (e : PageOut) : State :=
  let gen := (portOf s e.port).nextGen
  let iv := pageIv e.index gen
  let text := gcmCrypt s.plane.spillKey iv (stackRead s d e.frame 0 frameBytes)
  let s := modPort s e.port fun x => { x with nextGen := (gen + 1) % 2 ^ 32 }
  let s := match poolOf s e.port (e.index / 2 ^ 47) with
    | some q => rdmaBegin s e.port .write (.pageOut (Fin.ofNat 56 d) e.vpn) q.params.server q.params.qpn
    | none => s
  sendOn s e.port (frameTag s e.port .rdma).pcp (.pageWrite e.port e.index text (gcmTag s.plane.spillKey iv [] text) gen (cacheRec s d e.vpn.toNat))

/-- Begin a page-out for a slot: OUT is set and the tiles are to drop the old translation; the page is written when
they all have. A full pool fails it. -/
def beginPageOut (s : State) (d slot vpn : Nat) : State :=
  let p := spillPort s d
  match (portOf s p).current with
  | none => s
  | some i =>
    match poolOf s p i with
    | none => s
    | some q =>
      if q.params.pages.toNat ≤ q.used then pageOutFailed s d p slot whyFull
      else
        let e := l2Of s d vpn
        let out : PageOut := {
          vpn := BitVec.ofNat 32 vpn, frame := pteFid e, port := p, index := freeIndex s p i, slot := slot
          waiting := (dieTilesOf s d).map fun t => t.t.val, orphan := false }
        let s := setPool s p i (some { q with used := q.used + 1 })
        let s := invalidateAll (setL2 s d vpn (setOut e true)) d vpn
        let s := modDie s d fun x => { x with pageOuts := x.pageOuts ++ [out] }
        if out.waiting.isEmpty then sendPage s d out else s

def planeNo : Plane4 → Nat
  | .ke => 0
  | .ks => 1
  | .ve => 2
  | .vs => 3

/-- A page that may be spilled, by its place in the order of R256. -/
structure SpillCand where
  first : Nat
  plane : Nat
  head  : Nat
  lam   : Nat
  vpn   : Nat

def SpillCand.before (a b : SpillCand) : Bool :=
  a.first < b.first || (a.first = b.first && (a.plane < b.plane || (a.plane = b.plane
    && (a.head < b.head || (a.head = b.head && a.lam ≤ b.lam)))))

/-- The frames of a slot on a die that R256 allows, in its order. -/
def spillCands (s : State) (x : Context) (d slot : Nat) : List SpillCand :=
  let l := (fullLayers x d).flatMap fun layer =>
    let lam := layerLam x layer
    let n := rangeNo lam slot
    let p := kvPlanOf x layer
    let len := ((walkerOf s d n).map (·.len)).getD 0
    (dieOf s d).l2.filterMap fun e =>
      if inRange x.rho n e.1 && pteV e.2 && !(pteRemote e.2) && !(ptePin e.2) && !(pteOut e.2) then
        (planeOfVpn x.rho n p e.1).bind fun q =>
          let u := planeU p q.1
          if (q.2.2 + 1) * u + 1 ≤ len then some ⟨q.2.2 * u, planeNo q.1, q.2.1, lam, e.1⟩ else none
      else none
  l.mergeSort SpillCand.before

/-! ## The end of a grant -/

def grantJob (s : State) (d slot : Nat) : Option GrantJob :=
  (dieOf s d).grantJobs.find? fun g => g.slot = slot

def dropJob (s : State) (d slot : Nat) : State :=
  modDie s d fun x => { x with grantJobs := x.grantJobs.filter fun g => g.slot ≠ slot }

def anyJob (s : State) (slot : Nat) : Bool := allDies.any fun d => (grantJob s d.val slot).isSome

/-- The group of its own in which a parked step enters layer 0 (R257). -/
def parkGroup (s : State) (id : Nat) (c : Fin 4) (m : Member) (speed : Bool) : WGroup where
  id := id
  ctx := c
  prefill := m.step.prefill
  speed := speed
  bubble := false
  members := [m]
  layer := 0
  inside := false
  newVer := false
  discarded := false
  rerun := false
  since := now s
  dones := []
  proj := []

/-- The groups with a park group at its place: before the first group that reached the barrier of layer 0 after it
(R30, R257). -/
def insertGroup (g : WGroup) (l : List WGroup) : List WGroup :=
  let later (h : WGroup) : Bool := h.ctx = g.ctx && h.layer = 0 && !h.inside && !h.rerun && g.id < h.id
  l.takeWhile (!later ·) ++ g :: l.dropWhile (!later ·)

/-- The grants of a step are complete on every die: a parked sequence leaves its park for its group at the barrier
of layer 0, any other has a ready item. -/
def grantDone (s : State) (q0 : Seq) : State :=
  match seqNow s q0 with
  | none => s
  | some q =>
    match q.slot, q.step with
    | some k, some st =>
      if anyJob s k then s
      else if q.st = .parked then
        let id := (parkGroupNo s k).getD s.serving.groupId
        let s := unparkAll s k 0
        let s := modThis s q fun q => { q with st := q.back, step := none }
        modServing s fun x => { x with
          groups := insertGroup (parkGroup s id q.ctx ⟨k, { st with granted := true }⟩ (isSpeed s q.cls)) x.groups }
      else markReady s q
    | _, _ => s

/-- LEN of a slot on a die: of its first FULL layer there. -/
def dieLen (s : State) (x : Context) (d slot : Nat) : Nat :=
  match fullLayers x d with
  | [] => 0
  | l :: _ => ((walkerOf s d (rangeNo (layerLam x l) slot)).map (·.len)).getD 0

/-- END_CACHE_FULL (R258). -/
def cacheFull (s : State) (x : Context) (q : Seq) (d slot : Nat) (st : SeqStep) : State :=
  let len := dieLen s x d slot
  let short := shortBy s x d slot st
  let s := endSeq s q 5 0
  let s := dinc s d R.KV_EVENTS_CACHE_FULL
  logPut s 0x0912 sevWarning (.die d) (d * 2 ^ 12 + slot) len short

/-- The sequence parks on a die, in a group of its own, which takes its place at the barrier of layer 0 with its
number (R257). -/
def park (s : State) (x : Context) (q : Seq) (d slot spilled : Nat) (st : SeqStep) : State :=
  let old := parkGroupNo s slot
  let no := old.getD s.serving.groupId
  let s := modServing s fun v => { v with groupId := if old.isSome then v.groupId else v.groupId + 1 }
  let s := modDie s d fun y => { y with parkQ := y.parkQ ++ [⟨slot, now s, spilled, no⟩] }
  let s := markParked (dinc s d R.KV_EVENTS_PARKS) d slot true
  let s := modThis s q fun q => { q with
    back := if q.st = .parked then q.back else q.st, st := .parked }
  logPut s 0x0910 sevWarning (.die d) (d * 2 ^ 12 + slot) (shortBy s x d slot st) (dieLen s x d slot)

/-- A round of the job is still to end (step 2). -/
def roundsOwed (s : State) (d : Nat) (g : GrantJob) : Bool :=
  g.rounds < 2 && ((dieOf s d).round.isSome || !(dieOf s d).returnQ.isEmpty)

/-- Frames of completed page-outs that are on their way to a slot's GRANT. -/
def framesComing (s : State) (d slot : Nat) : Nat :=
  let l := (dieOf s d).returnQ ++ (((dieOf s d).round.map (·.frames)).getD [])
  (l.filter fun f => f.grant = some slot).length

/-- One page-out of a grant's step 3, which a failed one ends (Table 9.4). -/
def spillOne (d slot : Nat) (s : State) (c : SpillCand) : State :=
  if ((grantJob s d slot).map (·.failed)).getD true then s
  else
    beginPageOut (modDie s d fun y => { y with grantJobs := y.grantJobs.map fun j =>
      if j.slot = slot then { j with begun := j.begun + 1 } else j }) d slot c.vpn

/-- Begin the page-outs that a grant may begin now (step 3). -/
def spillFor (s : State) (x : Context) (d slot : Nat) (st : SeqStep) (g : GrantJob) : State :=
  let lack := shortBy s x d slot st - ((outsOf s d slot).length + framesComing s d slot)
  forEach ((spillCands s x d slot).take (min lack (g.limit - g.begun))) s (spillOne d slot)

/-- The steps of Table 9.4 for a grant that is not complete on a die, from where it stands. -/
def continueGrant (s : State) (d slot : Nat) : State :=
  match seqBySlot s slot with
  | none => dropJob s d slot
  | some q =>
    match ctxOf s q.ctx.val, q.step, grantJob s d slot with
    | some x, some st, some _ =>
      let s := takeAvail s x d slot st
      if shortBy s x d slot st = 0 then grantDone (dropJob s d slot) q
      else if (parkedOn s d slot).isSome then s
      else
        match grantJob s d slot with
        | none => s
        | some g =>
          if roundsOwed s d g then s
          else
            let s := if spillUsable s x d && !g.failed then spillFor s x d slot st g else s
            if !(outsOf s d slot).isEmpty || framesComing s d slot ≠ 0 then s
            else if g.parks then
              park s x q d slot (((grantJob s d slot).map (·.spilled)).getD 0) st
            else cacheFull s x q d slot st
    | _, _, _ => dropJob s d slot

/-- Frames have reached a die's pool: parked sequences first, longest first, then the other grants. -/
def serveDie (s : State) (d : Nat) : State :=
  let s := forEach ((dieOf s d).parkQ.map (·.slot)) s fun s k => continueGrant s d k
  forEach (((dieOf s d).grantJobs.map (·.slot)).filter fun k => (parkedOn s d k).isNone) s
    fun s k => continueGrant s d k

/-! ## GRANT_REQUEST and PARK_LIMIT -/

/-- The scheduler asks every die with a FULL layer for the step's grants. -/
def grantRequestEff (slot : Nat) (s : State) : State :=
  match seqBySlot s slot with
  | none => s
  | some q =>
    match ctxOf s q.ctx.val, q.step with
    | some x, some st =>
      if !(isLive q) || st.granted || q.st = .parked || anyJob s slot then s
      else
        let ds := x.dies.filter fun d => !(fullLayers x d).isEmpty
        let s := forEach ds s fun s d =>
          let s := forEach ((dieOf s d).parkQ.map (·.slot)) s fun s k => continueGrant s d k
          let s := takeAvail s x d slot st
          if shortBy s x d slot st = 0 then s
          else modDie s d fun y => { y with
            grantJobs := y.grantJobs ++ [{
              slot := slot, rounds := if y.round.isSome then 0 else 1, begun := 0, spilled := 0, failed := false
              limit := fieldOf s F.KV_SPILL_LIMIT, parks := fieldOf s F.KV_PARK_LIMIT_MS ≠ 0 }] }
        let short := ds.filter fun d => (grantJob s d slot).isSome
        if short.isEmpty then grantDone s q else forEach short s fun s d => continueGrant s d slot
    | _, _ => s

/-- The die where a slot has been parked longest, with its time. -/
def longestPark (s : State) (slot : Nat) : Option (Nat × Nat) :=
  (allDies.filterMap fun d => (parkedOn s d.val slot).map fun e => (d.val, e.since)).foldl
    (fun (a : Option (Nat × Nat)) e =>
      match a with
      | none => some e
      | some b => if e.2 < b.2 then some e else some b) none

/-- The park limit passes on the die where the sequence has been parked longest (R258). -/
def parkLimitEff (slot : Nat) (s : State) : State :=
  match longestPark s slot, seqBySlot s slot with
  | some (d, _), some q =>
    match ctxOf s q.ctx.val, q.step with
    | some x, some st => cacheFull (unpark s d slot 1) x q d slot st
    | _, _ => s
  | _, _ => s

def execGrantRequest (slot : BitVec 12) (s : State) : Res := .next (grantRequestEff slot.toNat s)
def execParkLimit (slot : BitVec 12) (s : State) : Res := .next (parkLimitEff slot.toNat s)

end Sys2Proof.Machine
end

