-- ==== Sys2Proof/Machine/Serving.lean ====
section
/-! DEFINITION. The serving protocol (R264 to R277): authentication, the REQUEST with its parts, prompts and
clamps, CANCEL and RESEND. -/
namespace Sys2Proof.Machine

/-! ## Reading a message (R264, R269) -/

/-- `n` bytes from `off` as a number. -/
def fieldAt (b : List Byte) (off n : Nat) : Nat := beNat ((b.drop off).take n)

def headBytes : Nat := 40
def serveMagic : Nat := 0x5253

def msgType (b : List Byte) : Nat := fieldAt b 3 1
def msgTenant (b : List Byte) : Nat := fieldAt b 4 2
def msgNonce (b : List Byte) : Nat := fieldAt b 8 8
def msgReq (b : List Byte) : DWord := BitVec.ofNat 64 (fieldAt b 16 8)
def msgBody (b : List Byte) : List Byte := b.drop headBytes

/-- The message with its TAG field zero. -/
def untagged (b : List Byte) : List Byte := b.take 24 ++ List.replicate 16 0 ++ b.drop headBytes

def tagGood (tn : Tenant) (b : List Byte) : Bool :=
  tagOf (tn.key) (untagged b) = BitVec.ofNat 128 (fieldAt b 24 16)

/-! ## Refusals -/

/-- Send a REJECT (R271), count it and log it (R290). -/
def rejectMsg (s : State) (x : Session) (tenant : Nat) (req : DWord) (reason detail : Nat) : State :=
  let s := sendServe s x tenant req (.reject reason (BitVec.ofNat 32 detail))
  let s := pinc s R.SV_REJECT_COUNT_REJECTS
  logPut s 0x0A10 sevNotice (svcSrc s) (reason * 2 ^ 24 + tenant % 1024) (req.toNat / 2 ^ 32)
    (req.toNat % 2 ^ 32)

/-- Failures of R267 that a burst exceeds within a second (R290). -/
def burstLimit : Nat := 1000

/-- Drop a message that is not authentic. -/
def authFail (s : State) (tenant : Word) : State :=
  let s := pinc s R.SV_AUTH_FAIL_COUNT
  modServing s fun v => { v with
    authFails := v.authFails + 1
    lastTenant := if v.authFails = burstLimit then tenant else v.lastTenant }

def dropMsg (s : State) : State := pinc s R.SV_REJECT_COUNT_DROPPED

/-! ## Nonces (R267, R268) -/

def nonceWindow : Nat := 1024

def nonceOk (tn : Tenant) (n : Nat) : Bool :=
  tn.highest < n || (tn.highest ≤ n + nonceWindow && !(tn.accepted.contains n))

def acceptNonce (tn : Tenant) (n : Nat) : Tenant :=
  let h := max tn.highest n
  { tn with highest := h, accepted := (n :: tn.accepted).filter fun k => h ≤ k + nonceWindow }

def epochGap : Nat := 10000000

/-- Answer a good tag under another boot number, at most once per session in 10 ms (R268). -/
def epochReject (s : State) (x : Session) (tenant : Nat) (req : DWord) : State :=
  let recent := s.serving.lastEpoch.any fun e => e.1 = x && now s < e.2 + epochGap
  if recent then s
  else
    let s := modServing s fun v => { v with
      lastEpoch := (x, now s) :: v.lastEpoch.filter fun e => e.1 ≠ x }
    rejectMsg s x tenant req 9 s.serving.boot.toNat

/-- Receive a message of a type: drop one that no packet of PT_MTU holds (R338), authenticate it and act on it. A
message of another known type is another event. -/
def receive (s : State) (x : Session) (b : List Byte) (type : Nat)
    (act : State → Nat → Tenant → DWord → State) : State :=
  let ty := msgType b
  if !(portUp s x.port.val) || (1 ≤ ty && ty ≤ 4 && ty ≠ type) then s
  else if serveMax s x.port.val x.addr < b.length then portInc s x.port.val R.PT_DROP_UNSERVED
  else if b.length < headBytes || fieldAt b 0 2 ≠ serveMagic then authFail s 0xFFFFFFFF
  else
    let tenant := msgTenant b
    match tenantOf s tenant with
    | none => authFail s 0xFFFFFFFF
    | some tn =>
      if !(tagGood tn b) then authFail s (BitVec.ofNat 32 tenant)
      else if msgNonce b / 2 ^ 32 ≠ s.serving.boot.toNat then epochReject s x tenant (msgReq b)
      else if !(nonceOk tn (msgNonce b)) then authFail s (BitVec.ofNat 32 tenant)
      else
        let tn := acceptNonce tn (msgNonce b)
        let s := setTenant s tenant (some tn)
        if fieldAt b 2 1 ≠ 1 || ty ≠ type then dropMsg s else act s tenant tn (msgReq b)

/-! ## REQUEST bodies (R270) -/

structure ReqBody where
  ctx     : Nat
  cls     : Nat
  flags   : Nat
  maxNew  : Nat
  temp    : Word
  topK    : Nat
  biasCount : Nat
  topP    : Word
  minP    : Word
  repPen  : Word
  presPen : Word
  seed    : DWord
  grammar : Nat
  stopCount : Nat
  prev    : DWord
  bias    : List (Nat × Word)
  stops   : List (List Nat)
  prompt  : List Byte

def fixedBody : Nat := 64

/-- The first byte of a range of a body that is not zero. -/
def nonzeroAt (b : List Byte) (off n : Nat) : Option Nat :=
  ((List.range n).find? fun i => fieldAt b (off + i) 1 ≠ 0).map (off + ·)

/-- Numbers of four bytes. -/
def quads : List Byte → List Nat
  | a :: b :: c :: d :: r => beNat [a, b, c, d] :: quads r
  | _ => []

/-- `n` stop entries from an offset of a body that ends at `stop`: the sequences and the offset behind them, or
the first fault. -/
def stopEntries (b : List Byte) (stop : Nat) : Nat → Nat → List (List Nat) → Except Nat (List (List Nat) × Nat)
  | 0, off, acc => .ok (acc, off)
  | n + 1, off, acc =>
    if stop < off + 4 then .error stop
    else
      match nonzeroAt b (off + 1) 3 with
      | some i => .error i
      | none =>
        let k := fieldAt b off 1
        if stop < off + 4 + 4 * k then .error stop
        else stopEntries b stop n (off + 4 + 4 * k) (acc ++ [quads ((b.drop (off + 4)).take (4 * k))])

/-- Entries of the logit bias from an offset. -/
def biasEntries (b : List Byte) (off n : Nat) : List (Nat × Word) :=
  (List.range n).map fun i => (fieldAt b (off + 8 * i) 4, BitVec.ofNat 32 (fieldAt b (off + 8 * i + 4) 4))

/-- The body of a REQUEST whose own part of the body ends at `own`, with the bytes of its parts behind; the
offset of the first fault in the body otherwise (Table 10.4, MALFORMED). -/
def parseBody (b : List Byte) (own : Nat) : Except Nat ReqBody :=
  if own < fixedBody then .error own
  else if fieldAt b 2 1 ≠ 0 then .error 2
  else if 64 ≤ fieldAt b 3 1 then .error 3
  else
    match (nonzeroAt b 45 1).orElse fun _ => nonzeroAt b 60 4 with
    | some i => .error i
    | none =>
      let bc := fieldAt b 14 2
      let sc := fieldAt b 44 1
      if own < fixedBody + 8 * bc then .error own
      else
        match stopEntries b own sc (fixedBody + 8 * bc) [] with
        | .error e => .error e
        | .ok (stops, off) =>
          let unit := if tbit (fieldAt b 2 2) 0 then 1 else 4
          let want := unit * fieldAt b 56 4
          let have_ := b.length - off
          if want ≠ have_ then .error (off + min want have_)
          else .ok
            { ctx := fieldAt b 0 1, cls := fieldAt b 1 1, flags := fieldAt b 2 2
              maxNew := fieldAt b 4 4, temp := BitVec.ofNat 32 (fieldAt b 8 4), topK := fieldAt b 12 2
              biasCount := bc, topP := BitVec.ofNat 32 (fieldAt b 16 4)
              minP := BitVec.ofNat 32 (fieldAt b 20 4), repPen := BitVec.ofNat 32 (fieldAt b 24 4)
              presPen := BitVec.ofNat 32 (fieldAt b 28 4), seed := BitVec.ofNat 64 (fieldAt b 32 8)
              grammar := fieldAt b 40 4, stopCount := sc, prev := BitVec.ofNat 64 (fieldAt b 48 8)
              bias := biasEntries b fixedBody bc, stops := stops, prompt := b.drop off }

def flagText (r : ReqBody) : Bool := tbit r.flags 0
def flagKeep (r : ReqBody) : Bool := tbit r.flags 1
def flagContinue (r : ReqBody) : Bool := tbit r.flags 2
def flagSeeded (r : ReqBody) : Bool := tbit r.flags 3
def flagNoSpec (r : ReqBody) : Bool := tbit r.flags 4
def flagGrammar (r : ReqBody) : Bool := tbit r.flags 5

/-! ## The tokenizer (R274) -/

def isCont (b : Byte) : Bool := b.toNat / 64 = 2

/-- Length of the valid UTF-8 sequence at the head of a list; 0 when there is none. -/
def utf8Len (l : List Byte) : Nat :=
  let at_ (i : Nat) : Nat := ((l[i]?).map (·.toNat)).getD 0
  let cont (i : Nat) : Bool := ((l[i]?).map isCont).getD false
  let a := at_ 0
  if l.isEmpty then 0
  else if a < 0x80 then 1
  else if 0xC2 ≤ a && a ≤ 0xDF then (if cont 1 then 2 else 0)
  else if 0xE0 ≤ a && a ≤ 0xEF then
    let ok := cont 1 && cont 2 && !(a = 0xE0 && at_ 1 < 0xA0) && !(a = 0xED && 0x9F < at_ 1)
    if ok then 3 else 0
  else if 0xF0 ≤ a && a ≤ 0xF4 then
    let ok := cont 1 && cont 2 && cont 3 && !(a = 0xF0 && at_ 1 < 0x90) && !(a = 0xF4 && 0x8F < at_ 1)
    if ok then 4 else 0
  else 0

/-- The bytes with every byte outside a valid sequence replaced by U+FFFD, and whether one was. -/
def cleanUtf8 : Nat → List Byte → List Byte × Bool
  | 0, _ => ([], false)
  | _ + 1, [] => ([], false)
  | n + 1, b :: r =>
    match utf8Len (b :: r) with
    | 0 =>
      let x := cleanUtf8 n r
      ([0xEF, 0xBF, 0xBD] ++ x.1, true)
    | k + 1 =>
      let x := cleanUtf8 n (r.drop k)
      (b :: r.take k ++ x.1, x.2)

/-- One merge rule over a list of tokens, from left to right. -/
def mergePass (a b c : Nat) : List Nat → List Nat
  | x :: y :: r => if x = a && y = b then c :: mergePass a b c r else x :: mergePass a b c (y :: r)
  | l => l

/-- The token ids of clean UTF-8 bytes. -/
def tokenize (v : Serve) (bs : List Byte) : List Nat :=
  v.merges.foldl (fun l m => mergePass m.1 m.2.1 m.2.2 l)
    (bs.map fun b => (v.byteTok[b.toNat]?).getD b.toNat)

/-! ## Clamping (R277, Table 10.5) -/

/-- A value with whether it was clamped. -/
abbrev Clamped (α : Type) := α × Bool

/-- An FP32 value held in a range; a NaN takes the named value. -/
def clampF (lo hi nan : Word) (w : Word) : Clamped Word :=
  let neg : Bool := w.toNat / 2 ^ 31 = 1
  if isNan 23 w.toNat then (nan, true)
  else if isSpecial 23 w.toNat then (if neg then lo else hi, true)
  else if f32Val w < f32Val lo then (lo, true)
  else if f32Val hi < f32Val w then (hi, true)
  else (w, false)

def clampTopP (w : Word) : Clamped Word :=
  if isSpecial 23 w.toNat || f32Val w ≤ 0 || 1 < f32Val w then (0x3F800000, true) else (w, false)

def maxTokens : Nat := 1048576

/-- Token ids held below the vocabulary. -/
def clampIds (vocab : Nat) (l : List Nat) : Clamped (List Nat) :=
  (l.map fun v => min v (vocab - 1), l.any fun v => vocab ≤ v)

/-- Bias entries in use: at most 64, of known tokens. -/
def clampBias (vocab : Nat) (l : List (Nat × Word)) : List (Nat × Word) × Bool × Bool :=
  let l := l.take 64
  let used := l.filter fun e => e.1 < vocab
  let vals := used.map fun e => (e.1, clampF 0xC2C80000 0x42C80000 0 e.2)
  (vals.map fun e => (e.1, e.2.1), l.any fun e => vocab ≤ e.1, vals.any fun e => e.2.2)

/-- Stop sequences in use: at most 8, of 1 to 16 tokens. -/
def clampStops (vocab : Nat) (l : List (List Nat)) : List (List Nat) × Bool × Bool :=
  let l := l.take 8
  let used := (l.filter fun x => !x.isEmpty).map fun x => clampIds vocab (x.take 16)
  (used.map (·.1), l.any fun x => x.isEmpty || 16 < x.length, used.any (·.2))

/-- The CLAMPED bitmap of the listed bits. -/
def clampWord (l : List (Nat × Bool)) : Word :=
  BitVec.ofNat 32 (l.foldl (fun a e => if e.2 then a + 2 ^ e.1 else a) 0)

def clampCount (l : List (Nat × Bool)) : Nat := (l.filter (·.2)).length

/-! ## The structural checks (R271) -/

def queuedCount (s : State) : Nat := (s.serving.seqs.filter fun q => q.st = .queued).length

/-- Sequences that a tenant holds: live and kept ones. -/
def tenantSeqs (s : State) (tenant : Nat) : Nat :=
  (s.serving.seqs.filter fun q => q.tenant = tenant && (isLive q || q.kept)).length

/-- A unit of the context is in use: required or optional, and not disabled (R160). -/
def unitUsed (x : Context) (bit : Nat) : Bool :=
  tbit (namedUnits x.caps).toNat bit && !(tbit x.disabled.toNat bit)

/-- The kept sequence that a CONTINUE request names. -/
def keptPrev (s : State) (tenant : Nat) (r : ReqBody) : Option Seq :=
  (seqOf s tenant r.prev).bind fun q => if q.kept && q.ctx.val = r.ctx then some q else none

/-- The first reason of Table 10.4 that refuses a well-formed REQUEST, with its detail word. -/
def refusal (s : State) (tenant : Nat) (tn : Tenant) (r : ReqBody) : Option (Nat × Nat) :=
  match if r.ctx < 4 && ctxServing s r.ctx then ctxOf s r.ctx else none with
  | none => some (1, r.ctx)
  | some x =>
    if fieldOf s F.SV_QUEUE_DEPTH ≤ queuedCount s || tn.maxSeq ≤ tenantSeqs s tenant then
      some (2, queuedCount s)
    else if flagText r && !(unitUsed x 3) then some (3, 0)
    else if flagGrammar r && (!(unitUsed x 4) || x.image.serve.grammars.length ≤ r.grammar) then
      some (4, r.grammar)
    else if flagContinue r && (keptPrev s tenant r).isNone then some (6, 0)
    else none

/-! ## A new sequence (R275 to R277, R281) -/

/-- Prompt tokens of a request, and whether a byte or an id was clamped. -/
def promptOf (x : Context) (r : ReqBody) : List Nat × Bool × Bool :=
  if flagText r then
    let c := cleanUtf8 r.prompt.length r.prompt
    let ids := clampIds x.caps.vocab.toNat (tokenize x.image.serve c.1)
    (ids.1, c.2, ids.2)
  else
    let ids := clampIds x.caps.vocab.toNat (quads r.prompt)
    (ids.1, false, ids.2)

/-- The sequence of an accepted request, and the clamps of Table 10.5. -/
def newSeq (s : State) (sess : Session) (tenant : Nat) (tn : Tenant) (req : DWord) (x : Context)
    (prev : Option Seq) (r : ReqBody) (seed : DWord) : Seq × List (Nat × Bool) :=
  let vocab := x.caps.vocab.toNat
  let clsOk := r.cls < 64 && tbit tn.mask.toNat r.cls
  let own := promptOf x r
  let whole := ((prev.bind fun q => q.gen.getLast?).map fun v => v :: own.1).getD own.1
  let long : Bool := maxTokens - 1 < whole.length
  let toks := whole.take (maxTokens - 1)
  let toks := if toks.isEmpty then [x.image.serve.startToken] else toks
  let bound := maxTokens - toks.length
  let temp := clampF 0 0x40800000 0x3F800000 r.temp
  let kMax := min 1024 vocab
  let topP := clampTopP r.topP
  let minP := clampF 0 0x3F800000 0 r.minP
  let rep := clampF 0 0x41800000 0 r.repPen
  let pres := clampF 0 0x41800000 0 r.presPen
  let bias := clampBias vocab r.bias
  let stops := clampStops vocab r.stops
  let noLanes := (lanesOf s r.ctx).isEmpty
  let clamps : List (Nat × Bool) :=
    [(0, !clsOk), (1, bound < r.maxNew), (2, temp.2), (3, kMax < r.topK), (4, topP.2), (5, minP.2),
      (6, rep.2), (7, pres.2), (8, 64 < r.biasCount), (9, bias.2.1), (10, bias.2.2),
      (11, 8 < r.stopCount), (12, stops.2.1), (13, stops.2.2), (14, own.2.2), (15, long),
      (16, own.2.1), (17, noLanes && !(flagNoSpec r))]
  ({ uid := s.serving.seqNo
     tenant := tenant, req := req, sess := sess, ctx := Fin.ofNat 4 r.ctx
     cls := if clsOk then r.cls else tn.defClass
     st := if prev.isSome then .prefilling else .queued
     back := .queued
     slot := prev.bind (·.slot)
     was := none
     keep := flagKeep r, kept := false
     noSpec := flagNoSpec r || noLanes
     maxNew := min r.maxNew bound
     samp :=
      { temp := temp.1, topK := min r.topK kMax, topP := topP.1, minP := minP.1, repPen := rep.1
        presPen := pres.1, bias := bias.1, stops := stops.1
        seed := if flagSeeded r then r.seed else seed
        grammar := if flagGrammar r then some r.grammar else none }
     clamped := clampWord clamps
     base := (prev.map keptLen).getD 0
     prompt := toks
     gen := [], recNo := 0, records := [], ended := none, cancelWait := [], doomed := none
     leaving := false, drain := false, step := none, dLen := 0, allRej := 0, offLeft := 0
     seat := none, draftLen := 0, catchup := false }, clamps)

/-- The ACCEPT of a sequence, with the slot assigned by now. -/
def acceptOf (q : Seq) : ServeMsg := .accept (q.slot.getD 0xFFFF) q.cls q.clamped q.samp.seed q.prompt.length

/-- A REQ_ID named again: the table forgets the ended sequence that had it. -/
def forgetReq (s : State) (tenant : Nat) (req : DWord) : State :=
  match seqOf s tenant req with
  | some q => purgeSeq (modThis s q fun q => { q with ended := none, records := [] }) q
  | none => s

/-- Take over the slot of a kept sequence: the new one holds it (R275, R281). -/
def takeSlot (s : State) (prev : Seq) : State :=
  modThis s prev fun q => { q with kept := false, was := q.slot, slot := if q.drain then q.slot else none }

/-- The bitmaps of the slot that a request takes over: the presence set empties, and the prompt's bits are set
(R292). -/
def takeBits (s : State) (x : Context) (q : Seq) : State :=
  match q.slot with
  | some k => addBits (clearPresence s x k) x k q.prompt []
  | none => s

/-- Create the sequence of an accepted request and answer ACCEPT. -/
def createSeq (s : State) (sess : Session) (tenant : Nat) (tn : Tenant) (req : DWord) (x : Context)
    (r : ReqBody) (seed : DWord) : State :=
  let prev := if flagContinue r then keptPrev s tenant r else none
  let e := newSeq s sess tenant tn req x prev r seed
  let q := e.1
  let s := match prev with
    | some p => takeBits (takeSlot s p) x q
    | none => s
  let s := forgetReq s tenant req
  let s := modServing s fun v => { v with seqs := v.seqs ++ [q], seqNo := v.seqNo + 1 }
  let s := pinc s R.SV_CLAMP_COUNT_COUNT (clampCount e.2)
  let s := sendServe s sess tenant req (acceptOf q)
  if q.maxNew = 0 && !q.keep then endSeq s q 3 0
  else
    match prev with
    | some p => if p.drain then s else firstChunk s q
    | none => s

/-- Check an assembled REQUEST and act on it. -/
def admitReq (s : State) (sess : Session) (tenant : Nat) (tn : Tenant) (req : DWord) (body : List Byte)
    (own : Nat) (seed : DWord) : State :=
  match parseBody body own with
  | .error off => rejectMsg s sess tenant req 8 (headBytes + off)
  | .ok r =>
    match refusal s tenant tn r with
    | some e => rejectMsg s sess tenant req e.1 e.2
    | none =>
      match ctxOf s r.ctx with
      | some x => createSeq s sess tenant tn req x r seed
      | none => s

/-! ## REQUEST, PART and FRAG_TIMEOUT (R270, R272) -/

def assemblyOf (s : State) (tenant : Nat) (req : DWord) : Option Assembly :=
  s.serving.assembling.find? fun a => a.tenant = tenant && a.req = req

def dropAssembly (s : State) (tenant : Nat) (req : DWord) : State :=
  modServing s fun v => { v with
    assembling := v.assembling.filter fun a => !(a.tenant = tenant && a.req = req) }

def requestAct (sess : Session) (b : List Byte) (seed : DWord) (s : State) (tenant : Nat) (tn : Tenant)
    (req : DWord) : State :=
  let body := msgBody b
  match (seqOf s tenant req).bind fun q => if isLive q || q.kept then some q else none with
  | some q => sendServe s q.sess tenant req (acceptOf q)
  | none =>
    if (assemblyOf s tenant req).isSome then s
    else if fieldAt b 6 2 ≠ b.length then rejectMsg s sess tenant req 8 6
    else
      let count := fieldAt body 46 2
      if body.length < fixedBody || count = 0 then admitReq s sess tenant tn req body body.length seed
      else modServing s fun v => { v with
        assembling := v.assembling ++ [⟨sess, tenant, req, body, count, [], seed⟩] }

/-- The parts in FRAG order. -/
def joinParts (a : Assembly) : List Byte :=
  ((List.range a.count).map fun i => ((a.parts.find? fun p => p.1 = i + 1).map (·.2)).getD []).flatten

def partAct (b : List Byte) (s : State) (tenant : Nat) (tn : Tenant) (req : DWord) : State :=
  let body := msgBody b
  let no := fieldAt body 0 2
  match assemblyOf s tenant req with
  | none => dropMsg s
  | some a =>
    if body.length < 4 || no = 0 || a.count < no then dropMsg s
    else
      match nonzeroAt body 2 2 with
      | some i => rejectMsg (dropAssembly s tenant req) a.sess tenant req 8 (headBytes + i)
      | none =>
        if a.parts.any fun p => p.1 = no then s
        else
          let a := { a with parts := a.parts ++ [(no, body.drop 4)] }
          let s := dropAssembly s tenant req
          if a.parts.length = a.count then
            admitReq s a.sess tenant tn req (a.body ++ joinParts a) a.body.length a.seed
          else modServing s fun v => { v with assembling := v.assembling ++ [a] }

/-- The parts have not all arrived in time (R271, INCOMPLETE). -/
def fragTimeoutEff (tenant : Nat) (req : DWord) (s : State) : State :=
  match assemblyOf s tenant req with
  | some a => rejectMsg (dropAssembly s tenant req) a.sess tenant req 5 a.parts.length
  | none => s

/-! ## CANCEL (R285, R286) -/

def msNs : Nat := 1000000

/-- A cancel that the device remembers as answered. -/
def cancelledBefore (s : State) (tenant : Nat) (req : DWord) : Bool :=
  s.serving.cancelled.any fun e =>
    e.1 = tenant && e.2.1 = req && now s ≤ e.2.2 + fieldOf s F.SV_KEEP_MS * msNs

/-- Release a kept sequence. -/
def releaseKept (s : State) (q : Seq) : State :=
  if !q.kept then s
  else if q.drain then modThis s q fun q => { q with kept := false }
  else releaseSeq s q

def cancelAct (sess : Session) (s : State) (tenant : Nat) (_ : Tenant) (req : DWord) : State :=
  match seqOf s tenant req with
  | some q =>
    if isLive q then
      let s := modThis s q fun q => { q with cancelWait := q.cancelWait ++ [q.sess] }
      if q.st = .parked || !stepBusy s q then endSeq s q 4 0 else s
    else
      let s := answerCancel s q.sess tenant req (if (q.ended.map (·.reason)) = some 4 then 1 else 2)
      releaseKept s q
  | none =>
    match assemblyOf s tenant req with
    | some a =>
      let s := dropAssembly s tenant req
      let s := modServing s fun v => { v with cancelled := (tenant, req, now s) :: v.cancelled.filter fun e =>
        !(e.1 = tenant && e.2.1 = req) }
      answerCancel s a.sess tenant req 1
    | none => answerCancel s sess tenant req (if cancelledBefore s tenant req then 1 else 3)

/-! ## RESEND (R273) -/

def oldestRecord (q : Seq) : Nat := ((q.records.head?).map (·.no)).getD q.recNo

def resendAct (sess : Session) (b : List Byte) (s : State) (tenant : Nat) (_ : Tenant) (req : DWord) : State :=
  let body := msgBody b
  if body.length < 4 then s
  else
    let first := fieldAt body 0 4
    match seqOf s tenant req with
    | none => rejectMsg s sess tenant req 7 0
    | some q =>
      let s := if first < oldestRecord q then rejectMsg s q.sess tenant req 7 (oldestRecord q) else s
      let s := forEach (q.records.filter fun r => first ≤ r.no) s fun s r =>
        sendServe s q.sess tenant req (.token r)
      match q.ended with
      | some e => sendServe s q.sess tenant req (.ended e)
      | none => s

/-! ## KEEP_EXPIRY and AUTH_BURST_SECOND -/

/-- SV_KEEP_MS has passed since the end: records, END and a kept cache are dropped (R273, R281). -/
def keepExpiryEff (tenant : Nat) (req : DWord) (s : State) : State :=
  let s := modServing s fun v => { v with
    cancelled := v.cancelled.filter fun e => !(e.1 = tenant && e.2.1 = req) }
  match seqOf s tenant req with
  | some q =>
    if isLive q then s
    else
      let s := releaseKept s q
      purgeSeq (modThis s q fun q => { q with ended := none, records := [] }) q
  | none => s

def authBurstEff (s : State) : State :=
  let n := s.serving.authFails
  let s := if burstLimit < n then
      logPut s 0x0A12 sevWarning (svcSrc s) s.serving.lastTenant.toNat n 0
    else s
  modServing s fun v => { v with authFails := 0 }

def execRequest (x : Session) (bytes : List Byte) (seed : DWord) (s : State) : Res :=
  .next (receive s x bytes 1 (requestAct x bytes seed))
def execPart (x : Session) (bytes : List Byte) (s : State) : Res := .next (receive s x bytes 2 (partAct bytes))
def execCancel (x : Session) (bytes : List Byte) (s : State) : Res := .next (receive s x bytes 3 (cancelAct x))
def execResend (x : Session) (bytes : List Byte) (s : State) : Res :=
  .next (receive s x bytes 4 (resendAct x bytes))
def execFragTimeout (tenant : Half) (req : DWord) (s : State) : Res :=
  .next (fragTimeoutEff tenant.toNat req s)
def execKeepExpiry (tenant : Half) (req : DWord) (s : State) : Res :=
  .next (keepExpiryEff tenant.toNat req s)
def execAuthBurstSecond (s : State) : Res := .next (authBurstEff s)

end Sys2Proof.Machine
end

