-- ==== Sys2Proof/Machine/Schedule.lean ====
section
/-! DEFINITION. The admission scheduler (R253, R278 to R281): slots and reservations, wave groups by deficit
round robin; and the handling of a commit by the sequence table (R283, R304). -/
namespace Sys2Proof.Machine

/-! ## SEQUENCE_ADMIT -/

/-- Frames that a sequence reserves on a die (R253). -/
def dieReserve (x : Context) (d : Nat) : Nat :=
  (dieLayers x d).foldl (fun a l => a + layerReserve (kvPlanOf x l)) 0

/-- The reservations fit on every die, and no parked sequence comes before them. -/
def reserveFits (s : State) (x : Context) : Bool :=
  x.dies.all fun d => dieReserve x d ≤ available s d && (dieOf s d).parkQ.isEmpty

/-- The lowest slot of a context that no sequence holds. -/
def freeSlotNo (s : State) (x : Context) : Option Nat :=
  ((x.slots.filter fun k => (seqBySlot s k).isNone).min?)

/-- Activate the walker record of every layer for a slot (R241). -/
def activateSlot (s : State) (x : Context) (slot : Nat) : State :=
  forEach (List.range (ctxLayers x)) s fun s l =>
    setWalker s (layerDie x l) (rangeNo (layerLam x l) slot) (some (freshWRec (layerReserve (kvPlanOf x l))))

/-- Records and END of the slot's earlier sequences are held no more: of the last one, and of those that it
continued (R273). -/
def forgetSlot (s : State) (slot : Nat) : State :=
  forEach (s.serving.seqs.filter fun q => (q.slot = some slot || q.was = some slot) && !(slotHeld q)) s fun s q =>
    purgeSeq (modThis s q fun q => { q with ended := none, records := [] }) q

/-- A queued request takes a slot and its reservations, and its prefill starts. -/
def sequenceAdmitEff (tenant : Nat) (req : DWord) (s : State) : State :=
  match seqOf s tenant req with
  | none => s
  | some q =>
    match ctxOf s q.ctx.val with
    | none => s
    | some x =>
      if q.st ≠ .queued || !(admissionOpen s q.ctx.val) || !(reserveFits s x) then s
      else
        match freeSlotNo s x with
        | none => s
        | some k =>
          let s := addBits (activateSlot (forgetSlot s k) x k) x k q.prompt []
          firstChunk (modThis s q fun q => { q with slot := some k, st := .prefilling }) { q with slot := some k }

/-! ## Ready items (R278, R252) -/

/-- Length bucket of a committed length. -/
def bucketOf (n : Nat) : Nat := if n < 32 then 0 else if n < 2 ^ 19 then Nat.log2 n - 4 else 15

structure Item where
  uid    : Nat
  ctx    : Fin 4
  cls    : Nat
  slot   : Nat
  step   : SeqStep
  bucket : Nat

def itemOf (q : Seq) : Option Item :=
  match q.step, q.slot with
  | some st, some k =>
    if st.granted && isLive q && q.st ≠ .parked && !q.leaving then
      some ⟨q.uid, q.ctx, q.cls, k, st, bucketOf (if st.prefill then st.first + st.npos else st.first + 1)⟩
    else none
  | _, _ => none

/-- Ready items of the speed or of the other classes, oldest first. -/
def readyItems (s : State) (speed : Bool) : List Item :=
  ((s.serving.seqs.filterMap itemOf).filter fun i => isSpeed s i.cls = speed).mergeSort fun a b =>
    a.step.order ≤ b.step.order

/-! ## Pipeline slots (R278, R280) -/

def pipeSlots (s : State) (x : Context) : Nat :=
  match fieldOf s F.SV_PIPE_SLOTS with
  | 0 => min 448 (ctxLayers x)
  | n => n

/-- Slots that the speed classes ask for. -/
def pipeAsked (s : State) : List (Nat × Nat) :=
  (speedClasses s).map fun k => (k, classField s (F.SV_CLASS_PIPE + k))

def sumSnd (l : List (Nat × Nat)) : Nat := l.foldl (fun a e => a + e.2) 0

/-- SV_CLASS_PIPE of the speed classes scaled down to one slot fewer than there are (R280). -/
def pipeScaled (s : State) (x : Context) : List (Nat × Nat) :=
  let n := pipeSlots s x - 1
  let l := pipeAsked s
  let sum := sumSnd l
  if sum ≤ n then l
  else
    let base := l.map fun e => (e.1, e.2 * n / sum)
    let order := (l.map fun e => (e.1, e.2 * n % sum)).mergeSort fun a b =>
      b.2 < a.2 || (a.2 = b.2 && a.1 ≤ b.1)
    let extra := (order.take (n - sumSnd base)).map (·.1)
    base.map fun e => (e.1, if extra.contains e.1 then e.2 + 1 else e.2)

/-- A pipeline slot is free for a group. -/
def slotFree (s : State) (c : Fin 4) (x : Context) (speed : Bool) : Bool :=
  let gs := s.serving.groups.filter fun g => g.ctx = c
  let others := (gs.filter fun g => !g.speed && !g.bubble).length
  gs.length < pipeSlots s x && (speed || others < pipeSlots s x - sumSnd (pipeScaled s x))

/-! ## Deficit round robin (R279) -/

structure Forming where
  /-- items still in the class queues, oldest first -/
  items   : List Item
  taken   : List Item
  deficit : List (Nat × Nat)
  ptr     : Nat
  /-- the pointer has advanced -/
  moved   : Bool

def classes : Nat := 64
def groupMembers : Nat := 128

def takenPos (f : Forming) : Nat := f.taken.foldl (fun a i => a + i.step.npos) 0

/-- Kind and bucket are unset or those of the group. -/
def matching (f : Forming) (i : Item) : Bool :=
  match f.taken with
  | [] => true
  | j :: _ => i.step.prefill = j.step.prefill && i.bucket = j.bucket

def oldestOf (f : Forming) (c : Fin 4) (k : Nat) : Option Item :=
  f.items.find? fun i => i.cls = k && i.ctx = c && matching f i

/-- The group has room for an item, of either kind. -/
def hasRoom (f : Forming) (maxPos : Nat) (i : Item) : Bool :=
  f.taken.isEmpty || (f.taken.length < groupMembers && takenPos f + i.step.npos ≤ maxPos)

def takeItem (f : Forming) (i : Item) : Forming :=
  { f with
    items := f.items.filter fun j => j.uid ≠ i.uid
    taken := f.taken ++ [i]
    deficit := kset zeroN f.deficit i.cls (kget zeroN f.deficit i.cls - i.step.npos) }

/-- The next class with a ready item of the context, from the pointer on. -/
def nextClass (f : Forming) (c : Fin 4) : Option Nat :=
  ((List.range classes).map fun i => (f.ptr + 1 + i) % classes).find? fun k =>
    f.items.any fun i => i.cls = k && i.ctx = c

/-- Some class can pay for a matching item, now or after more quanta. -/
def canPay (f : Forming) (c : Fin 4) (quantum : Nat → Nat) : Bool :=
  (List.range classes).any fun k =>
    match oldestOf f c k with
    | some i => quantum k ≠ 0 || i.step.npos ≤ kget zeroN f.deficit k
    | none => false

/-- The loop of R279. It ends as well when no class can ever pay for a matching item. -/
def formLoop (c : Fin 4) (maxPos : Nat) (quantum : Nat → Nat) : Nat → Forming → Forming
  | 0, f => f
  | n + 1, f =>
    let pays (i : Item) : Bool := i.step.npos ≤ kget zeroN f.deficit f.ptr
    match (oldestOf f c f.ptr).filter pays with
    | some i => if hasRoom f maxPos i then formLoop c maxPos quantum n (takeItem f i) else f
    | none =>
      let f := if f.items.any fun i => i.cls = f.ptr then f
        else { f with deficit := kset zeroN f.deficit f.ptr 0 }
      match nextClass f c with
      | none => f
      | some k =>
        if !(canPay f c quantum) then { f with moved := true }
        else formLoop c maxPos quantum n { f with
          moved := true, ptr := k, deficit := kset zeroN f.deficit k (kget zeroN f.deficit k + quantum k) }

/-- Rounds that pay for the dearest item at the smallest quantum, over every class. -/
def formFuel : Nat := 600000

/-- The load reports show the pipeline slots of the speed classes anew (R280, R414). -/
def refreshPipes (s : State) : State :=
  modLoader s fun l => { l with
    reports := l.reports.map fun e =>
      match ctxOf s e.1 with
      | some x => (e.1, e.2.map fun r => { r with pipes := pipeScaled s x })
      | none => e }

/-- The scan pointer advances: changed class fields apply from here (R288). -/
def pointerMoved (s : State) : State :=
  if s.serving.classHeld.isEmpty then s else refreshPipes (modServing s fun v => { v with classHeld := [] })

/-- The scheduler forms one wave group of a context. -/
def groupFormEff (c : Fin 4) (speed : Bool) (s : State) : State :=
  match ctxOf s c.val with
  | none => s
  | some x =>
    if !(admissionOpen s c.val) || !(slotFree s c x speed) then s
    else
      let maxPos := if speed then fieldOf s F.SV_SPEED_GROUP_MAX_POS else fieldOf s F.SV_GROUP_MAX_POS
      let quantum (k : Nat) : Nat := fieldOf s (F.SV_CLASS_WEIGHT + k) * fieldOf s F.SV_QUANTUM
      let v := s.serving
      let f := formLoop c maxPos quantum formFuel
        { items := readyItems s speed, taken := []
          deficit := if speed then v.speedDeficit else v.deficit
          ptr := if speed then v.speedPtr else v.scanPtr, moved := false }
      let s := modServing s fun v =>
        if speed then { v with speedDeficit := f.deficit, speedPtr := f.ptr }
        else { v with deficit := f.deficit, scanPtr := f.ptr }
      let s := if f.moved then pointerMoved s else s
      if f.taken.isEmpty then s
      else
        let g : WGroup :=
          { id := s.serving.groupId, ctx := c, prefill := f.taken.any fun i => i.step.prefill
            speed := speed, bubble := false
            members := f.taken.map fun i => ⟨i.slot, i.step⟩
            layer := 0, inside := false, newVer := false, discarded := false, rerun := false
            since := now s, dones := [], proj := [] }
        let s := modServing s fun v => { v with
          groupId := v.groupId + 1
          seqs := v.seqs.map fun q =>
            if f.taken.any fun i => i.uid = q.uid then { q with step := none } else q }
        arriveAt s x g 0

/-! ## SEQUENCE_COMMIT (R283, R304) -/

/-- A list ends with another. -/
def endsWith (l r : List Nat) : Bool := !r.isEmpty && r.length ≤ l.length && l.drop (l.length - r.length) = r

/-- The end reason that the last of the generated tokens gives (Table 10.8); 0 for none. -/
def endReason (eos : Nat) (q : Seq) (gen : List Nat) : Nat :=
  if gen.getLast? = some eos then 1
  else if q.samp.stops.any (endsWith gen) then 2
  else if q.maxNew ≤ gen.length then 3
  else 0

/-- The committed tokens that are kept, and the end reason. -/
def scanTokens (eos : Nat) (q : Seq) : List Nat → List Nat → List Nat × Nat
  | kept, [] => (kept, 0)
  | kept, v :: r =>
    let kept := kept ++ [v]
    match endReason eos q (q.gen ++ kept) with
    | 0 => scanTokens eos q kept r
    | n + 1 => (kept, n + 1)

/-- A later step of the slot has entered a layer: its appends stand for the length there. -/
def laterIn (s : State) (slot first layer : Nat) : Bool :=
  s.serving.groups.any fun g =>
    (layer < g.layer || (layer = g.layer && g.inside))
      && g.members.any fun m => m.slot = slot && first < m.step.first

/-- Set the length of every range of a slot after a commit (R304). -/
def commitLen (s : State) (x : Context) (slot first len : Nat) : State :=
  forEach (List.range (ctxLayers x)) s fun s l =>
    if laterIn s slot first l then s
    else schedSetLen s (layerDie x l) x.rho (rangeNo (layerLam x l) slot) (kvPlanOf x l) len

/-- Send the kept tokens as one TOKEN record, held for RESEND, and count them. -/
def deliver (s : State) (q : Seq) (toks : List Nat) : State :=
  let r : TokRec := ⟨q.recNo, q.gen.length, toks, stamp s⟩
  let keep := fieldOf s F.SV_RESEND_RECORDS
  let s := modThis s q fun q => { q with
    gen := q.gen ++ toks, recNo := q.recNo + 1
    records := (q.records ++ [r]).drop (q.records.length + 1 - keep)
    st := if q.st = .prefilling then .decoding else q.st
    back := if q.st = .parked then .decoding else q.back }
  let s := pinc s R.SV_TOKENS_COUNT toks.length
  let s := pinc s (R.SV_CLASS_TOKENS_COUNT.at q.cls) toks.length
  sendServe s q.sess q.tenant q.req (.token r)

/-- The sequence table handles the oldest commit of a slot. -/
def sequenceCommitEff (slot : Nat) (s : State) : State :=
  match s.serving.commits.find? fun c => c.slot = slot with
  | none => s
  | some m =>
    let s := modServing s fun v => { v with commits := v.commits.erase m }
    match seqBySlot s slot with
    | none => s
    | some q =>
      match isLive q, q.doomed, ctxOf s q.ctx.val with
      | false, _, _ => releaseDrained s q
      | _, some code, _ => releaseDrained (endSeq s q 6 code) q
      | _, _, none => s
      | true, none, some x =>
        if m.flagged || m.step.noPage then idleBoundary (redoStep s q.ctx.val q m.step) q
        else
          let r := scanTokens x.image.serve.eos q [] m.toks
          let len := if m.step.prefill then m.step.first + m.step.npos else m.step.first + r.1.length
          let s := commitLen s x slot m.step.first len
          let s := addBits (deliver s q r.1) x slot r.1 r.1
          let s := modThis s q fun q => { q with
            draftLen := if q.seat.isSome && !q.catchup then len else q.draftLen }
          if r.2 ≠ 0 then endSeq s q r.2 0 else boundary s q

def execSequenceAdmit (tenant : Half) (req : DWord) (s : State) : Res :=
  .next (sequenceAdmitEff tenant.toNat req s)
def execGroupForm (c : Fin 4) (speed : Bool) (s : State) : Res := .next (groupFormEff c speed s)
def execSequenceCommit (slot : BitVec 12) (s : State) : Res := .next (sequenceCommitEff slot.toNat s)

end Sys2Proof.Machine
end

