-- ==== Sys2Proof/Machine/MgmtBase.lean ====
section
/-! DEFINITION. Management requests: the session they arrive in, when they are performed, and the one reply
that each receives (R478 to R480). -/
namespace Sys2Proof.Machine

/-! ## Reply status (Table 21.1) -/

def stDone : Nat := 0x00
def stUnknownOp : Nat := 0x01
def stMalformed : Nat := 0x02
def stNoTarget : Nat := 0x03
def stNotPrimary : Nat := 0x04
def stRefused : Nat := 0x05
def stNotNow : Nat := 0x06
def stQueued : Nat := 0x07

def sessionOf (s : State) (id : Nat) : Option MgmtSession := s.sessions.find? fun x => x.id = id

/-- The port of a session. -/
def sessionPort (s : State) (id : Nat) : Nat := ((sessionOf s id).map (·.port.val)).getD 0

/-- The one reply to a request, which repeats its TAG (R479) and leaves by the session's port (R339). -/
def reply (s : State) (m : Mgmt) (op status : Nat) (body : List Byte) : State :=
  let p := sessionPort s m.session
  let f := frameTag s p .mgmt
  sendOn s p f.pcp (.reply m.session op status m.tag body f)

/-- REFUSED with a reason code in body bytes 0 to 3. -/
def refuse (s : State) (m : Mgmt) (op code : Nat) : State := reply s m op stRefused (leBytes 4 code)

/-! ## State of the bring-up (Table 17.18) -/

def buReadyState : Nat := 1
def buRecovery : Nat := 2
def isReady (s : State) : Bool := pget s R.BU_STAT_STATE = buReadyState
def inRecovery (s : State) : Bool := pget s R.BU_STAT_STATE = buRecovery

/-! ## Requests -/

/-- OP codes of Table 21.2. -/
def opCodes : List Nat := (List.range 13).map (· + 1) ++ [0x10, 0x11, 0x12, 0x13, 0x14, 0x16, 0x17, 0x18, 0x19, 0x1A, 0x20, 0x21, 0x22]

/-- The header keeps its layout: STATUS and the reserved bytes are 0, LENGTH is at most 16 MiB + 64 (R478). -/
def mgmtHeadOk (m : Mgmt) : Bool := m.zeros.all (· = 0) && m.length.toNat ≤ 16777216 + 64

/-- A broken header ends the session with a TLS alert. -/
def breakSession (s : State) (m : Mgmt) (port : Nat) : State :=
  let f := frameTag s port .mgmt
  let s := sendOn s port f.pcp (.tlsAlert m.session f)
  { s with sessions := s.sessions.filter fun x => x.id ≠ m.session }

/-- A request of an open session, whose port is up (Table 13.6). An OP that Table 21.2 does not name is answered
UNKNOWN_OP, one that the present state does not permit NOT_NOW (R480), and a body that is not as the operation asks
MALFORMED. -/
def mgmtOp (allowed : State → Bool) (op : Nat) (m : Mgmt) (act : State → State) (s : State) : State :=
  match sessionOf s m.session with
  | none => s
  | some x =>
    if !(portUp s x.port.val) then s
    else if !(mgmtHeadOk m) then breakSession s m x.port.val
    else
      match m.other with
      | some n => reply s m n.toNat (if opCodes.contains n.toNat then stMalformed else stUnknownOp) []
      | none =>
        if !(allowed s) then reply s m op stNotNow []
        else if m.bodyOk then act s
        else reply s m op stMalformed []

/-- An operation marked "yes" in the recovery column of Table 21.2. -/
def always (_ : State) : Bool := true

/-- The configuration key in force: the well-formed copy of the higher COUNTER (R470). -/
def cfgKey (s : State) : CfgKey :=
  let a := s.store.cfg0
  let b := s.store.cfg1
  if a.wellFormed && (!b.wellFormed || b.counter ≤ a.counter) then a else b

end Sys2Proof.Machine
end

