-- ==== Sys2Proof/Machine/LoadCheck.lean ====
section
/-! DEFINITION. Steps 1 to 8 of a load (Table 6.5): what the loader checks of a manifest entry, an image and a
die set before it writes anything (R156 to R169, R215, R235, R237). A check answers its refusal: the reason
of Table 6.6, the detail and the step. -/
namespace Sys2Proof.Machine

/-- A refusal: reason, detail, step, and the field by its place in R167's list, which runs on with those of R215
and R235 (notes/assumptions/97); 0 when the refusal names none. -/
structure Refused where
  reason : Nat
  detail : Nat
  step   : Nat
  field  : Nat
  deriving DecidableEq, Repr

/-- The first refusal of a list of checks; each pairs the condition that refuses with the refusal. -/
def firstRefused (l : List (Bool × Refused)) : Option Refused := (l.find? fun c => c.1).map (·.2)

/-- DETAIL of a section: its type and its index. -/
def secDetail (type index : Nat) : Nat := type * 2 ^ 16 + index % 2 ^ 16

/-! ## Section types (Table 6.3) -/

def secCaps : Nat := 0x0001
def secTemplates : Nat := 0x0002
def secProgram : Nat := 0x0003
def secSdata : Nat := 0x0004
def secDescr : Nat := 0x0005
def secBounds : Nat := 0x0006
def secRegions : Nat := 0x0007
def secRoutes : Nat := 0x0008
def secSched : Nat := 0x0009
def secKvplan : Nat := 0x000A
def secServe : Nat := 0x000B
def secTadpole : Nat := 0x000C
def secWeightmap : Nat := 0x000D
def secSeeds : Nat := 0x000E
def secPackreport : Nat := 0x000F
def secSignature : Nat := 0xFFFF

/-- Sections that appear exactly once, at least once, and any number of times. -/
def oneSections : List Nat :=
  [secCaps, secTemplates, secBounds, secRegions, secKvplan, secServe, secWeightmap, secSeeds, secPackreport,
    secSignature]
def manySections : List Nat := [secProgram, secSdata, secDescr, secRoutes, secSched]

/-! ## Step 3: header and section table (R156, R157) -/

def kampiynMagic : Nat := 0x594E504B

def secEnd (e : Section) : Nat := e.offset.toNat + e.length.toNat

/-- The indices of a type's sections run from 0 without a gap. -/
def indicesOk (l : List Section) (type : Nat) : Bool :=
  let is := (l.filter fun e => e.type.toNat = type).map (·.index.toNat)
  (List.range is.length).all fun i => is.contains i

/-- The instances of a type that the contents name are those that the section table lists. -/
def instancesOk (l : List Section) (type : Nat) (named : List Nat) : Bool :=
  let n := (l.filter fun e => e.type.toNat = type).length
  named.all (· < n) && (List.range n).all fun i => named.contains i

/-- The slices and the route variants of an image's pairs. -/
def allSlices (img : Image) : List Slice := (img.templates.map (·.slices)).flatten
def allRoutes (img : Image) : List RouteSet := (img.templates.map (·.routes)).flatten
def allVariants (img : Image) : List RouteVariant := ((allRoutes img).map (·.variants)).flatten

/-- A section appears once for each instance that its meaning calls for (R157, Table 6.3). -/
def contentsOk (img : Image) : Bool :=
  let l := imgSections img
  instancesOk l secProgram ((allSlices img).map (·.progNo)) && instancesOk l secSdata ((allSlices img).map (·.sdataNo))
    && instancesOk l secDescr ((allSlices img).map (·.descrNo)) && instancesOk l secRoutes ((allRoutes img).map (·.inst))
    && instancesOk l secSched ((allVariants img).map (·.schedNo))
    && instancesOk l secTadpole (List.range img.tadpole.length)

def sectionsOk (img : Image) : Bool :=
  let l := imgSections img
  let count (t : Nat) : Nat := (l.filter fun e => e.type.toNat = t).length
  15 ≤ l.length && l.length ≤ 8192
    && (l.all fun e => (oneSections ++ manySections ++ [secTadpole]).contains e.type.toNat)
    && (oneSections.all fun t => count t = 1) && (manySections.all fun t => 1 ≤ count t)
    && ((oneSections ++ manySections ++ [secTadpole]).all (indicesOk l))
    && (l.all fun e => e.offset.toNat % 64 = 0 && 256 + 32 * l.length ≤ e.offset.toNat
      && secEnd e ≤ img.bytes.length)
    && (l.zipIdx.all fun a => l.zipIdx.all fun b =>
      a.2 = b.2 || secEnd a.1 ≤ b.1.offset.toNat || secEnd b.1 ≤ a.1.offset.toNat)
    && (l.any fun e => e.type.toNat = secSignature && e.length.toNat = 128 && secEnd e = img.bytes.length)

/-- The bytes of the CAPS section that Table 6.4 defines are there, and its reserved bytes and bits are 0. -/
def capsOk (img : Image) : Bool :=
  match imgSection img secCaps with
  | none => false
  | some e => 64 ≤ e.length.toNat && zeroAt img.bytes (e.offset.toNat + 20) 44
      && bitsOf (namedUnits (capsOf img)).toNat 5 27 = 0

def headerOk (s : State) (ent : ManifestEntry) (img : Image) : Bool :=
  imgMagic img = kampiynMagic && imgFmtMajor img = 1 && imgLen img = img.bytes.length && imgReservedOk img
    && sectionsOk img && contentsOk img && capsOk img
    && imgModelId img = ent.modelId && imgFwIface img ≤ s.plane.fwIface.toNat

/-! ## Step 4: limits (R167, R215, R235) -/

def groupArea : Nat := 2056

/-- A counter reference that a stored descriptor may not hold. -/
def refBad (w : Nat) : Bool := (crefOf w).rsvd ≠ 0 || maxProgCtr < (crefOf w).index

def descBad (d : Desc) : Bool :=
  !(opDefined (descOp d)) || dbits d.w0 32 16 ≠ 0 || refBad (dbits d.w0 0 32)
    || (descOp d = opDmaMove && refBad (dbits d.w4 0 32))

def slotBad (e : SlotDecl) : Bool :=
  e.depth = 0 || 2 ^ 31 ≤ e.depth.toNat * e.step.toNat || maxProgCtr < e.fill.toNat || maxProgCtr < e.drain.toNat

/-- Length of a slice's SDATA section. -/
def sdataBytes (sl : Slice) : Nat := max sl.sdataLen sl.sdata.length

def limitAt (field : Nat) (bad : Bool) (type index : Nat) : Bool × Refused :=
  (bad, ⟨0x05, secDetail type index, 4, field⟩)

def sliceLimits (sl : Slice) : List (Bool × Refused) := [
  limitAt 1 (131072 < sl.program.length) secProgram sl.progNo,
  limitAt 2 (sl.program.length ≤ sl.entry) secProgram sl.progNo,
  limitAt 3 (!(sl.program.all fun w => geckoOps.contains (dbits w 56 8))) secProgram sl.progNo,
  limitAt 4 (sdataSize < sdataBytes sl) secSdata sl.sdataNo,
  limitAt 5 (sdataBytes sl < sl.slotBase + 16 * sl.slots.length) secSdata sl.sdataNo,
  limitAt 6 (sdataBytes sl < sl.group + groupArea || sl.group % 8 ≠ 0) secSdata sl.sdataNo,
  limitAt 7 (4096 < sl.descr.length) secDescr sl.descrNo,
  limitAt 8 (sl.descr.any descBad) secDescr sl.descrNo,
  limitAt 9 (sl.bound < 16 || 40 < sl.bound) secBounds 0,
  limitAt 20 (sl.slots.any slotBad) secSdata sl.sdataNo]

/-- What R235 adds to the limits on a KVPLAN entry. -/
def planBad (p : KvPlan) : Bool :=
  1 < p.pattern.toNat || 1 < p.kfmt.toNat || 1 < p.vfmt.toNat || kvHeads p = 0 || 4 < kvHeads p
    || (!(kvFull p) && p.w.toNat < 128) || (kvFull p && (p.w ≠ 0 || p.g ≠ 0))

def draftBit (img : Image) : Bool := tbit (namedUnits (capsOf img)).toNat 2

def imageLimits (img : Image) : List (Bool × Refused) :=
  ((allSlices img).map sliceLimits).flatten ++ [
    limitAt 10 (img.templates.any fun t => t.regions.any fun r => bufLines < r.first + r.count) secRegions 0,
    limitAt 11 (img.kvplan.any fun p => p.w.toNat % 128 ≠ 0 || 65536 < p.w.toNat) secKvplan 0,
    limitAt 12 (img.kvplan.any fun p => 64 < p.g.toNat) secKvplan 0,
    limitAt 13 (img.serve.chunk < 128 || 4096 < img.serve.chunk || img.serve.chunk % 128 ≠ 0) secServe 0,
    limitAt 14 (262144 < (capsOf img).vocab.toNat) secCaps 0]
  ++ (img.tadpole.zipIdx.map fun e => limitAt 15 (64 * lineBytes < e.1.length) secTadpole e.2)
  ++ [limitAt 16 (img.templates.any fun t => 22 < t.tiles * t.layers) secTemplates 0,
    limitAt 17 (img.templates.any fun t => t.groups.flatten.eraseDups.length ≠ t.groups.flatten.length) secTemplates 0,
    limitAt 18 (img.templates.any fun t => t.groups.flatten.any fun i => 23 < i) secTemplates 0,
    limitAt 19 ((capsOf img).draftLayers ≠ 0 && !(draftBit img)) secCaps 0,
    limitAt 21 (img.kvplan.any planBad) secKvplan 0]

/-! ## Step 5: units and slots (R160, R424) -/

/-- Units that the grade lists and the run settings allow. -/
def unitsUsable (s : State) : Nat :=
  let g := s.store.grade.units.toNat
  let keep (i : Nat) (on : Bool) : Nat := if tbit g i && on then 2 ^ i else 0
  keep 0 (fieldOf s (F.PT_ENABLE + 1) = 1) + keep 1 (fieldOf s F.MEM_SPILL_ENABLE = 1)
    + keep 2 (fieldOf s F.SP_ENABLE = 1) + keep 3 true + keep 4 true

/-- Bits of a bitmap of units that are not usable. -/
def absentUnits (s : State) (bits : Word) : Nat :=
  (List.range 5).foldl (fun a i => if tbit bits.toNat i && !(tbit (unitsUsable s) i) then a + 2 ^ i else a) 0

/-- Units that are optional, not required, and absent. -/
def disabledUnits (s : State) (img : Image) : Nat := absentUnits s (optionalUnits (capsOf img))

/-- The lowest slots that no other context has. -/
def freeSlots (s : State) (c n : Nat) : List Nat :=
  let taken := (((List.range 4).filter fun k => k ≠ c).filterMap (ctxOf s)).map (·.slots) |>.flatten
  ((List.range 4096).filter fun k => !(taken.contains k)).take n

/-! ## Step 6: dies, template, order and mapping (R161 to R163) -/

/-- A die of the set that the context may not take. -/
def dieBusy (s : State) (c : Nat) (barred : List Nat) (d : Nat) : Bool :=
  !(dieUp s d) || barred.contains d
    || (List.range 4).any fun k => k ≠ c && ((ctxOf s k).map fun x => x.dies.contains d).getD false

/-- The context number is free, or its context has stopped. -/
def ctxFree (s : State) (c : Nat) : Bool := ctxState s c = 0 || ctxState s c = 5

/-- The first pair whose layer groups suffice, with its place in the image's list. -/
def choosePair (img : Image) (n : Nat) : Option (Template × Nat) :=
  img.templates.zipIdx.find? fun t => (capsOf img).layers.toNat ≤ t.1.layers * n

/-- The route set of a displacement, with its place in the list. -/
def routeFor (t : Template) (e : Nat × Nat) : Option (RouteSet × Nat) :=
  t.routes.zipIdx.find? fun r => (r.1.dc, r.1.dr) = dispOf e

/-- Logical positions of every layer on every used die; on failure the die that has no tile for one. -/
def placeAll (s : State) (t : Template) (layers : Nat) : List (Nat × Nat) → Except Nat (List (Nat × Tid))
  | [] => .ok []
  | (d, i) :: rest =>
    if h : d < 56 then
      match placeDie s ⟨d, h⟩ t (i * t.layers) (min t.layers (layers - i * t.layers)) with
      | none => .error d
      | some l =>
        match placeAll s t layers rest with
        | .ok r => .ok (l ++ r)
        | .error e => .error e
    else .error d

/-! ## Step 7: route variants (R164, Table 6.7) -/

/-- Lanes that every link of a class must carry. -/
def classLanes (k : Nat) : Nat :=
  match k with
  | 0 => 1024
  | 1 => 896
  | 2 => 768
  | _ => 512

def linkState (s : State) (t : Tid) (d : Dir) : Nat :=
  rget s t.d.val dieScope ((match d with
    | .n => R.LINK_WIDTH_N_STATE
    | .e => R.LINK_WIDTH_E_STATE
    | .s => R.LINK_WIDTH_S_STATE
    | .w => R.LINK_WIDTH_W_STATE).at t.t.val)

def linkHalf (s : State) (t : Tid) (d : Dir) : Nat :=
  rget s t.d.val dieScope ((match d with
    | .n => R.LINK_WIDTH_N_HALF
    | .e => R.LINK_WIDTH_E_HALF
    | .s => R.LINK_WIDTH_S_HALF
    | .w => R.LINK_WIDTH_W_HALF).at t.t.val)

def noHalf : Nat → Nat := fun _ => 0

/-- Data lanes that the link of a tile carries: a crossing inside a die is not trained; it carries all lanes, or
those of the half that holds no failed lane (R446). -/
def linkLanes (s : State) (t : Tid) (d : Dir) : Nat :=
  match neighbour t d with
  | none => 0
  | some n =>
    if n.d = t.d then
      match kget noHalf (tileOf s n).halfBad (dirNum (dirOpp d)) with
      | 0 => 1024
      | 3 => 0
      | _ => 512
    else
      match linkState s t d with
      | 1 => 1024
      | 2 => 1024 - 128 * ((List.range 4).filter fun i => tbit (linkHalf s t d) i).length
      | _ => 0

/-- The links of a variant from a die. -/
def variantLinks (v : RouteVariant) (d : Nat) : List (Tid × Dir) :=
  (v.subs.filterMap fun l => (relTile d l.1).map fun t => (t, l.2.1)).eraseDups

/-- The first link of a variant, over the dies where it is used, that carries too few lanes. -/
def narrowLink (s : State) (from_ : List Nat) (v : RouteVariant) : Option (Tid × Dir) :=
  (from_.map (variantLinks v)).flatten.find? fun l => linkLanes s l.1 l.2 < classLanes v.cls

/-- The dies from which the die order uses a route set. -/
def routeSources (dies : List Nat) (r : RouteSet) : List Nat :=
  ((dieSteps dies).filter fun e => (r.dc, r.dr) = dispOf e).map (·.1)

/-- The chosen variant of a route set, of its primary and up to three alternates (R163); none when no variant
fits. -/
def chooseVariant (s : State) (dies : List Nat) (r : RouteSet) : Option Nat :=
  ((r.variants.take 4).zipIdx.find? fun v => (narrowLink s (routeSources dies r) v.1).isNone).map (·.2)

/-- LOAD_ALTERNATE for a route set whose alternate is taken. -/
def logAlternate (s : State) (c i v : Nat) (dies : List Nat) (r : RouteSet) : State :=
  let narrow := (r.variants.head?.bind (narrowLink s (routeSources dies r))).map fun l => widx l.1
  logPut s 0x0612 sevWarning (svcSrc s) (c * 2 ^ 30 + i % 2 ^ 16)
    (v * 2 ^ 8 + ((r.variants[v]?).map (·.cls)).getD 0) (narrow.getD 0)

/-- A variant for every route set, or the refusal, with the entries that the alternates cause. A route set that
the die order does not use keeps its primary. -/
def chooseRoutes (s : State) (c : Nat) (dies : List Nat) :
    List (RouteSet × Nat) → List (Nat × Nat) → State × Except Refused (List (Nat × Nat))
  | [], acc => (s, .ok acc)
  | (r, i) :: rest, acc =>
    match chooseVariant s dies r with
    | none => (s, .error ⟨0x0A, secDetail secRoutes r.inst, 7, 0⟩)
    | some 0 => chooseRoutes s c dies rest (acc ++ [(i, 0)])
    | some v =>
      if fieldOf s F.LD_ALLOW_ALTERNATE = 0 then (s, .error ⟨0x0B, secDetail secRoutes r.inst, 7, 0⟩)
      else chooseRoutes (logAlternate s c i v dies r) c dies rest (acc ++ [(i, v)])

/-- The chosen variants with their classes, for the load report (R173). -/
def withClass (t : Template) (l : List (Nat × Nat)) : List (Nat × Nat × Nat) :=
  l.map fun v => (v.1, v.2, (((t.routes[v.1]?).bind fun r => r.variants[v.2]?).map (·.cls)).getD 0)

/-! ## Step 8: capacity (R158, R207, R240, R241) and outlier density (R104) -/

def tableFrames : Nat := 8
/-- Frames of one copy of a die's frame table: 16 bytes for each of the 1,179,648 frames (R208). -/
def frameTableFrames : Nat := 288

/-- Weight pages of the die at a position of the order, and its state pages. -/
def weightsOn (t : Template) (pos : Nat) : List WeightPage := t.weights.filter fun w => w.diePos = pos
def stateOn (t : Template) (pos : Nat) : List Nat :=
  (t.state.filter fun e => e.1 = pos).map fun e => e.2.toNat

/-- Level-1 indices that a die needs: of its weights and state pages, and of the ranges of its slots. -/
def l1Needs (t : Template) (pos rho layers : Nat) (slots : List Nat) : List Nat :=
  let pages := (weightsOn t pos).map (·.vpn.toNat) ++ stateOn t pos
  let ranges := ((List.range layers).map fun lam =>
    slots.map fun k => (rangeBase rho (rangeNo lam k)) / frameBytes).flatten
  ((pages ++ ranges).map (· / 65536)).eraseDups

/-- Frames that keep the copy of the image on the first die (R431). -/
def imageFrames (img : Image) (pos : Nat) : Nat := if pos = 0 then cdiv img.bytes.length frameBytes else 0

/-- Frames of the sampling unit's two bitmaps per slot and of the mask bits of every automaton state, over the
slice of the die at a position of `n` dies (R292, R299). -/
def samplingFrames (img : Image) (t : Template) (n pos slots : Nat) : Nat :=
  let row := cdiv (projRows t n pos).2 8
  cdiv (2 * slots * row) frameBytes + cdiv (((img.serve.grammars.map fun g => g.2.length).foldl (· + ·) 0) * row) frameBytes

/-- Frames that a load takes on the die at a position: the frame table and the page tables twice, weights,
state pages, one frame of walker records for each cache layer, the copy of the image, and the sampling unit's
frames. -/
def loadFrames (img : Image) (t : Template) (n pos rho layers : Nat) (slots : List Nat) : Nat :=
  2 * frameTableFrames + 2 * tableFrames * (1 + (l1Needs t pos rho layers slots).length)
    + ((weightsOn t pos).map (·.vpn)).eraseDups.length + (stateOn t pos).length + layers + imageFrames img pos
    + samplingFrames img t n pos slots.length

/-- Layers on the die at a position. -/
def layersOn (img : Image) (t : Template) (pos : Nat) : Nat :=
  min t.layers ((capsOf img).layers.toNat - pos * t.layers)

def capacityOk (s : State) (img : Image) (t : Template) (used slots : List Nat) (rho : Nat) : Bool :=
  (capsOf img).minGib.toNat ≤ s.store.grade.gib.toNat
    && used.zipIdx.all fun e =>
      loadFrames img t used.length e.2 rho (layersOn img t e.2) slots + fieldOf s F.MEM_SPILL_RESERVE ≤ allocatable s e.1

/-- The largest density up to QC_OUTLIER_DENSITY whose regions, each with its terminator entry (R103), fit the
side buffer of every tile. -/
def fitDensity (s : State) (t : Template) : Nat :=
  let fits (rho : Nat) : Bool := t.slices.all fun sl =>
    (sl.quantElems.foldl (fun a e => a + outlierCap e.2 rho + 1) 0) ≤ outEntries
  ((List.range (fieldOf s F.QC_OUTLIER_DENSITY + 1)).reverse.find? fits).getD 0

/-! ## Manifest entries and containers (R311 to R315) -/

def noEntry : Nat → Option ManifestEntry := fun _ => none
def manifestOf (s : State) (n : Nat) : Option ManifestEntry := kget noEntry s.store.manifest n

def entrySigned (s : State) (e : ManifestEntry) : Bool :=
  Config.sm2Verify (cfgKey s).key (entryDigest e) e.signature

/-- Steps 1 to 4 of Table 6.5. -/
def checkEntry (s : State) (ent : ManifestEntry) (img : Image) : Option Refused :=
  firstRefused ([
    (decide (imgDigest img ≠ ent.imageDigest), ⟨0x02, 0, 1, 0⟩),
    (fieldOf s F.LD_REQUIRE_OWNER_SIG = 1
      && !(((imgSignature img).map fun g => Config.sm2Verify ent.ownerKey g.2 g.1).getD false), ⟨0x03, 0, 2, 0⟩),
    (!(headerOk s ent img), ⟨0x04, 0, 3, 0⟩)] ++ imageLimits img)

/-- Content keys that Bonnet holds. -/
def keySlots : Nat := 2048
def keysHeld (s : State) : Nat :=
  ((List.range 4).filterMap (ctxOf s)).foldl
    (fun a x => a + x.keys.length + ((x.replacing.map (·.keys.length)).getD 0)) 0

/-- The weight rows of the chosen template on the used dies. -/
def usedWeights (t : Template) (n : Nat) : List WeightPage := t.weights.filter fun w => w.diePos < n

/-- A chunk holds pages of two units or of two dies, or WEIGHTMAP names a container that the entry lacks
(R314): of the chosen pair's rows, and of every row of the image. -/
def weightmapBad (ent : ManifestEntry) (img : Image) (t : Template) : Bool :=
  (img.templates.any fun u => u.weights.any fun a => !(ent.containers.any fun k => k.id = a.container))
    || t.weights.any fun a => t.weights.any fun b => a.container = b.container && a.chunk = b.chunk
      && (a.unit ≠ b.unit || a.diePos ≠ b.diePos)

/-- The content keys that Bonnet unwraps for an entry, in the order of its containers (R315). -/
def unwrapKeys (s : State) (ent : ManifestEntry) : List (Option (BitVec 128)) :=
  ent.containers.map (contentKey s.store.devicePriv.toNat)

/-- The keys, when every one unwraps. -/
def entryKeys (s : State) (ent : ManifestEntry) : List (BitVec 128) := (unwrapKeys s ent).filterMap id

/-- Headers and tag tables of the containers, WEIGHTMAP, key slots and keys (R312, R314, R315); `held` are the keys
that stay held meanwhile. -/
def checkWeights (s : State) (ent : ManifestEntry) (img : Image) (t : Template) (heads : List ContainerHead)
    (held : Nat) : Option Refused :=
  let w (detail : Nat) : Refused := ⟨reasonWeights, detail, 11, 0⟩
  firstRefused (ent.containers.zipIdx.map (fun k =>
      match heads[k.2]? with
      | none => (true, w 1)
      | some h => if headDigest h ≠ k.1.digest then (true, w 2) else (!(headOk h ent k.1), w 3))
    ++ [(weightmapBad ent img t, w 6), (decide (keySlots < held + ent.containers.length), w 7),
      ((unwrapKeys s ent).any (·.isNone), w 4)])

/-- Chunks of weight rows, each once. -/
def chunksOfRows (l : List WeightPage) : List (Word × Word) :=
  (l.map fun w => (w.container, w.chunk)).eraseDups

end Sys2Proof.Machine
end

