-- ==== Sys2Proof/Machine/Quality.lean ====
section
/-! DEFINITION. The sampled wide check: its judgement and the forcing of a layer to Q8 (R112, R113). -/
namespace Sys2Proof.Machine

/-- Dequantized weights of one row of a stream, in ascending k. -/
def checkRow (s : State) (t : Tid) (x : StreamRec) (row : Nat) : List Word :=
  let fmt := if x.wq8 then 1 else 0
  let nb := x.k / 16
  (List.range nb).flatMap fun kb =>
    let b := (x.row0 + row) * nb + kb
    let eb := fmtBytes fmt 16
    let blk :=
      if x.fromStack then
        mkBlock fmt (vaBytes s t (dbits x.welem 0 48 + eb * b) eb)
          ((vaBytes s t (dbits x.wscale 0 48 + b) 1).headD 0)
      else
        let ts := tileOf s t
        mkBlock fmt (bufRead ts (dbits x.welem 0 17 * lineBytes + eb * b) eb)
          (mget ts.buf (dbits x.wscale 0 17 * lineBytes + b))
    blk.vals.map f32Of

def absW (w : Word) : Word := w &&& 0x7FFFFFFF

/-- ref and Σ of a row over its streams: FP32 fused multiply-adds in ascending k. -/
def checkSums (s : State) (t : Tid) (c : Capture) (r : CaptureRow) : Word × Word :=
  c.streams.foldl (fun acc x =>
    let a := (x.acts[r.pos]?.getD []).map bfWiden
    let w := checkRow s t x (128 * r.fb + c.column)
    (List.zip a w).foldl (fun (y : Word × Word) e =>
      ((vfma e.1 e.2 y.1).w, (vfma (absW e.1) (absW e.2) y.2).w)) acc) (0, 0)

/-- Reduction length of a capture. -/
def captureK (c : Capture) : Nat := c.streams.foldl (fun a x => a + x.k) 0

/-- t_a t_b × ref. -/
def checkValue (c : Capture) (ref : Word) : Rat := f32Val c.ta * f32Val c.tb * f32Val ref

/-- A row breaches (R112). -/
def breaches (c : Capture) (r : CaptureRow) (ref sum : Word) : Bool :=
  let tol : Rat := ((r.rounds : Nat) : Rat) * pow2 (-23) + ((captureK c : Nat) : Rat) * pow2 (-24) + pow2 (-22)
  tol * absR (f32Val c.ta * f32Val c.tb) * absR (f32Val sum)
    < absR (f32Val r.dev - checkValue c ref)

/-- Positions of the capture's group. -/
def capturePos (c : Capture) : Nat := c.rows.foldl (fun a r => max a (r.pos + 1)) 0

/-- The breaching row of the lowest number, with its reference. -/
def firstBreach (s : State) (t : Tid) (c : Capture) : Option (Nat × CaptureRow × Word) :=
  let p := capturePos c
  let l := c.rows.filterMap fun r =>
    let v := checkSums s t c r
    if breaches c r v.1 v.2 then some (r.fb * p + r.pos, r, v.1) else none
  l.foldl (fun a e => match a with
    | none => some e
    | some b => if e.1 < b.1 then some e else some b) none

def secondNs : Nat := 1000000000

/-- The Bowler records a breach against its layer and forces the layer when the limit is reached. -/
def countBreach (s : State) (t : Tid) (layer : Nat) : State :=
  let w := fieldOf s F.QC_BREACH_WINDOW
  let d := t.d.val
  let s := modDie s d fun x => { x with
    breaches := (x.breaches.filter fun e => e.1 ≠ layer || now s ≤ e.2 + w * secondNs) ++ [(layer, now s)] }
  let n := ((dieOf s d).breaches.filter fun e => e.1 = layer).length
  if n < fieldOf s F.QC_BREACH_LIMIT then s
  else
    match tileCtx s t with
    | none => s
    | some c =>
      let s := forEach ((dieTilesOf s d).filter fun u => tileLayer s u = layer) s fun s u =>
        tset s u R.QC_STAT_FORCED_Q8 1
      logPut s 0x0413 sevWarning (.die d) (c * 2 ^ 30 + layer * 2 ^ 16) n w

/-- FORCED_Q8 and the breach history of a layer are cleared in its tiles (R113). -/
def clearForced (s : State) (tiles : List Tid) : State :=
  forEach tiles s fun s t =>
    let layer := tileLayer s t
    let s := if tget s t R.QC_STAT_FORCED_Q8 = 0 then s else tset s t R.QC_STAT_FORCED_Q8 0
    modDie s t.d.val fun y => { y with breaches := y.breaches.filter fun e => e.1 ≠ layer }

/-- Addresses of the stack pages that the check of a capture reads: the 128 weight rows of each stream and feature
block. -/
def checkAddrs (c : Capture) : List Nat :=
  let fbs := (c.rows.map (·.fb)).eraseDups
  (c.streams.flatMap fun x => if !x.fromStack then [] else fbs.flatMap fun fb =>
    let nb := x.k / 16
    let eb := fmtBytes (if x.wq8 then 1 else 0) 16
    let b := (x.row0 + 128 * fb + c.column) * nb
    pagesOf (dbits x.welem 0 48 + eb * b) (eb * nb) ++ pagesOf (dbits x.wscale 0 48 + b) nb).eraseDups

/-- The reads of the check cannot be had: the check is abandoned, and a lost table stops the context (R212). -/
def checkFault (s : State) (t : Tid) (f : Nat × Nat) : State :=
  let s := abandonCheck (transFault s t f.1 reqCheck f.2) t
  if f.1 ≠ 6 then s
  else
    match tileCtx s t with
    | some c => stopContext s c 0x0810
    | none => s

/-- The judgement of a check whose reads are done: one breach at most (R112, R113). -/
def judgeCheck (t : Tid) (c : Capture) (s : State) : State :=
  let s0 := s
  let s := modTile s t fun ts => { ts with capture := none }
  let s := tinc (tset s t R.QC_STAT_CHECK_BUSY 0) t R.QC_CHECK_COUNT_DONE
  match firstBreach s0 t c with
  | none => s
  | some (i, r, ref) =>
    let s := post (tinc s t R.QC_CHECK_COUNT_BREACHES) (.report t .breach)
    let s := logPut s 0x0412 sevWarning (.tile t)
      ((tileCtx s t).getD 0 * 2 ^ 30 + c.layer * 2 ^ 16 + i % 128 * 2 ^ 9) r.dev.toNat
      (f32Of (checkValue c ref)).toNat
    -- a layer already forced: counted and logged only (Table 4.4)
    if tget s t R.QC_STAT_FORCED_Q8 = 1 then s
    else
      countBreach (modTile s t fun ts => (List.range 4).foldl (fun ts q => wantSlice ts ⟨0, q⟩) ts) t c.layer

/-- A vector core finishes a check, whose reads go through the translation unit; a read that a page-in can serve
waits for it (R212). -/
def wideCheckEff (t : Tid) (s : State) : State :=
  match (tileOf s t).capture with
  | none => s
  | some c =>
    let (tr, s) := transAll t false reqCheck (checkAddrs c) s
    match tr.fault with
    | some f => checkFault s t f
    | none =>
      if tr.waits.isEmpty then judgeCheck t c s
      else modTile (pauseFor s t c.met tr.waits) t fun ts => { ts with capture := some { c with met := tr.waits } }

def execWideCheckComplete (t : Tid) (s : State) : Res := .next (wideCheckEff t s)

end Sys2Proof.Machine
end

