-- ==== Sys2Proof/Machine/Spill.lean ====
section
/-! DEFINITION. Translation walks (R210), rounds of invalidation (R211, R247), page-outs and page-ins
(R226 to R229) and draining pools (R225). -/
namespace Sys2Proof.Machine

/-! ## Walks -/

/-- A walk that runs ahead of the stream or DMA that started it ends: the TLB takes its line (R210). -/
def walkCompleteEff (t : Tid) (va : Nat) (s : State) : State :=
  let vpn := va / frameBytes
  if !(railOn s t) || (tileCtx s t).isNone || (tlbFind (tileOf s t) vpn).isSome then s
  else (walk s t vpn).2

/-! ## Rounds of invalidation -/

/-- A frame reaches the pool: its record goes, and RES or GRANT has its credit (R247, Table 9.4). -/
def frameToPool (s : State) (d : Nat) (f : RetFrame) : State :=
  let s := setFrame s d f.frame none
  let s := match f.credit with
    | some n =>
      match walkerOf s d n with
      | some w => if w.active then setWalker s d n (some { w with res := w.res + 1 }) else s
      | none => s
    | none => s
  match f.grant with
  | none => s
  | some k =>
    match seqBySlot s k with
    | some q =>
      match ctxOf s q.ctx.val, q.step with
      | some x, some st =>
        match (grantNeeds s x d k st).find? fun e => e.2 ≠ 0 with
        | some e => addGrant s d e.1 1
        | none => s
      | _, _ => s
    | none => s

/-- The round ends: its frames reach the pool, and what waits for frames goes on. -/
def endRound (s : State) (d : Nat) (r : Round) : State :=
  let s := modDie s d fun x => { x with
    round := none, grantJobs := x.grantJobs.map fun g => { g with rounds := g.rounds + 1 } }
  serveDie (forEach r.frames s fun s f => frameToPool s d f) d

/-- A round starts over every queued frame: each serving tile has an order for each frame's page. -/
def roundEff (d : Fin 56) (s : State) : State :=
  let x := dieOf s d.val
  if x.round.isSome || x.returnQ.isEmpty then s
  else
    let r : Round := ⟨x.returnQ, (dieTilesOf s d.val).map fun t => t.t.val⟩
    let s := modDie s d.val fun x => { x with returnQ := [], round := some r }
    let s := forEach r.frames s fun s f => invalidateAll s d.val f.vpn.toNat
    if r.waiting.isEmpty then endRound s d.val r else s

/-- Orders to invalidate are still on their way to the tile. -/
def ordersPending (s : State) (t : Tid) : Bool :=
  s.ctrl.any fun m => match m with
    | .order d (.invalidate _) => d = t
    | _ => false

/-- A tile that has dropped every entry acknowledges: page-outs that wait for no other tile are written, and the
round that waits for none ends (R211, R226). -/
def ackEff (t : Tid) (s : State) : State :=
  if ordersPending s t then s
  else
    let d := t.d.val
    let drop (l : List Nat) : List Nat := l.filter fun i => i ≠ t.t.val
    let outs := (dieOf s d).pageOuts.filter fun e => e.waiting.contains t.t.val
    let round := (dieOf s d).round
    let s := modTile s t fun ts => { ts with invPending := [] }
    let s := modDie s d fun x => { x with
      pageOuts := x.pageOuts.map fun e => { e with waiting := drop e.waiting }
      round := x.round.map fun r => { r with waiting := drop r.waiting } }
    let s := forEach (outs.filter fun e => (drop e.waiting).isEmpty) s fun s e => sendPage s d e
    match round with
    | some r =>
      if r.waiting.contains t.t.val && (drop r.waiting).isEmpty then endRound s d { r with waiting := [] } else s
    | none => s

/-! ## Page-outs -/

/-- The port die and pool slot of a remote page index in use. -/
def poolSlot (index : Nat) : Nat := index / 2 ^ 47

def modPool (s : State) (p i : Nat) (f : Pool → Pool) : State := setPool s p i ((poolOf s p i).map f)

/-- A page of a range, and the range's number. -/
def rangeOf (s : State) (d vpn : Nat) : Option (Context × Nat) :=
  (dieCtx s d).bind fun c => (ctxOf s c).map fun x => (x, (vpn * frameBytes - 0x800000000000) / 2 ^ x.rho)

def addRemote (s : State) (d n : Nat) (up : Bool) : State :=
  match walkerOf s d n with
  | some w => setWalker s d n (some { w with remote := if up then w.remote + 1 else w.remote - 1 })
  | none => s

/-- A page-out leaves the list. -/
def dropOut (s : State) (d : Nat) (vpn : Word) : State :=
  modDie s d fun x => { x with pageOuts := x.pageOuts.eraseP fun e => e.vpn = vpn }

/-- A page of a pool slot is free again. -/
def freePage (s : State) (p index : Nat) : State :=
  poolCheck (modPool s p (poolSlot index) fun q => { q with used := q.used - 1 }) p (poolSlot index)

/-- The write is acknowledged: the entry goes remote and the frame to the pool, for the grant that asked for
it; a page whose range was freed meanwhile is released (R226, Table 9.6). -/
def pageOutAckEff (d : Fin 56) (vpn : Word) (s : State) : State :=
  match (dieOf s d.val).pageOuts.find? fun e => e.vpn = vpn with
  | none => s
  | some e =>
    if !e.waiting.isEmpty then s
    else
      let v := vpn.toNat
      let s := portInc (dropOut s d.val vpn) e.port R.SPILL_OUT_COUNT
      if e.orphan then queueReturn (freePage s e.port e.index) d.val ⟨e.frame, vpn, none, none⟩
      else
        let n := ((rangeOf s d.val v).map (·.2)).getD 0
        let s := modPort s e.port fun x => { x with remote := kset noRemote x.remote e.index (some ⟨d.val, vpn, n⟩) }
        let s := setL2 s d.val v (mkRemote (setOut (l2Of s d.val v) false) e.index)
        let s := dinc (addRemote s d.val n true) d.val R.KV_SPILLS_COUNT
        let s := modDie s d.val fun x => { x with grantJobs := x.grantJobs.map fun g =>
          if g.slot = e.slot then { g with spilled := g.spilled + 1 } else g }
        settleDie (queueReturn s d.val ⟨e.frame, vpn, none, some e.slot⟩) d.val

/-- A page-out that the pool had no room for, refused or did not acknowledge in time (R228): OUT is clear again and
the tiles drop the entry (R211). -/
def pageOutTimeoutEff (d : Fin 56) (vpn : Word) (why : Nat) (s : State) : State :=
  match (dieOf s d.val).pageOuts.find? fun e => e.vpn = vpn with
  | none => s
  | some e =>
    let v := vpn.toNat
    let s := pageOutFailed (freePage (dropOut s d.val vpn) e.port e.index) d.val e.port e.slot why
    if e.orphan then queueReturn s d.val ⟨e.frame, vpn, none, none⟩
    else
      let s := invalidateAll (setL2 s d.val v (setOut (l2Of s d.val v) false)) d.val v
      continueGrant (settleDie s d.val) d.val e.slot

/-! ## Page-ins -/

def dropPageIn (s : State) (d : Nat) (vpn : Word) : State :=
  modDie s d fun x => { x with pageIns := x.pageIns.eraseP fun e => e.vpn = vpn }

/-- The owning slot of a page of a die. -/
def ownerSlot (s : State) (d vpn : Nat) : Nat := ((rangeOf s d vpn).map fun r => r.2 % 4096).getD 0

/-- A page-in fails for good: PAGEIN_FAIL; its lines are delivered flagged and the owner ends (R228). -/
def pageInFailed (s : State) (d : Nat) (e : PageIn) (why : Nat) : State :=
  let v := e.vpn.toNat
  let slot := ownerSlot s d v
  let s := setFrame (dropPageIn s d e.vpn) d e.frame none
  let s := portInc s e.port R.SPILL_FAIL_IN_FAILS
  let s := logPut s 0x0815 sevError (.port e.port) d why slot
  if e.orphan then serveDie (releaseRemote s e.port e.index) d
  else
    let s := modDie s d fun x => { x with pageFails := x.pageFails ++ [v] }
    serveDie (doomSlot (settleDie s d) slot 0x0815) d

/-- The page is read; its tag verifies under the spill key and the generation count of its header: it is written to
its frame, the entry is local, the index is free, and a requester that pauses on it may go on (R227). -/
def pageInEff (d : Fin 56) (vpn : Word) (text : List Byte) (tag : BitVec 128) (gen : Nat) (s : State) : State :=
  match (dieOf s d.val).pageIns.find? fun e => e.vpn = vpn with
  | none => s
  | some e =>
    let v := vpn.toNat
    match gcmOpen s.plane.spillKey (pageIv e.index gen) [] text tag with
    | none => pageInFailed s d.val e 1
    | some bytes =>
      let s := portInc (dropPageIn s d.val vpn) e.port R.SPILL_IN_COUNT
      let s := if e.drain then
          modPool s e.port (poolSlot e.index) fun q => { q with broughtBack := q.broughtBack + 1 } else s
      if e.orphan then serveDie (releaseRemote (setFrame s d.val e.frame none) e.port e.index) d.val
      else
        let old := l2Of s d.val v
        let s := modDie s d.val fun x => { x with mem := putFrame x.mem e.frame bytes }
        let s := setL2 s d.val v (mkPte (pteWr old) (ptePin old) (pteType old) e.frame)
        let s := addRemote s d.val (((rangeOf s d.val v).map (·.2)).getD 0) false
        settleDie (releaseRemote s e.port e.index) d.val

/-- An attempt times out or is refused: another follows, up to MEM_SPILL_RETRIES + 1 in all. -/
def pageInTimeoutEff (d : Fin 56) (vpn : Word) (refused : Bool) (s : State) : State :=
  match (dieOf s d.val).pageIns.find? fun e => e.vpn = vpn with
  | none => s
  | some e =>
    if e.tries < e.limit then
      let s := modDie s d.val fun x => { x with pageIns := x.pageIns.map fun y =>
        if y.vpn = vpn then { y with tries := y.tries + 1 } else y }
      sendPageRead s e.port d.val vpn.toNat e.index
    else pageInFailed s d.val e (if refused then 2 else 0)

/-! ## Draining pools (R225) -/

/-- The draining pool of a port die. -/
def drainingPool (s : State) (p : Nat) : Option Nat :=
  [0, 1].find? fun i => ((poolOf s p i).map (·.draining)).getD false

/-- Pages of a pool slot that no transfer has in hand, as owning slot, index, die and page. -/
def drainPages (s : State) (p i : Nat) : List (Nat × Nat × Nat × Nat) :=
  (portOf s p).remote.filterMap fun e =>
    if poolSlot e.1 = i then e.2.bind fun r =>
      if ((dieOf s r.die).pageIns.any fun x => x.port = p && x.index = e.1) || pageFailed s r.die r.vpn.toNat then none
      else some (r.range % 4096, e.1, r.die, r.vpn.toNat)
    else none

def lowestSlot (l : List (Nat × Nat × Nat × Nat)) : Option (Nat × Nat × Nat × Nat) :=
  l.foldl (fun a e => match a with
    | none => some e
    | some b => if e.1 < b.1 || (e.1 = b.1 && e.2.1 < b.2.1) then some e else some b) none

/-- The engine's own page-in of the pool is in progress. -/
def drainBusy (s : State) (p i : Nat) : Bool :=
  allDies.any fun d => (dieOf s d.val).pageIns.any fun e =>
    e.drain && e.port = p && poolSlot e.index = i

/-- The engine takes the next page of the pool; with no available frame on its die it waits 1 ms. -/
def drainNext (s : State) (p : Nat) : State :=
  match drainingPool s p with
  | none => s
  | some i =>
    if drainBusy s p i then s
    else
      match lowestSlot (drainPages s p i) with
      | none => s
      | some (_, _, d, v) =>
        if available s d = 0 then modPort s p fun x => { x with drainWait := true }
        else
          let s := startPageIn s d v
          modDie s d fun x => { x with pageIns := x.pageIns.map fun e =>
            if e.vpn.toNat = v then { e with drain := true } else e }

def drainPageInEff (p : Nat) (s : State) : State := if (portOf s p).drainWait then s else drainNext s p

def drainRetryEff (p : Nat) (s : State) : State :=
  if (portOf s p).drainWait then drainNext (modPort s p fun x => { x with drainWait := false }) p else s

def execWalkComplete (t : Tid) (va : BitVec 48) (s : State) : Res := .next (walkCompleteEff t va.toNat s)
def execInvalidationRound (d : Fin 56) (s : State) : Res := .next (roundEff d s)
def execInvalidationAck (t : Tid) (s : State) : Res := .next (ackEff t s)
def execPageOutAck (d : Fin 56) (vpn : Word) (s : State) : Res := .next (pageOutAckEff d vpn s)
def execPageOutTimeout (d : Fin 56) (vpn : Word) (why : Fin 3) (s : State) : Res :=
  .next (pageOutTimeoutEff d vpn why.val s)
def execPageInComplete (d : Fin 56) (vpn : Word) (page : SealedPage) (s : State) : Res :=
  .next (pageInEff d vpn page.text page.tag page.gen.toNat s)
def execPageInTimeout (d : Fin 56) (vpn : Word) (refused : Bool) (s : State) : Res :=
  .next (pageInTimeoutEff d vpn refused s)
def execDrainPoolPageIn (p : Fin 2) (s : State) : Res := .next (drainPageInEff p.val s)
def execDrainPoolRetry (p : Fin 2) (s : State) : Res := .next (drainRetryEff p.val s)

end Sys2Proof.Machine
end

