-- ==== Sys2Proof/Machine/Loading.lean ====
section
/-! DEFINITION. Contexts: the loader's queue, steps 9 to 12 of a load (R159, R166, R207, R209, R240, R316),
weight chunks (R316, R317, R319), replacement under load (R320 to R324), unload (R325) and the model manifest
(R311, R469). -/
namespace Sys2Proof.Machine

/-! ## Frames of a load -/

/-- The first of 8 consecutive free frames, with their mirrors free too (R208, R209). -/
def findTable (s : State) (d : Nat) : Option Nat :=
  (List.range 12).findSome? fun col =>
    ((List.range 6144).find? fun i => (List.range 8).all fun j =>
      frameFree s d (fid col (8 * i + j)) && frameFree s d (fid (col + 12) (8 * i + j))).map fun i => fid col (8 * i)

/-- Entries in one frame of a table. -/
def frameEntries : Nat := 8192

/-- Allocate a table of 8 frames and its mirror; `layer` tells its kind (see `lostKey`), `first` its first
entry. Answers the first frame. -/
def takeTable (s : State) (d c layer first : Nat) : Option Nat × State :=
  match findTable s d with
  | none => (none, s)
  | some f =>
    (some f, forEach (List.range tableFrames) s fun s j =>
      let r : FrameRec := ⟨c, BitVec.ofNat 32 (first + j * frameEntries), 3, 0, layer, false⟩
      setFrame (setFrame s d (f + j) (some r)) d (mirrorOf (f + j)) (some r))

/-- Allocate a level-2 table and make its level-1 entry valid. -/
def addLevel2 (s : State) (d c i : Nat) : State :=
  match takeTable s d c 0 (i * 65536) with
  | (none, s) => s
  | (some f, s) =>
    let e : DWord := BitVec.ofNat 64 (2 ^ 63 + fidCol f * 2 ^ 16 + fidFrame f)
    modDie s d fun x => { x with l1 := kset zeroE x.l1 i e }

/-- Allocate a frame for a page of the loader and map it. -/
def mapLoaderPage (s : State) (d c vpn type : Nat) (wr : Bool) (version : Bool) : State :=
  match takeFrame s d ⟨c, BitVec.ofNat 32 vpn, type, 0, 0, version⟩ with
  | none => s
  | some (f, s) => setL2 s d vpn (mkPte wr true type f)

/-- Frames, tables and the page-in reserve of a die of the context. -/
def layOutDie (s : State) (c : Nat) (x : Context) (t : Template) (pos d : Nat) : State :=
  let layers := layersOn x.image t pos
  let s := modDie s d fun y => { y with reserve := fieldOf s F.MEM_SPILL_RESERVE }
  let s := forEach (List.range (frameTableFrames / tableFrames)) s fun s i => (takeTable s d c 2 (i * 65536)).2
  let s := (takeTable s d c 1 0).2
  let s := forEach (l1Needs t pos x.rho layers x.slots) s fun s i => addLevel2 s d c i
  let s := forEach (weightsOn t pos) s fun s w =>
    if pteV (l2Of s d w.vpn.toNat) then s else mapLoaderPage s d c w.vpn.toNat 0 false false
  let s := forEach (stateOn t pos) s fun s v => mapLoaderPage s d c v 2 true false
  let rows := projRows t x.dies.length pos
  let s := modDie s d fun y => { y with masks := maskBits x.image.serve rows.1 rows.2 }
  forEach (List.range (layers + imageFrames x.image pos + samplingFrames x.image t x.dies.length pos x.slots.length)) s
    fun s _ => takeStateFrame s d c 1

/-! ## Steps 10 and 12 -/

/-- Roles of the used dies: a tile of the placement is active, any other a free spare (R163). -/
def setRoles (s : State) (x : Context) : State :=
  forEach (ctxTiles x) s fun s t =>
    if (x.place.any fun e => e.2 = t) then
      if roleOf s t = roleActive then s
      else setRole (tset s t R.PACE_STEP_TARGET (fieldOf s F.PC_INIT_STEP)) t roleActive
    else if roleOf s t = roleActive then freeSpare s t
    else s

/-- Step 10 for every slice of the main pipeline. -/
def programAll (s : State) (c : Nat) (x : Context) : State :=
  meshTables (forEach x.place s fun s e => programTile s c x [] (e.1 / 64) (e.1 % 64) e.2) c x

/-- Resident weights of every slice. -/
def residentAll (s : State) (x : Context) : State :=
  forEach x.place s fun s e => residentCopy s x x.image (e.1 / 64) (e.1 % 64) e.2

/-- Speed-class pipeline slots after scaling, for the load report (R280). -/
def reportPipes (s : State) (x : Context) : List (Nat × Nat) := pipeScaled s x

/-- A lane that a restart keeps has its tiles written and started again (R326). -/
def restartLane (s : State) (c : Nat) (x : Context) (l : Lane) : State :=
  forEach l.tiles.zipIdx s fun s e =>
    let s := programTile s c x l.tiles (ctxLayers x + e.2) 0 e.1
    startTile (residentCopy s x x.image (ctxLayers x + e.2) 0 e.1) e.1

/-- Resident weights and the start of every slice, draft lanes among them. -/
def runSlices (s : State) (c : Fin 4) (x : Context) : State :=
  let s := residentAll s x
  let s := forEach x.place s fun s e => startTile s e.2
  let s := forEach (lanesOf s c.val) s fun s l => restartLane s c.val x l.2
  formLanes c 32 0 s

/-- ROUTE_DEGRADED for every route set with a link of its variant that carries less than the class assumes, of
the links and lanes that satisfy a test (R165). -/
def logDegraded (s : State) (c : Nat) (x : Context) (p : Nat → RouteVariant → Tid × Dir → Bool) : State :=
  forEach (stepVariants x) s fun s v =>
    forEach ((variantLinks v.2.2 v.1).filter fun l => linkLanes s l.1 l.2 < classLanes v.2.2.cls && p v.1 v.2.2 l) s
      fun s l => logPut s 0x0613 sevWarning (.die l.1.d.val) (c * 2 ^ 30 + v.2.1 % 2 ^ 16) (widx l.1)
        (linkLanes s l.1 l.2)

/-- The links that changed width after step 7, from the start of serving (Table 6.9). -/
def logNarrow (s : State) (c : Nat) (x : Context) : State := logDegraded s c x fun _ _ _ => true

/-- The variant carries traffic on a sublink. -/
def carries (d : Nat) (v : RouteVariant) (l : Tid × Dir) (sub : Nat) : Bool :=
  v.subs.any fun e => relTile d e.1 = some l.1 && e.2.1 = l.2 && e.2.2.val = sub

/-- Sublinks of a link have fallen: ROUTE_DEGRADED for the serving contexts whose variants carry traffic on
them. -/
def sublinksFell (s : State) (t : Tid) (d : Dir) (subs : List Nat) : State :=
  forEach allCtx s fun s c =>
    match ctxOf s c.val with
    | none => s
    | some x =>
      if ctxServing s c.val then
        logDegraded s c.val x fun from_ v l => l = (t, d) && subs.any (carries from_ v l)
      else s

/-- Step 12: resident weights, lanes, and the start of every slice; the context serves. -/
def startServing (s : State) (c : Fin 4) : State :=
  match ctxOf s c.val with
  | none => s
  | some x =>
    let s := runSlices s c x
    let s := setCtxState s c.val 2
    let s := setProgress s c.val 0 1000
    let r := (reportOf s c.val).getD blankReport
    let s := setReport s c.val { r with pipes := reportPipes s x }
    let s := logNarrow s c.val x
    logPut s 0x0610 sevNotice (svcSrc s)
      (c.val * 2 ^ 30 + x.dies.length % 64 * 2 ^ 24 + x.tiles % 256 * 2 ^ 16 + x.perDie % 256 * 2 ^ 8)
      x.disabled.toNat ((now s - x.since) / msNs)

/-- Keys that fail to unwrap are counted and logged (R315, Table 20.14). -/
def logUnwrap (s : State) (c : Nat) (ent : ManifestEntry) : State :=
  forEach ((unwrapKeys s ent).zipIdx.filter fun k => k.1.isNone) s fun s k =>
    logPut (pinc s R.BON_STAT_UNWRAP_FAILS) 0x1411 sevWarning (svcSrc s) 0 (c * 2 ^ 30 + k.2 % 2 ^ 16) 0

/-- A refused operation, with the field that its report names. -/
def refuseAs (s : State) (c : Nat) (r : Refused) (rep : LoadReport) : State :=
  refuseOp s c r.reason r.detail r.step { rep with field := r.field }

/-- Steps 9 to 11 as far as the first chunk: the context exists, its tiles and frames are written, its keys
are unwrapped, and its chunks wait to be read. -/
def commitLoad (s : State) (c : Fin 4) (x : Context) (t : Template) (heads : List ContainerHead) : State :=
  let s := setCtx (teardown s c.val) c.val (some x)
  let s := setCtxRegs s c.val 1 x.dies.length ((x.dies.head?).getD 0) x.entry
  if !(x.place.all fun e => railOn s e.2) then failLoad s c.val reasonProgramming 0 10
  else
    let s := forEach x.dies.zipIdx s fun s e => layOutDie s c.val x t e.2 e.1
    let s := programAll (setRoles s x) c.val x
    match checkWeights s x.manifest x.image t heads (keysHeld s) with
    | some r =>
      let s := if r.detail = 4 then logUnwrap s c.val x.manifest else s
      failLoad s c.val r.reason r.detail r.step
    | none =>
      let s := modCtx s c.val fun y => { y with keys := entryKeys s x.manifest, heads := heads }
      if x.left.isEmpty then startServing s c else s

/-! ## LOAD_EXECUTE -/

def secManifestRefused (s : State) (entry use : Nat) : State :=
  logPut s 0x1413 sevWarning (svcSrc s) entry use 0

/-- Steps 1 to 8, then the rest (Table 6.5). -/
def runLoad (s : State) (c : Fin 4) (entry : Nat) (dies barred : List Nat) (img : Option Image)
    (heads : List ContainerHead) : State :=
  let rep := { blankReport with sigSkipped := fieldOf s F.LD_REQUIRE_OWNER_SIG = 0 }
  match manifestOf s entry with
  | none => refuseOp s c.val 0x01 0 1 rep
  | some ent =>
    if !(entrySigned s ent) then refuseOp (secManifestRefused s entry 1) c.val 0x11 0 1 rep
    else
      match img with
      | none => refuseOp s c.val 0x01 0 1 rep
      | some img =>
        match checkEntry s ent img with
        | some r => refuseAs s c.val r rep
        | none =>
          let caps := capsOf img
          let missing := absentUnits s caps.required
          let off := disabledUnits s img
          let slots := freeSlots s c.val caps.maxSlots.toNat
          let rep := { rep with disabled := BitVec.ofNat 32 off, pack := img.packReport }
          if missing ≠ 0 then refuseOp s c.val 0x06 missing 5 rep
          else if slots.length < caps.maxSlots.toNat then refuseOp s c.val 0x0C 0 5 rep
          else if !(ctxFree s c.val) || dies.eraseDups.length ≠ dies.length || dies.any (dieBusy s c.val barred) then
            refuseOp s c.val 0x07 0 6 rep
          else
            match choosePair img dies.length with
            | none => refuseOp s c.val 0x08 0 6 rep
            | some (t, i) =>
              let used := dies.take (cdiv caps.layers.toNat t.layers)
              let rho := rhoOf img.kvplan
              let rep := { rep with tiles := t.tiles, layers := t.layers, dies := used }
              if (dieSteps used).any fun e => (routeFor t e).isNone then refuseOp s c.val 0x09 0 6 rep
              else if 2 ^ 47 < t.layers * 2 ^ (12 + rho) then refuseAs s c.val ⟨0x05, secDetail secKvplan 0, 6, 22⟩ rep
              else
                match placeAll s t caps.layers.toNat used.zipIdx with
                | .error d => refuseOp (failDie s (Fin.ofNat 56 d) 1) c.val 0x07 d 6 rep
                | .ok place =>
                  match chooseRoutes s c.val used t.routes.zipIdx [] with
                  | (s, .error r) => refuseAs s c.val r rep
                  | (s, .ok vs) =>
                    let rep := { rep with variants := withClass t vs, density := fitDensity s t }
                    if !(capacityOk s img t used slots rho) then refuseOp s c.val 0x0C 0 8 rep
                    else
                      let chunks := chunksOfRows (usedWeights t used.length)
                      let x : Context := {
                        entry := entry, image := img, caps := caps, manifest := ent, dies := used, dieSet := dies
                        pair := i
                        tiles := t.tiles, perDie := t.layers, slots := slots, place := place, moved := []
                        rho := rho, density := fitDensity s t, satThr := fieldOf s F.QC_SAT_THRESH
                        flushThr := fieldOf s F.QC_FLUSH_THRESH, ratio := fieldOf s F.QC_OUTLIER_RATIO
                        variants := vs, disabled := BitVec.ofNat 32 off, left := chunks, tries := []
                        replacing := none, keys := [], heads := [], sigSkipped := rep.sigSkipped
                        seats := fieldOf s F.SP_LANE_SEATS, since := now s, total := chunks.length
                        endedSeqs := 0, refetch := [] }
                      commitLoad (setReport s c.val rep) c x t heads

/-! ## Replacement: checks and start (R320 to R323) -/

/-- The sections that a replacement may not change, apart from the weights' places. -/
def sameTemplate (a b : Template) : Bool :=
  decide ({ a with weights := [], proj := [] } = { b with weights := [], proj := [] })
    && (a.weights.all fun w => b.weights.any fun v => v.diePos = w.diePos && v.vpn = w.vpn)
    && (b.weights.all fun w => a.weights.any fun v => v.diePos = w.diePos && v.vpn = w.vpn)

def sameImage (a b : Image) : Bool :=
  capsOf a = capsOf b && a.kvplan = b.kvplan && a.serve = b.serve && a.tadpole = b.tadpole && a.templates.length = b.templates.length
    && (a.templates.zip b.templates).all fun e => sameTemplate e.1 e.2

/-- Live at the start of a replacement: prefilling, decoding, parked or kept (R323). -/
def liveForReplace (q : Seq) : Bool := q.kept || (isLive q && q.st ≠ .queued)

/-- A step or chunk of the sequence that still waits at the barrier of layer 0 has not started: it leaves its
group. -/
def unstart (s : State) (q : Seq) : State :=
  modServing s fun v => { v with groups := v.groups.filterMap fun g =>
    if g.inside || g.layer ≠ 0 || !(g.members.any fun m => q.slot = some m.slot) then some g
    else
      let ms := g.members.filter fun m => q.slot ≠ some m.slot
      if ms.isEmpty then none else some { g with members := ms } }

/-- End a context's sequences with END_MODEL_REPLACED, each at its next commit boundary; kept ones are
released at once. -/
def leaveSeqs (s : State) (l : List Seq) : State :=
  forEach l s fun s q =>
    if q.kept then releaseKept s q
    else
      let s := if q.slot.isSome then unstart s q else s
      idleBoundary (modThis s q fun q => { q with leaving := true, step := none }) q

def startReplace (s : State) (c entry : Nat) (ent : ManifestEntry) (img : Image) (x : Context)
    (heads : List ContainerHead) : State :=
  let t := templateOf x img
  let live := s.serving.seqs.filter fun q => q.ctx.val = c && liveForReplace q
  let ends := fieldOf s (F.WT_REPLACE_POLICY + c) = 1
  let version := (pget s (R.CTX_VERSION_VERSION.at c 16) + 1) % 2 ^ 32
  let s := modCtx s c fun x => { x with
    replacing := some {
      entry := entry, image := img, manifest := ent, unit := 0, since := now s
      total := (chunksOfRows (usedWeights t x.dies.length)).length, left := [], writing := false, ends := ends
      sigSkipped := fieldOf s F.LD_REQUIRE_OWNER_SIG = 0, keys := entryKeys s ent, heads := heads } }
  let s := setProgress (setCtxState s c 3) c 0 0
  let s := modServing s fun v => { v with
    groups := v.groups.map fun g => if g.ctx.val = c then { g with newVer := false } else g }
  let s := logPut s 0x0C11 sevNotice (svcSrc s) (c * 2 ^ 30 + b2n ends * 2 ^ 29 + entry) live.length version
  if ends then leaveSeqs s live else s

def runReplace (s : State) (c : Fin 4) (entry : Nat) (img : Option Image) (heads : List ContainerHead) : State :=
  let rep := { blankReport with sigSkipped := fieldOf s F.LD_REQUIRE_OWNER_SIG = 0 }
  match manifestOf s entry with
  | none => refuseOp s c.val 0x01 0 1 rep
  | some ent =>
    if !(entrySigned s ent) then refuseOp (secManifestRefused s entry 2) c.val 0x11 0 1 rep
    else
      match img with
      | none => refuseOp s c.val 0x01 0 1 rep
      | some img =>
        match checkEntry s ent img with
        | some r => refuseAs s c.val r rep
        | none =>
          match ctxOf s c.val with
          | none => refuseOp s c.val 0x10 0 4 rep
          | some x =>
            if ctxState s c.val ≠ 2 then refuseOp s c.val 0x10 0 4 rep
            else if !(sameImage x.image img) then refuseOp s c.val 0x0F 0 4 rep
            else
              match checkWeights s ent img (templateOf x img) heads (keysHeld s) with
              | some r =>
                let s := if r.detail = 4 then logUnwrap s c.val ent else s
                refuseAs s c.val r rep
              | none => startReplace s c.val entry ent img x heads

/-- The header and the tag table of each container; a table that did not come is empty (R316). -/
def headsOf (headers tags : List (List Byte)) : List ContainerHead :=
  headers.zipIdx.map fun e => ⟨e.1, (tags[e.2]?).getD []⟩

/-- The loader is at work: a context loads or is replaced (R159). -/
def loaderBusy (s : State) : Bool := (List.range 4).any fun c => ctxState s c = 1 || ctxState s c = 3

/-- The loader runs the next queued operation: not in Hold, nor under a compute-plane reset. -/
def loadExecuteEff (img : Option Image) (heads : List ContainerHead) (s : State) : State :=
  if s.loader.paused || s.plane.cpHeld || loaderBusy s then s
  else
    match s.loader.queue with
    | [] => s
    | .load c entry dies barred :: rest =>
      runLoad (modLoader s fun l => { l with queue := rest }) c entry dies barred img heads
    | .replace c entry :: rest =>
      runReplace (modLoader s fun l => { l with queue := rest }) c entry img heads

/-! ## Chunks being read (R316 to R318) -/

/-- Why a chunk is wanted; a refetch serves a unit, and the frames with a VERSION bit. -/
inductive ChunkUse where
  | load | replace | refetch (unit : Nat) (version : Bool)
  deriving DecidableEq, Repr

/-- A chunk that a context wants: the context, the use, the chunk, and the die of its pages. -/
structure Wanted where
  ctx   : Nat
  use   : ChunkUse
  key   : Word × Word
  die   : Nat
  deriving DecidableEq, Repr

/-- A wanted chunk belongs to the pending version (R316). -/
def useNew (s : State) (c : Nat) : ChunkUse → Bool
  | .load => false
  | .replace => true
  | .refetch _ v => newVersion s c v

/-- The image in which a wanted chunk stands. -/
def useImage (s : State) (c : Nat) (x : Context) (use : ChunkUse) : Image :=
  if useNew s c use then (x.replacing.map (·.image)).getD x.image else x.image

/-- What a port die's engine holds for the chunks of a container in a version: the content key, the manifest entry,
and the header with its tag table (R313, R315). -/
def engineKey (x : Context) (new : Bool) (container : Word) :
    Option (BitVec 128 × ManifestEntry × ContainerHead × Container) :=
  let (ent, keys, heads) := match new, x.replacing with
    | true, some r => (r.manifest, r.keys, r.heads)
    | _, _ => (x.manifest, x.keys, x.heads)
  (ent.containers.zipIdx.find? fun k => k.1.id = container).bind fun k =>
    (keys[k.2]?).bind fun key => (heads[k.2]?).map fun h => (key, ent, h, k.1)

/-- The page images of a chunk as read, when it is one of its container and its tag verifies (R313). -/
def decryptChunk (s : State) (c : Nat) (x : Context) (use : ChunkUse) (key : Word × Word) (text : List Byte) :
    Option (List (List Byte)) :=
  (engineKey x (useNew s c use) key.1).bind fun e =>
    if key.2.toNat < e.2.2.2.chunks.toNat then openChunk e.1 e.2.1 e.2.2.1 key.1 key.2 text else none

def chunkRows (x : Context) (img : Image) (key : Word × Word) : List WeightPage :=
  (usedWeights (templateOf x img) x.dies.length).filter fun w => w.container = key.1 && w.chunk = key.2

def chunkDie (x : Context) (img : Image) (key : Word × Word) : Nat :=
  (((chunkRows x img key).head?.bind fun w => x.dies[w.diePos]?)).getD 0

/-- Every chunk that the contexts want, in order. -/
def wantedChunks (s : State) : List Wanted :=
  ((List.range 4).map fun c =>
    match ctxOf s c with
    | none => []
    | some x =>
      let mk (use : ChunkUse) (key : Word × Word) : Wanted := ⟨c, use, key, chunkDie x (useImage s c x use) key⟩
      (x.refetch.map fun j => mk (.refetch j.1 j.2.1) j.2.2)
        ++ (if ctxState s c = 1 then x.left.map (mk .load) else [])
        ++ match x.replacing with
          | some r => r.left.map (mk .replace)
          | none => []).flatten

/-- The port die that reads a die's chunks for a context: the other one when it is down or not enabled. -/
def chunkPort (s : State) (c d : Nat) : Nat := diePort s c d

/-- Chunks that each port die may have in flight, 16 buffers at most. -/
def inflightMax (s : State) : Nat := min 16 (fieldOf s F.WT_INFLIGHT)

/-- The source of a wanted chunk: an RDMA READ of memory, or an NVMe-oF capsule (R311, R341). -/
def readChunk (s : State) (p : Nat) (key : Word × Word) : State :=
  match (wantedChunks s).find? fun w => w.key = key with
  | none => s
  | some w =>
    match (ctxOf s w.ctx).bind fun x => engineKey x (useNew s w.ctx w.use) key.1 with
    | none => s
    | some e =>
      match e.2.1.sources[e.2.2.2.source.toNat]? with
      | some src => rdmaBegin s p (if src.kind = 0 then .read else .send) (.chunk key.1 key.2) src.addr src.qpn
      | none => s

/-- Each port die's engine takes wanted chunks into its free buffers. -/
def refill (s : State) : State :=
  forEach [0, 1] s fun s p =>
    let want := ((wantedChunks s).filter fun w => chunkPort s w.ctx w.die = p).map (·.key)
    let kept := (portOf s p).chunks.filter want.contains
    let new := (want.filter fun k => !(kept.contains k)).eraseDups
    let begun := new.take (inflightMax s - kept.length)
    let l := if portUp s p then kept ++ begun else []
    if l = (portOf s p).chunks then s
    else
      let s := modPort s p fun x => { x with chunks := l }
      if portUp s p then forEach begun s fun s k => readChunk s p k else s

/-- PERMILLE of an operation with chunks still left. -/
def permille (total left : Nat) : Nat := if total = 0 then 1000 else (total - left) * 1000 / total

/-- Chunks of a replacement that are not written yet. -/
def replaceLeft (x : Context) (r : Replacing) : Nat :=
  (chunksOfRows ((usedWeights (templateOf x r.image) x.dies.length).filter fun w => r.unit < w.unit)).length
    + if r.writing then r.left.length
      else (chunksOfRows ((usedWeights (templateOf x r.image) x.dies.length).filter fun w => w.unit = r.unit)).length

/-- The bytes of a page go to its frame, whose record takes the version of the weights (R316). -/
def writePage (s : State) (d vpn : Nat) (version : Option Bool) (bytes : List Byte) : State :=
  let e := l2Of s d vpn
  if !(pteV e) then s
  else
    let f := pteFid e
    let s := modDie s d fun x => { x with
      mem := mstore (clearFrame x.mem f) (f * frameBytes) (bytes.take frameBytes)
      badLines := x.badLines.filter fun b => b.1 / 256 ≠ f }
    match frameOf s d f, version with
    | some r, some v => setFrame s d f (some { r with version := v })
    | _, _ => s

def writeChunk (s : State) (x : Context) (img : Image) (key : Word × Word) (version : Bool)
    (pages : List (List Byte)) : State :=
  forEach (chunkRows x img key) s fun s w =>
    match x.dies[w.diePos]? with
    | some d => writePage s d w.vpn.toNat (some version) ((pages[w.page.val]?).getD [])
    | none => s

/-- The VERSION bit of the frame that a page of a die lies in. -/
def pageVersion (s : State) (d vpn : Nat) : Option Bool :=
  let e := l2Of s d vpn
  if pteV e then (frameOf s d (pteFid e)).map (·.version) else none

/-- A refetched chunk rewrites the frames that hold its version (R319). -/
def rewriteChunk (s : State) (x : Context) (img : Image) (key : Word × Word) (version : Bool)
    (pages : List (List Byte)) : State :=
  forEach (chunkRows x img key) s fun s w =>
    match x.dies[w.diePos]? with
    | some d => if pageVersion s d w.vpn.toNat = some version then
        writePage s d w.vpn.toNat none ((pages[w.page.val]?).getD []) else s
    | none => s

/-! ## Resident weights of a unit or a page -/

/-- Copy again every resident region, of the main pipeline and of the lanes, one of whose pages satisfies a
test on die position and virtual page. -/
def residentWhere (s : State) (c : Nat) (x : Context) (img : Image) (p : Nat → Nat → Bool) : State :=
  let homes := x.place ++ ((lanesOf s c).map fun l =>
    l.2.tiles.zipIdx.map fun e => (posKey (ctxLayers x + e.2) 0, e.1)).flatten
  forEach homes s fun s e =>
    let pos := (x.dies.idxOf e.2.d.val)
    let hit := (templateOf x img).regions.any fun r =>
      r.layer = e.1 / 64 && r.pos = e.1 % 64 && r.kind = 0
        && (List.range (r.count / 256 + 2)).any fun i => r.va / frameBytes + i ≤ (r.va + (r.count - 1) * lineBytes) / frameBytes
          && p pos (r.va / frameBytes + i)
    if hit then residentCopy s x img (e.1 / 64) (e.1 % 64) e.2 else s

/-- A page belongs to a unit of an image. -/
def inUnit (x : Context) (img : Image) (u pos vpn : Nat) : Bool :=
  (templateOf x img).weights.any fun w => w.diePos = pos && w.vpn.toNat = vpn && w.unit = u

/-! ## Units of a replacement (R321, R322) -/

/-- No group of the old version is inside the unit or waiting to enter it. -/
def unitDrained (s : State) (c : Nat) (x : Context) (u : Nat) : Bool :=
  let old := s.serving.groups.filter fun g =>
    g.ctx.val = c && !g.newVer && !g.bubble && (g.inside || 0 < g.layer)
  if u < ctxLayers x then old.all fun g => u < g.layer else u ≠ ctxLayers x || old.isEmpty

/-- The last unit of a context: the projection, or the draft model when it has lanes. -/
def lastUnit (s : State) (c : Nat) (x : Context) : Nat :=
  if (lanesOf s c).isEmpty then ctxLayers x else ctxLayers x + 1

/-- Each lane abandons its pass: the sequence goes on with no proposals, and catches up afterwards (R322). -/
def abandonPasses (s : State) (c : Nat) : State :=
  forEach (lanesOf s c) s fun s e =>
    let seated := s.serving.seqs.filter fun q => q.seat = some e.1 && isLive q
    let waits (q : Seq) : Bool := !q.catchup && (q.slot.map fun k => e.2.queue.contains k).getD false
    let s := forEach seated s fun s q => modThis s q fun q => { q with catchup := true, draftLen := 0 }
    let s := requeue s e.1 true fun _ => seated.filterMap (·.slot)
    forEach seated s fun s q => if waits q then giveStep s q (plainStep (nextPos s q)) else s

/-- Lanes that were held go on (R319, R321). -/
def resumeLanes (s : State) (c : Nat) : State := forEach (lanesOf s c) s fun s e => beginLane s e.1

/-- The replacement is complete: the new version is in force. -/
def endReplace (s : State) (c : Nat) (r : Replacing) : State :=
  let version := (pget s (R.CTX_VERSION_VERSION.at c 16) + 1) % 2 ^ 32
  let s := pset s (R.CTX_VERSION_VERSION.at c 16) version
  let s := modCtx s c fun x => { x with
    image := r.image, manifest := r.manifest, entry := r.entry, keys := r.keys, heads := r.heads
    sigSkipped := r.sigSkipped, replacing := none }
  let s := pset (setCtxState s c 2) (R.CTX_STAT_ENTRY.at c 16) r.entry
  let s := setProgress s c 0 1000
  resumeLanes (logPut s 0x0C12 sevNotice (svcSrc s) (c * 2 ^ 30) version ((now s - r.since) / msNs)) c

/-- The tiles of a context's lanes. -/
def laneTiles (s : State) (c : Nat) : List Tid := ((lanesOf s c).map fun l => l.2.tiles).flatten

/-- Checks whose weights a unit is about to replace are abandoned (R112): those of the unit's own tiles, and any
other that reads a page of it. -/
def abandonUnit (s : State) (c : Nat) (x : Context) (img : Image) (u : Nat) : State :=
  let own (t : Tid) : Bool := if u < ctxLayers x then (layerTiles x u).contains t else u ≠ ctxLayers x && (laneTiles s c).contains t
  let reads (t : Tid) : Bool := ((tileOf s t).capture.map fun k =>
    (checkAddrs k).any fun a => inUnit x img u (x.dies.idxOf t.d.val) (a / frameBytes)).getD false
  forEach ((ctxTiles x).filter fun t => own t || reads t) s abandonCheck

/-- A unit is written: its resident weights are loaded again, its held groups go on, and the next unit
follows. -/
def finishUnit (s : State) (c : Nat) (x : Context) (r : Replacing) : State :=
  let u := r.unit
  let s := residentWhere s c x r.image fun pos vpn => inUnit x r.image u pos vpn
  let s := if u < ctxLayers x then clearForced s (layerTiles x u)
    else if u = ctxLayers x then s else abandonPasses (clearForced s (laneTiles s c)) c
  if u < lastUnit s c x then
    let s := setProgress s c (u + 1) (permille r.total (replaceLeft x { r with unit := u + 1, left := [], writing := false }))
    modCtx s c fun x => { x with replacing := some { r with unit := u + 1, left := [], writing := false } }
  else endReplace s c r

/-- The unit in progress is drained: its chunks are wanted, and an old frame that waited to be fetched again is
left, since the replacement overwrites it (Table 12.5); a unit without chunks is done at once. -/
def unitDrainedEff (c : Fin 4) (s : State) : State :=
  match ctxOf s c.val with
  | none => s
  | some x =>
    match x.replacing with
    | none => s
    | some r =>
      if r.writing || s.loader.paused || !(unitDrained s c.val x r.unit) then s
      else
        let rows := (usedWeights (templateOf x r.image) x.dies.length).filter fun w => w.unit = r.unit
        let r := { r with writing := true, left := chunksOfRows rows }
        let s := if r.unit = ctxLayers x + 1 then abandonPasses s c.val else s
        let s := abandonUnit s c.val x r.image r.unit
        let s := modCtx s c.val fun x => { x with
          replacing := some r
          refetch := x.refetch.filter fun j => j.1 ≠ r.unit || newVersion s c.val j.2.1 }
        if r.left.isEmpty then finishUnit s c.val x r else refill s

/-! ## A chunk is read, or fails -/

/-- A chunk that the context gives up: the load is refused, or the context stops (R317, R319, R324). -/
def chunkLost (s : State) (w : Wanted) (detail : Nat) : State :=
  match w.use with
  | .load => failLoad s w.ctx reasonWeights detail 11
  | .replace =>
    let unit := (((ctxOf s w.ctx).bind (·.replacing)).map (·.unit)).getD 0
    stopContext (logPut s 0x0C13 sevError (svcSrc s) (w.ctx * 2 ^ 30 + unit % 2 ^ 16) w.key.1.toNat w.key.2.toNat)
      w.ctx 0x0C13
  | .refetch _ _ =>
    stopContext (logPut s 0x0C15 sevError (svcSrc s) (w.ctx * 2 ^ 30 + w.die * 2 ^ 12) w.key.1.toNat w.key.2.toNat)
      w.ctx 0x0C15

def triesOf (x : Context) (key : Word × Word) : Nat :=
  ((x.tries.find? fun e => e.1 = key.1 && e.2.1 = key.2).map (·.2.2)).getD 0

def setTries (x : Context) (key : Word × Word) (n : Nat) : Context :=
  let l := x.tries.filter fun e => !(e.1 = key.1 && e.2.1 = key.2)
  { x with tries := if n = 0 then l else l ++ [(key.1, key.2, n)] }

/-- A chunk read that found no response (1) or whose tag failed (5): it is retried, or given up. -/
def chunkFailed (s : State) (w : Wanted) (detail : Nat) : State :=
  match ctxOf s w.ctx with
  | none => s
  | some x =>
    if triesOf x w.key < fieldOf s F.WT_FETCH_RETRIES then
      pinc (modCtx s w.ctx fun x => setTries x w.key (triesOf x w.key + 1)) (R.WT_REFETCH_RETRIES.at w.ctx 16)
    else refill (chunkLost s w detail)

/-- The verified chunk is written where it is wanted. -/
def chunkWritten (s : State) (c : Fin 4) (x : Context) (w : Wanted) (pages : List (List Byte)) : State :=
  let img := useImage s c.val x w.use
  let v := tbit (pget s (R.CTX_VERSION_VERSION.at c.val 16)) 0
  let s := modCtx s c.val fun x => setTries x w.key 0
  match w.use with
  | .load =>
    let s := writeChunk s x img w.key v pages
    let left := x.left.erase w.key
    let s := modCtx s c.val fun x => { x with left := left }
    let unit := (((chunkRows x img w.key).head?).map (·.unit)).getD 0
    let s := setProgress s c.val unit (permille x.total left.length)
    if left.isEmpty then startServing s c else s
  | .replace =>
    match x.replacing with
    | none => s
    | some r =>
      let s := writeChunk s x img w.key (!v) pages
      let r := { r with left := r.left.erase w.key }
      let s := modCtx s c.val fun x => { x with replacing := some r }
      let s := setProgress s c.val r.unit (permille r.total (replaceLeft x r))
      if r.left.isEmpty then finishUnit s c.val x r else s
  | .refetch u old =>
    let s := rewriteChunk s x img w.key old pages
    let s := resumeLanes (modCtx s c.val fun x => { x with refetch := x.refetch.erase (u, old, w.key) }) c.val
    residentWhere s c.val x img fun pos vpn => (chunkRows x img w.key).any fun r => r.diePos = pos && r.vpn.toNat = vpn

/-- The oldest reason for which a port die reads a chunk. -/
def wantedAt (s : State) (p : Nat) (key : Word × Word) : Option Wanted :=
  if (portOf s p).chunks.contains key then
    (wantedChunks s).find? fun w => w.key = key && chunkPort s w.ctx w.die = p
  else none

def chunkReadEff (p : Fin 2) (container chunk : Word) (text : List Byte) (s : State) : State :=
  if s.loader.paused then s
  else
    let s := refill s
    match wantedAt s p.val (container, chunk) with
    | none => s
    | some w =>
      match ctxOf s w.ctx with
      | none => s
      | some x =>
        match decryptChunk s w.ctx x w.use w.key text with
        | none => chunkFailed s w 5
        | some pages => refill (chunkWritten s (Fin.ofNat 4 w.ctx) x w pages)

def chunkTimeoutEff (p : Fin 2) (container chunk : Word) (s : State) : State :=
  if s.loader.paused then s
  else
    let s := refill s
    match wantedAt s p.val (container, chunk) with
    | none => s
    | some w => chunkFailed s w 1

/-! ## LOAD, REPLACE and UNLOAD requests -/

def opLoad : Nat := 0x0010
def opUnload : Nat := 0x0011
def opReplace : Nat := 0x0012
def opManifestWrite : Nat := 0x0014

/-- A load or replacement may be queued: after READY, and not in Rest, where no context can come to serve. -/
def loadOpen (s : State) : Bool := isReady s && pget s R.RS_STAT_STATE ≠ 3

/-- Context and entry numbers of a request are in range. -/
def queueOp (m : Mgmt) (op c entry : Nat) (mk : Fin 4 → LoadOp) : State → State :=
  mgmtOp loadOpen op m fun s =>
    if h : c < 4 then
      if 63 < entry then reply s m op stMalformed []
      else reply (modLoader s fun l => { l with queue := l.queue ++ [mk ⟨c, h⟩] }) m op stQueued []
    else reply s m op stMalformed []

def loadReqEff (m : Mgmt) (c entry : Nat) (dies : List Nat) : State → State :=
  queueOp m opLoad c entry fun k => .load k entry dies []

def replaceReqEff (m : Mgmt) (c entry : Nat) : State → State :=
  queueOp m opReplace c entry fun k => .replace k entry

/-- Step 1 of an unload (R325); a context that loads has its load abandoned, a replacement is abandoned
(Table 12.5). -/
def beginUnload (s : State) (c : Nat) : State :=
  match ctxOf s c with
  | none => s
  | some _ =>
    if ctxState s c = 4 then s
    else if ctxState s c = 1 then abandonLoad s c 0
    else
      let qs := s.serving.seqs.filter fun q => q.ctx.val = c && (isLive q || q.kept)
      let s := modCtx (setCtxState s c 4) c fun x => { x with
        replacing := none, refetch := [], endedSeqs := qs.length, since := now s }
      leaveSeqs s qs

def unloadReqEff (m : Mgmt) (c : Nat) : State → State :=
  mgmtOp isReady opUnload m fun s =>
    if 3 < c then reply s m opUnload stMalformed []
    else reply (beginUnload s c) m opUnload stQueued []

/-- No step of the context is in flight, and none of its sequences is live or kept. -/
def unloadIdle (s : State) (c : Nat) : Bool :=
  (s.serving.groups.all fun g => g.ctx.val ≠ c || g.bubble)
    && s.serving.seqs.all fun q => q.ctx.val ≠ c || (!(isLive q) && !q.kept && !q.drain)

/-- Step 2 of an unload: the frames are zero and free, and CTX_UNLOADED is written. -/
def unloadDoneEff (c : Fin 4) (ms : Nat) (s : State) : State :=
  match ctxOf s c.val with
  | none => s
  | some x =>
    if ctxState s c.val ≠ 4 || !(unloadIdle s c.val) then s
    else
      let s := teardown s c.val
      let s := modLoader s fun l => { l with queue := l.queue.map fun o => match o with
        | .load k e dies barred => .load k e dies (barred ++ x.dies)
        | .replace k e => .replace k e }
      logPut s 0x0C10 sevNotice (svcSrc s) (c.val * 2 ^ 30) x.endedSeqs ms

/-! ## MANIFEST_WRITE (R311, R469) -/

def entryShapeOk (e : ManifestEntry) : Bool :=
  1 ≤ e.sources.length && e.sources.length ≤ 8 && 1 ≤ e.containers.length && e.containers.length ≤ 1024
    && e.imageSource.toNat < e.sources.length && (e.sources.all fun x => x.kind = 1 || x.kind = 2)
    && e.containers.all fun k => k.source.toNat < e.sources.length && k.offset.toNat % 4096 = 0 && k.chunks ≠ 0

def manifestWriteEff (m : Mgmt) (n : Nat) (e : ManifestEntry) : State → State :=
  mgmtOp isReady opManifestWrite m fun s =>
    if 63 < n || !(entryShapeOk e) then reply s m opManifestWrite stMalformed []
    else if !(entrySigned s e) then refuse (secManifestRefused s n 0) m opManifestWrite 0x11
    else
      reply (modStore s fun r => { r with manifest := kset noEntry r.manifest n (some e) }) m opManifestWrite stDone []

/-! ## The commands -/

def execLoad (m : Mgmt) (c entry : Byte) (dies : List Byte) (s : State) : Res :=
  .next (loadReqEff m c.toNat entry.toNat (dies.map (·.toNat)) s)
def execLoadExecute (img : Option Image) (headers tags : List (List Byte)) (s : State) : Res :=
  .next (loadExecuteEff img (headsOf headers tags) s)
def execChunkReadComplete (p : Fin 2) (container chunk : Word) (first more : List Byte) (s : State) : Res :=
  .next (chunkReadEff p container chunk (first ++ more) s)
def execChunkFetchTimeout (p : Fin 2) (container chunk : Word) (s : State) : Res :=
  .next (chunkTimeoutEff p container chunk s)
def execReplace (m : Mgmt) (c entry : Byte) (s : State) : Res := .next (replaceReqEff m c.toNat entry.toNat s)
def execReplaceUnitDrained (c : Fin 4) (s : State) : Res := .next (unitDrainedEff c s)
def execUnload (m : Mgmt) (c : Byte) (s : State) : Res := .next (unloadReqEff m c.toNat s)
def execUnloadZeroDone (c : Fin 4) (ms : Word) (s : State) : Res := .next (unloadDoneEff c ms.toNat s)
def execManifestWrite (m : Mgmt) (n : Byte) (e : ManifestEntry) (s : State) : Res :=
  .next (manifestWriteEff m n.toNat e s)

end Sys2Proof.Machine
end

