-- ==== Sys2Proof/Machine/Ports.lean ====
section
/-! DEFINITION. The Ethernet ports (R331 to R343): training, loss of a port, received frames, flow control and
the RoCEv2 engine; and the optical modules with their life records (R344 to R348). -/
namespace Sys2Proof.Machine

/-! ## Training (R333) -/

/-- MODE of a port (Table 13.8), and the lane groups below 1.6T in order of preference:
mode and first lane. -/
def mode16T : Nat := 3
def modeLanes (mode : Nat) : Nat := 2 ^ mode
def groupMask (g : Nat × Nat) : Nat := (2 ^ modeLanes g.1 - 1) * 2 ^ g.2
def lowerGroups : List (Nat × Nat) := [(2, 0), (2, 4), (1, 0), (1, 2), (1, 4), (1, 6)]

/-- Every lane of a mask is in another. -/
def lanesIn (mask lanes : Nat) : Bool := (List.range 8).all fun i => !(tbit mask i) || tbit lanes i

def ptSrc (s : State) : LogSrc := svcSrc s

def ptDownLog (s : State) (p reason : Nat) : State :=
  logPut s 0x0D11 sevWarning (ptSrc s) (p * 2 ^ 31 + reason) (portOf s p).fecLast (portGet s p R.PT_STAT_TRAINED)

/-! ## The module's data path (R345, R347) -/

/-- Laser-on time up to now joins the time that no record holds yet. -/
def bankLaser (s : State) (p : Nat) : State :=
  let run := s.plane.run
  modPort s p fun x => { x with
    laserNs := x.laserNs + ((x.laserFrom.map fun t => run - t).getD 0), laserFrom := x.laserFrom.map fun _ => run }

/-- Whole laser-on seconds that no record holds yet. -/
def takeLaser (s : State) (p : Nat) : Nat × State :=
  let s := bankLaser s p
  let n := (portOf s p).laserNs
  (n / 1000000000, modPort s p fun x => { x with laserNs := n % 1000000000 })

/-- Select an application and activate its data path; 0 deactivates it. -/
def setApp (s : State) (p app : Nat) : State :=
  if portGet s p R.PT_OPT_STAT_APP = app then s
  else
    let s := portSet (bankLaser s p) p R.PT_OPT_STAT_APP app
    let run := s.plane.run
    let s := modPort s p fun x => { x with laserFrom := if app = 0 then none else some run }
    send s (.cmis p (if app = 0 then .deactivate else .select app))
/-- The application number of a mode that the module advertises. -/
def appOf (i : ModuleInfo) (mode : Nat) : Option Nat :=
  (i.apps.find? fun a => a.1.val = mode).map fun a => a.2.toNat

/-- The module is at high power and ready. -/
def moduleReady (s : State) (p : Nat) : Option ModuleInfo :=
  if portGet s p R.PT_OPT_STAT_READY = 1 then (portOf s p).moduleIn else none

/-- The registers of a cage without a module that the device knows. -/
def clearOptics (s : State) (p : Nat) : State :=
  let s := setApp s p 0
  let s := portSet s p R.PT_OPT_STAT_PRESENT 0
  let s := portSet s p R.PT_OPT_STAT_READY 0
  let s := portSet s p R.PT_OPT_STAT_LIFE_WARN 0
  let s := portSet s p R.PT_OPT_STAT_BIAS_WARN 0
  let s := portSet s p R.PT_OPT_STAT_CMIS_REV 0
  let s := portSet s p R.PT_OPT_STAT_RECORD 0
  let s := portSet s p R.PT_OPT_HOURS_HOURS 0
  portSet s p R.PT_OPT_HOURS_RATED_KH 0

/-- The module leaves the port's care. -/
def forgetModule (s : State) (p : Nat) : State :=
  modPort s p fun x => { x with
    moduleIn := none, missed := 0, attempt := none, retryAt := false, highPower := false, laserFrom := none, laserNs := 0 }

/-- The application of the attempt is selected once the module is ready. -/
def selectAttempt (s : State) (p : Nat) : State :=
  match (portOf s p).attempt, moduleReady s p with
  | some g, some i => setApp s p ((appOf i g.1).getD 0)
  | _, _ => s

/-- Start a training from 1.6T with the fields as they stand; a port that they disable is powered down (R332,
R333). -/
def startTraining (s : State) (p : Nat) : State :=
  let s := latchFields s p trainFields
  if !(portOn s p) then forgetModule (clearOptics s p) p
  else
    let s := modPort s p fun x => { x with
      tried := [(mode16T, 0)], attempt := some (mode16T, 0), retryAt := false
      xoff := 0, paused := 0, stormTold := 0, egress := [], neighbours := [] }
    selectAttempt s p

/-- Lanes that the 1.6T attempt recorded; an attempt that failed at once for want of an application tried
none, and excludes none. -/
def trainedLanes (s : State) (p : Nat) (i : ModuleInfo) : Nat :=
  if (appOf i mode16T).isSome then portGet s p R.PT_STAT_TRAINED else 0xFF

/-- The next group: advertised, of lanes recorded as trained, and not tried yet. -/
def nextGroup (s : State) (p : Nat) (i : ModuleInfo) : Option (Nat × Nat) :=
  lowerGroups.find? fun g =>
    (appOf i g.1).isSome && lanesIn (groupMask g) (trainedLanes s p i) && !((portOf s p).tried.contains g)

def optUnsupported (s : State) (p reason : Nat) (i : ModuleInfo) : State :=
  logPut s 0x0D16 sevError (ptSrc s) (p * 2 ^ 31 + reason) i.ident.toNat i.cmis.toNat

/-- The attempt fails: the next group is attempted, or the port is down until PT_RETRY_S has passed. -/
def attemptFails (s : State) (p : Nat) (i : ModuleInfo) : State :=
  match nextGroup s p i with
  | some g => selectAttempt (modPort (setApp s p 0) p fun x => { x with
      tried := x.tried ++ [g], attempt := some g }) p
  | none =>
    let s := if i.apps.isEmpty then optUnsupported s p 1 i else s
    let s := ptDownLog (setApp s p 0) p 3
    modPort s p fun x => { x with attempt := none, retryAt := true }

/-- The attempt succeeds: the port is up. -/
def portComesUp (s : State) (p ms : Nat) (g : Nat × Nat) (app : Nat) : State :=
  let s := portSet s p R.PT_STAT_UP 1
  let s := portSet s p R.PT_STAT_MODE g.1
  let s := portSet s p R.PT_STAT_USED (groupMask g)
  let s := setApp s p app
  let s := modPort s p fun x => { x with attempt := none, qps := [] }
  let trained := portGet s p R.PT_STAT_TRAINED
  let head := p * 2 ^ 31 + g.1 * 2 ^ 29
  let s := logPut s 0x0D10 sevNotice (ptSrc s) (head + groupMask g) ms trained
  if g.1 = mode16T then s else logPut s 0x0D12 sevWarning (ptSrc s) head trained (groupMask g)

/-- An attempt ends with the lanes that trained; it succeeds when they hold its group and the PCS aligned. A
mode without an application fails at once. -/
def endAttempt (p lanes ms : Nat) (aligned : Bool) (s : State) : State :=
  match (portOf s p).attempt, moduleReady s p with
  | some g, some i =>
    if !(portOn s p) || portGet s p R.PT_STAT_UP = 1 then s
    else
      match appOf i g.1 with
      | none => attemptFails (if g.1 = mode16T then portSet s p R.PT_STAT_TRAINED 0 else s) p i
      | some app =>
        let s := if g.1 = mode16T then portSet s p R.PT_STAT_TRAINED lanes else s
        if aligned && lanesIn (groupMask g) lanes then portComesUp s p ms g app else attemptFails s p i
  | _, _ => s

/-- High power is requested of the module (R345). -/
def askPower (s : State) (p : Nat) : State :=
  send (modPort s p fun x => { x with highPower := true }) (.cmis p .highPower)

/-- PT_RETRY_S has passed: training starts again, and a module that was not ready is asked again. -/
def portRetryEff (p : Nat) (s : State) : State :=
  if !(portOf s p).retryAt then s
  else
    let s := if (portOf s p).highPower && portGet s p R.PT_OPT_STAT_READY = 0 then askPower s p else s
    startTraining s p

/-! ## Loss of a port (R334, R343) -/

/-- Page-ins and page-outs that use the port die. -/
def failTransfers (s : State) (p : Nat) : State :=
  let s := forEach allDies s fun s d =>
    let ins := (dieOf s d.val).pageIns.filter fun e => e.port = p
    forEach ins s fun s e => pageInTimeoutEff d e.vpn false s
  forEach allDies s fun s d =>
    let outs := (dieOf s d.val).pageOuts.filter fun e => e.port = p
    forEach outs s fun s e => pageOutTimeoutEff d e.vpn 2 s

/-- Every RDMA operation on the port fails at once, which counts as one attempt; its queue pairs are gone. -/
def failRdma (s : State) (p : Nat) : State :=
  let ws := (portOf s p).chunks.filterMap fun k => (wantedChunks s).find? fun w => w.key = k
  let s := modPort s p fun x => { x with chunks := [], qps := [] }
  let s := forEach ws s fun s w => chunkFailed s w 1
  refill (failTransfers s p)

/-- An up port goes down. -/
def portGoesDown (s : State) (p reason : Nat) : State :=
  let s := portSet s p R.PT_STAT_UP 0
  let s := portSet s p R.PT_STAT_MODE 0
  let s := portSet s p R.PT_STAT_USED 0
  let s := setApp s p 0
  let s := portInc s p R.PT_STAT_FLAPS
  failRdma (ptDownLog s p reason) p

def isUp (s : State) (p : Nat) : Bool := portGet s p R.PT_STAT_UP = 1

def pcsLossEff (p : Nat) (s : State) : State :=
  if isUp s p then startTraining (portGoesDown s p 0) p else s

/-- RETRAIN, and the training of a port reset; nothing before READY, where bring-up trains the port. -/
def retrainPort (s : State) (p : Nat) : State :=
  if !(portEnabled s p) || !(isReady s) then s
  else if !(portOn s p) then startTraining s p
  else if isUp s p then startTraining (portGoesDown s p 4) p
  else startTraining (ptDownLog s p 4) p

/-- A port reset (R433): also the ingress buffer and the queue pairs are discarded; FLAPS counts it. -/
def resetPort (s : State) (p : Nat) : State :=
  if !(portEnabled s p) || !(isReady s) then s
  else
    let s := if isUp s p || !(portOn s p) then s else portInc s p R.PT_STAT_FLAPS
    let s := retrainPort s p
    modPort s p fun x => { x with qps := [], fecLast := 0, fecRem := 0 }

/-! ## Received frames (R337 to R340) -/

/-- The priority of a frame that the port accepts by its tag. -/
def framePrio (s : State) (p : Nat) (f : EthFrame) : Option Nat :=
  match f.vlan with
  | none => some 0
  | some (pcp, vid) =>
    if vid = 0 || vid.toNat = portField s p (F.PT_VLAN + p) then some pcp.toNat else none

/-- Bytes of a frame on the wire, preamble excluded (R338). -/
def frameBytesOn (f : EthFrame) : Nat := f.ipLen + 22

def losslessShare : Nat := 48 * mib
def lossyShare : Nat := 16 * mib

/-- A byte with a bit set or cleared. -/
def withBit (b : Byte) (i : Nat) (v : Bool) : Byte :=
  BitVec.ofNat 8 (if v then setBit b.toNat i else clearBit b.toNat i)

/-- Table 13.3 lists the datagram or segment. -/
def frameServed (s : State) (p : Nat) (f : EthFrame) : Bool :=
  match f.proto with
  | 0 => f.dstPort.toNat = fieldOf s F.SV_UDP_PORT && !f.fragment
  | 1 => f.dstPort.toNat = fieldOf s F.PT_MGMT_PORT
  | 2 => f.dstPort.toNat = 4791
  | 3 => portField s p (F.PT_IPV4_ADDR + p) ≠ 0
  | 4 => true
  | 5 => true
  | _ => false

def cnpGap : Nat := 50000

def qpOf (s : State) (p qp : Nat) : QPair :=
  kget (fun _ => ⟨macRate (portGet s p R.PT_STAT_MODE), none, none, 0⟩) (portOf s p).qps qp

def setQp (s : State) (p qp : Nat) (q : QPair) : State :=
  modPort s p fun x => { x with qps := kput x.qps qp q }

/-- At least 50 µs have passed since an event. -/
def gapOver (s : State) (last : Option Nat) : Bool :=
  match last with
  | none => true
  | some t => t + cnpGap ≤ now s

/-- What a served frame causes at the port die: an answer, or a CNP for a CE-marked packet (R342). -/
def answerFrame (s : State) (p : Fin 2) (f : EthFrame) : State :=
  match f.proto with
  | 2 =>
    let q := qpOf s p.val f.qp.toNat
    if f.ce && gapOver s q.sentCnp then
      sendNet (setQp s p.val f.qp.toNat { q with sentCnp := some (now s) }) p 3 f.qp.toNat
    else s
  | 3 => sendNet s p 0 0
  | 4 => sendNet s p 1 0
  | 5 => sendNet s p 2 0
  | _ => s

/-- XOFF when the occupancy of a lossless priority passes 75 % of the share, XON when it falls below 50 %. -/
def pfcSend (s : State) (p : Fin 2) (prio occ : Nat) : State :=
  let off := tbit (portOf s p.val).xoff.toNat prio
  if losslessShare * 3 / 4 < occ && !off then
    let s := portInc s p.val R.PT_PFC_XOFF_SENT
    sendNet (modPort s p.val fun x => { x with xoff := withBit x.xoff prio true }) p 4 prio
  else if occ < losslessShare / 2 && off then
    sendNet (modPort s p.val fun x => { x with xoff := withBit x.xoff prio false }) p 5 prio
  else s

/-- Every lossless priority against the bytes that the ingress buffer holds of it. -/
def pfcAll (s : State) (p : Fin 2) (held : List Nat) : State :=
  forEach (List.range 8) s fun s prio =>
    if tbit (portField s p.val F.PT_PFC_MASK) prio then pfcSend s p prio ((held[prio]?).getD 0) else s

/-- Bytes that the lossy share holds. -/
def lossyHeld (s : State) (p : Nat) (held : List Nat) : Nat :=
  (held.zipIdx.filter fun e => !(tbit (portField s p F.PT_PFC_MASK) e.2)).foldl (fun a e => a + e.1) 0

/-- The FEC counts of a second of the timebase, and what the ingress buffer holds then. -/
def fecSecondEff (p : Fin 2) (uncorrected corrected : Nat) (held : List Nat) (s : State) : State :=
  if !(isUp s p.val) then s
  else
    let s := pfcAll s p held
    let n := (portOf s p.val).fecRem + corrected
    let s := portInc s p.val R.PT_FEC_UNCORRECTED uncorrected
    let s := portInc s p.val R.PT_FEC_CORRECTED_K (n / 1024)
    let s := modPort s p.val fun x => { x with fecLast := uncorrected, fecRem := n % 1024 }
    if fieldOf s F.PT_FEC_LIMIT < uncorrected then startTraining (portGoesDown s p.val 1) p.val else s

def unserved (s : State) (p : Nat) : State := portInc s p R.PT_DROP_UNSERVED

/-- A frame reaches an up port. -/
def frameEff (p : Fin 2) (f : EthFrame) (s : State) : State :=
  if !(isUp s p.val) then s
  else if !f.fcsOk then portInc s p.val R.PT_DROP_FCS
  else
    match framePrio s p.val f with
    | none => unserved s p.val
    | some prio =>
      if portField s p.val F.PT_MTU < f.ipLen || !(frameServed s p.val f) then unserved s p.val
      else
        let held := f.held.zipIdx.map fun e => if e.2 = prio then e.1 + frameBytesOn f else e.1
        let s := pfcAll s p held
        if !(tbit (portField s p.val F.PT_PFC_MASK) prio) && lossyShare < lossyHeld s p.val held then
          portInc s p.val R.PT_DROP_LOSSY_DROP
        else answerFrame s p f

/-- A received pause is honoured: frames of its priority wait until it ends (R340). -/
def pauseEff (p prio : Nat) (xoff : Bool) (s : State) : State :=
  if !(isUp s p) then s
  else
    let s := if xoff then portInc s p R.PT_PFC_XOFF_RECEIVED else s
    let s := modPort s p fun x => { x with
      paused := withBit x.paused prio xoff
      stormTold := if xoff then x.stormTold else withBit x.stormTold prio false }
    if xoff then s else releasePaused s p prio

def pauseStormEff (p prio : Nat) (s : State) : State :=
  let x := portOf s p
  if !(tbit x.paused.toNat prio) || tbit x.stormTold.toNat prio then s
  else
    let s := modPort s p fun x => { x with stormTold := withBit x.stormTold prio true }
    logPut s 0x0D13 sevWarning (ptSrc s) (p * 2 ^ 31 + prio) (fieldOf s F.PT_PAUSE_STORM_MS) 0

/-! ## RoCEv2 engine (R341, R342) -/

/-- A CNP cuts the queue pair's rate to 7/8, at most once per 50 µs. -/
def cnpEff (p qp : Nat) (s : State) : State :=
  if !(isUp s p) then s
  else
    let s := portInc s p R.PT_RDMA_CNP_RECEIVED
    let q := qpOf s p qp
    if gapOver s q.lastCut then setQp s p qp { q with rate := q.rate * 7 / 8, lastCut := some (now s) } else s

/-- 100 µs without a CNP raise the rate by 5 % of the MAC rate, up to that rate. -/
def rateRaiseEff (p qp : Nat) (s : State) : State :=
  if !(isUp s p) then s
  else
    let mac := macRate (portGet s p R.PT_STAT_MODE)
    let q := qpOf s p qp
    if q.rate < mac then setQp s p qp { q with rate := min mac (q.rate + mac / 20) } else s

/-- An operation that is outstanding on a port. -/
def opOutstanding (s : State) (p : Nat) : RdmaUse → Bool
  | .chunk a b => (portOf s p).chunks.contains (a, b)
  | .pageIn d vpn => (dieOf s d.val).pageIns.any fun e => e.vpn = vpn && e.port = p
  | .pageOut d vpn => (dieOf s d.val).pageOuts.any fun e => e.vpn = vpn && e.port = p && e.waiting.isEmpty

/-- An operation of the engine fails: its user retries it under R317 or R228. -/
def failOp (s : State) (p : Nat) : RdmaUse → State
  | .chunk a b =>
    match wantedAt s p (a, b) with
    | some w => refill (chunkFailed s w 1)
    | none => s
  | .pageIn d vpn => pageInTimeoutEff d vpn false s
  | .pageOut d vpn => pageOutTimeoutEff d vpn 2 s

/-- An acknowledgement is missing: the packet is sent again up to 7 times, then its operation fails. -/
def ackTimeoutEff (p qp : Nat) (again : Bool) (use : RdmaUse) (s : State) : State :=
  if !(isUp s p) || !(opOutstanding s p use) then s
  else
    let q := qpOf s p qp
    let n := if again then q.resends else 0
    if n < 7 then portInc (setQp s p qp { q with resends := n + 1 }) p R.PT_RDMA_RESENDS
    else failOp (setQp s p qp { q with resends := 0 }) p use

/-! ## Life records (R347, R348) -/

/-- CRC-32 of IEEE 802.3. -/
def crc32Byte (c b : Nat) : Nat :=
  (List.range 8).foldl (fun c _ => if c % 2 = 1 then c / 2 ^^^ 0xEDB88320 else c / 2) (c ^^^ b)
def crc32 (l : List Byte) : Nat := (l.foldl (fun c b => crc32Byte c b.toNat) 0xFFFFFFFF) ^^^ 0xFFFFFFFF

/-- Values of eight lanes, 0 for those that a list lacks. -/
def eightLanes (l : List Half) : List Half := (List.range 8).map fun i => (l[i]?).getD 0

/-- The 128 bytes of a record (Table 13.5). -/
def lifeBytes (r : LifeRec) : List Byte :=
  let b := beBytes 16 r.vendor.toNat ++ beBytes 16 r.part.toNat ++ beBytes 16 r.serial.toNat
    ++ leBytes 8 r.first.toNat ++ leBytes 8 r.last.toNat ++ leBytes 4 r.laserS ++ leBytes 2 r.ratedKh
    ++ leBytes 1 r.cage.val ++ leBytes 1 (b2n r.lifeWarned + 2 * b2n r.biasWarned)
    ++ ((eightLanes r.base).map fun x => leBytes 2 x.toNat).flatten
    ++ ((eightLanes r.hour).map fun x => leBytes 2 x.toNat).flatten ++ leBytes 8 r.seq.toNat ++ leBytes 12 0
  b ++ leBytes 4 (crc32 b)

/-- A stored copy whose CRC-32 is valid. -/
def parseLife (b : List Byte) : Option LifeRec :=
  let n (off k : Nat) : Nat := leNat ((b.drop off).take k)
  let text (off : Nat) : BitVec 128 := BitVec.ofNat 128 (beNat ((b.drop off).take 16))
  let lanes (off : Nat) : List Half := (List.range 8).map fun i => BitVec.ofNat 16 (n (off + 2 * i) 2)
  if b.length ≠ 128 || crc32 (b.take 124) ≠ n 124 4 then none
  else some
    { vendor := text 0, part := text 16, serial := text 32, first := BitVec.ofNat 64 (n 48 8)
      last := BitVec.ofNat 64 (n 56 8), laserS := n 64 4, ratedKh := n 68 2, cage := Fin.ofNat 2 (n 70 1)
      lifeWarned := tbit (n 71 1) 0, biasWarned := tbit (n 71 1) 1, base := lanes 72, hour := lanes 88
      seq := BitVec.ofNat 64 (n 104 8) }

def noBytes : Nat → List Byte := fun _ => []

/-- A record: of its two copies the valid one of the higher sequence number (R347). -/
def lifeOf (s : State) (i : Nat) : Option LifeRec :=
  match parseLife (kget noBytes s.store.life0 i), parseLife (kget noBytes s.store.life1 i) with
  | some a, some b => some (if a.seq < b.seq then b else a)
  | some a, none => some a
  | none, b => b

/-- A record is written to flash device 0 and then to flash device 1. -/
def setLife (s : State) (i : Nat) (r : LifeRec) : State :=
  let b := lifeBytes r
  modStore s fun x => { x with life0 := kset noBytes x.life0 i b, life1 := kset noBytes x.life1 i b }

def lifeRecords : Nat := 64
def lifeHours (r : LifeRec) : Nat := r.laserS / 3600

/-- Records of the installed modules. -/
def installed (s : State) : List Nat :=
  ([0, 1].filter fun p => portGet s p R.PT_OPT_STAT_PRESENT = 1).map fun p => portGet s p R.PT_OPT_STAT_RECORD

/-- The record to replace when all are in use: of those not installed, the one of the oldest LAST_STAMP. -/
def oldestLife (s : State) : Nat :=
  let l := (List.range lifeRecords).filterMap fun i =>
    if (installed s).contains i then none else (lifeOf s i).map fun r => (i, r.last.toNat % 2 ^ 63)
  ((l.foldl (fun (a : Option (Nat × Nat)) e => match a with
    | none => some e
    | some b => if e.2 < b.2 then some e else some b) none).map (·.1)).getD 0

/-- The index of a module's record, and the record: found by vendor and serial, else created. -/
def lifeFor (s : State) (p : Fin 2) (i : ModuleInfo) : Nat × LifeRec :=
  let found := (List.range lifeRecords).findSome? fun k =>
    (lifeOf s k).bind fun r => if r.vendor = i.vendor && r.serial = i.serial then some (k, r) else none
  match found with
  | some (k, r) => (k, { r with cage := p })
  | none =>
    let k := ((List.range lifeRecords).find? fun k => (lifeOf s k).isNone).getD (oldestLife s)
    (k, { vendor := i.vendor, part := i.part, serial := i.serial, first := stamp s, last := stamp s, laserS := 0
          ratedKh := portField s p.val F.OPT_LIFE_DEFAULT_KH, cage := p, lifeWarned := false, biasWarned := false
          base := [], hour := [], seq := 0 })

/-- The registers that show the record of an installed module. -/
def showLife (s : State) (p k : Nat) : State :=
  match lifeOf s k with
  | none => s
  | some r =>
    let s := portSet s p R.PT_OPT_STAT_RECORD k
    let s := portSet s p R.PT_OPT_STAT_LIFE_WARN (b2n r.lifeWarned)
    let s := portSet s p R.PT_OPT_STAT_BIAS_WARN (b2n r.biasWarned)
    let s := portSet s p R.PT_OPT_HOURS_HOURS (lifeHours r)
    portSet s p R.PT_OPT_HOURS_RATED_KH r.ratedKh

/-- Laser-on seconds that a record did not hold yet join it. -/
def addLaser (r : LifeRec) (sec : Nat) : LifeRec := { r with laserS := min (r.laserS + sec) (2 ^ 32 - 1) }

/-- The record of a port's module is written with the next sequence number. -/
def writeLife (s : State) (p : Nat) (f : LifeRec → LifeRec) : State :=
  let k := portGet s p R.PT_OPT_STAT_RECORD
  match lifeOf s k with
  | none => s
  | some r => showLife (setLife s k { f r with last := stamp s, seq := r.seq + 1 }) p k

/-- The write at a removal carries the final count; with the hourly write of the same second it is one write
(Table 13.6). -/
def finalLife (s : State) (p : Nat) : State :=
  let k := portGet s p R.PT_OPT_STAT_RECORD
  let (sec, s) := takeLaser s p
  match lifeOf s k with
  | none => s
  | some r =>
    let same : Bool := r.last.toNat % 2 ^ 63 / 1000000000 = now s / 1000000000
    showLife (setLife s k { addLaser r sec with last := stamp s, seq := if same then r.seq else r.seq + 1 }) p k

/-- After a module reset the optics registers show the record that the cage had last (Tables 13.14, 13.15). -/
def showCage (s : State) (p : Nat) : State :=
  let l := (List.range lifeRecords).filterMap fun i =>
    (lifeOf s i).bind fun r => if r.cage.val = p then some (r.last.toNat % 2 ^ 63, r) else none
  match l.foldl (fun (a : Option (Nat × LifeRec)) e => match a with
    | none => some e
    | some b => if b.1 < e.1 then some e else some b) none with
  | none => s
  | some (_, r) =>
    let s := portSet s p R.PT_OPT_STAT_LIFE_WARN (b2n r.lifeWarned)
    let s := portSet s p R.PT_OPT_STAT_BIAS_WARN (b2n r.biasWarned)
    let s := portSet s p R.PT_OPT_HOURS_HOURS (lifeHours r)
    portSet s p R.PT_OPT_HOURS_RATED_KH r.ratedKh

/-! ## Optical modules (R345, R346) -/

/-- CMIS revisions that the device manages. -/
def cmisOk (i : ModuleInfo) : Bool := 5 ≤ i.cmis.toNat / 16

/-- The module reports ready at high power: a waiting training goes on, and a port that stays down trains. -/
def becomeReady (s : State) (p : Nat) : State :=
  let s := portSet s p R.PT_OPT_STAT_READY 1
  if isUp s p then s else if (portOf s p).attempt.isSome then selectAttempt s p else startTraining s p

/-- A module becomes present (R345). -/
def insertModule (s : State) (p : Fin 2) (i : ModuleInfo) : State :=
  let (k, r) := lifeFor s p i
  let s := portSet s p.val R.PT_OPT_STAT_PRESENT 1
  let s := portSet s p.val R.PT_OPT_STAT_CMIS_REV i.cmis.toNat
  let s := modPort s p.val fun x => { x with moduleIn := some i, missed := 0, modFlags := 0, laneFlags := 0 }
  if !(cmisOk i) then optUnsupported s p.val 0 i
  else
    let s := showLife (setLife s k r) p.val k
    let s := logPut s 0x0D14 sevNotice (ptSrc s) (p.val * 2 ^ 31 + k) i.cmis.toNat (lifeHours r)
    let s := askPower s p.val
    if i.ready then becomeReady s p.val else s

/-- A module counts as removed: its port goes down, its record is written, OPT_REMOVED (R345, Table 13.6). -/
def removeModule (s : State) (p : Nat) (i : ModuleInfo) : State :=
  let s := if isUp s p then portGoesDown s p 2
    else if (portOf s p).attempt.isSome then ptDownLog s p 2 else s
  let s := if cmisOk i then finalLife s p else s
  let k := portGet s p R.PT_OPT_STAT_RECORD
  let hours := portGet s p R.PT_OPT_HOURS_HOURS
  let s := forgetModule (clearOptics s p) p
  logPut s 0x0D15 sevNotice (ptSrc s) (p * 2 ^ 31 + k) hours 0

def missedPolls : Nat := 3

/-- The poll of a module bus. -/
def modulePollEff (p : Fin 2) (answer : Option ModuleInfo) (s : State) : State :=
  if !(portOn s p.val) then s
  else
    match (portOf s p.val).moduleIn, answer with
    | none, none => s
    | none, some i => insertModule s p i
    | some i, none =>
      let n := (portOf s p.val).missed + 1
      if n < missedPolls then modPort s p.val fun x => { x with missed := n } else removeModule s p.val i
    | some i, some j =>
      let s := modPort s p.val fun x => { x with missed := 0 }
      let was : Bool := portGet s p.val R.PT_OPT_STAT_READY = 1
      if !(cmisOk i) || j.ready = was then s
      else if j.ready then becomeReady s p.val
      else portSet s p.val R.PT_OPT_STAT_READY 0

/-- The wait for a ready module times out; it is retried after PT_RETRY_S. -/
def readyTimeoutEff (p : Nat) (s : State) : State :=
  match (portOf s p).moduleIn with
  | none => s
  | some i =>
    if !(cmisOk i) || portGet s p R.PT_OPT_STAT_READY = 1 then s
    else modPort (optUnsupported s p 2 i) p fun x => { x with retryAt := true }

/-- The monitors of a second: one entry for each change of the flags. -/
def monitorEff (p : Nat) (modFlags laneFlags : Word) (s : State) : State :=
  let x := portOf s p
  if !(portOn s p) || x.moduleIn.isNone || (x.modFlags = modFlags && x.laneFlags = laneFlags) then s
  else
    let s := modPort s p fun x => { x with modFlags := modFlags, laneFlags := laneFlags }
    logPut s 0x0D19 sevNotice (ptSrc s) (p * 2 ^ 31 + portGet s p R.PT_OPT_STAT_RECORD) modFlags.toNat laneFlags.toNat

/-- A full laser-on hour, in seconds. -/
def hourS : Nat := 3600

/-- OPT_LIFE_WARN once, when the laser-on hours reach the limit. -/
def warnLife (s : State) (p : Nat) : State :=
  let k := portGet s p R.PT_OPT_STAT_RECORD
  match lifeOf s k with
  | none => s
  | some r =>
    if r.lifeWarned || lifeHours r * 100 < portField s p F.OPT_WARN_PERCENT * 1000 * r.ratedKh then s
    else
      let s := showLife (setLife s k { r with lifeWarned := true }) p k
      logPut s 0x0D17 sevWarning (ptSrc s) (p * 2 ^ 31 + k) (lifeHours r) (1000 * r.ratedKh)

/-- OPT_BIAS_WARN for each lane above the module's threshold; the warning clears with every lane below it. -/
def warnBias (s : State) (p : Nat) : State :=
  let k := portGet s p R.PT_OPT_STAT_RECORD
  match lifeOf s k, (portOf s p).moduleIn.bind (·.biasWarn) with
  | some r, some limit =>
    let above := r.hour.zipIdx.filter fun e => limit < e.1
    if above.isEmpty then
      if r.biasWarned && r.hour.all (· < limit) then
        showLife (setLife s k { r with biasWarned := false }) p k
      else s
    else
      let s := showLife (setLife s k { r with biasWarned := true }) p k
      forEach above s fun s e =>
        logPut s 0x0D18 sevWarning (ptSrc s) (p * 2 ^ 31 + e.2 % 8 * 2 ^ 8 + k) e.1.toNat limit.toNat
  | _, _ => s

/-- The hourly write: laser-on seconds of the hour and the mean bias of each lane; the OPT_ fields apply from here
(R347, R348, R350). -/
def lifeHourEff (p : Nat) (bias : List Half) (s : State) : State :=
  let s := latchFields s p opticFields
  match if portOn s p then (portOf s p).moduleIn else none with
  | none => s
  | some i =>
    if !(cmisOk i) then s
    else
      let (sec, s) := takeLaser s p
      let s := writeLife s p fun r => { addLaser r sec with
        hour := eightLanes bias
        base := if r.base.all (· = 0) && hourS ≤ sec then eightLanes bias else r.base }
      warnBias (warnLife s p) p

def opOpticsSet : Nat := 0x001A

/-- Management sets a record's hours and rated life; the life warning ends (R348). -/
def opticsSetEff (m : Mgmt) (k hours ratedKh : Nat) : State → State :=
  mgmtOp isReady opOpticsSet m fun s =>
    if lifeRecords ≤ k then reply s m opOpticsSet stMalformed []
    else
      match lifeOf s k with
      | none => reply s m opOpticsSet stNoTarget []
      | some r =>
        let s := setLife s k { r with
          laserS := min (hours * hourS) (2 ^ 32 - 1), ratedKh := ratedKh, lifeWarned := false, seq := r.seq + 1 }
        let s := forEach [0, 1] s fun s p =>
          if portGet s p R.PT_OPT_STAT_PRESENT = 1 && portGet s p R.PT_OPT_STAT_RECORD = k then showLife s p k else s
        reply s m opOpticsSet stDone []

/-! ## The commands -/

def execPortTraining (p : Fin 2) (lanes : Byte) (aligned : Bool) (ms : Word) (s : State) : Res :=
  .next (endAttempt p.val lanes.toNat ms.toNat aligned s)
def execTrainAttemptTimeout (p : Fin 2) (lanes : Byte) (s : State) : Res :=
  .next (endAttempt p.val lanes.toNat 0 false s)
def execPortRetry (p : Fin 2) (s : State) : Res := .next (portRetryEff p.val s)
def execPcsAlignLoss (p : Fin 2) (s : State) : Res := .next (pcsLossEff p.val s)
def execFecSecond (p : Fin 2) (fec : FecCounts) (held : List Nat) (s : State) : Res :=
  .next (fecSecondEff p fec.uncorrected fec.corrected held s)
def execEthFrameReceive (p : Fin 2) (f : EthFrame) (s : State) : Res := .next (frameEff p f s)
def execPfcPauseReceive (p : Fin 2) (prio : BitVec 3) (xoff : Bool) (s : State) : Res :=
  .next (pauseEff p.val prio.toNat xoff s)
def execPauseStorm (p : Fin 2) (prio : BitVec 3) (s : State) : Res := .next (pauseStormEff p.val prio.toNat s)
def execCnpReceive (p : Fin 2) (qp : Byte) (s : State) : Res := .next (cnpEff p.val qp.toNat s)
def execRdmaRateRaise (p : Fin 2) (qp : Byte) (s : State) : Res := .next (rateRaiseEff p.val qp.toNat s)
def execRdmaAckTimeout (p : Fin 2) (qp : Byte) (packet : RdmaPacket) (s : State) : Res :=
  .next (ackTimeoutEff p.val qp.toNat packet.again packet.op s)
def execModulePoll (p : Fin 2) (answer : Option ModuleInfo) (s : State) : Res := .next (modulePollEff p answer s)
def execModuleReadyTimeout (p : Fin 2) (s : State) : Res := .next (readyTimeoutEff p.val s)
def execModuleMonitor (p : Fin 2) (modFlags laneFlags : Word) (s : State) : Res :=
  .next (monitorEff p.val modFlags laneFlags s)
def execLifeRecordHourly (p : Fin 2) (lanes : Nat) (bias : List Half) (s : State) : Res :=
  .next (lifeHourEff p.val (bias.take lanes) s)
def execOpticsRecordSet (m : Mgmt) (rec : Byte) (hours : Word) (ratedKh : Half) (s : State) : Res :=
  .next (opticsSetEff m rec.toNat hours.toNat ratedKh.toNat s)
def execPortReset (p : Fin 2) (s : State) : Res := .next (resetPort s p.val)
def execRetrain (p : Fin 2) (s : State) : Res := .next (retrainPort s p.val)

end Sys2Proof.Machine
end

