-- ==== Sys2Proof/Machine/PlaneOps.lean ====
section
/-! DEFINITION. The compute plane as a whole: its work in flight is discarded (R431), its tile rails go off and
on (R358, R434), its contexts restart (R326), and it enters Hold and Rest (R437, R438). -/
namespace Sys2Proof.Machine

/-! ## Power states (Table 18.3) -/

def psRun : Nat := 0
def psDoze : Nat := 1
def psHold : Nat := 2
def psRest : Nat := 3
def psReset : Nat := 4

def powerState (s : State) : Nat := pget s R.RS_STAT_STATE

/-- Every wave group in flight is discarded as a step is under R259; a context that is being unloaded ends its
sequences instead. -/
def discardPlane (s : State) : State :=
  forEach allCtx s fun s c =>
    if (ctxOf s c.val).isNone then s
    else if ctxState s c.val = 4 then cutUnload s c.val
    else discardAll s c

/-! ## Tile rails -/

/-- RAIL of MITTEN_TILE (Table 14.9). -/
def railOff : Nat := 0
def railTurning : Nat := 1
def railIsOn : Nat := 2
def railIsolated : Nat := 3

/-- A tile without its rail: state, stores and the registers of R434 are gone. -/
def coldOne (s : State) (t : Tid) : State :=
  let s := resetTile (abandonSlice s t) t
  if tget s t R.MITTEN_TILE_RAIL = railIsolated then s else tset s t R.MITTEN_TILE_RAIL railOff

/-- Every tile rail of a die is off; pending and granted turn-ons are void. -/
def dieRailsOff (s : State) (d : Fin 56) : State :=
  modDie (forEach (tilesOfDie d) s coldOne) d.val fun x => { x with turnOns := [], breaches := [] }

def railsOff (s : State) : State := forEach allDies s dieRailsOff

/-- A die turns its tiles on in ascending t (R358); a dark tile's rail stays isolated. -/
def dieRailsOn (s : State) (d : Fin 56) : State :=
  forEach (tilesOfDie d) s fun s t =>
    if roleOf s t = roleDark || tget s t R.MITTEN_TILE_RAIL = railIsolated then
      tset s t R.MITTEN_TILE_RAIL railIsolated
    else freshWindow (tset s t R.MITTEN_TILE_RAIL railIsOn) t

def railsOn (s : State) : State :=
  forEach allDies s fun s d => if dieOn s d.val && dieUp s d.val then dieRailsOn s d else s

/-! ## Restart of the contexts (R326) -/

/-- A context that was in a replacement is loaded in full from the new entry. -/
def reloadNew (s : State) (c : Fin 4) (x : Context) (r : Replacing) : State :=
  let chunks := chunksOfRows (usedWeights (templateOf x r.image) x.dies.length)
  let x := { x with
    image := r.image, manifest := r.manifest, entry := r.entry, keys := r.keys, heads := r.heads
    sigSkipped := r.sigSkipped, replacing := none, left := chunks, total := chunks.length, tries := [], refetch := []
    since := now s }
  let version := (pget s (R.CTX_VERSION_VERSION.at c.val 16) + 1) % 2 ^ 32
  let s := pset (setCtx s c.val (some x)) (R.CTX_VERSION_VERSION.at c.val 16) version
  let s := pset (setCtxState s c.val 1) (R.CTX_STAT_ENTRY.at c.val 16) r.entry
  let s := programAll (setProgress s c.val 0 0) c.val x
  if chunks.isEmpty then startServing s c else s

/-- One context restarts with the weights of its stack; a load that waited goes on from step 10 (Table
18.5). -/
def restartCtx (s : State) (c : Fin 4) : State :=
  match ctxOf s c.val with
  | none => s
  | some x =>
    if ctxState s c.val = 1 then programAll s c.val x
    else
      match x.replacing with
      | some r => if ctxState s c.val = 3 then reloadNew s c x r else s
      | none => if ctxServing s c.val then runSlices (programAll s c.val x) c x else s

/-- Tiles on, and every context restarted; each discarded step waits at layer 0 (R431 steps 3 and 4). -/
def restartPlane (s : State) : State :=
  refill (modPlane (forEach allCtx (railsOn s) restartCtx) fun p => { p with fwCheck := true })

/-! ## Hold (R437) -/

/-- A replacement in progress goes on after Hold at its unit (Table 18.5): its chunks are wanted anew and the
tiles run the version that the unit order gives. -/
def resumeCtx (s : State) (c : Fin 4) : State :=
  match ctxOf s c.val with
  | none => s
  | some x =>
    if ctxState s c.val = 3 then runSlices (programAll s c.val x) c x else restartCtx s c

/-- The compute plane enters Hold: work in flight is discarded, the tile rails turn off, the loader pauses. -/
def enterHold (s : State) (cause : Nat) : State :=
  if powerState s = psHold || powerState s = psRest then s
  else
    let s := railsOff (discardPlane s)
    let s := modLoader s fun l => { l with paused := true }
    let s := modPlane s fun p => { p with dozing := false, dozeDone := false, autoDozed := false }
    planeState s psHold cause

/-- The compute plane leaves Hold; while a compute-plane reset still holds the tiles off, its end performs the
restart. -/
def leaveHold (s : State) (cause : Nat) : State :=
  let s := modLoader s fun l => { l with paused := false }
  if s.plane.cpHeld then planeState s psReset cause
  else
    refill (modPlane (forEach allCtx (railsOn (planeState s psRun cause)) resumeCtx) fun p => { p with fwCheck := true })

/-! ## Rest (R438) -/

/-- A key of a VALID field of a die's converters, diodes or stack sensors. -/
def isValidKey (k : Nat) : Bool :=
  (keyBlk k = R.ADC_RAW0_VALID.blk && R.ADC_RAW0_VALID.off ≤ keyOff k && keyLo k = R.ADC_RAW0_VALID.lo)
    || [R.TH_DIODE_A_VALID, R.TH_DIODE_B_VALID, R.TH_STACK_HI_VALID, R.TH_STACK_LO_VALID, R.TH_STACK_HI_VALID.at 1,
      R.TH_STACK_LO_VALID.at 1].any fun f => keyBlk k = f.blk && keyOff k = f.off && keyLo k = f.lo

/-- Readings of a die's converters are not valid any more (R400). -/
def adcOff (s : State) (d : Nat) : State :=
  { s with regs := s.regs.filter fun e => !(keyDie e.1 = d && isValidKey e.1) }

/-- A die without its input: rails off, mesh domains with what they hold, stack contents lost, readings not valid
(R189). -/
def darkDie (s : State) (d : Fin 56) (site : Nat) : State :=
  let s := forEach (tilesOfDie d) s fun s t => modTile s t fun ts => { ts with
    crossings := [], staging := [], granted := [], routes := [], mcast := [] }
  let s := adcOff (clearStack (dieRailsOff s d) d.val) d.val
  dset s d.val R.PW_DIE_STAT_SITE site

def siteOff : Nat := 0
def siteOn : Nat := 2
def siteTripped : Nat := 3

/-- Every site converter shuts down; a tripped one stays latched. -/
def sitesOff (s : State) : State :=
  modPlane (forEach allDies s fun s d =>
    if dget s d.val R.PW_DIE_STAT_SITE = siteTripped then s else darkDie s d siteOff) fun p =>
      { p with powered := false, dozing := false, dozeDone := false, autoDozed := false }

/-- Live sequences of the device. -/
def liveCount (s : State) : Nat := (s.serving.seqs.filter isLive).length

/-- Every live sequence ends with a device error, every kept one is released, and every context stops. -/
def stopAll (s : State) (code : Nat) : State :=
  let s := forEach (s.serving.seqs.filter isLive) s fun s q => endSeq s q 6 code
  let s := forEach allCtx s fun s c =>
    if ctxState s c.val = 1 then abandonLoad s c.val 0
    else if ctxState s c.val = 4 then dropGroups s c.val
    else stopContext s c.val code
  forEach (s.serving.seqs.filter fun q => q.kept) s releaseKept

/-- From another state to Rest. -/
def toRest (s : State) (code cause : Nat) : State :=
  let s := sitesOff (stopAll s code)
  let s := modLoader s fun l => { l with paused := true }
  planeState s psRest cause

/-- The device enters Rest. -/
def enterRest (s : State) (code cause : Nat) : State := if powerState s = psRest then s else toRest s code cause

/-! ## Loss of power -/

/-- What a module holds from VAUX12 on (R405, R439): the flash and MRAM keep their contents, and the input pins
and VIN48 stay what the baseboard makes them. -/
def coldState (s : State) : State :=
  { State.reset with
    store := { s.store with overflow := [] }
    pins := { Pins.reset with
      modResetN := s.pins.modResetN, cpResetN := s.pins.cpResetN, pgIn := s.pins.pgIn }
    plant := { Plant.reset with vinLow := s.plant.vinLow, vinLost := s.plant.vinLost }
    plane := { Plane.reset with
      freeCounter := s.plane.freeCounter, run := s.plane.run, runFrom := s.plane.run, peakFrom := s.plane.run }
    out := s.out, pending := s.pending }

end Sys2Proof.Machine
end

