-- ==== Sys2Proof/Machine/Power.lean ====
section
/-! DEFINITION. Power delivery: the die power budget (R356, R357), single turn-ons of tile rails (R358 to R360),
phase failures, rail shorts and die trips (R361 to R365), and the supplies (R366, R491, R494). -/
namespace Sys2Proof.Machine

/-! ## Die power budget (R356, R357) -/

/-- B_c and B_p in W. -/
def budgetCont (s : State) : Nat := fieldOf s F.PW_DIE_CONT_W
def budgetPeak (s : State) : Nat := max (fieldOf s F.PW_DIE_PEAK_W) (budgetCont s)

/-- Measurements of 10 µs in the mean P1 and in one second. -/
def meanSamples : Nat := 100
def secondSamples : Nat := 100000
/-- Measurements between the governor's cuts: 100 µs. -/
def cutSamples : Nat := 10

def sumNat (l : List Nat) : Nat := l.foldl (· + ·) 0

/-- P1 exceeds a number of W. -/
def powerAbove (hist : List Nat) (w : Nat) : Bool := w * hist.length < sumNat hist

/-- P1 in whole W. -/
def meanPower (hist : List Nat) : Nat := if hist.isEmpty then 0 else sumNat hist / hist.length

/-- The runs of the last `n` measurements. -/
def takeRuns : Nat → List (Nat × Nat) → List (Nat × Nat)
  | _, [] => []
  | n, (f, k) :: r => if n = 0 then [] else if n ≤ k then [(f, n)] else (f, k) :: takeRuns (n - k) r

/-- One more measurement in front of the runs. -/
def pushRun (f : Nat) : List (Nat × Nat) → List (Nat × Nat)
  | (g, k) :: r => if g = f then (g, k + 1) :: r else (f, 1) :: (g, k) :: r
  | [] => [(f, 1)]

/-- Measurements above B_c among the runs. -/
def overSamples (l : List (Nat × Nat)) : Nat := l.foldl (fun a e => a + if e.1 = 1 then e.2 else 0) 0

/-- Tiles of a die whose rail is on. -/
def litTiles (s : State) (d : Fin 56) : List Tid := (tilesOfDie d).filter (railOn s)

def budgetHeld (s : State) (d : Fin 56) : Bool :=
  (tilesOfDie d).any fun t => (tileOf s t).caps.budget < 15

/-- One cut: the BUDGET cap of every tile at the die's highest effective step goes one step below it, at
once. -/
def budgetCut (s : State) (d : Fin 56) : State :=
  let top := (litTiles s d).foldl (fun a t => max a (effStep s t)) 0
  if top = 0 then s
  else
    let s := forEach ((litTiles s d).filter fun t => effStep s t = top) s fun s t =>
      withCaps s t fun c => { c with budget := top - 1 }
    dset s d.val R.PW_DIE_STAT_BUDGET_CAP 1

/-- A cut of the governor; the first of an episode is logged and counted. -/
def governorCut (s : State) (d : Fin 56) : State :=
  let s := budgetCut s d
  if (dieOf s d.val).budgetEpisode || !(budgetHeld s d) then s
  else
    let low := (tilesOfDie d).foldl (fun a t => min a (tileOf s t).caps.budget) 15
    let s := modDie (dinc s d.val R.PW_DIE_STAT_CAP_EPISODES) d.val fun x => { x with budgetEpisode := true }
    logPut s 0x0E13 sevNotice (.die d.val) d.val (meanPower (dieOf s d.val).powerHist) low

/-- The measurements of the last 1 ms with one more, and the runs of the last second with it. -/
def histWith (s : State) (d : Fin 56) (watts : Nat) : List Nat :=
  (watts :: (dieOf s d.val).powerHist).take meanSamples
def runsWith (s : State) (d : Fin 56) (watts : Nat) : List (Nat × Nat) :=
  takeRuns secondSamples (pushRun (b2n (powerAbove (histWith s d watts) (budgetCont s))) (dieOf s d.val).overHist)

/-- The governor's condition, with one more measurement. -/
def overBudget (s : State) (d : Fin 56) (watts : Nat) : Bool :=
  powerAbove (histWith s d watts) (budgetPeak s) || powerAbove (histWith s d watts) (budgetCont s)
    && decide (100 * fieldOf s F.PW_PEAK_MS ≤ overSamples (takeRuns secondSamples (dieOf s d.val).overHist))

/-- 100 µs have passed since the last cut, or there was none. -/
def cutDue (s : State) (d : Fin 56) : Bool := (dieOf s d.val).lastCut = 0 || (dieOf s d.val).lastCut = cutSamples

/-- A measurement is taken into the die's power registers. -/
def noteMeasure (s : State) (d : Fin 56) (watts : Nat) : State :=
  let hist := histWith s d watts
  let runs := runsWith s d watts
  let last := if !(overBudget s d watts) then 0 else if cutDue s d then 1 else (dieOf s d.val).lastCut + 1
  let above := b2n (powerAbove hist (budgetCont s))
  let s := modDie s d.val fun x => { x with powerHist := hist, overHist := runs, lastCut := last }
  let s := dset s d.val R.PW_DIE_POWER_MEAN_W (min (meanPower hist) 65535)
  let s := rmax s d.val dieScope R.PW_DIE_POWER_PEAK_W (meanPower hist)
  let s := dset s d.val R.PW_DIE_STAT_OVER_CONT above
  dset s d.val R.PW_DIE_STAT_PEAK_MS (min (overSamples runs / 100) 255)

/-- A measurement of a die's input power. -/
def powerMeasureEff (d : Fin 56) (watts : Nat) (s : State) : State :=
  if !(dieOn s d.val) then s
  else if overBudget s d watts && cutDue s d then governorCut (noteMeasure s d watts) d
  else noteMeasure s d watts

/-- P1 has stayed below 0.95 × B_c: every BUDGET cap rises by one step. -/
def budgetLiftEff (d : Fin 56) (s : State) : State :=
  let hist := (dieOf s d.val).powerHist
  if !(dieOn s d.val) || hist.isEmpty || 95 * budgetCont s * hist.length ≤ 100 * sumNat hist then s
  else
    let s := forEach ((tilesOfDie d).filter fun t => (tileOf s t).caps.budget < 15) s fun s t =>
      modTile s t fun ts => { ts with caps := { ts.caps with budget := ts.caps.budget + 1 } }
    if budgetHeld s d then s
    else modDie (dset s d.val R.PW_DIE_STAT_BUDGET_CAP 0) d.val fun x => { x with budgetEpisode := false }

/-! ## Turning a tile rail on (R358 to R360) -/

/-- The spans of a turn-on in µs. -/
def spans : List Nat := [8, 16, 32, 64, 128, 200]

/-- n(s) in mA: 2.2 A + 5.6 A × 8 / s. -/
def needMa (span : Nat) : Nat := 2200 + 44800 / span

/-- The tile's segment: the tile and its neighbours on the die (R359). -/
def segment (t : Tid) : List Tid :=
  t :: ((allDirs.filterMap (neighbour t)).filter fun n => n.d = t.d)

/-- Grants outstanding on tiles of a die, in mA. -/
def outstanding (s : State) (d : Nat) (p : Nat → Bool) : Nat :=
  sumNat ((dieOf s d).turnOns.filterMap fun e => if p e.tile then e.span.map needMa else none)

/-- Both checks of R359 for a span; currents in units of 0.1 A. -/
def spanFits (s : State) (t : Tid) (segDa dieDa span : Nat) : Bool :=
  let seg := segment t
  let out := outstanding s t.d.val fun i => seg.any fun n => n.t.val = i
  let all := outstanding s t.d.val fun _ => true
  segDa * 100 + out + needMa span ≤ fieldOf s F.PW_LOCAL_A * 1000
    && 18 * (dieDa * 100 + all + needMa span) ≤ budgetPeak s * 10000

/-- The shortest span that passes. -/
def shortestSpan (s : State) (t : Tid) (segDa dieDa : Nat) : Option Nat :=
  spans.find? (spanFits s t segDa dieDa)

def modTurnOn (s : State) (t : Tid) (f : TurnOn → TurnOn) : State :=
  modDie s t.d.val fun x => { x with turnOns := x.turnOns.map fun e => if e.tile = t.t.val then f e else e }

/-- A grant: the rail turns on over the span. -/
def grantSpan (s : State) (t : Tid) (since span : Nat) (capped : List Nat) : State :=
  let s := modTurnOn s t fun e => { e with span := some span, capped := capped }
  let s := rmax s t.d.val dieScope R.PW_GRANT_STAT_WAIT_MAX ((now s - since) / 1000)
  tset s t R.MITTEN_TILE_RAIL railTurning

/-- The tile's rail is to be on: no reset or state holds it off. -/
def mayTurnOn (s : State) (t : Tid) : Bool :=
  dieOn s t.d.val && roleOf s t ≠ roleDark && tget s t R.MITTEN_TILE_RAIL = railOff && !s.plane.cpHeld
    && powerState s ≤ psDoze

/-- A turn-on is requested: granted at once when it passes and none waits before it. -/
def turnOnEff (t : Tid) (segDa dieDa : Nat) (s : State) : State :=
  if !(mayTurnOn s t) || (dieOf s t.d.val).turnOns.any (fun e => e.tile = t.t.val) then s
  else
    let waits := (dieOf s t.d.val).turnOns.any fun e => e.span.isNone
    let s := modDie s t.d.val fun x => { x with turnOns := x.turnOns ++ [⟨t.t.val, now s, none, []⟩] }
    if waits then s
    else
      match shortestSpan s t segDa dieDa with
      | some n => grantSpan s t (now s) n []
      | none => s

/-- The oldest pending turn-on of a die. -/
def oldestTurnOn (s : State) (d : Fin 56) : Option TurnOn :=
  (dieOf s d.val).turnOns.find? fun e => e.span.isNone

def grantRetestEff (d : Fin 56) (segDa dieDa : Nat) (s : State) : State :=
  match oldestTurnOn s d with
  | none => s
  | some e =>
    let t : Tid := ⟨d, tileNo e.tile⟩
    match shortestSpan s t segDa dieDa with
    | some n => grantSpan s t e.since n []
    | none => s

/-- The wait has lasted PW_GRANT_WAIT_MS: the neighbours take the TURN_ON cap, and the grant is given; the
currents are those of 10 µs after the cuts (R360). -/
def grantExpiryEff (t : Tid) (segDa dieDa : Nat) (s : State) : State :=
  match oldestTurnOn s t.d with
  | none => s
  | some e =>
    if e.tile ≠ t.t.val then s
    else
      let near := ((segment t).drop 1).filter (railOn s)
      let s := forEach near s fun s n =>
        withCaps s n fun c => { c with turnOn := min c.turnOn (effStep s n - 1) }
      let s := grantSpan s t e.since ((shortestSpan s t segDa dieDa).getD 200) (near.map fun n => n.t.val)
      let s := dinc s t.d.val R.PW_GRANT_STAT_CAPPED
      logPut s 0x0E14 sevNotice (.tile t) (widx t * 2 ^ 16) ((now s - e.since) / 1000) near.length

/-- The rail has settled: the turn-on ends and the tile runs at step 0. -/
def turnOnSettledEff (t : Tid) (s : State) : State :=
  match (dieOf s t.d.val).turnOns.find? fun e => e.tile = t.t.val with
  | none => s
  | some e =>
    match e.span with
    | none => s
    | some n =>
      let s := freshWindow (tset (endTurnOn s t) t R.MITTEN_TILE_RAIL railIsOn) t
      let s := tset s t R.MITTEN_TILE_LAST_SPAN n
      let s := tinc s t R.MITTEN_EVENTS_TURN_ONS
      if 8 < n then tinc s t R.MITTEN_EVENTS_SPREAD else s

/-! ## Phases, shorts and trips -/

/-- Largest step by failed phases (Table 14.3). -/
def maxStepOf (failed : Nat) : Nat := if failed = 0 then 15 else if failed = 1 then 14 else 12

def phaseFailed (s : State) (t : Tid) (p : Nat) : Bool := tget s t (R.MITTEN_STAT_FAILED.at p) = 1

def failedPhases (s : State) (t : Tid) : Nat := ((List.range 16).filter (phaseFailed s t)).length

/-- The rail is isolated: headers and every series switch open; the tile goes dark and its Bowler is to fence
it. -/
def isolateRail (s : State) (t : Tid) (cause deciAmps : Nat) (why : FenceCause) : State :=
  let s := tset (endTurnOn s t) t R.MITTEN_TILE_RAIL railIsolated
  let s := forEach (List.range 16) s fun s p => tset s t (R.MITTEN_STAT_ISOLATED.at p) 1
  let s := modTile s t fun ts => { ts with fencePend := some why, raise := none, settled := true }
  let s := logPut s 0x0E11 sevError (.tile t) (widx t * 2 ^ 16) cause deciAmps
  leaveEpisode s t

/-- A rail that has power: on, or turning on. -/
def railLive (s : State) (t : Tid) : Bool :=
  dieOn s t.d.val
    && (tget s t R.MITTEN_TILE_RAIL = railIsOn || tget s t R.MITTEN_TILE_RAIL = railTurning)

/-- Phases of a mitten fail, together (R361, R362); CAUSE as Table 14.12 numbers it. -/
def failPhases (s : State) (t : Tid) (phases : List Nat) (cause : Nat) : State :=
  let new := (phases.filter fun p => !(phaseFailed s t p)).eraseDups
  if new.isEmpty then s
  else
    let s := forEach new s fun s p =>
      let s := tset s t (R.MITTEN_STAT_FAILED.at p) 1
      let s := tset s t (R.MITTEN_STAT_ISOLATED.at p) 1
      let s := tset s t (R.MITTEN_STAT_CAUSE.at p) cause
      rmAdd (tinc s t R.MITTEN_EVENTS_PHASE_FAULTS) 0x03 t.d.val (16 * t.t.val + p) cause
    let n := failedPhases s t
    let dark : Bool := 3 ≤ n
    let s := tset s t R.MITTEN_TILE_PHASES_OK (16 - n)
    let s := tset s t R.MITTEN_TILE_MAX_STEP (if dark then 0 else maxStepOf n)
    let s := forEach new s fun s p =>
      logPut s 0x0E10 sevWarning (.tile t) (widx t * 2 ^ 16 + p) cause
        (if dark then 0xFFFFFFFF else maxStepOf n)
    if dark && tget s t R.MITTEN_TILE_RAIL = railIsolated then s
    else if dark then
      let amps := (Config.freeWord (freeNo s)).toNat % 4096
      isolateRail (bumpFree s) t 0 amps .phases
    else withCaps s t fun c => { c with phase := maxStepOf n }

/-- A mitten with a supply regulates, whether its rail is connected or not (R358), and its phases may fail. -/
def phaseFailureEff (t : Tid) (phases : List Nat) (cause : Nat) (s : State) : State :=
  if dieOn s t.d.val then failPhases s t phases cause else s

/-- The rail is shorted (R363). -/
def railShortEff (t : Tid) (deciAmps : Nat) (s : State) : State :=
  if railLive s t then isolateRail (tinc s t R.MITTEN_EVENTS_SHORTS) t 1 deciAmps .railShort else s

/-- Contexts that a failed die stops, as a bit set. -/
def ctxHit (s : State) (d : Nat) : Nat :=
  (List.range 4).foldl (fun a c =>
    if ctxServing s c && ((ctxOf s c).map fun x => crossesDie x d).getD false then a + 2 ^ c else a) 0

/-- A site converter trips and latches off: the whole die goes dark (R364). -/
def siteTripEff (d : Fin 56) (cause : Nat) (s : State) : State :=
  if !(dieOn s d.val) then s
  else
    let s := logPut s 0x0E12 sevError (svcSrc s) d.val cause (ctxHit s d.val)
    darkDie (failDie s d 0) d siteTripped

/-- No context's die set names the die. -/
def dieUnnamed (s : State) (d : Nat) : Bool :=
  (List.range 4).all fun c => ((ctxOf s c).map fun x => !(x.dies.contains d)).getD true

/-- RETRY of PW_SITE_CTRL: a soft start of a tripped converter; the die leaves the failed list, and serves
again after the next module reset (R365). -/
def siteRetryEff (d : Fin 56) (holds : Bool) (s : State) : State :=
  if !s.plane.powered || dget s d.val R.PW_DIE_STAT_SITE ≠ siteTripped || !(dieUnnamed s d.val) then s
  else if holds then
    let s := dset s d.val R.PW_DIE_STAT_SITE siteOn
    let s := modDie s d.val fun x => { x with failed := true }
    rmDrop s fun e => e.kind.toNat = 0x0C && e.die.toNat = d.val
  else s

/-! ## Supplies (R366, R491, R494, R504) -/

/-- VIN48 has stayed below PW_VIN_WARN (units of 0.1 V; volts in units of 10 mV). -/
def vinLowEff (volts : Nat) (s : State) : State :=
  let warn := fieldOf s F.PW_VIN_WARN
  if !s.plane.vaux || s.plant.vinLow || 10 * warn ≤ volts then s
  else
    let s := modPlant s fun p => { p with vinLow := true }
    logPut s 0x0E15 sevWarning (svcSrc s) volts warn 0

/-- Steps of the bring-up in which the site converters are on and READY is still ahead (R425). -/
def inPowerSteps (s : State) : Bool :=
  pget s R.BU_STAT_STATE = 0 && 5 ≤ pget s R.BU_STAT_STEP && pget s R.BU_STAT_STEP ≤ 10

/-- The site converters shut down: bring-up goes back to step 5, and later the device goes to Rest with one
PW_VIN_LOSS. -/
def supplyLoss (s : State) (volts : Nat) : State :=
  if !s.plane.powered && powerState s ≠ psRest then s
  else if inPowerSteps s then pset (sitesOff s) R.BU_STAT_STEP 5
  else if s.plant.lossTold then s
  else
    let n := liveCount s
    let s := modPlant s fun p => { p with lossTold := true }
    if powerState s = psRest then logPut s 0x0E16 sevError (svcSrc s) volts 0 0
    else
      let s := stopAll s 0x0E16
      let s := logPut s 0x0E16 sevError (svcSrc s) volts n 0
      toRest s 0x0E16 2

/-- VIN48 below 40.0 V. -/
def vinLossEff (volts : Nat) (s : State) : State :=
  if !s.plane.vaux || 4000 ≤ volts then s
  else supplyLoss (modPlant s fun p => { p with vinLost := true }) volts

/-- The lowest VIN48 that the service die has seen, when no command carries it. -/
def lowestVin (s : State) : Nat := (Config.freeWord (freeNo s)).toNat % 65536

/-- VIN48 above 58.0 V acts as a loss. -/
def vinOverEff (volts : Nat) (s : State) : State :=
  if !s.plane.vaux || volts ≤ 5800 then s
  else supplyLoss (bumpFree (modPlant s fun p => { p with vinLost := true })) (lowestVin s)

/-- The entry of a loss in force has been written until both supplies are good again. -/
def clearLoss (s : State) : State :=
  if s.pins.pgIn && !s.plant.vinLost then modPlant s fun p => { p with lossTold := false } else s

def pgInOffEff (s : State) : State :=
  if !s.pins.pgIn then s
  else
    let s := modPins s fun p => { p with pgIn := false }
    if s.plane.vaux then supplyLoss (bumpFree s) (lowestVin s) else s

def pgInOnEff (s : State) : State := clearLoss (modPins s fun p => { p with pgIn := true })

/-- VIN48 is back above PW_VIN_WARN, or back in its operating range. -/
def vinBackEff (volts : Nat) (s : State) : State :=
  let s := if 10 * fieldOf s F.PW_VIN_WARN ≤ volts then modPlant s fun p => { p with vinLow := false } else s
  if 4000 ≤ volts && volts ≤ 5800 then clearLoss (modPlant s fun p => { p with vinLost := false }) else s

/-- All power is lost: what VAUX12 kept is gone (R491, R439). -/
def vauxLossEff (s : State) : State := modPlane (coldState s) fun p => { p with vaux := false }

def execPowerMeasure (d : Fin 56) (watts : Nat) (s : State) : Res := .next (powerMeasureEff d watts s)
def execBudgetCapLift (d : Fin 56) (s : State) : Res := .next (budgetLiftEff d s)
def execTurnOnRequest (t : Tid) (segDa dieDa : Nat) (s : State) : Res := .next (turnOnEff t segDa dieDa s)
def execGrantRetest (d : Fin 56) (segDa dieDa : Nat) (s : State) : Res := .next (grantRetestEff d segDa dieDa s)
def execGrantWaitExpiry (t : Tid) (segDa dieDa : Nat) (s : State) : Res :=
  .next (grantExpiryEff t segDa dieDa s)
def execTurnOnSettled (t : Tid) (s : State) : Res := .next (turnOnSettledEff t s)
def execPhaseFailure (t : Tid) (phases : List (Fin 16)) (cause : Fin 3) (s : State) : Res :=
  .next (phaseFailureEff t (phases.map (·.val)) (cause.val + 1) s)
def execRailShort (t : Tid) (deciAmps : BitVec 12) (s : State) : Res := .next (railShortEff t deciAmps.toNat s)
def execSiteTrip (d : Fin 56) (cause : Fin 3) (s : State) : Res := .next (siteTripEff d cause.val s)
def execSiteRetry (d : Fin 56) (holds : Bool) (s : State) : Res := .next (siteRetryEff d holds s)
def execVinLow (volts10mV : Half) (s : State) : Res := .next (vinLowEff volts10mV.toNat s)
def execVinLoss (volts10mV : Half) (s : State) : Res := .next (vinLossEff volts10mV.toNat s)
def execVinOvervoltage (volts10mV : Half) (s : State) : Res := .next (vinOverEff volts10mV.toNat s)
def execVauxLoss (s : State) : Res := .next (vauxLossEff s)
def execPgInAssert (s : State) : Res := .next (pgInOnEff s)
def execPgInDeassert (s : State) : Res := .next (pgInOffEff s)
def execVin48BackInRange (volts10mV : Half) (s : State) : Res := .next (vinBackEff volts10mV.toNat s)

end Sys2Proof.Machine
end

