-- ==== Sys2Proof/Machine/Thermal.lean ====
section
/-! DEFINITION. Temperatures of tiles and stacks (R374 to R377), the sudden stop (R379) and THERM_TRIP_N
(R381). Temperatures are in units of 0.125 °C. -/
namespace Sys2Proof.Machine

/-! ## TH_COOL_STAT (Table 15.17) -/

def coolNormal : Nat := 0
def coolWarning : Nat := 1
def coolCap : Nat := 2
def coolHold : Nat := 4
def coolRest : Nat := 5

def coolState (s : State) : Nat := pget s R.TH_COOL_STAT_STATE
def setCool (s : State) (n : Nat) : State := pset s R.TH_COOL_STAT_STATE n

/-! ## The sudden stop (R379) -/

/-- The FLOW cap of every tile of a powered die, at once. -/
def setFlowCap (s : State) (cap : Nat) : State :=
  let s := forEach allDies s fun s d =>
    if dieOn s d.val then forEach (tilesOfDie d) s fun s t => withCaps s t fun c => { c with flow := cap }
    else s
  pset s R.TH_COOL_STAT_FLOW_CAP cap

/-- Every live sequence ends in a Hold that has lasted TH_HOLD_END_S (R380). -/
def holdEnds (s : State) : State :=
  let n := liveCount s
  let s := forEach (s.serving.seqs.filter isLive) s fun s q => endSeq s q 6 0x0F12
  modPlant s fun p => { p with endedInHold := p.endedInHold + n }

/-- Step 0 for every tile, the work in flight discarded, and Hold. -/
def stopPlane (s : State) : State :=
  let atOnce : Bool := fieldOf s F.TH_HOLD_END_S = 0
  let s := enterHold (setFlowCap s 0) 1
  let s := modPlant s fun p => { p with
    stopped := true, holdSince := now s, flowOkSince := none, endedInHold := 0 }
  let s := setCool s coolHold
  if atOnce then holdEnds s else s

/-- A sudden stop is declared: circuit, flow in units of 0.01 L/min, and the rule (0: 20 %, 1: 50 %). -/
def suddenStop (s : State) (circuit flow rule : Nat) : State :=
  if s.plant.stopped || !s.plane.powered then s
  else
    let s := pinc s R.TH_COOL_STAT_STOPS
    stopPlane (logPut s 0x0F12 sevError (svcSrc s) circuit flow rule)

/-! ## THERM_TRIP_N (R381) -/

/-- 105 °C. -/
def tripTemp : Int := 840

/-- A 12-bit two's complement field as a number, and back. -/
def temp12 (v : Nat) : Int := (BitVec.ofNat 12 v).toInt
def to12 (v : Int) : Nat := (BitVec.ofInt 12 v).toNat

/-- THERM_TRIP_N asserts; the device acts as on a sudden stop unless it holds or rests already. -/
def thermTrip (s : State) (src : LogSrc) (where_ reading : Nat) : State :=
  if !s.pins.thermTripN then s
  else
    let before := coolState s
    let s := modPins (pset s R.TH_COOL_STAT_TRIP 1) fun p => { p with thermTripN := false }
    let s := logPut s 0x0F15 sevError src where_ reading before
    if powerState s = psHold || powerState s = psRest || !s.plane.powered then s else stopPlane s

/-- A sample that is not a valid one above 105 °C: the run of hot samples of its sensor ends. -/
def coolSample (s : State) (d key : Nat) : State :=
  if (dieOf s d).hotOnce.contains key then
    modDie s d fun x => { x with hotOnce := x.hotOnce.filter fun k => k ≠ key }
  else s

/-- A sample of a diode or of S: two in a row above 105 °C trip. -/
def tripSample (s : State) (d key : Nat) (temp : Int) (src : LogSrc) (where_ : Nat) : State :=
  if temp ≤ tripTemp then coolSample s d key
  else if (dieOf s d).hotOnce.contains key then thermTrip s src where_ (to12 temp)
  else modDie s d fun x => { x with hotOnce := x.hotOnce ++ [key] }

/-! ## The hot spot of a tile (Table 15.3) -/

/-- Valid diode readings of a tile: those in range whose path has not failed. -/
def diodeA (s : State) (t : Tid) : Option Int :=
  if tget s t R.TH_DIODE_A_VALID = 1 && tget s t R.TH_HOT_A_FAILED = 0 then some (temp12 (tget s t R.TH_DIODE_DIODE_A))
  else none
def diodeB (s : State) (t : Tid) : Option Int :=
  if tget s t R.TH_DIODE_B_VALID = 1 && tget s t R.TH_HOT_B_FAILED = 0 then some (temp12 (tget s t R.TH_DIODE_DIODE_B))
  else none

def estimate (s : State) (t : Tid) : Int := temp12 (tget s t R.TH_HOT_ESTIMATE)

/-- 4 °C and 8 °C. -/
def disagreeTemp : Int := 32
def suspectTemp : Int := 64

def apart (a b lim : Int) : Bool := lim < a - b || lim < b - a

/-- 2 × H, so that the mean of two readings stays exact, and whether the readings are suspect. -/
def hotSpot (a b : Option Int) (e : Int) : Int × Bool :=
  match a, b with
  | some x, some y =>
    (if apart x y disagreeTemp then 2 * max x y else x + y, apart x e suspectTemp && apart y e suspectTemp)
  | some x, none => (2 * x, apart x e suspectTemp)
  | none, some y => (2 * y, apart y e suspectTemp)
  | none, none => (2 * (e + suspectTemp), true)

def hot2 (s : State) (t : Tid) : Int := (hotSpot (diodeA s t) (diodeB s t) (estimate s t)).1
def readsSuspect (s : State) (t : Tid) : Bool := (hotSpot (diodeA s t) (diodeB s t) (estimate s t)).2

def stackTemp (s : State) (d : Nat) : Int := temp12 (dget s d R.TH_DIE_STAT_STACK_TEMP)

/-! ## Caps (R375 to R377) -/

/-- The SENSOR cap: step 9 while the tile or its stack is suspect. -/
def sensorCap (s : State) (t : Tid) : State :=
  let held := tget s t R.TH_HOT_SUSPECT = 1 || dget s t.d.val R.TH_DIE_STAT_STACK_SUSPECT = 1
  let cap := if held then 9 else 15
  if (tileOf s t).caps.sensor = cap then s else withCaps s t fun c => { c with sensor := cap }

/-- L and K in units of 0.125 °C. -/
def limitL (s : State) : Int := 8 * (fieldOf s F.TH_LIMIT_C : Int)
def limitK (s : State) : Int := 8 * (fieldOf s F.TH_STACK_LIMIT_C : Int)

/-- The rows of Table 15.4 for 2 × H, for S, and for both. -/
def hotRow (l h2 : Int) : Nat :=
  if 2 * (l + 80) < h2 then 0 else if 2 * (l + 40) < h2 then 9 else if 2 * l < h2 then 13 else 15
def stackRow (k st : Int) : Nat := if k + 40 < st then 0 else if k < st then 9 else 15
def thermalRow (l k h2 st : Int) : Nat := min (hotRow l h2) (stackRow k st)

def setThermal (s : State) (t : Tid) (cap : Nat) : State :=
  withCaps (tset s t R.TH_HOT_THERMAL_CAP cap) t fun c => { c with thermal := cap }

/-- Which values the cap in force comes from: those that set it, and any that has asked for it since. -/
def thermalFrom (s : State) (t : Tid) (cap hot stack : Nat) : State :=
  let fresh := decide (cap < (tileOf s t).caps.thermal)
  modTile s t fun ts => { ts with
    capHot := decide (hot ≤ cap) || !fresh && ts.capHot
    capStack := decide (stack ≤ cap) || !fresh && ts.capStack }

/-- A tightening takes effect at once. -/
def thermalTighten (s : State) (t : Tid) : State :=
  let hot := hotRow (limitL s) (hot2 s t)
  let stack := stackRow (limitK s) (stackTemp s t.d.val)
  let cap := min (min hot stack) (tileOf s t).caps.thermal
  if 15 ≤ cap then s
  else if cap < (tileOf s t).caps.thermal then setThermal (thermalFrom s t cap hot stack) t cap
  else thermalFrom s t cap hot stack

/-- The value that set the cap has stayed 3 °C below that row's threshold: the cap loosens by one row, never above
what a row still asks for. -/
def thermalLoosenEff (t : Tid) (s : State) : State :=
  let l := limitL s
  let k := limitK s
  let h := hot2 s t
  let st := stackTemp s t.d.val
  let now (cap : Nat) : Bool := decide (cap ≤ thermalRow l k h st)
  let hot (h0 : Int) : Bool := !(tileOf s t).capHot || decide (h ≤ 2 * (h0 - 24))
  let stack (k0 : Int) : Bool := !(tileOf s t).capStack || decide (st ≤ k0 - 24)
  if !(dieOn s t.d.val) then s
  else
    match (tileOf s t).caps.thermal with
    | 0 => if now 9 && hot (l + 80) && stack (k + 40) then setThermal s t 9 else s
    | 9 => if now 13 && hot (l + 40) && stack k then setThermal s t 13 else s
    | 13 => if now 15 && hot l then setThermal s t 15 else s
    | _ => s

/-- H of a tile after a reading; a tile that becomes suspect takes its cap, an entry and a sensor check. -/
def updateHot (s : State) (t : Tid) : State :=
  let s := tset s t R.TH_HOT_HOT (to12 (hot2 s t / 2))
  let s := thermalTighten s t
  if !(railOn s t) || !(readsSuspect s t) || tget s t R.TH_HOT_SUSPECT = 1 then s
  else
    let s := tinc (tset s t R.TH_HOT_SUSPECT 1) t R.TH_EVENTS_SUSPECTS
    let s := modTile s t fun ts => { ts with
      wanted := if ts.wanted.contains ⟨5, 0⟩ then ts.wanted else ts.wanted ++ [⟨5, 0⟩] }
    let s := logPut s 0x0F16 sevWarning (.tile t) (widx t * 2 ^ 16) (tget s t R.TH_HOT_HOT)
      (tget s t R.TH_HOT_ESTIMATE)
    sensorCap s t

/-- The readings have not been suspect for 10 s in a row. -/
def suspectClearEff (t : Tid) (s : State) : State :=
  if tget s t R.TH_HOT_SUSPECT = 0 || readsSuspect s t then s
  else sensorCap (tset s t R.TH_HOT_SUSPECT 0) t

/-- E, which the Bowler forms from the ring oscillator of a powered tile. -/
def roEstimateEff (t : Tid) (e : Nat) (s : State) : State :=
  if railOn s t then updateHot (tset s t R.TH_HOT_ESTIMATE e) t else s

/-! ## Readings of a scan (R374, R376) -/

/-- −20 °C to 150 °C. -/
def tempInRange (x : Int) : Bool := -160 ≤ x && x ≤ 1200

/-- A reading of diode A (0) or B (1). -/
def noteDiode (s : State) (t : Tid) (which : Nat) (temp : Int) : State :=
  let fails := if which = 0 then R.TH_HOT_A_FAILED else R.TH_HOT_B_FAILED
  let valid := if which = 0 then R.TH_DIODE_A_VALID else R.TH_DIODE_B_VALID
  let val := if which = 0 then R.TH_DIODE_DIODE_A else R.TH_DIODE_DIODE_B
  let checks := ((tileOf s t).slice.map fun x => decide (x.id.kind.val = 5)).getD false
  let key := 2 * t.t.val + which
  if checks then s
  else if tget s t fails = 1 then coolSample (tset s t valid 0) t.d.val key
  else if !(tempInRange temp) then coolSample (tinc (tset s t valid 0) t R.TH_EVENTS_DISCARDS) t.d.val key
  else
    let s := tset (tset s t valid 1) t val (to12 temp)
    let s := match which, diodeA s t, diodeB s t with
      | 1, some a, some b => if apart a b disagreeTemp then tinc s t R.TH_EVENTS_DISAGREE else s
      | _, _, _ => s
    tripSample s t.d.val key temp (.tile t) (widx t * 2 ^ 16)

/-- Stack sensor `n` of a die. -/
def stackFlds (n : Nat) : Fld × Fld :=
  if n % 2 = 0 then (R.TH_STACK_LO_VALID.at (n / 2), R.TH_STACK_SENSOR_LO.at (n / 2))
  else (R.TH_STACK_HI_VALID.at (n / 2), R.TH_STACK_SENSOR_HI.at (n / 2))

def noteStack (s : State) (d n : Nat) (temp : Int) : State :=
  let f := stackFlds n
  if tempInRange temp then dset (dset s d f.1 1) d f.2 (to12 temp) else dset s d f.1 0

/-- Valid readings of a stack's four sensors. -/
def stackReads (s : State) (d : Nat) : List Int :=
  (List.range 4).filterMap fun n =>
    let f := stackFlds n
    if dget s d f.1 = 1 then some (temp12 (dget s d f.2)) else none

def maxTemp (l : List Int) : Int := l.foldl max (-2048)

/-- The die's highest H. -/
def dieHot (s : State) (d : Fin 56) : Int := maxTemp ((tilesOfDie d).map fun t => temp12 (tget s t R.TH_HOT_HOT))

/-- S after a scan; a stack with fewer than two valid sensors is suspect. -/
def updateStack (s : State) (d : Fin 56) : State :=
  let reads := stackReads s d.val
  let sus := reads.length < 2
  let st := if sus then max (maxTemp reads) (dieHot s d) else maxTemp reads
  let was := dget s d.val R.TH_DIE_STAT_STACK_SUSPECT = 1
  let s := dset s d.val R.TH_DIE_STAT_STACK_TEMP (to12 st)
  let s := dset s d.val R.TH_DIE_STAT_STACK_SUSPECT (b2n sus)
  let s := if sus && !was then logPut s 0x0F16 sevWarning (.die d.val) d.val (to12 st) 0 else s
  let s := forEach (tilesOfDie d) s fun s t => thermalTighten (sensorCap s t) t
  tripSample s d.val 48 st (.die d.val) d.val

/-- The temperatures that a scan of bank 0 or 1 gave, by corrected code; a bank without them changes
nothing. -/
def noteScan (s : State) (d : Fin 56) (bank : Nat) (code : Nat → Nat) : State :=
  if 2 ≤ bank then s
  else
    let temp (i : Nat) : Int := Config.codeTemp d.val bank i (code i)
    let s := forEach (tilesOfDie d) s fun s t => updateHot (noteDiode s t bank (temp t.t.val)) t
    let s := noteStack (noteStack s d.val (2 * bank) (temp 24)) d.val (2 * bank + 1) (temp 25)
    updateStack s d

/-- The inputs of a bank that is not read any more are not valid (R399). -/
def bankUnread (s : State) (d : Fin 56) (bank : Nat) : State :=
  if 2 ≤ bank then s
  else
    let valid := if bank = 0 then R.TH_DIODE_A_VALID else R.TH_DIODE_B_VALID
    let s := forEach (tilesOfDie d) s fun s t => updateHot (tset s t valid 0) t
    let s := dset s d.val (stackFlds (2 * bank)).1 0
    updateStack (dset s d.val (stackFlds (2 * bank + 1)).1 0) d

/-- A stack above TH_STACK_SR_C in Hold turns off, and the device goes to Rest. -/
def overheatEff (d : Fin 56) (s : State) : State :=
  let st := stackTemp s d.val
  if powerState s ≠ psHold || !(dieOn s d.val) || st ≤ 8 * (fieldOf s F.TH_STACK_SR_C : Int) then s
  else
    let n := liveCount s
    let s := enterRest s 0x0F14 1
    logPut (setCool s coolRest) 0x0F14 sevError (svcSrc s) d.val (to12 st) n

def execStackOverheatRest (d : Fin 56) (s : State) : Res := .next (overheatEff d s)
def execRoEstimate (t : Tid) (e : BitVec 12) (s : State) : Res := .next (roEstimateEff t e.toNat s)
def execSuspectClear (t : Tid) (s : State) : Res := .next (suspectClearEff t s)
def execThermalCapLoosen (t : Tid) (s : State) : Res := .next (thermalLoosenEff t s)

end Sys2Proof.Machine
end

