-- ==== Sys2Proof/Machine/Adc.lean ====
section
/-! DEFINITION. Sensor converters of the compute and service dies (R389 to R401): corrected codes, the reference
check of a scan, calibration, rotation, the loss of slices, and conversions of a test DAC. A service die q has
the die number 56 + q. -/
namespace Sys2Proof.Machine

/-- A converter field of a die: the compute-die block, or the block with prefix S. -/
def adcF (d : Nat) (f : Fld) : Fld := if d < 56 then f else { f with blk := R.SADC_STAT_BANKS_READ.blk }

def adcGet (s : State) (d : Nat) (f : Fld) : Nat := dget s d (adcF d f)
def adcSet (s : State) (d : Nat) (f : Fld) (v : Nat) : State := dset s d (adcF d f) v

/-- Slices and banks of a die. -/
def sliceCount (d : Nat) : Nat := if d < 56 then 5 else 3
def bankCount (d : Nat) : Nat := if d < 56 then 4 else 2

/-- STATE of ADC_SLICE. -/
def slServing : Nat := 0
def slSpare : Nat := 1
def slCalibrating : Nat := 2
def slRetired : Nat := 3

def sliceState (s : State) (d i : Nat) : Nat := adcGet s d (R.ADC_SLICE_STATE.at i)
def setSlice (s : State) (d i st : Nat) : State := adcSet s d (R.ADC_SLICE_STATE.at i) st
def sliceBank (s : State) (d i : Nat) : Nat := adcGet s d (R.ADC_SLICE_BANK.at i)

def workingSlices (s : State) (d : Nat) : List Nat :=
  (List.range (sliceCount d)).filter fun i => sliceState s d i ≠ slRetired

/-- The slice that serves a bank. -/
def servingSlice (s : State) (d b : Nat) : Option Nat :=
  (List.range (sliceCount d)).find? fun i => sliceState s d i = slServing && sliceBank s d i = b

def isCalibrated (s : State) (d i : Nat) : Bool := tbit (dieOf s d).calibrated i
def setCalibrated (s : State) (d i : Nat) (v : Bool) : State :=
  modDie s d fun x => { x with calibrated := if v then setBit x.calibrated i else clearBit x.calibrated i }

/-- The converters of a die are powered (R400, Table 16.1). -/
def adcOn (s : State) (d : Nat) : Bool := if d < 56 then dieOn s d else s.plane.vaux

/-- Who writes a die's converter entries: its Bowler, or the service processor. -/
def adcSrc (d : Nat) : LogSrc := if d < 56 then .die d else .service (d - 56)

def adcWord (d n : Nat) : Nat := d * 2 ^ 16 + n

/-! ## Corrected codes (R390) -/

/-- Nearest integer, ties away from zero. -/
def roundAway (x : Rat) : Int := if x < 0 then -(floorR (-x + 1 / 2)) else floorR (x + 1 / 2)

/-- O in LSB and G. -/
def sliceOffset (s : State) (d i : Nat) : Int := (BitVec.ofNat 7 (adcGet s d (R.ADC_SLICE_OFFSET.at i))).toInt
def sliceGain (s : State) (d i : Nat) : Rat := (adcGet s d (R.ADC_SLICE_GAIN.at i) : Rat) / 16384

/-- c = round((r − O) × G), clamped to 0 to 4,095. -/
def correct (o : Int) (g : Rat) (r : Nat) : Nat :=
  (min (max (roundAway ((((r : Int) - o : Int) : Rat) * g)) 0) 4095).toNat

def corrected (s : State) (d i r : Nat) : Nat := correct (sliceOffset s d i) (sliceGain s d i) r

/-- The raw code of an input in a scan. -/
def rawAt (l : List (BitVec 12)) (i : Nat) : Nat := ((l[i]?).map (·.toNat)).getD 0

/-! ## The reference check (R395) -/

def adcTol (s : State) : Nat := fieldOf s F.ADC_DAC_TOL_LSB

/-- V_bg × 4,096 / 1.250 V, with V_bg in units of 0.1 mV. -/
def bandgapTarget (d : Nat) : Rat := (Config.vbg d : Rat) * 4096 / 12500

def nearR (a b tol : Rat) : Bool := a - b ≤ tol && b - a ≤ tol

/-- Codes on the ground and the bandgap reference pass. -/
def refsPass (s : State) (d ground bandgap : Nat) : Bool :=
  decide (ground ≤ adcTol s) && nearR (bandgap : Rat) (bandgapTarget d) (adcTol s : Rat)

def near (a b tol : Nat) : Bool := a ≤ b + tol && b ≤ a + tol

/-! ## Banks (R391, R398, R399) -/

def noServed : Nat → Nat := fun _ => 0

/-- A slice takes a bank over. -/
def giveBank (s : State) (d i b : Nat) : State :=
  let s := adcSet (setSlice s d i slServing) d (R.ADC_SLICE_BANK.at i) b
  modDie s d fun x => { x with
    served := kput x.served i (now s), scanFails := kset noServed x.scanFails b 0 }

/-- The slice that a bank without one takes: a slice that serves none, else the one that serves the last bank
behind it. -/
def slicePick (s : State) (d b : Nat) : Option Nat :=
  let idle := (List.range (sliceCount d)).find? fun i =>
    sliceState s d i = slSpare || sliceState s d i = slCalibrating
  idle.orElse fun _ =>
    ((List.range (bankCount d)).reverse.filter fun c => b < c).findSome? (servingSlice s d)

/-- RAW register of an input of a bank. -/
def rawFld (f : Fld) (b i : Nat) : Fld := f.at (32 * b + i)

/-- A bank goes unread: its inputs are not valid, and ADC_BANK_LOST is written once. -/
def loseBank (s : State) (d b : Nat) : State :=
  let s := forEach (List.range 32) s fun s i => adcSet s d (rawFld R.ADC_RAW0_VALID b i) 0
  let s := modDie s d fun x => { x with banksTold := setBit x.banksTold b }
  let s := logPut s 0x1013 sevError (adcSrc d) (adcWord d b) (workingSlices s d).length 0
  if h : d < 56 then bankUnread s ⟨d, h⟩ b else s

/-- The working slices serve the banks in the order of their numbers, so that the last one goes unread
first. -/
def fillBanks (s : State) (d : Nat) : State :=
  let s := forEach (List.range (bankCount d)) s fun s b =>
    match servingSlice s d b with
    | some _ => s
    | none =>
      match slicePick s d b with
      | some i => giveBank s d i b
      | none => s
  let unread := (List.range (bankCount d)).filter fun b => (servingSlice s d b).isNone
  let s := adcSet s d R.ADC_STAT_BANKS_READ
    ((List.range (bankCount d)).foldl (fun a b => if unread.contains b then a else a + 2 ^ b) 0)
  forEach (unread.filter fun b => !(tbit (dieOf s d).banksTold b)) s fun s b => loseBank s d b

/-- A slice is retired into the repair map: 0 calibration, 1 rotation check (R394, R398). -/
def retireSlice (s : State) (d i why : Nat) : State :=
  let s := rmAdd (setCalibrated (setSlice s d i slRetired) d i false) 0x05 d i why
  let s := logPut s 0x1011 sevError (adcSrc d) (adcWord d i) why (workingSlices s d).length
  fillBanks s d

/-! ## Scans (R392, R395) -/

def reservedInput (d b i : Nat) : Bool :=
  if d < 56 then i = 31 || (b < 2 && (i = 26 || i = 27)) || (b = 3 && 24 ≤ i && i ≤ 27)
  else i = 31 || (b = 0 && 16 ≤ i && i ≤ 27)

/-- A sensor check has switched the diode path of an input to the test DAC: it produces no reading (R396). -/
def pathSwitched (s : State) (d b i : Nat) : Bool :=
  if h : d < 56 then
    b < 2 && i < 24 && ((tileOf s ⟨⟨d, h⟩, tileNo i⟩).slice.map fun x => decide (x.id.kind.val = 5)).getD false
  else false

/-- The readings of a scan that passed go to the registers. -/
def storeScan (s : State) (d b slice : Nat) (code : Nat → Nat) : State :=
  forEach ((List.range 32).filter fun i => !(pathSwitched s d b i)) s fun s i =>
    let r := reservedInput d b i
    let s := adcSet s d (rawFld R.ADC_RAW0_VALID b i) (b2n !r)
    let s := adcSet s d (rawFld R.ADC_RAW0_SLICE b i) slice
    adcSet s d (rawFld R.ADC_RAW0_CODE b i) (if r then 0 else code i)

/-- A scan is discarded; after the third in a row the spare takes the bank, and the faulty slice is to be
calibrated. -/
def failScan (s : State) (d b slice ground bandgap : Nat) : State :=
  let s := dinc s d (adcF d R.ADC_STAT_REF_FAULTS)
  let s := forEach (List.range 32) s fun s i => adcSet s d (rawFld R.ADC_RAW0_VALID b i) 0
  let n := kget noServed (dieOf s d).scanFails b + 1
  if n < 3 then modDie s d fun x => { x with scanFails := kset noServed x.scanFails b n }
  else
    let s := modDie s d fun x => { x with scanFails := kset noServed x.scanFails b 0 }
    let s := logPut s 0x1014 sevWarning (adcSrc d) (adcWord d slice) ground bandgap
    match (List.range (sliceCount d)).find? fun i => sliceState s d i = slSpare && isCalibrated s d i with
    | some i => giveBank (setCalibrated (setSlice s d slice slCalibrating) d slice false) d i b
    | none => s

/-- Whether a scan of a bank by a slice passes its references. -/
def scanPasses (s : State) (d slice : Nat) (codes : List (BitVec 12)) : Bool :=
  refsPass s d (corrected s d slice (rawAt codes 28)) (corrected s d slice (rawAt codes 29))

/-- One scan of a bank by its serving slice; a slice that has not been calibrated waits, and the first scans after the
die's input came on wait for every slice (R400). -/
def scanBank (s : State) (d b : Nat) (codes : List (BitVec 12)) : State :=
  match servingSlice s d b with
  | none => s
  | some i =>
    if !(adcOn s d) || !(isCalibrated s d i) || !(dieOf s d).adcWarm then s
    else
      let code (n : Nat) : Nat := corrected s d i (rawAt codes n)
      if scanPasses s d i codes then
        let s := modDie s d fun x => { x with scanFails := kset noServed x.scanFails b 0 }
        let s := storeScan s d b i code
        if h : d < 56 then noteScan s ⟨d, h⟩ b code else s
      else failScan s d b i (code 28) (code 29)

/-! ## Calibration (R394) -/

/-- Mean of codes. -/
def meanR (l : List Nat) : Rat := (sumNat l : Rat) / (l.length : Rat)

/-- The slice that a calibration serves: one without calibration values, else the spare. -/
def calSlice (s : State) (d : Nat) : Option Nat :=
  let w := workingSlices s d
  (w.find? fun i => !(isCalibrated s d i)).orElse fun _ => w.find? fun i => sliceState s d i ≠ slServing

/-- Means of the four DAC codes against 4 × code. -/
def dacMeansPass (tol : Nat) (o : Int) (g : Rat) (dac : List Nat) : Bool :=
  [128, 384, 640, 896].zipIdx.all fun e =>
    nearR (meanR (((dac.drop (8 * e.2)).take 8).map (correct o g))) ((4 * e.1 : Nat) : Rat) (tol : Rat)

/-- O, G, and the GAIN that a calibration gives. -/
def calOffset (ground : List Nat) : Int := roundAway (meanR ground)
def calFactor (d : Nat) (ground bandgap : List Nat) : Rat :=
  bandgapTarget d / (meanR bandgap - (calOffset ground : Rat))
def calGain (d : Nat) (ground bandgap : List Nat) : Nat :=
  (roundAway (calFactor d ground bandgap * 16384)).toNat % 65536

/-- O and G lie in their ranges, and the corrected DAC codes pass. -/
def calPasses (s : State) (d : Nat) (ground bandgap dac : List Nat) : Bool :=
  -32 ≤ calOffset ground && calOffset ground ≤ 32
    && (97 / 100 : Rat) ≤ calFactor d ground bandgap && calFactor d ground bandgap ≤ (103 / 100 : Rat)
    && dacMeansPass (adcTol s) (calOffset ground) ((calGain d ground bandgap : Rat) / 16384) dac

/-- The slice takes O and G. -/
def calWrite (s : State) (d i : Nat) (ground bandgap : List Nat) : State :=
  adcSet (adcSet s d (R.ADC_SLICE_OFFSET.at i) (BitVec.ofInt 7 (calOffset ground)).toNat) d (R.ADC_SLICE_GAIN.at i)
    (calGain d ground bandgap)

/-- A calibration of a slice; the second failure in succession retires it. -/
def calibrateSlice (s : State) (d i : Nat) (ground bandgap dac : List Nat) : State :=
  let ok := calPasses s d ground bandgap dac
  let s := calWrite s d i ground bandgap
  if ok then
    let s := modDie (setCalibrated s d i true) d fun x => { x with calFails := kset noServed x.calFails i 0 }
    if sliceState s d i = slCalibrating then setSlice s d i slSpare else s
  else
    let n := kget noServed (dieOf s d).calFails i + 1
    let s := logPut s 0x1010 sevWarning (adcSrc d) (adcWord d i)
      (BitVec.ofInt 32 (calOffset ground)).toNat (calGain d ground bandgap)
    let s := modDie (setCalibrated s d i false) d fun x => { x with calFails := kset noServed x.calFails i n }
    if n < 2 then (if sliceState s d i = slServing then s else setSlice s d i slCalibrating)
    else retireSlice s d i 0

/-- Every working slice has been calibrated: the scans of the die begin. -/
def warmUp (s : State) (d : Nat) : State :=
  if (workingSlices s d).all (isCalibrated s d) then modDie s d fun x => { x with adcWarm := true } else s

def calibrateEff (d : Nat) (ground bandgap dac : List Nat) (s : State) : State :=
  match calSlice s d with
  | none => s
  | some i =>
    if !(adcOn s d) then s
    else warmUp (calibrateSlice s d i ground bandgap dac) d

/-! ## Rotation (R398) -/

/-- The serving slice that has held its bank longest. -/
def oldestServing (s : State) (d : Nat) : Option Nat :=
  let l := (List.range (sliceCount d)).filter fun i => sliceState s d i = slServing
  l.find? fun i => l.all fun j =>
    kget noServed (dieOf s d).served i ≤ kget noServed (dieOf s d).served j

/-- A sensor check runs on a tile of the die (R396). -/
def checkRuns (s : State) (d : Nat) : Bool :=
  if h : d < 56 then
    (tilesOfDie ⟨d, h⟩).any fun t => ((tileOf s t).slice.map fun x => decide (x.id.kind.val = 5)).getD false
  else false

/-- The incoming slice has the bank; the outgoing one becomes the spare, to be calibrated. -/
def handOver (s : State) (d inc out b : Nat) : State :=
  giveBank (setCalibrated (setSlice s d out slCalibrating) d out false) d inc b

/-- The largest difference of the two slices' corrected codes on the reference inputs. -/
def rotateGap (s : State) (d inc out : Nat) (inCodes outCodes : List (BitVec 12)) : Nat :=
  let gap (n : Nat) : Nat :=
    let x := corrected s d inc (rawAt inCodes n)
    let y := corrected s d out (rawAt outCodes n)
    max (x - y) (y - x)
  max (gap 28) (max (gap 29) (gap 30))

/-- The DAC codes of a sensor check and of a slice's own check (R396). -/
def dacCodes : List Nat := [128, 512, 896]

/-- A test-DAC check of a slice passes: every corrected code lies within the tolerance of 4 × the DAC code. -/
def dacCheck (s : State) (d i : Nat) (codes : List (BitVec 12)) : Bool :=
  dacCodes.zipIdx.all fun e => near (corrected s d i (rawAt codes e.2)) (4 * e.1) (adcTol s)

/-- A rotation: both slices convert every input at the same instant; where they disagree, each runs its check of three
codes. -/
def rotateEff (d : Nat) (inCodes outCodes inCheck outCheck : List (BitVec 12)) (s : State) : State :=
  let spare := (List.range (sliceCount d)).find? fun i => sliceState s d i = slSpare && isCalibrated s d i
  match spare, oldestServing s d with
  | some inc, some out =>
    let b := sliceBank s d out
    if !(adcOn s d) || (workingSlices s d).length < sliceCount d || (checkRuns s d && b < 2) then s
    else
      let good := scanPasses s d out outCodes
      let worst := rotateGap s d inc out inCodes outCodes
      let inPass := dacCheck s d inc inCheck
      let outPass := dacCheck s d out outCheck
      let s := scanBank s d b outCodes
      if !good then s
      else if worst ≤ adcTol s then handOver s d inc out b
      else if inPass && outPass then
        let s := setCalibrated (setSlice s d inc slCalibrating) d inc false
        let s := dinc s d (adcF d R.ADC_STAT_ROTATE_ABORTS)
        logPut s 0x1012 sevNotice (adcSrc d) (adcWord d inc) out worst
      else
        let s := if outPass then s else retireSlice s d out 1
        if inPass then s else retireSlice s d inc 1
  | _, _ => s

/-! ## Test DAC (R397) -/

/-- A sensor check uses the DAC of a slice. -/
def dacBusy (s : State) (d i : Nat) : Bool := checkRuns s d && sliceState s d i = slServing && sliceBank s d i < 2

/-- The conversion of a slice's test DAC, by the word of ADC_DAC_CTRL and the raw code. -/
def dacRun (s : State) (d ctrl raw : Nat) : State :=
  let i := bitsOf ctrl 10 3
  if !(adcOn s d) || !((workingSlices s d).contains i) || !(isCalibrated s d i) then s
  else
    let c := corrected s d i raw
    let s := adcSet s d R.ADC_DAC_RESULT_DONE 1
    let s := adcSet s d R.ADC_DAC_RESULT_PASS (b2n (near c (4 * bitsOf ctrl 0 10) (adcTol s)))
    adcSet s d R.ADC_DAC_RESULT_CODE c

/-- A requested conversion; it waits while the DAC serves a sensor check (Table 16.4), and a later request takes its
place. -/
def dacConvertEff (d : Nat) (ctrl : Nat) (raw : Nat) (s : State) : State :=
  if dacBusy s d (bitsOf ctrl 10 3) then modDie s d fun x => { x with dacAsk := some (ctrl, raw) }
  else dacRun (modDie s d fun x => { x with dacAsk := none }) d ctrl raw

/-- The free part of a scan period: a conversion that waited runs (R392). -/
def dacFree (s : State) (d : Nat) : State :=
  match (dieOf s d).dacAsk with
  | some e => dacConvertEff d e.1 e.2 s
  | none => s

/-- A scan by row SENSOR_SCAN; bank 0 of the primary service die is scanned by FACILITY_SAMPLE. -/
def sensorScanEff (d : Nat) (b : Nat) (codes : List (BitVec 12)) (s : State) : State :=
  if bankCount d ≤ b || (d = 56 + b2n s.plane.primary && b = 0) then s else dacFree (scanBank s d b codes) d

def codesNat (l : List (BitVec 12)) : List Nat := l.map (·.toNat)

def execSensorScan (d : Fin 58) (bank : Fin 4) (codes : List (BitVec 12)) (s : State) : Res :=
  .next (sensorScanEff d.val bank.val codes s)
def execSliceCalibrate (d : Fin 58) (ground bandgap dac : List (BitVec 12)) (s : State) : Res :=
  .next (calibrateEff d.val (codesNat ground) (codesNat bandgap) (codesNat dac) s)
def execSliceRotate (d : Fin 58) (inCodes outCodes inCheck outCheck : List (BitVec 12)) (s : State) : Res :=
  .next (rotateEff d.val inCodes outCodes inCheck outCheck s)
def execAdcDacConvert (d : Fin 58) (ctrl : Word) (raw : BitVec 12) (s : State) : Res :=
  .next (dacConvertEff d.val ctrl.toNat raw.toNat s)

end Sys2Proof.Machine
end

