-- ==== Sys2Proof/Machine/Bci.lean ====
section
/-! DEFINITION. What the service die reads from bytes at step 3: the boot configuration image (R408, R409, R413,
R471) and the grade record (R423). -/
namespace Sys2Proof.Machine

/-! ## BCI images (Tables 17.4 to 17.6) -/

def bciMagic : Nat := 0x49434259

def bciCount (i : BciImage) : Nat := leAt i.bytes 6 2
def bciLen (i : BciImage) : Nat := leAt i.bytes 8 8
def bciSeq (i : BciImage) : DWord := BitVec.ofNat 64 (leAt i.bytes 16 8)
def bciSerial (i : BciImage) : BitVec 128 := BitVec.ofNat 128 (leAt i.bytes 24 16)

/-- A section of the table: type, payload offset and length. -/
def bciEntry (b : List Byte) (n : Nat) : Nat × Nat × Nat :=
  let e := 128 + 16 * n
  (leAt b e 2, leAt b (e + 8) 4, leAt b (e + 12) 4)

def bciSections (i : BciImage) : List (Nat × Nat × Nat) := (List.range (bciCount i)).map (bciEntry i.bytes)

/-- Types of Table 17.6. -/
def secFields : Nat := 1
def secTenants : Nat := 2
def secFwService : Nat := 3
def secFwPort : Nat := 4
def secFwBowler : Nat := 5
def secFwTile : Nat := 6
def secBciSig : Nat := 0xFFFF

/-- Offset and length of the first section of a type. -/
def bciSection (i : BciImage) (type : Nat) : Option (Nat × Nat) :=
  ((bciSections i).find? fun e => e.1 = type).map (·.2)

/-- The payload of a section; none is empty. -/
def bciPayload (i : BciImage) (type : Nat) : List Byte :=
  match bciSection i type with
  | some e => (i.bytes.drop e.1).take e.2
  | none => []

/-- Each section once, TENANTS at most once, nothing else, and SIGNATURE last. -/
def bciTypesOk (l : List Nat) : Bool :=
  let count (n : Nat) : Nat := (l.filter fun x => x = n).length
  ([secFields, secFwService, secFwPort, secFwBowler, secFwTile, secBciSig].all fun n => count n = 1)
    && count secTenants ≤ 1
    && (l.all fun x => [secFields, secTenants, secFwService, secFwPort, secFwBowler, secFwTile, secBciSig].contains x)
    && l.getLast? = some secBciSig

/-- Payloads start on 64-byte boundaries behind the table, end within the image and do not overlap; the signature
ends the image; firmware sections hold their header and signature and keep their limits. -/
def bciLayoutOk (i : BciImage) : Bool :=
  let l := bciSections i
  (l.all fun e => e.2.1 % 64 = 0 && 128 + 16 * l.length ≤ e.2.1 && e.2.1 + e.2.2 ≤ i.bytes.length)
    && (l.zipIdx.all fun a => l.zipIdx.all fun b =>
      a.2 = b.2 || a.1.2.1 + a.1.2.2 ≤ b.1.2.1 || b.1.2.1 + b.1.2.2 ≤ a.1.2.1)
    && (l.all fun e => e.1 ≠ secBciSig || (e.2.2 = 128 && e.2.1 + 128 = i.bytes.length))
    && (l.all fun e => !([secFwService, secFwPort, secFwBowler, secFwTile].contains e.1) || 192 ≤ e.2.2)
    && (l.all fun e => e.1 ≠ secFwBowler || e.2.2 ≤ 8 * 1048576)
    && (l.all fun e => e.1 ≠ secFwTile || e.2.2 ≤ 1048576)

/-- The reserved bytes of the header and of the section table are 0. -/
def bciReservedOk (i : BciImage) : Bool :=
  zeroAt i.bytes 48 80 && (List.range (bciCount i)).all fun n => zeroAt i.bytes (130 + 16 * n) 6

/-- The image keeps the form of R408. -/
def bciFormOk (i : BciImage) : Bool :=
  leAt i.bytes 0 4 = bciMagic && leAt i.bytes 4 2 = 1 && (bciCount i = 6 || bciCount i = 7)
    && bciLen i = i.bytes.length && bciTypesOk ((bciSections i).map (·.1)) && bciLayoutOk i && bciReservedOk i

/-- The 64 bytes (r, s) of a signature in the layout of R169. -/
def sigAt (b : List Byte) (off : Nat) : BitVec 512 := BitVec.ofNat 512 (beNat ((b.drop off).take 64))

/-- The image's signature, and SM3 of every byte before the SIGNATURE section. -/
def bciSigned (i : BciImage) (key : BitVec 512) : Bool :=
  match bciSection i secBciSig with
  | some e => Config.sm2Verify key (sm3 (i.bytes.take e.1)) (sigAt i.bytes e.1)
  | none => false

/-! ## Firmware sections -/

/-- Interface revision and body digest of a firmware header. -/
def fwRevision (p : List Byte) : Word := BitVec.ofNat 32 (leAt p 0 4)
def fwDigestAt (p : List Byte) : BitVec 256 := BitVec.ofNat 256 (beNat ((p.drop 32).take 32))

/-- The body has its digest, and the Crinen signature over header and body verifies. -/
def fwVerifies (p : List Byte) : Bool :=
  let n := p.length - 128
  decide (sm3 ((p.take n).drop 64) = fwDigestAt p) && Config.sm2Verify Config.firmwareKey (sm3 (p.take n)) (sigAt p n)

/-! ## FIELDS and TENANTS -/

/-- The records of a FIELDS payload from an offset on (R413); one that runs past the payload ends the scan. -/
def fieldRecs : Nat → Nat → List Byte → List FieldRec
  | 0, _, _ => []
  | fuel + 1, off, b =>
    if b.isEmpty then []
    else
      let len := leAt b 2 2
      let size := 4 + (len + 3) / 4 * 4
      let r : FieldRec :=
        { id := BitVec.ofNat 16 (leAt b 0 2), len := BitVec.ofNat 16 len, value := leAt b 4 len
          offset := BitVec.ofNat 32 off, truncated := decide (b.length < size) }
      r :: if b.length < size then [] else fieldRecs fuel (off + size) (b.drop size)

def bciFieldRecs (i : BciImage) : List FieldRec :=
  let p := bciPayload i secFields
  fieldRecs p.length 0 p

/-- A tenant entry at an offset (Table 20.3). -/
def tenantAt (b : List Byte) (off : Nat) : TenantEntry where
  head := BitVec.ofNat 128 (leAt b off 16)
  tenant := BitVec.ofNat 16 (leAt b off 2)
  defClass := BitVec.ofNat 8 (leAt b (off + 2) 1)
  maxSeq := BitVec.ofNat 16 (leAt b (off + 4) 2)
  mask := BitVec.ofNat 64 (leAt b (off + 8) 8)
  wrapped := BitVec.ofNat 1032 (beNat ((b.drop (off + 16)).take 129))
  offset := BitVec.ofNat 32 off

/-- The reserved bytes of a tenant entry are 0. -/
def tenantZeros (b : List Byte) (off : Nat) : Bool :=
  zeroAt b (off + 3) 1 && zeroAt b (off + 6) 2 && zeroAt b (off + 145) 47

/-- The entries of a TENANTS payload: COUNT of its header, at most 1,024 (R471). -/
def bciTenants (i : BciImage) : List TenantEntry :=
  let p := bciPayload i secTenants
  (List.range (min (leAt p 0 2) 1024)).map fun n => tenantAt p (16 + 192 * n)

/-! ## The grade record (Table 17.12) -/

/-- A stored copy verifies: its magic value, its version, and Crinen's signature over bytes 0 to 255. -/
def gradeVerifies (b : List Byte) : Bool :=
  b.length = 384 && leAt b 0 4 = 0x44524752 && leAt b 4 2 = 1
    && Config.sm2Verify Config.gradeKey (sm3 (b.take 256)) (sigAt b 256)

def gradeOf (b : List Byte) : GradeRec where
  grade := BitVec.ofNat 16 (leAt b 6 2)
  serial := BitVec.ofNat 128 (leAt b 8 16)
  dies := BitVec.ofNat 64 (leAt b 24 8)
  gib := BitVec.ofNat 16 (leAt b 32 2)
  ports := BitVec.ofNat 8 (leAt b 34 1)
  units := BitVec.ofNat 32 (leAt b 36 4)
  spares := (List.range 56).map fun d => (leAt b (64 + 2 * d) 1, leAt b (65 + 2 * d) 1)
  digest := sm3 b

end Sys2Proof.Machine
end

