-- ==== Sys2Proof/Machine/Coolant.lean ====
section
/-! DEFINITION. The coolant circuits (R371 to R373, R378 to R380): facility sensors, slow rules, and the Hold
after a sudden stop. -/
namespace Sys2Proof.Machine

/-! ## Flows -/

/-- Nominal flow and full scale of a circuit, in units of 0.1 L/min. -/
def flowNom (s : State) (i : Nat) : Nat := fieldOf s (F.TH_FLOW_NOM + i)
def flowFs (s : State) (i : Nat) : Nat := fieldOf s (F.TH_FLOW_FS + i)

def flowHist (s : State) (i : Nat) : List Nat := if i = 0 then s.plant.flow0 else s.plant.flow1
def flowLost (s : State) (i : Nat) : Bool := if i = 0 then s.plant.lost0 else s.plant.lost1
def flowLast (s : State) (i : Nat) : Nat := if i = 0 then s.plant.last0 else s.plant.last1

/-- Samples of 100 µs in 200 ms and in 100 ms. -/
def keepSamples : Nat := 2000
def slowSamples : Nat := 1000

/-- The valid samples of a history, each code × full scale. -/
def validSamples (l : List Nat) : List Nat := l.filterMap fun v => if v = 0 then none else some (v - 1)

/-- One sample more; `v` is code × full scale, none when it is discarded. -/
def pushFlow (s : State) (i : Nat) (v : Option Nat) : State :=
  modPlant s fun p =>
    let f (l : List Nat) : List Nat := ((v.map (· + 1)).getD 0 :: l).take keepSamples
    if i = 0 then { p with flow0 := f p.flow0, last0 := v.getD p.last0, lost0 := p.lost0 && v.isNone }
    else { p with flow1 := f p.flow1, last1 := v.getD p.last1, lost1 := p.lost1 && v.isNone }

/-- A flow of code × full scale in units of 0.01 L/min. -/
def flow100 (v : Rat) : Nat := (floorR (v * 10 / 4096)).toNat

/-- The 100 ms mean of a circuit; 80 % of nominal while its sensor is lost. -/
def flowMean (s : State) (i : Nat) : Option Rat :=
  if flowLost s i then some ((flowNom s i * 4096 * 80 : Nat) / 100)
  else
    let l := validSamples ((flowHist s i).take slowSamples)
    if l.isEmpty then none else some (meanR l)

/-- F of a circuit in percent of nominal. -/
def flowPercent (s : State) (i : Nat) : Option Rat :=
  (flowMean s i).map fun m => m * 100 / ((4096 * flowNom s i : Nat) : Rat)

/-- The lower F of the two circuits, with its circuit. -/
def flowWorst (s : State) : Option (Nat × Rat) :=
  match flowPercent s 0, flowPercent s 1 with
  | some a, some b => if b < a then some (1, b) else some (0, a)
  | some a, none => some (0, a)
  | none, some b => some (1, b)
  | none, none => none

/-! ## Samples (R372, R379) -/

/-- The rule of a sudden stop that a circuit's samples meet: two in a row below 20 % of nominal, or a fall by
more than 50 % of nominal within 200 ms. -/
def stopRule (s : State) (i : Nat) : Option Nat :=
  let full := 4096 * flowNom s i
  let low (v : Nat) : Bool := v ≠ 0 && 100 * (v - 1) < 20 * full
  match flowHist s i with
  | a :: b :: _ =>
    if low a && low b then some 0
    else if a ≠ 0 && (validSamples (flowHist s i)).any (fun v => full < 2 * (v - (a - 1))) then some 1
    else none
  | _ => none

/-- A temperature of a facility sensor: −50 + 200 × f °C, in units of 0.125 °C. -/
def facilityTemp (code : Nat) : Int := roundAway ((code : Rat) * 25 / 64) - 400

def noteFacilityTemp (s : State) (f : Fld) (code : Nat) : State :=
  if tempInRange (facilityTemp code) then pset s f (to12 (facilityTemp code)) else s

/-- Flows and temperatures of both circuits, by corrected code. -/
def noteFlows (code : Nat → Nat) (s : State) : State :=
  forEach [0, 1] s fun s i =>
    let v := code i * flowFs s i
    let s := pushFlow s i (if 2 * v ≤ 3 * (4096 * flowNom s i) then some v else none)
    let f := if i = 0 then R.TH_COOL_FLOW_TOP else R.TH_COOL_FLOW_CARRIER
    let s := match flowMean s i with
      | some m => pset s f (min (flow100 m) 65535)
      | none => s
    let s := noteFacilityTemp s (R.TH_COOL_TEMP_INLET.at i) (code (2 + 2 * i))
    noteFacilityTemp s (R.TH_COOL_TEMP_OUTLET.at i) (code (3 + 2 * i))

/-- The sudden-stop rule on the samples at hand. -/
def checkStop (s : State) : State :=
  match stopRule s 0, stopRule s 1 with
  | some r, _ => suddenStop s 0 (flow100 (flowLast s 0 : Rat)) r
  | none, some r => suddenStop s 1 (flow100 (flowLast s 1 : Rat)) r
  | none, none => s

/-- A scan of bank 0 of the primary service die: flows, temperatures, and the sudden-stop rule. -/
def facilityEff (codes : List (BitVec 12)) (s : State) : State :=
  let d := 56 + b2n s.plane.primary
  match servingSlice s d 0 with
  | none => s
  | some sl =>
    if !s.plane.vaux || !(isCalibrated s d sl) || !(dieOf s d).adcWarm then s
    else
      let pass := scanPasses s d sl codes
      let code (n : Nat) : Nat := corrected s d sl (rawAt codes n)
      let s := dacFree (scanBank s d 0 codes) d
      if pass then checkStop (noteFlows code s) else s

/-- A circuit has had no valid flow sample for 100 ms. -/
def sensorLostEff (i : Nat) (s : State) : State :=
  if !s.plane.vaux || flowLost s i then s
  else
    let s := modPlant s fun p => if i = 0 then { p with lost0 := true } else { p with lost1 := true }
    logPut s 0x0F18 sevWarning (svcSrc s) i (flow100 (flowLast s i : Rat)) 0

/-- An inlet has stayed above TH_INLET_MAX_C, or below 25 °C, for 1 s. -/
def inletEff (i : Nat) (below : Bool) (s : State) : State :=
  let raw := pget s (R.TH_COOL_TEMP_INLET.at i)
  let holds : Bool := if below then temp12 raw < 200 else 8 * (fieldOf s F.TH_INLET_MAX_C : Int) < temp12 raw
  if s.plane.vaux && holds then logPut s 0x0F19 sevWarning (svcSrc s) i raw (b2n below) else s

/-! ## Slow rules (R378) -/

/-- The FLOW cap for F in percent: none at or above 85 %; below 20 % the slow rule gives none. -/
def capForFlow (f : Rat) : Option Nat :=
  if 85 ≤ f || f < 20 then none else some (15 - (-(floorR (-((85 - f) / 5)))).toNat)

def permilleR (f : Rat) : Nat := (floorR (f * 10)).toNat

/-- Milliseconds that end a warning episode: 10 s at or above 92 %. -/
def episodeEnd : Nat := 10000

/-- How long F has been at or above 92 % and 90 %. -/
def timeFlow (s : State) (f : Rat) : State :=
  modPlant s fun p => { p with
    above := if 92 ≤ f then p.above + 1 else 0
    flowOkSince := if 90 ≤ f then some (p.flowOkSince.getD (now s)) else none }

/-- The warning below 90 %, and the end of its episode. -/
def warnFlow (s : State) (c : Nat) (f : Rat) : State :=
  if f < 90 && !s.plant.warnEpisode then
    let s := modPlant (pinc s R.TH_COOL_STAT_WARNS) fun p => { p with warnEpisode := true }
    let s := logPut s 0x0F10 sevWarning (svcSrc s) c (permilleR f) 0
    if coolState s = coolNormal then setCool s coolWarning else s
  else if s.plant.warnEpisode && episodeEnd ≤ s.plant.above then
    let s := modPlant s fun p => { p with warnEpisode := false }
    if coolState s = coolWarning then setCool s coolNormal else s
  else s

/-- The FLOW cap tightens at once. -/
def cutFlow (s : State) (c : Nat) (f : Rat) : State :=
  match capForFlow f with
  | some cap =>
    if cap < pget s R.TH_COOL_STAT_FLOW_CAP && !s.plant.stopped then
      let s := setCool (setFlowCap s cap) coolCap
      logPut s 0x0F11 sevWarning (svcSrc s) c (permilleR f) cap
    else s
  | none => s

/-- An evaluation, each 1 ms. -/
def flowEvalEff (s : State) : State :=
  match flowWorst s with
  | none => s
  | some (c, f) => cutFlow (warnFlow (timeFlow s f) c f) c f

/-- STATE outside a stop. -/
def coolAfter (s : State) : Nat := if s.plant.warnEpisode then coolWarning else coolNormal

/-- F has stayed 2 % above the lower threshold of the band that the cap would loosen to, for 10 s. -/
def flowLoosenEff (s : State) : State :=
  let cap := pget s R.TH_COOL_STAT_FLOW_CAP
  match flowWorst s with
  | none => s
  | some (_, f) =>
    if s.plant.stopped || 15 ≤ cap || f < ((92 - 5 * (15 - cap : Nat) : Int) : Rat) then s
    else
      let s := setFlowCap s (cap + 1)
      if cap + 1 = 15 then setCool s (coolAfter s) else s

/-! ## Hold after a sudden stop (R380) -/

def inStopHold (s : State) : Bool := s.plant.stopped && powerState s = psHold

def holdTimeoutEff (s : State) : State := if inStopHold s then holdEnds s else s

/-- Both circuits are at or above 90 % of nominal. -/
def flowRestored (s : State) : Bool :=
  match flowPercent s 0, flowPercent s 1 with
  | some a, some b => 90 ≤ a && 90 ≤ b
  | _, _ => false

/-- The device leaves the Hold after a stop: 0 automatic, 1 management. -/
def resumeStop (s : State) (holdS how : Nat) : State :=
  let n := s.plant.endedInHold
  let s := modPlant s fun p => { p with stopped := false, endedInHold := 0 }
  let s := setFlowCap (setCool s (coolAfter s)) 15
  let s := logPut s 0x0F13 sevNotice (svcSrc s) holdS n how
  leaveHold s 1

def holdResumeEff (holdS : Nat) (s : State) : State :=
  if inStopHold s && fieldOf s F.TH_AUTO_RESUME = 1 && flowRestored s then resumeStop s holdS 0 else s

def secNs : Nat := 1000000000

/-- Both circuits have stayed restored for TH_RESUME_S. -/
def restoredLong (s : State) : Bool :=
  flowRestored s && (s.plant.flowOkSince.map fun t => decide (t + fieldOf s F.TH_RESUME_S * secNs ≤ now s)).getD false

/-- The resume operation; false when it is not honoured. -/
def mgmtResume (s : State) : Bool × State :=
  if inStopHold s && restoredLong s then (true, resumeStop s ((now s - s.plant.holdSince) / secNs) 1)
  else (false, s)

def opResume : Nat := 0x0018

def resumeEff (m : Mgmt) : State → State :=
  mgmtOp isReady opResume m fun s =>
    let r := mgmtResume s
    reply r.2 m opResume (if r.1 then stDone else stNotNow) []

def execFacilitySample (codes : List (BitVec 12)) (s : State) : Res := .next (facilityEff codes s)
def execFlowSensorLost (i : Fin 2) (s : State) : Res := .next (sensorLostEff i.val s)
def execInletAlarm (i : Fin 2) (below : Bool) (s : State) : Res := .next (inletEff i.val below s)
def execFlowEvaluate (s : State) : Res := .next (flowEvalEff s)
def execFlowCapLoosen (s : State) : Res := .next (flowLoosenEff s)
def execHoldTimeout (s : State) : Res := .next (holdTimeoutEff s)
def execHoldResume (holdS : Word) (s : State) : Res := .next (holdResumeEff holdS.toNat s)
def execResume (m : Mgmt) (s : State) : Res := .next (resumeEff m s)

end Sys2Proof.Machine
end

