-- ==== Sys2Proof/Machine/Forecast.lean ====
section
/-! DEFINITION. The forecast of a Bowler (R35, R107, R383, R384): the occupancies that the wave groups in flight
bring to each layer group, by the SCHED figures of the chosen route variants, and the pace targets that follow. -/
namespace Sys2Proof.Machine

/-! ## Occupancies to come (R35; notes/assumptions/99) -/

/-- The window of the forecast and the idle time that a slice needs, in ns. -/
def windowNs : Nat := 1000000
def idleNs : Nat := 200000

/-- The SCHED row of an occupancy: of its layer and bucket, the one of the least size that holds the group, else
the one of the greatest size. -/
def schedRow (rows : List Sched) (layer size bucket : Nat) : Option Sched :=
  let l := rows.filter fun r => r.layer = layer && r.bucket = bucket
  let up := l.filter fun r => size ≤ r.size
  let pick (a : Option Sched) (r : Sched) : Option Sched :=
    match a with
    | some b => if r.size < b.size then some r else a
    | none => some r
  let top (a : Option Sched) (r : Sched) : Option Sched :=
    match a with
    | some b => if b.size < r.size then some r else a
    | none => some r
  (up.foldl pick none).orElse fun _ => l.foldl top none

/-- The highest fallback fraction, in 1/1,024, of the last completed storm windows of a layer group's tiles. -/
def layerFraction (s : State) (x : Context) (layer : Nat) : Nat :=
  (layerTiles x layer).foldl (fun a t => max a (tget s t R.QC_WINDOW_FRACTION)) 0

/-- Length bucket of a group: that of its first member (R252). -/
def groupBucket (g : WGroup) : Nat :=
  match g.members with
  | m :: _ => bucketOf (if m.step.prefill then m.step.first + m.step.npos else m.step.first + 1)
  | [] => 0

/-- An occupancy of a layer group in ns at step 11 and in µJ, scaled by the fallback fraction (R107). -/
def occupancy (s : State) (x : Context) (rows : List Sched) (g : WGroup) (layer : Nat) : Nat × Nat :=
  if g.bubble then (idleNs, 0)
  else
    match schedRow rows layer g.members.length (groupBucket g) with
    | some r =>
      let f := 1024 + layerFraction s x layer
      (r.waves * f / 2048, r.energy * f / 1024)
    | none => (0, 0)

/-- Layers that a group reaches before a time, the first one at `t0`: layer, time and energy. -/
def reached (s : State) (x : Context) (rows : List Sched) (g : WGroup) (stop : Nat) :
    Nat → Nat → Nat → List (Nat × Nat × Nat)
  | 0, _, _ => []
  | fuel + 1, layer, t0 =>
    if stop ≤ t0 then []
    else if ctxLayers x ≤ layer then [(layer, t0, 0)]
    else
      let o := occupancy s x rows g layer
      (layer, t0, o.2) :: reached s x rows g stop fuel (layer + 1) (t0 + o.1)

/-- What every group in flight of a context reaches before a time; a bubble is no work. -/
def workAhead (s : State) (c : Nat) (x : Context) (stop : Nat) : List (Nat × Nat × Nat) :=
  let rows := schedRows x
  ((s.serving.groups.filter fun g => g.ctx.val = c && !g.bubble).map fun g =>
    reached s x rows g stop (ctxLayers x + 1 - g.layer) g.layer 0).flatten

/-- Proposals of the passes that wait for a lane. -/
def laneWork (s : State) (x : Lane) : Nat :=
  x.queue.foldl (fun a k => a + ((seqBySlot s k).map fun q => max 1 (passLen s q)).getD 0) 0

/-- Forecast energy of a tile in the next window, in µJ at step 11. -/
def tileEnergy (s : State) (t : Tid) : Nat :=
  match tileCtx s t with
  | none => 0
  | some c =>
    match ctxOf s c with
    | none => 0
    | some x =>
      match (laneTileOf s t).bind (laneOf s) with
      | some l => laneWork s l * x.image.serve.draftEnergy
      | none =>
        if !(placed x t) then 0
        else
          let here := (workAhead s c x windowNs).filter fun e => e.1 = tileLayer s t
          here.foldl (fun a e => a + e.2.2) 0 / max 1 (layerTiles x (tileLayer s t)).length

/-- The forecast shows the tile's layer group idle for 200 µs: nothing inside but a bubble, and no wave group and
no projection work before then (R37, R445, R448). -/
def layerIdle (s : State) (t : Tid) : Bool :=
  match tileCtx s t with
  | none => true
  | some c =>
    match ctxOf s c with
    | none => true
    | some x =>
      let layer := tileLayer s t
      match (laneTileOf s t).bind (laneOf s), groupAt s t with
      | some l, _ => l.queue.isEmpty
      | none, some g => g.bubble
      | none, none =>
        let ahead := workAhead s c x idleNs
        !(ahead.any fun e => e.1 = layer || (e.1 = ctxLayers x && (List.range x.dies.length).any fun i => projLayer x i = layer))
          && !(s.serving.groups.any fun g => g.ctx.val = c && (projAt x layer 0 g || projAt x layer 1 g))

/-! ## Targets (R383, R384) -/

/-- A window that missed: the measured energy of a tile above its forecast by more than a tenth (R384). -/
def noteMiss (d : Fin 56) (s : State) (x : Nat × Nat) : State :=
  if 11 * (tileOf s ⟨d, tileNo x.1⟩).forecast < 10 * x.2 then dinc s d.val R.FC_STAT_FC_MISS else s

/-- The step of a tile's next window, before the die's budget: TH_IDLE_STEP of an idle one. -/
def windowTarget (s : State) (d : Fin 56) (pdie : Rat) (x : Nat × Nat) : Nat :=
  let cap := capOf s ⟨d, tileNo x.1⟩
  if x.2 = 0 then min (fieldOf s F.TH_IDLE_STEP) cap else coolStep s d.val x.1 x.2 pdie cap

/-- A changed target goes to its tile in an ORDER. -/
def giveTarget (t : Tid) (n : Nat) (s : State) : State :=
  if tget s t R.PACE_STEP_TARGET = n then s
  else post (tset s t R.PACE_STEP_TARGET n) (.order t (.paceTarget (Fin.ofNat 16 n)))

/-- The target and the forecast energy of a tile's next window. -/
def planTile (d : Fin 56) (s : State) (x : Nat × Nat × Nat) : State :=
  let t : Tid := ⟨d, tileNo x.1⟩
  modTile (giveTarget t x.2.2 s) t fun y => { y with
    forecast := satW 63 (1000 * tilePower d.val x.1 x.2.1 x.2.2) }

/-- The Bowler's window: misses of the window that ended, by the measured energy of each tile, then the targets of
the next one. -/
def forecastEff (d : Fin 56) (measured : List Nat) (s : State) : State :=
  if !(dieOn s d.val) || !(dieUp s d.val) then s
  else
    let live := (List.range 24).filter fun i => railOn s ⟨d, tileNo i⟩
      && (roleOf s ⟨d, tileNo i⟩ = roleActive || roleOf s ⟨d, tileNo i⟩ = roleLane)
    let l := live.map fun i => (i, tileEnergy s ⟨d, tileNo i⟩)
    let busy := l.filter fun x => x.2 ≠ 0
    let pdie := sumPower d.val (busy.map fun x => (x.1, x.2, 11))
    let plan := fitBudget d.val (fieldOf s F.PW_DIE_CONT_W : Int) 400
      (l.map fun x => (x.1, x.2, windowTarget s d pdie x))
    let hot := plan.foldl (fun a x => max a (forecastHot s d.val pdie (tilePower d.val x.1 x.2.1 x.2.2))) 0
    let s := forEach (live.map fun i => (i, (measured[i]?).getD 0)) s (noteMiss d)
    let s := forEach plan s (planTile d)
    let s := dset s d.val R.FC_STAT_FC_ENERGY (satW 16 (sumPower d.val plan))
    dset s d.val R.TH_DIE_STAT_FC_HOT (satW 8 hot)

def execForecastWindow (d : Fin 56) (measured : List Nat) (s : State) : Res := .next (forecastEff d measured s)

end Sys2Proof.Machine
end

