-- ==== Sys2Proof/Machine/Tests.lean ====
section
/-! DEFINITION. Test slices of the built-in test engine (R444 to R450), sweeps and bubbles (R447, R448), a Bowler
that falls silent (R453), and entries that reach the trouble log (R456, R457). -/
namespace Sys2Proof.Machine

/-! ## Slices of a tile (Table 19.1) -/

/-- Slices of a kind that a tile can run; a crossing must exist. -/
def sliceValid (t : Tid) (k : SliceId) : Bool :=
  match k.kind.val with
  | 0 => k.index < 4
  | 1 => k.index < 64
  | 2 => k.index < 2
  | 3 => k.index < 4 && (neighbour t (dirOf k.index)).isSome
  | _ => k.index = 0

/-- The slice has run in this sweep (Table 19.14); the parts of the buffer run in order. -/
def sliceDone (s : State) (t : Tid) (k : SliceId) : Bool :=
  match k.kind.val with
  | 0 => tbit (tget s t R.SK_TILE_STAT_QUAD_DONE) k.index
  | 1 => tget s t R.SK_TILE_STAT_PARTS_DONE ≠ k.index
  | 2 => tbit (tget s t R.SK_TILE_STAT_NEWT_DONE) k.index
  | 3 => tbit (tget s t R.SK_TILE_STAT_CROSS_DONE) k.index
  | 4 => tget s t R.SK_TILE_STAT_MITTEN_DONE = 1
  | _ => true

/-- Slices that a sweep gives a tile, and how many of them have run. -/
def sweepSlices (t : Tid) : Nat :=
  4 + 64 + 2 + (allDirs.filter fun d => (neighbour t d).isSome).length + 1

def bitCount (w v : Nat) : Nat := ((List.range w).filter (tbit v)).length

def doneSlices (s : State) (t : Tid) : Nat :=
  bitCount 4 (tget s t R.SK_TILE_STAT_QUAD_DONE) + tget s t R.SK_TILE_STAT_PARTS_DONE
    + bitCount 2 (tget s t R.SK_TILE_STAT_NEWT_DONE) + bitCount 4 (tget s t R.SK_TILE_STAT_CROSS_DONE)
    + tget s t R.SK_TILE_STAT_MITTEN_DONE

/-- What a slice needs to start, its turn aside. -/
def slicePlace (s : State) (t : Tid) (k : SliceId) : Bool :=
  sliceValid t k && railOn s t && isReady s && powerState s = psRun && !s.plane.cpHeld
    && (tileOf s t).slice.isNone && layerIdle s t && !(k.kind.val = 0 && anyOpen (tileOf s t))

/-- The sweep of a die runs. -/
def sweepRuns (s : State) (d : Fin 56) : Bool := (dieOf s d.val).sweep.isSome

/-- Slices of a kind that the sweep still owes a tile. -/
def kindLeft (s : State) (t : Tid) (kind : Nat) : Bool :=
  (List.range 64).any fun i =>
    let k : SliceId := ⟨Fin.ofNat 6 kind, i⟩
    sliceValid t k && !(sliceDone s t k)

/-- The kind of the tile's next sweep slice: round robin over the kinds (R447). -/
def nextKind (s : State) (t : Tid) : Nat :=
  (((List.range 5).map fun i => ((tileOf s t).lastKind + 1 + i) % 5).find? (kindLeft s t)).getD 0

/-- Its turn: a slice that a fault has started goes ahead of the sweep. -/
def sliceTurn (s : State) (t : Tid) (k : SliceId) : Bool :=
  let w := (tileOf s t).wanted
  if w.contains k then true
  else !(w.any (slicePlace s t)) && sweepRuns s t.d && !(sliceDone s t k) && k.kind.val = nextKind s t

/-- Bytes of a vector core's register file and of a buffer part. -/
def fileBytes : Nat := 262144
def partLines : Nat := 1536

/-- The logical vector core that a physical one serves (R48). -/
def coreServed (ts : TileState) (i : Nat) : Nat := if ts.newtAlt then 1 - i else i

/-- What a slice saves: the lines of a buffer part, or a register file (Table 19.1). -/
def sliceSaves (ts : TileState) (k : SliceId) : List Byte :=
  match k.kind.val with
  | 1 => bufRead ts (partLines * lineBytes * k.index) (partLines * lineBytes)
  | 2 => mbytes (vregFile ts (coreServed ts k.index)) 0 fileBytes
  | _ => []

/-- The region goes to the test frames of the tile's own column (R445). -/
def saveRegion (s : State) (t : Tid) (k : SliceId) : State :=
  stackWrite s t.d.val (fid t.t.val testFrame0) 0 (sliceSaves (tileOf s t) k)

def sliceStartEff (t : Tid) (k : SliceId) (s : State) : State :=
  if slicePlace s t k && sliceTurn s t k then
    let s := saveRegion s t k
    post (tset (modTile s t fun ts => { ts with
      slice := some ⟨k, now s, ts.wanted.contains k⟩
      lastKind := if ts.wanted.contains k then ts.lastKind else k.kind.val
      wanted := ts.wanted.filter fun x => x ≠ k }) t R.SK_TILE_STAT_BUSY 1)
      (.order t .testSlice)
  else s

/-- A line of a buffer part that the restore reads flagged is handled as R57 gives; one of a register file has no value
any more. -/
def restoreLost (s : State) (t : Tid) (k : SliceId) (line : Nat) : State :=
  let bs := freeBytes s lineBytes
  if k.kind.val = 1 && line < partLines then
    let l := partLines * k.index + line
    let s := modTile (bumpFree s) t fun ts => { ts with
      buf := mstore ts.buf (l * lineBytes) bs
      bufBad := (ts.bufBad.filter fun e => e.1 ≠ l) ++ (List.range 32).map fun w => (l, w) }
    flagWord s t l 0
  else if k.kind.val = 2 && line * lineBytes < fileBytes then
    modTile (bumpFree s) t fun ts =>
      let c := coreServed ts k.index
      setVregFile ts c (mstore (vregFile ts c) (line * lineBytes) bs)
  else s

/-! ## Lanes that fail in a loopback (R446) -/

def setLinkHalf (s : State) (t : Tid) (d : Dir) (v : Nat) : State :=
  rset s t.d.val dieScope ((match d with
    | .n => R.LINK_WIDTH_N_HALF
    | .e => R.LINK_WIDTH_E_HALF
    | .s => R.LINK_WIDTH_S_HALF
    | .w => R.LINK_WIDTH_W_HALF).at t.t.val) v

def setLinkState (s : State) (t : Tid) (d : Dir) (v : Nat) : State :=
  rset s t.d.val dieScope ((match d with
    | .n => R.LINK_WIDTH_N_STATE
    | .e => R.LINK_WIDTH_E_STATE
    | .s => R.LINK_WIDTH_S_STATE
    | .w => R.LINK_WIDTH_W_STATE).at t.t.val) v

def ctrlFld (t : Tid) (d : Dir) : Fld :=
  (match d with
    | .n => R.LINK_WIDTH_N_CTRL
    | .e => R.LINK_WIDTH_E_CTRL
    | .s => R.LINK_WIDTH_S_CTRL
    | .w => R.LINK_WIDTH_W_CTRL).at t.t.val

def sparesFld (t : Tid) (d : Dir) : Fld :=
  (match d with
    | .n => R.LINK_LANES_N_SPARES
    | .e => R.LINK_LANES_E_SPARES
    | .s => R.LINK_LANES_S_SPARES
    | .w => R.LINK_LANES_W_SPARES).at t.t.val

/-- STATE of a link (Table 17.21). -/
def lkFull : Nat := 1
def lkReduced : Nat := 2
def lkFailed : Nat := 3

/-- ITEM of a link's repair-map entries. -/
def linkItem (t : Tid) (d : Dir) : Nat := 4 * t.t.val + dirNum d

/-- Spares of a sublink (4: control) that the repair map shows in use. -/
def sparesUsed (s : State) (t : Tid) (d : Dir) (sub : Nat) : Nat :=
  (s.store.repair.filter fun e => e.kind.toNat = 0x09 && e.die.toNat = t.d.val
    && e.item.toNat = linkItem t d && e.detail.toNat / 256 = sub).length

/-- A failed lane of a link between dies: a spare lane takes its place, or the sublink runs at half width, or
the link fails for want of a control spare. True when no spare took its place. -/
def failLane (s : State) (t : Tid) (d : Dir) (lane : Nat) : Bool × State :=
  let sub := lane / 256
  let used := sparesUsed s t d sub
  if sub < 4 then
    if tbit (linkHalf s t d) sub then (true, s)
    else if used < 8 then
      let s := rmAdd s 0x09 t.d.val (linkItem t d) lane
      (false, rset s t.d.val dieScope (sparesFld t d) (rget s t.d.val dieScope (sparesFld t d) + 1))
    else
      let s := rmAdd s 0x0A t.d.val (linkItem t d) sub
      let s := setLinkState (setLinkHalf s t d (setBit (linkHalf s t d) sub)) t d lkReduced
      (true, sublinksFell s t d [sub])
  else if used < 2 then
    let s := rmAdd s 0x09 t.d.val (linkItem t d) lane
    (false, rset s t.d.val dieScope (ctrlFld t d) (used + 1))
  else
    let s := setLinkState (rmAdd s 0x0B t.d.val (linkItem t d) 0) t d lkFailed
    (true, logPut s 0x1115 sevError (svcSrc s) (widx t) (dirNum d) 0)

/-- Data and control lanes of a crossing that a loopback can name. -/
def crossingLanes : Nat := 1040

/-- Lanes of the incoming crossing from a direction fail; the action taken (Table 19.2). -/
def failCrossing (s : State) (t : Tid) (d : Dir) (lanes : List Nat) : Nat × State :=
  match neighbour t d with
  | none => (2, s)
  | some n =>
    let lanes := (lanes.filter (· < crossingLanes)).eraseDups
    if n.d ≠ t.d then
      let src := dirOpp d
      let known (l : Nat) : Bool := s.store.repair.any fun e => e.kind.toNat = 0x09 && e.die.toNat = n.d.val
        && e.item.toNat = linkItem n src && e.detail.toNat = l
      lanes.foldl (fun (a : Nat × State) l =>
        if known l then a
        else
          let (bad, s) := failLane a.2 n src l
          (if bad then 3 else a.1, s)) (2, s)
    else
      let old := kget noHalf (tileOf s t).halfBad (dirNum d)
      let new := lanes.foldl (fun a l => if l < 1024 then setBit a (l / 512) else a) old
      let s := modTile s t fun ts => { ts with halfBad := kset noHalf ts.halfBad (dirNum d) new }
      if new = 3 then (0, modTile s t fun ts => { ts with fencePend := some .slice })
      else if new = old then (3, s)
      else (3, sublinksFell s n (dirOpp d) [0, 1, 2, 3])

/-! ## Outcomes (R450, Table 19.2) -/

/-- Lanes of a loopback that fail: with an error at the calibrated point, or with an estimate over the last 64 slices
above 10^-SK_LANE_BER_EXP (R446). -/
def badLanes (s : State) (r : SliceResult) : List Nat :=
  r.items ++ (r.rates.filter fun e => 10 ^ (18 - fieldOf s F.SK_LANE_BER_EXP) < e.2).map (·.1)

/-- The first DAC code that a path of the tile fails, by the slice that serves its bank: path 0 A, 1 B. -/
def pathFails (s : State) (t : Tid) (r : SliceResult) (path : Nat) : Option Nat :=
  (servingSlice s t.d.val path).bind fun sl =>
    (dacCodes.zipIdx.find? fun e =>
      !(near (corrected s t.d.val sl (rawAt r.codes (3 * path + e.2))) (4 * e.1) (adcTol s))).map (·.1)

/-- The slice fails. -/
def sliceFails (s : State) (t : Tid) (k : SliceId) (r : SliceResult) : Bool :=
  match k.kind.val with
  | 3 => !(badLanes s r).isEmpty
  | 4 => r.items.any (· < 16)
  | 5 => (pathFails s t r 0).isSome || (pathFails s t r 1).isSome
  | _ => r.failed

/-- Payload word 1 of SK_SLICE_FAIL: the failing cell, line, lane, phase or DAC code. -/
def sliceDetail (s : State) (t : Tid) (k : SliceId) (r : SliceResult) : Nat :=
  match k.kind.val with
  | 3 => ((badLanes s r).head?).getD 0
  | 4 => (r.items.find? (· < 16)).getD 0
  | 5 => ((pathFails s t r 0).orElse fun _ => pathFails s t r 1).getD 0
  | _ => r.detail.toNat

/-- Mark a slice done in the sweep. -/
def markDone (s : State) (t : Tid) (k : SliceId) : State :=
  let bit (f : Fld) : State := tset s t f (setBit (tget s t f) k.index)
  match k.kind.val with
  | 0 => bit R.SK_TILE_STAT_QUAD_DONE
  | 1 => if tget s t R.SK_TILE_STAT_PARTS_DONE = k.index then
      tset s t R.SK_TILE_STAT_PARTS_DONE (k.index + 1) else s
  | 2 => bit R.SK_TILE_STAT_NEWT_DONE
  | 3 => bit R.SK_TILE_STAT_CROSS_DONE
  | 4 => tset s t R.SK_TILE_STAT_MITTEN_DONE 1
  | _ => s

/-- A vector core is fenced (R49): action 1, or 0 with the second core, which fences the tile. -/
def fenceCore (s : State) (t : Tid) (i : Nat) : Nat × State :=
  let f := setBit (tget s t R.TILE_STAT_NEWT_FENCE) i
  let s := raise (tset s t R.TILE_STAT_NEWT_FENCE f) t R.TILE_FAULT_NEWT_LOST
  if f = 3 then (0, modTile s t fun ts => { ts with fencePend := some .cores }) else (1, s)

/-- A diode path fails its check: `detail` is the DAC code that failed (R375). -/
def failPath (s : State) (t : Tid) (which detail : Nat) : State :=
  let f := if which = 0 then R.TH_HOT_A_FAILED else R.TH_HOT_B_FAILED
  let s := rmAdd (tset s t f 1) 0x04 t.d.val t.t.val which
  updateHot (logPut s 0x0F17 sevWarning (.tile t) (widx t * 2 ^ 16) which detail) t

/-- What a failed slice causes, and the number of the action. -/
def failAction (s : State) (t : Tid) (k : SliceId) (r : SliceResult) : Nat × State :=
  match k.kind.val with
  | 0 => (0, modTile s t fun ts => { ts with fencePend := some .slice })
  | 1 => (0, modTile s t fun ts => { ts with fencePend := some .slice })
  | 2 => fenceCore s t k.index
  | 3 => failCrossing s t (dirOf k.index) (badLanes s r)
  | 4 => (4, failPhases s t (r.items.filter (· < 16)) 3)
  | _ => (5, forEach ([0, 1].filterMap fun i => (pathFails s t r i).map fun c => (i, c)) s fun s e => failPath s t e.1 e.2)

/-- A failed slice: its count, its action and SK_SLICE_FAIL. -/
def sliceFailed (s : State) (t : Tid) (k : SliceId) (r : SliceResult) : State :=
  let detail := sliceDetail s t k r
  let (act, s) := failAction (tinc s t R.SK_TILE_FAIL_FAILED) t k r
  logPut s 0x1310 sevError (.tile t) (widx t * 2 ^ 16 + k.kind.val * 2 ^ 8 + k.index) detail act

/-! ## Sweeps (R447) -/

/-- Tiles that a sweep of a die covers. -/
def sweepTiles (s : State) (d : Fin 56) : List Tid := (tilesOfDie d).filter (railOn s)

def sweepTotal (s : State) (d : Fin 56) : Nat := sumNat ((sweepTiles s d).map sweepSlices)
def sweepDone (s : State) (d : Fin 56) : Nat := sumNat ((sweepTiles s d).map (doneSlices s))

/-- A sweep takes its SK_SWEEP_HOURS as it starts; with SK_PERIODIC 0 none starts (R460). -/
def openSweep (s : State) (d : Fin 56) : State :=
  modDie s d.val fun x => { x with
    sweep := if fieldOf s F.SK_PERIODIC = 1 then some (fieldOf s F.SK_SWEEP_HOURS) else none }

/-- SK_PERIODIC has been written: a die without a sweep starts one. -/
def periodicSet (s : State) : State :=
  if isReady s then forEach (allDies.filter fun d => !(sweepRuns s d)) s openSweep else s

/-- The next sweep of a die starts. -/
def startSweep (s : State) (d : Fin 56) : State :=
  let s := forEach (tilesOfDie d) s fun s t =>
    let s := tset s t R.SK_TILE_STAT_PARTS_DONE 0
    let s := tset s t R.SK_TILE_STAT_QUAD_DONE 0
    let s := tset s t R.SK_TILE_STAT_NEWT_DONE 0
    let s := tset s t R.SK_TILE_STAT_CROSS_DONE 0
    tset s t R.SK_TILE_STAT_MITTEN_DONE 0
  let s := dset (dset s d.val R.SK_DIE_STAT_PROGRESS 0) d.val R.SK_DIE_STAT_LATE 0
  openSweep (modDie s d.val fun x => { x with lateWritten := false }) d

/-- PROGRESS of a die; the last slice of a sweep ends it. -/
def noteSweep (s : State) (d : Fin 56) : State :=
  let total := sweepTotal s d
  let n := sweepDone s d
  if total = 0 then s
  else if total ≤ n then startSweep (dinc s d.val R.SK_DIE_STAT_SWEEPS) d
  else dset s d.val R.SK_DIE_STAT_PROGRESS (100 * n / total)

def sliceEndEff (t : Tid) (r : SliceResult) (s : State) : State :=
  match (tileOf s t).slice with
  | none => s
  | some x =>
    let bad := sliceFails s t x.id r
    let s := closeSlice s t x (if bad then 1 else 0) r.micros
    let s := markDone (forEach r.lost s fun s l => restoreLost s t x.id l) t x.id
    noteSweep (if bad then sliceFailed s t x.id r else s) t.d

/-- A die's part has not ended within SK_SWEEP_HOURS: once per sweep. -/
def sweepLateEff (d : Fin 56) (hours : Nat) (s : State) : State :=
  if !(isReady s) || !(dieOn s d.val) || (dieOf s d.val).lateWritten
      || !(((dieOf s d.val).sweep.map fun h => decide (h ≤ hours)).getD false) then s
  else
    let s := modDie (dset s d.val R.SK_DIE_STAT_LATE 1) d.val fun x => { x with lateWritten := true }
    logPut s 0x1315 sevWarning (.die d.val) d.val hours (sweepTotal s d - sweepDone s d)

/-! ## Bubbles (R448) -/

/-- A bubble of the context at the barrier of layer 0. -/
def formBubble (s : State) (c : Fin 4) (x : Context) : State :=
  let g : WGroup :=
    { id := s.serving.groupId, ctx := c, prefill := false, speed := false, bubble := true, members := []
      layer := 0, inside := false, newVer := false, discarded := false, rerun := false
      since := now s, dones := [], proj := [] }
  let s := modServing s fun v => { v with
    groupId := v.groupId + 1, bubbleAt := kput v.bubbleAt c.val (now s + 1) }
  arriveAt s x g 0

/-- A second has passed since the context's last bubble; 0 stands for none. -/
def bubbleDue (s : State) (c : Nat) : Bool :=
  match kget noHalf s.serving.bubbleAt c with
  | 0 => true
  | n + 1 => n + secNs ≤ now s

/-- A Bowler asks for a bubble: the scheduler admits it when a pipeline slot is free. -/
def bubbleReqEff (t : Tid) (s : State) : State :=
  match tileCtx s t with
  | none => s
  | some c =>
    match ctxOf s c with
    | none => s
    | some x =>
      if !(placed x t) || !(ctxServing s c) || !(isReady s) then s
      else
        let s := dinc s t.d.val R.SK_DIE_STAT_BUBBLES
        let cf : Fin 4 := Fin.ofNat 4 c
        let room := (s.serving.groups.filter fun g => g.ctx = cf).length < pipeSlots s x
        if admissionOpen s c && room && bubbleDue s c then formBubble s cf x else s

/-- A layer group has held a bubble for 200 µs: it passes on to the next layer group, and leaves the pipeline
after the last. -/
def bubblePassEff (c : Fin 4) (layer : Nat) (s : State) : State :=
  match ctxOf s c.val, s.serving.groups.find? fun g => g.bubble && g.ctx = c && g.inside && g.layer = layer with
  | some x, some g =>
    let rest (s : State) : State :=
      modServing s fun v => { v with groups := v.groups.filter fun h => h.id ≠ g.id }
    if layer + 1 < ctxLayers x then arriveAt (rest s) x { g with inside := false, since := now s } (layer + 1)
    else rest s
  | _, _ => s

/-! ## Silent Bowlers and the log -/

/-- A Bowler has answered no control message for 10 ms: its die has failed. -/
def bowlerTimeoutEff (d : Fin 56) (s : State) : State :=
  if isReady s && dieOn s d.val then failDie s d 3 else s

def execTestSliceStart (t : Tid) (k : SliceId) (s : State) : Res := .next (sliceStartEff t k s)
def execTestSliceEnd (t : Tid) (r : SliceResult) (s : State) : Res := .next (sliceEndEff t r s)
def execSliceAbandon (t : Tid) (s : State) : Res := .next (abandonSlice s t)
def execBubbleRequest (t : Tid) (s : State) : Res := .next (bubbleReqEff t s)
def execBubblePassOn (c : Fin 4) (layer : Nat) (s : State) : Res := .next (bubblePassEff c layer s)
def execSweepLate (d : Fin 56) (hours : Word) (s : State) : Res := .next (sweepLateEff d hours.toNat s)
def execBowlerTimeout (d : Fin 56) (s : State) : Res := .next (bowlerTimeoutEff d s)
/-- A code of the groups of Table 19.8, with a low byte from 0x10 on (R458). -/
def codeNamed (c : Nat) : Bool := 4 ≤ c / 256 && c / 256 ≤ 0x14 && 0x10 ≤ c % 256

/-- An entry that its source has formed; no other code is ever written. -/
def execLogEntry (e : LogRec) (s : State) : Res := .next (if codeNamed e.code.toNat then logRec s e else s)

end Sys2Proof.Machine
end

