-- ==== Sys2Proof/Machine/BringUp.lean ====
section
/-! DEFINITION. Bring-up (R405, R406, R409 to R428): the steps of Table 17.1 as commands, each of which acts when
the step that it ends is in progress; image checks, field checks, link training, firmware, stacks and the full
test pass. -/
namespace Sys2Proof.Machine

/-! ## Steps (Table 17.1) -/

def buStep (s : State) : Nat := pget s R.BU_STAT_STEP
def setBuStep (s : State) (n : Nat) : State := pset s R.BU_STAT_STEP n

/-- Step `n` of the power-on sequence is in progress, and nothing holds it (R429, R440): the module reset pin
is released, and steps that need the compute plane wait while it holds. -/
def atStep (s : State) (n : Nat) : Bool :=
  s.plane.vaux && s.pins.modResetN && pget s R.BU_STAT_STATE = 0 && buStep s = n

def atPowerStep (s : State) (n : Nat) : Bool :=
  atStep s n && s.plane.powered && powerState s = psRun && !s.plane.cpHeld

/-- Entries that arise in one step go into one write of the repair map (Table 17.14). -/
def oneWrite (old new : State) : State :=
  if old.store.repairSeq = new.store.repairSeq then new
  else modStore new fun r =>
    rmWrite { r with
      repairSeq := old.store.repairSeq, copy0 := old.store.copy0, copy1 := old.store.copy1 } r.repair

/-! ## Step 2: COLD_POWER_ON (R405, R466) -/

/-- A Bonnet that does not hold the device key writes SEC_BONNET_FAIL; which of its two causes is not the
command's to say. -/
def bonnetFail (s : State) (q : Nat) : State :=
  let why := (Config.freeWord (freeNo s)).toNat % 2
  logPut (bumpFree s) 0x1410 sevError (.service q) q why 0

/-- The recovery state (R412): ALERT_N asserts, and CFG_RECOVERY is written. -/
def enterRecovery (s : State) (gradeBad : Bool) : State :=
  let s := pset s R.BU_STAT_STATE buRecovery
  let s := modPins s fun p => { p with alertN := false }
  logPut s 0x1111 sevError (svcSrc s)
    (pget s R.BU_STAT_REJECT_A + pget s R.BU_STAT_REJECT_B * 2 ^ 4) (b2n gradeBad) 0

/-- VAUX12 becomes valid: the timebase starts at 0, both service dies boot, and SD[1] is primary when SD[0] or
its Bonnet fails. -/
def coldPowerOnEff (rom0 bon0 rom1 bon1 : Bool) (s : State) : State :=
  let s := forEach [0, 1] (coldState s) showCage
  let s := modPlane s fun p => { p with
    primary := !(rom0 && bon0), standbyOk := rom0 && bon0 && rom1 && bon1 }
  let s := pset (pset s R.BON_STAT_KEY_OK_0 (b2n bon0)) R.BON_STAT_KEY_OK_1 (b2n bon1)
  let s := pset s R.TB_STAT_SOURCE (b2n s.plane.primary)
  let s := pset s R.LOG_STAT_MIRRORED (b2n s.plane.standbyOk)
  let s := if bon0 then s else bonnetFail s 0
  let s := if bon1 then s else bonnetFail s 1
  if bon0 || bon1 then s else enterRecovery s false

/-! ## Step 3: BCI_VERIFY (R409, R421 to R423, R469, R470) -/

/-- The well-formed configuration key of the higher COUNTER is in force; the other copy is rewritten. -/
def syncCfgKey (s : State) : State :=
  let k := cfgKey s
  if k.wellFormed then modStore s fun r => { r with cfg0 := k, cfg1 := k } else s

/-- What the device takes for a grade when no record verifies: no die, and port 0 for recovery. -/
def noGrade : GradeRec := { fullGrade with dies := 0, ports := 1, units := 0, gib := 0, spares := [] }

/-- The grade record in force, and whether one is (R423). -/
def readGrade (s : State) : Bool × State :=
  let r := s.store
  if gradeVerifies r.gradeMram && (gradeOf r.gradeMram).serial = r.moduleSerial then
    (true, modStore s fun r => { r with grade := gradeOf r.gradeMram, gradeFlash := r.gradeMram })
  else if gradeVerifies r.gradeFlash then
    let s := modStore s fun r => { r with grade := gradeOf r.gradeFlash }
    (true, logPut s 0x1118 sevWarning (svcSrc s) (gradeOf r.gradeFlash).grade.toNat 0 0)
  else (false, modStore s fun r => { r with grade := noGrade })

/-- The repair map rebuilt from the factory spare positions (R422). -/
def factoryMap (s : State) : List RmEntry :=
  ((allDies.filter fun d => dieActive s d.val).map fun d =>
    let p := (s.store.grade.spares[d.val]?).getD (20, 21)
    [(⟨0x02, BitVec.ofNat 8 d.val, 0, BitVec.ofNat 32 p.1⟩ : RmEntry),
     ⟨0x02, BitVec.ofNat 8 d.val, 1, BitVec.ofNat 32 p.2⟩]).flatten

/-- The repair map in force: the copy that verifies and has the higher sequence number. -/
def readRepair (s : State) : State :=
  let a := s.store.copy0
  let b := s.store.copy1
  let use (c : RmCopy) : State := modStore s fun r => { r with repair := c.entries, repairSeq := c.seq, overflow := [] }
  if a.ok && (!b.ok || b.seq ≤ a.seq) then use a
  else if b.ok then use b
  else
    let s := modStore s fun r =>
      rmWrite { r with repairSeq := max a.seq b.seq, overflow := [] } (factoryMap s)
    logPut s 0x1117 sevError (svcSrc s) (a.seq % 2 ^ 32) (b.seq % 2 ^ 32) 0

/-- The reason for which an image is rejected, 0 when it is valid (Table 17.7). -/
def imageReason (s : State) (i : BciImage) : Nat :=
  if !i.readable || 16 * mib < bciLen i then 1
  else if !(bciFormOk i) then 2
  else if bciSerial i ≠ 0 && bciSerial i ≠ s.store.moduleSerial then 3
  else if !(bciSigned i (cfgKey s).key) then 4
  else if !([secFwService, secFwPort, secFwBowler, secFwTile].all fun t => fwVerifies (bciPayload i t)) then 5
  else 0

/-- Registers of the tiles of a die whose repair map or grade moves its roles. -/
def dieRoles (s : State) (d : Fin 56) : State :=
  let moved := s.store.repair.any fun e =>
    (e.kind.toNat = 0x01 || e.kind.toNat = 0x02) && e.die.toNat = d.val
  if moved || [0, 1].map (sparePos s d.val) ≠ [20, 21] then
    forEach (tilesOfDie d) s fun s t =>
      let r := homeRole s t
      let s := setRole s t r
      if r = roleSpare || r = roleActive then s else tset s t R.MITTEN_TILE_RAIL railIsolated
  else s

/-- A rail that an isolation keeps dark: every phase reads isolated (R362, R363). -/
def setIsolated (s : State) (t : Tid) : State :=
  forEach (List.range 16) (tset s t R.MITTEN_TILE_MAX_STEP 0) fun s p => tset s t (R.MITTEN_STAT_ISOLATED.at p) 1

/-- Failed phases of a tile set its caps. -/
def setPhases (s : State) (t : Tid) : State :=
  let n := failedPhases s t
  let s := tset s t R.MITTEN_TILE_PHASES_OK (16 - n)
  let s := if 3 ≤ n then setIsolated s t else tset s t R.MITTEN_TILE_MAX_STEP (maxStepOf n)
  if 3 ≤ n then s else modTile s t fun ts => { ts with caps := { ts.caps with phase := maxStepOf n } }

/-- What one entry of the repair map sets in the registers. -/
def applyEntry (s : State) (e : RmEntry) : State :=
  let d := e.die.toNat
  let i := e.item.toNat
  let v := e.detail.toNat
  let t (n : Nat) : Tid := ⟨Fin.ofNat 56 d, tileNo n⟩
  match e.kind.toNat with
  | 0x01 => if v = 1 || v = 2 then setIsolated s (t i) else s
  | 0x03 =>
    let t := t (i / 16)
    let s := tset s t (R.MITTEN_STAT_FAILED.at (i % 16)) 1
    let s := tset s t (R.MITTEN_STAT_ISOLATED.at (i % 16)) 1
    setPhases (tset s t (R.MITTEN_STAT_CAUSE.at (i % 16)) v) t
  | 0x04 => tset s (t i) (if v = 0 then R.TH_HOT_A_FAILED else R.TH_HOT_B_FAILED) 1
  | 0x05 => setSlice s d i slRetired
  | 0x06 =>
    let s := dset s d (R.STK_COL_SPARED.at (i / 16)) (setBit (dget s d (R.STK_COL_SPARED.at (i / 16))) (i % 16))
    dset s d R.STK_STAT_SPARES_LEFT (min (dget s d R.STK_STAT_SPARES_LEFT) (15 - v))
  | 0x07 =>
    let s := dset s d (R.STK_COL_RETIRED.at (i / 16)) (setBit (dget s d (R.STK_COL_RETIRED.at (i / 16))) (i % 16))
    dset s d R.STK_STAT_RETIRED (dget s d R.STK_STAT_RETIRED + 1)
  | 0x08 => modDie s d fun x => { x with retired := kput x.retired (fid i v) 1 }
  | _ => s

/-- Every register value "from repair map". -/
def applyRepairMap (s : State) : State :=
  forEach allDies (forEach s.store.repair s applyEntry) dieRoles

/-- Step 3. `boot` is the boot number that Bonnet draws, which is not 0 (R268). -/
def bciVerifyEff (boot : Word) (s : State) : State :=
  if !(atStep s 3) || boot = 0 then s
  else
    let s := syncCfgKey s
    let (gradeOk, s) := readGrade s
    let s := applyRepairMap (readRepair s)
    let a := imageReason s s.store.bciA
    let b := imageReason s s.store.bciB
    let s := pset (pset s R.BU_STAT_REJECT_A a) R.BU_STAT_REJECT_B b
    let s := pset s R.BU_STAT_IMAGE (b2n (a ≠ 0 && b = 0))
    let s := modServing s fun v => { v with boot := boot }
    if !gradeOk || (a ≠ 0 && b ≠ 0) then startTraining (enterRecovery s !gradeOk) 0
    else setBuStep s 4

/-! ## Step 4: FIELD_CHECK (R413 to R415, R471) -/

def bciInUse (s : State) : BciImage :=
  if pget s R.BU_STAT_IMAGE = 0 then s.store.bciA else s.store.bciB

/-- STATUS of a configuration report entry (Table 17.8). -/
def cfClamped : Nat := 1
def cfUnknown : Nat := 2
def cfDuplicate : Nat := 3
def cfMalformed : Nat := 4
def cfTenant : Nat := 5

/-- The check in progress: fields set so far, report entries, and the counts of records that stand for a known
field, selected a default by 0, were clamped, unknown, duplicate and malformed. -/
structure Checking where
  seen    : List Nat
  values  : List (Nat × Nat)
  entries : List CfgEntry
  stored  : Nat
  zeros   : Nat
  clamped : Nat
  unknown : Nat
  dup     : Nat
  bad     : Nat
  deriving DecidableEq, Repr

def Checking.start : Checking := ⟨[], [], [], 0, 0, 0, 0, 0, 0⟩

def cfgEntry (r : FieldRec) (status effective : Nat) : CfgEntry where
  id := r.id
  status := BitVec.ofNat 8 status
  len := r.len
  offset := r.offset
  stored := r.value % 2 ^ 128
  effective := effective

def addEntry (k : Checking) (r : FieldRec) (status effective : Nat) : Checking :=
  { k with entries := k.entries ++ [cfgEntry r status effective] }

/-- One record; the value of its LEN bytes. -/
def checkRecord (k : Checking) (r : FieldRec) : Checking :=
  match fieldDef r.id.toNat with
  | none => addEntry { k with unknown := k.unknown + 1 } r cfUnknown 0
  | some f =>
    let id := r.id.toNat
    let k := { k with stored := k.stored + 1 }
    if k.seen.contains id then
      addEntry { k with dup := k.dup + 1 } r cfDuplicate (kget fieldDefault k.values id)
    else
      let v := fieldCheckVal f r.value
      let k := { k with seen := id :: k.seen, values := kset fieldDefault k.values id v }
      if r.value = 0 ∧ f.zeroDefault then { k with zeros := k.zeros + 1 }
      else if fieldClamped f r.value then addEntry { k with clamped := k.clamped + 1 } r cfClamped v
      else k

/-- The records in order; one that runs past the payload ends the scan. -/
def checkFields (k : Checking) : List FieldRec → Checking
  | [] => k
  | r :: rest =>
    let malformed := addEntry { k with bad := k.bad + 1 } r cfMalformed 0
    if r.truncated then malformed
    else if r.len.toNat < 1 || 16 < r.len.toNat then checkFields malformed rest
    else checkFields (checkRecord k r) rest

/-- Every field of the field tables. -/
def fieldTotal : Nat := sumNat (fieldTable.map (·.count))

/-- Why a tenant entry is left out: 1 key, 2 TENANT above 1,023, 3 repeated, 4 no class; 0 when it stands. -/
def tenantCause (dev : Nat) (earlier : List TenantEntry) (e : TenantEntry) : Nat :=
  if (tenantSecret dev e.wrapped).isNone then 1
  else if 1023 < e.tenant.toNat then 2
  else if earlier.any fun x => x.tenant = e.tenant then 3
  else if e.mask = 0 then 4
  else 0

/-- DEFAULT_CLASS within CLASS_MASK, else the lowest class of the mask. -/
def defaultClass (e : TenantEntry) : Nat :=
  let k := e.defClass.toNat
  if k < 64 && tbit e.mask.toNat k then k
  else ((List.range 64).find? (tbit e.mask.toNat)).getD 0

/-- A tenant with its replay state afresh (R268). -/
def freshTenant (s : State) (e : TenantEntry) : Tenant where
  defClass := defaultClass e
  maxSeq := e.maxSeq.toNat
  mask := e.mask
  key := (tenantSecret s.store.devicePriv.toNat e.wrapped).getD 0
  highest := s.serving.boot.toNat * 2 ^ 32
  accepted := []
  send := s.serving.boot.toNat * 2 ^ 32

/-- A tenant key that does not unwrap is counted and logged (R471). -/
def unwrapFail (s : State) (tenant : Nat) : State :=
  logPut (pinc s R.BON_STAT_UNWRAP_FAILS) 0x1411 sevWarning (svcSrc s) 1 tenant 0

/-- The TENANTS section: the tenants that stand, and the entries for those left out. -/
def checkTenants (s : State) (earlier : List TenantEntry) (listed : List CfgEntry) :
    List TenantEntry → State × List CfgEntry
  | [] => (s, listed)
  | e :: rest =>
    let cause := tenantCause s.store.devicePriv.toNat earlier e
    if cause = 0 then
      checkTenants (setTenant s e.tenant.toNat (some (freshTenant s e))) (earlier ++ [e]) listed rest
    else
      let s := if cause = 1 then unwrapFail s e.tenant.toNat else s
      let c : CfgEntry :=
        { id := e.tenant, status := BitVec.ofNat 8 cfTenant, len := 192, offset := e.offset
          stored := e.head.toNat, effective := cause }
      checkTenants s (earlier ++ [e]) (listed ++ [c]) rest

/-- The slices of a die's converters take the banks in their order; none is calibrated yet (R400). -/
def startConverters (s : State) (d : Nat) : State :=
  let s := modDie s d fun x => { x with
    calibrated := 0, calFails := [], scanFails := [], served := [], banksTold := 0, adcWarm := false, dacAsk := none }
  let s := forEach (workingSlices s d) s fun s i => setSlice s d i slSpare
  fillBanks s d

def fieldCheckEff (s : State) : State :=
  if !(atStep s 4) then s
  else
    let img := bciInUse s
    let k := checkFields .start (bciFieldRecs img)
    let s := { s with fields := k.values, bciFields := k.values, recorded := [] }
    let s := forEach [0, 1] s fun s p => latchFields s p (trainFields ++ opticFields)
    let (s, tenants) := checkTenants s [] [] (bciTenants img)
    let entries := k.entries ++ tenants
    let report : CfgReport :=
      { image := pget s R.BU_STAT_IMAGE = 1, seqA := bciSeq s.store.bciA, seqB := bciSeq s.store.bciB
        rejA := pget s R.BU_STAT_REJECT_A, rejB := pget s R.BU_STAT_REJECT_B
        counts := [k.stored, fieldTotal - k.seen.length, k.zeros, k.clamped, k.unknown, k.dup, k.bad]
        entries := entries }
    let s := startConverters (startConverters { s with report := report } 56) 57
    let s := pset s R.BU_STAT_LISTED (min entries.length 65535)
    let s := logPut s 0x1110 sevNotice (svcSrc s)
      (b2n report.image + report.rejA * 2 ^ 8 + report.rejB * 2 ^ 12) ((bciSeq img).toNat % 2 ^ 32) entries.length
    setBuStep s 5

/-! ## Step 5: SITE_SOFT_START (R405, R358, R400, R463) -/

/-- PG_IN and VIN48 allow the start, and no pin holds the compute plane. -/
def supplyGood (s : State) : Bool :=
  s.pins.pgIn && s.pins.cpResetN && !s.plant.vinLow && !s.plant.vinLost

/-- The DETAIL of a failed die in the repair map. -/
def dieDetail (s : State) (d : Nat) : Option Nat :=
  ((s.store.repair ++ s.store.overflow).find? fun e =>
    e.kind.toNat = 0x0C && e.die.toNat = d && e.item.toNat = 0).map (·.detail.toNat)

/-- A converter that latched: it tripped, or failed its soft start. -/
def latchedOff (s : State) (d : Nat) : Bool := dieDetail s d = some 0 || dieDetail s d = some 2

/-- One site converter starts; its Bowler turns the tiles on and calibrates the slices. -/
def startSite (s : State) (d : Fin 56) (fails : Bool) : State :=
  if !(dieActive s d.val) then dset s d.val R.PW_DIE_STAT_SITE siteOff
  else if dieFailed s d.val then
    dset s d.val R.PW_DIE_STAT_SITE (if latchedOff s d.val then siteTripped else siteOff)
  else if fails then dset (failDie s d 2) d.val R.PW_DIE_STAT_SITE siteTripped
  else
    let s := modDie (dset s d.val R.PW_DIE_STAT_SITE siteOn) d.val fun x => { x with failed := false }
    startConverters (dieRailsOn s d) d.val

/-- The serials as they are read after step 5, compute and edge dies first, then the stacks. -/
def keepSerials (s : State) (l : List (BitVec 128)) : State :=
  let at_ (i : Nat) : BitVec 128 := (l[i]?).getD 0
  modStore s fun r => { r with
    dieSerials := (List.range 60).map at_, stackSerials := (List.range 56).map fun i => at_ (60 + i) }

def softStartEff (failed : List (Fin 56)) (serials : List (BitVec 128)) (s : State) : State :=
  if !(atStep s 5) || !(supplyGood s) || powerState s ≠ psRun then s
  else
    let new := modPlane s fun p => { p with powered := true, cpHeld := false, resend := [] }
    let new := forEach allDies new fun s d => startSite s d (failed.contains d)
    setBuStep (keepSerials (oneWrite s new) serials) 6

/-! ## Step 6: LINK_TRAINING (R418, R419) -/

/-- The die at the other end of a base-wafer link. -/
def linkTo (t : Tid) (d : Dir) : Option Nat :=
  match neighbour t d with
  | some n => if n.d = t.d then none else some n.d.val
  | none => edgeDie t d

def sparesOf (l : List Nat) : List Nat := l.filter (· < 256)

/-- One sublink with its failed lanes among 264: spares in use, half width, failed. -/
def sublinkOf (failed : List Nat) : List Nat × Bool × Bool :=
  let l := (failed.filter (· < 264)).eraseDups
  let spares := 8 - (l.filter fun i => 256 ≤ i).length
  ((sparesOf l).take spares, 8 < l.length, 264 < l.length + 128)

/-- A trained link: its registers, its repair-map entries and its log entry. -/
def setLink (s : State) (t : Tid) (d : Dir) (failed : List (List Nat)) (ctrl : List Nat) : State :=
  let subs := (List.range 4).map fun i => sublinkOf ((failed[i]?).getD [])
  let c := (ctrl.filter (· < 18)).eraseDups
  let item := linkItem t d
  if subs.any (fun x => x.2.2) || 2 < c.length then
    let s := setLinkState (rmAdd s 0x0B t.d.val item 0) t d lkFailed
    let n := sumNat ((List.range 4).map fun i => (sparesOf (((failed[i]?).getD []).eraseDups)).length)
    logPut s 0x1115 sevError (svcSrc s) (widx t) (dirNum d) n
  else
    let half := (List.range 4).filter fun i => (subs[i]?).any (·.2.1)
    let ctl := (c.filter (· < 16)).take (2 - (c.filter fun i => 16 ≤ i).length)
    let s := forEach subs.zipIdx s fun s x => forEach x.1.1 s fun s lane =>
      rmAdd s 0x09 t.d.val item (x.2 * 256 + lane)
    let s := forEach ctl s fun s lane => rmAdd s 0x09 t.d.val item (4 * 256 + lane)
    let s := forEach half s fun s i => rmAdd s 0x0A t.d.val item i
    let s := setLinkHalf (setLinkState s t d (if half = [] then lkFull else lkReduced)) t d (half.foldl setBit 0)
    let s := rset s t.d.val dieScope (ctrlFld t d) ctl.length
    let s := rset s t.d.val dieScope (sparesFld t d) (sumNat (subs.map fun x => x.1.length))
    if half = [] then s
    else logPut s 0x1114 sevWarning (svcSrc s) (widx t) (dirNum d) (1024 - 128 * half.length)

/-- A link to or from a failed die is marked failed without training: the count of its failed lanes is open. -/
def markLinkFailed (s : State) (t : Tid) (d : Dir) : State :=
  let s := setLinkState (rmAdd s 0x0B t.d.val (linkItem t d) 0) t d lkFailed
  let n := (Config.freeWord (freeNo s)).toNat % 1025
  logPut (bumpFree s) 0x1115 sevError (svcSrc s) (widx t) (dirNum d) n

/-- Lanes that count as failed: errors in the first training and in each of the BU_TRAIN_RETRIES that follow it. -/
def lanesFailed (s : State) (l : List (Nat × Nat)) : List Nat :=
  (l.filter fun e => fieldOf s F.BU_TRAIN_RETRIES < e.2).map (·.1)

/-- The failed lanes of a link in the list; a link that is not listed trained without a failed lane. -/
def resultOf (s : State) (results : List LinkResult) (t : Tid) (d : Dir) : List (List Nat) × List Nat :=
  match results.find? fun r => r.src = t && r.dir = d with
  | some r => (r.failed.map (lanesFailed s), lanesFailed s r.ctrl)
  | none => ([], [])

def trainLink (results : List LinkResult) (s : State) (t : Tid) (d : Dir) : State :=
  match linkTo t d with
  | none => s
  | some o =>
    let there : Bool := 56 ≤ o || dieActive s o
    if !(dieActive s t.d.val) || !there then s
    else if !(dieUp s t.d.val) || !(56 ≤ o || dieUp s o) then markLinkFailed s t d
    else
      let r := resultOf s results t d
      setLink s t d r.1 r.2

def linkTrainingEff (results : List LinkResult) (s : State) : State :=
  if !(atPowerStep s 6) then s
  else
    let new := rmDrop s fun e => e.kind.toNat = 0x09 || e.kind.toNat = 0x0A || e.kind.toNat = 0x0B
    let new := forEach allDies new fun s d =>
      let b := R.LINK_WIDTH_N_STATE.blk
      { s with regs := s.regs.filter fun e => !(keyDie e.1 = d.val && keyBlk e.1 = b) }
    let new := forEach allDies new fun s d => forEach (tilesOfDie d) s fun s t =>
      forEach allDirs s fun s dir => trainLink results s t dir
    setBuStep (oneWrite s new) 7

/-! ## Step 7: CROSSING_CALIBRATION (R184) -/

def calFld (d : Dir) : Fld :=
  match d with
  | .n => R.CROSS_CAL_CAL_MAX_N
  | .e => R.CROSS_CAL_CAL_MAX_E
  | .s => R.CROSS_CAL_CAL_MAX_S
  | .w => R.CROSS_CAL_CAL_MAX_W

/-- CAL_MAX of a flight time: 15 where 6 waves hold at every step, else the highest step at which they do. -/
def calMaxOf (ps : Nat) : Nat :=
  ((List.range 16).filter fun k => flightWaves ps k ≤ crossingRest).foldl max 0

/-- The measured flight of every crossing is kept, for its stage counts; one that exceeds 6 waves at some step has a
limit. A crossing that is not listed has no flight to count (notes/assumptions/101). -/
def calibrationEff (results : List CalResult) (s : State) : State :=
  if !(atPowerStep s 7) then s
  else
    let s := { s with regs := s.regs.filter fun e =>
      !(keyBlk e.1 = R.CROSS_CAL_CAL_MAX_N.blk && keyOff e.1 = R.CROSS_CAL_CAL_MAX_N.off) }
    let s := forEach (s.tiles.map (·.1)) s fun s k =>
      modTile s ⟨Fin.ofNat 56 (k / 24), Fin.ofNat 24 k⟩ fun ts => { ts with flights := [] }
    let s := forEach results s fun s r =>
      if !(dieOn s r.consumer.d.val) then s
      else
        let s := modTile s r.consumer fun ts => { ts with
          flights := kset (fun _ => 0) ts.flights (dirNum r.dir) r.flight }
        let m := calMaxOf r.flight
        if 15 ≤ m then s
        else
          let s := tset s r.consumer (calFld r.dir) m
          logPut s 0x0714 sevWarning (.tile r.consumer) (widx r.consumer) (dirNum r.dir) m
    setBuStep s 8

/-! ## Step 8: firmware (R416, R417, R180) -/

/-- Each active tile at the lower of PC_INIT_STEP and PC_MAX_STEP, spares at step 0. -/
def startSteps (s : State) : State :=
  let start := min (fieldOf s F.PC_INIT_STEP) (fieldOf s F.PC_MAX_STEP)
  forEach allDies s fun s d => forEach (tilesOfDie d) s fun s t =>
    let s := tset s t R.PACE_STEP_TARGET (fieldOf s F.PC_INIT_STEP)
    tset s t R.PACE_STEP_EFFECTIVE
      (if roleOf s t = roleActive && railOn s t then min start (protCap s t) else 0)

/-- FW_TILE is multicast: at step 8, or once more when the tiles are on after a compute-plane reset or Hold
(R431, R437). -/
def fwDue (s : State) : Bool :=
  atPowerStep s 8 || isReady s && s.plane.fwCheck && s.plane.powered && !s.plane.cpHeld && powerState s ≤ psDoze

/-- Every recipient runs its firmware, or is out: the step ends. -/
def firmwareDone (s : State) : State :=
  if !s.plane.resend.isEmpty then s
  else if isReady s then modPlane s fun p => { p with fwCheck := false }
  else
    let s := modPlane s fun p => { p with fwIface := fwRevision (bciPayload (bciInUse s) secFwTile) }
    setBuStep (startSteps s) 9

def bowlerKey (d : Nat) : Nat := 2000 + d

/-- The multicast: recipients whose digest differs ask for a resend. -/
def broadcastEff (badTiles : List Tid) (badBowlers : List (Fin 56)) (s : State) : State :=
  if !(fwDue s) || !s.plane.resend.isEmpty then s
  else
    let tiles := (badTiles.filter (railOn s)).map fun t => (tkey t, 1)
    let bowlers := (badBowlers.filter fun d => !(isReady s) && dieOn s d.val && dieUp s d.val).map fun d => (bowlerKey d.val, 1)
    firmwareDone (modPlane s fun p => { p with resend := (tiles ++ bowlers).eraseDups })

/-- Failed attempts that end a recipient's firmware. -/
def fwAttempts : Nat := 3

/-- A recipient is out: a tile is fenced, a Bowler marks its die failed. -/
def firmwareFails (s : State) (t : Tid) (bowler : Bool) : State :=
  let s := logPut s 0x1116 sevWarning (.die t.d.val) (widx t) (b2n bowler) fwAttempts
  if bowler then failDie s t.d 3 else fenceTile s t .firmware

/-- A unicast resend to a tile, or to a Bowler. -/
def resendEff (t : Tid) (bowler ok : Bool) (s : State) : State :=
  let key := if bowler then bowlerKey t.d.val else tkey t
  match s.plane.resend.find? fun e => e.1 = key with
  | none => s
  | some e =>
    if !(fwDue s) then s
    else
      let rest := s.plane.resend.filter fun x => x.1 ≠ key
      if !ok && e.2 + 1 < fwAttempts then
        modPlane s fun p => { p with resend := rest ++ [(key, e.2 + 1)] }
      else
        let s := modPlane s fun p => { p with resend := rest }
        firmwareDone (if ok then s else firmwareFails s t bowler)

/-! ## Steps 9 and 10 (R405, R222) -/

/-- A channel that fails training: a spare takes its place, or it is retired. -/
def channelFails (s : State) (d col ch : Nat) : State :=
  if chRetired s d col ch then s
  else if dget s d R.STK_STAT_SPARES_LEFT = 0 then retireChannel s d col ch
  else
    let n := nextSpare s d
    takeSpare (spareIn s d col ch n) d col ch 1

/-- Every die that is up holds a stack of zeros. -/
def stackInitEff (failed : List (Fin 56 × Fin 24 × Fin 10)) (s : State) : State :=
  if !(atPowerStep s 9) then s
  else
    let new := forEach failed s fun s e =>
      if dieOn s e.1.val && dieUp s e.1.val then channelFails s e.1.val e.2.1.val e.2.2.val else s
    setBuStep (oneWrite s new) 10

/-- One slice of the full pass; a tile that fails is fenced at once. -/
def passSlice (s : State) (t : Tid) (k : SliceId) (r : SliceResult) : State :=
  if !(railOn s t) || !(sliceValid t k) then s
  else
    let s := pushRecord s t.d.val
      { stamp := stamp s, tile := BitVec.ofNat 16 (widx t), kind := BitVec.ofNat 8 k.kind.val
        index := BitVec.ofNat 8 k.index, outcome := if sliceFails s t k r then 1 else 0
        coverage := coverageOf k.kind.val, micros := r.micros }
    let s := if sliceFails s t k r then sliceFailed s t k r else s
    match (tileOf s t).fencePend with
    | some why => fenceTile s t why
    | none => s

/-- The full pass: the slices whose records it names, in their order. Every port starts its training. -/
def fullPassEff (results : List (Tid × SliceId × SliceResult)) (s : State) : State :=
  if !(atPowerStep s 10) then s
  else
    let new := forEach results s fun s e => passSlice s e.1 e.2.1 e.2.2
    let s := forEach [0, 1] (oneWrite s new) startTraining
    setBuStep s 11

/-! ## Step 12 (R405, R406) -/

/-- An enabled port whose module is ready still trains for the first time. -/
def portTrains (s : State) (p : Nat) : Bool :=
  portOn s p && (moduleReady s p).isSome && (portOf s p).attempt.isSome

def failedDies (s : State) : Nat :=
  (allDies.filter fun d => dieActive s d.val && !(dieUp s d.val)).length

def buReadyEff (ms : Nat) (s : State) : State :=
  if !(atStep s 11) || !s.plane.powered || powerState s ≠ psRun || s.plane.cpHeld || portTrains s 0
      || portTrains s 1 then s
  else
    let s := forEach allDies (setBuStep (pset s R.BU_STAT_STATE buReadyState) 12) openSweep
    let s := modPins (pset s R.BU_TIME_MS ms) fun p => { p with ready := true }
    logPut s 0x1112 sevNotice (svcSrc s) (pget s R.BU_TIME_MS) (failedDies s) s.plane.fenced

/-- BU_READY_LATE_S has passed before READY. -/
def buLateEff (ms : Nat) (s : State) : State :=
  if !s.plane.vaux || isReady s || pget s R.BU_STAT_LATE = 1 || ms < 1000 * fieldOf s F.BU_READY_LATE_S then s
  else
    let s := pset s R.BU_STAT_LATE 1
    logPut s 0x1113 sevWarning (svcSrc s) (buStep s) ms 0

def execColdPowerOn (romOk0 bonnetOk0 romOk1 bonnetOk1 : Bool) (s : State) : Res :=
  .next (coldPowerOnEff romOk0 bonnetOk0 romOk1 bonnetOk1 s)
def execBciVerify (boot : Word) (s : State) : Res := .next (bciVerifyEff boot s)
def execFieldCheck (s : State) : Res := .next (fieldCheckEff s)
def execSiteSoftStart (failed : List (Fin 56)) (serials : List (BitVec 128)) (s : State) : Res :=
  .next (softStartEff failed serials s)
def execLinkTraining (results : List LinkResult) (s : State) : Res := .next (linkTrainingEff results s)
def execCrossingCalibration (results : List CalResult) (s : State) : Res := .next (calibrationEff results s)
def execFirmwareBroadcast (badTiles : List Tid) (badBowlers : List (Fin 56)) (s : State) : Res :=
  .next (broadcastEff badTiles badBowlers s)
def execFirmwareResend (t : Tid) (bowler ok : Bool) (s : State) : Res := .next (resendEff t bowler ok s)
def execStackInit (failed : List (Fin 56 × Fin 24 × Fin 10)) (s : State) : Res := .next (stackInitEff failed s)
def execSkinkFullPass (results : List (Tid × SliceId × SliceResult)) (s : State) : Res :=
  .next (fullPassEff results s)
def execBuReady (ms : Word) (s : State) : Res := .next (buReadyEff ms.toNat s)
def execBuLate (ms : Word) (s : State) : Res := .next (buLateEff ms.toNat s)

end Sys2Proof.Machine
end

