-- ==== Sys2Proof/Machine/Resets.lean ====
section
/-! DEFINITION. The module reset and the compute-plane reset (R429 to R431, R439, R440), and the power states that
management requests (R435 to R438). -/
namespace Sys2Proof.Machine

/-! ## Module reset (R430, R439) -/

/-- A field whose value a module reset keeps (Tables 18.8, 19.18 to 19.20, 20.12). -/
def keptByModule (k : Nat) : Bool :=
  [R.RS_STAT_MOD_RESETS, R.RS_STAT_CP_RESETS, R.LOG_STAT_ALERT, R.LOG_HEAD_SEQNO, R.LOG_LOST_COUNT,
    R.BON_STAT_KEY_OK_0, R.BON_STAT_KEY_OK_1].any fun f => f.blk = keyBlk k && f.off = keyOff k && f.lo = keyLo k

/-- What a module reset leaves: the log, the count, the flash and MRAM, the inputs and the supplies. -/
def resetKeep (s : State) : State :=
  { State.reset with
    regs := s.regs.filter fun e => keptByModule e.1
    store := { s.store with overflow := [] }
    log := s.log
    time := { Timebase.reset with count := s.time.count, latched := s.time.latched }
    pins := { Pins.reset with
      modResetN := s.pins.modResetN, cpResetN := s.pins.cpResetN, pgIn := s.pins.pgIn
      alertN := pget s R.LOG_STAT_ALERT = 0 }
    plant := { Plant.reset with
      vinLow := s.plant.vinLow, vinLost := s.plant.vinLost, lossTold := s.plant.lossTold }
    plane := { Plane.reset with
      primary := s.plane.primary, standbyOk := s.plane.standbyOk, freeCounter := s.plane.freeCounter
      run := s.plane.run, runFrom := s.plane.run, peakFrom := s.plane.run
      spillKey := Config.freeKey (freeNo s) }
    out := s.out, pending := s.pending }

/-- A module reset: cause 1 MOD_RESET_N, 2 management, which first ends every live sequence with its END record. -/
def moduleReset (s : State) (cause : Nat) : State :=
  let n := liveCount s
  let s := if cause = 2 then
      forEach (s.serving.seqs.filter isLive) s fun s q => endSeq s q 6 0x1210
    else s
  let s := bumpFree (resetKeep (logPut s 0x1210 sevWarning (svcSrc s) cause n 0))
  let s := pset (pinc s R.RS_STAT_MOD_RESETS) R.RS_STAT_LAST_CAUSE cause
  let s := pset s R.TB_STAT_SOURCE (b2n s.plane.primary)
  forEach [0, 1] (pset s R.LOG_STAT_MIRRORED (b2n s.plane.standbyOk)) showCage

/-- MOD_RESET_N is asserted; while it is held, bring-up waits at step 3. -/
def modPinEff (s : State) : State :=
  if !s.pins.modResetN then s
  else
    let s := modPins s fun p => { p with modResetN := false }
    if s.plane.vaux then moduleReset s 1 else s

def modReleaseEff (s : State) : State := modPins s fun p => { p with modResetN := true }

/-! ## Compute-plane reset (R431) -/

def servingMap (s : State) : Nat :=
  (List.range 4).foldl (fun a c => if ctxServing s c then a + 2 ^ c else a) 0

/-- A compute-plane reset starts: cause 1 CP_RESET_N, 2 management. The module reset, Hold and Rest rank above it. -/
def startCpReset (s : State) (cause : Nat) : State :=
  if !s.plane.vaux || !s.pins.modResetN || powerState s = psHold || powerState s = psRest || powerState s = psReset then s
  else
    let s := logPut s 0x1211 sevWarning (svcSrc s) cause s.serving.groups.length (servingMap s)
    let s := pset (pinc s R.RS_STAT_CP_RESETS) R.RS_STAT_CP_CAUSE cause
    let s := modPlane s fun p => { p with
      dozing := false, dozeDone := false, autoDozed := false, cpHeld := true }
    let s := forEach allCtx s fun s c => if ctxState s c.val = 1 then abandonLoad s c.val 0 else s
    pset (railsOff (discardPlane s)) R.RS_STAT_STATE psReset

def cpPinEff (s : State) : State :=
  if !s.pins.cpResetN then s
  else startCpReset (modPins s fun p => { p with cpResetN := false }) 1

/-- The request ends, or CP_RESET_N is released: the tiles turn on and the contexts restart. -/
def cpEndEff (s : State) : State :=
  let s := modPins s fun p => { p with cpResetN := true }
  if !s.plane.cpHeld then s
  else
    let s := modPlane s fun p => { p with cpHeld := false }
    if powerState s = psReset then restartPlane (pset s R.RS_STAT_STATE psRun) else s

/-! ## Power states (R435 to R438) -/

def enterDoze (s : State) (cause : Nat) : State :=
  let s := planeState s psDoze cause
  modPlane s fun p => { p with dozing := true, dozeDone := false, autoDozed := cause = 3 }

/-- Management requests Doze; an automatic Doze in force becomes one that only a request ends. -/
def dozeAct (s : State) : State :=
  if powerState s = psDoze then modPlane s fun p => { p with autoDozed := false }
  else if powerState s = psRun && !s.plane.cpHeld then enterDoze s 0
  else s

/-- No context has a ready item, a group or a commit in flight. -/
def planeIdle (s : State) : Bool :=
  s.serving.groups.isEmpty && s.serving.commits.isEmpty && (readyItems s true).isEmpty && (readyItems s false).isEmpty

def autoDozeEff (s : State) : State :=
  if fieldOf s F.RS_AUTO_DOZE_MS ≠ 0 && isReady s && powerState s = psRun && !s.plane.cpHeld && planeIdle s then
    enterDoze s 3
  else s

/-- The last group in flight has committed: every governor stops its waves, at step 0. -/
def dozeDoneEff (s : State) : State :=
  if !s.plane.dozing || s.plane.dozeDone || !s.serving.groups.isEmpty || !s.serving.commits.isEmpty then s
  else
    let s := modPlane s fun p => { p with dozeDone := true }
    forEach allDies s fun s d => forEach (litTiles s d) s fun s t => setStep s t 0

/-- The request to Run; false when a sudden stop does not allow it yet (R380). -/
def runAct (s : State) : Bool × State :=
  if powerState s = psDoze then (true, leaveDoze s 0)
  else if inStopHold s then mgmtResume s
  else if powerState s = psHold then (true, leaveHold s 0)
  else (true, s)

/-! ## RS_CTRL (Table 18.9, R440, R442) -/

/-- The broadest request of a write applies: module reset, Rest, Hold, compute-plane reset, Doze, Run. -/
def rsAct (s : State) (word : Nat) : Bool × State :=
  if bitsOf word 24 8 ≠ 0x5A then (true, s)
  else if tbit word 0 then (true, moduleReset s 2)
  else if tbit word 4 then (true, enterRest s 0x1212 0)
  else if tbit word 3 then (true, enterHold s 0)
  else if tbit word 1 then (true, startCpReset s 2)
  else if tbit word 2 then (true, dozeAct s)
  else if tbit word 5 then runAct s
  else (true, s)

def opReset : Nat := 0x0009

/-- The reset operation; in the recovery state only MOD_RESET is accepted (R412, R480). -/
def resetOp (m : Mgmt) (word : Nat) : State → State :=
  mgmtOp (fun s => !(inRecovery s) || tbit word 0) opReset m fun s =>
    if tbit word 0 then (rsAct (reply s m opReset stDone []) word).2
    else
      let r := rsAct s word
      reply r.2 m opReset (if r.1 then stDone else stNotNow) []

/-- An RS_CTRL word with its key and one request. -/
def rsWord (bit : Nat) : Nat := 0x5A000000 + 2 ^ bit

def execModResetPin (s : State) : Res := .next (modPinEff s)
def execModReset (m : Mgmt) (s : State) : Res := .next (resetOp m (rsWord 0) s)
def execCpResetPin (s : State) : Res := .next (cpPinEff s)
def execCpReset (m : Mgmt) (s : State) : Res := .next (resetOp m (rsWord 1) s)
def execCpResetEnd (s : State) : Res := .next (cpEndEff s)
def execDoze (m : Mgmt) (s : State) : Res := .next (resetOp m (rsWord 2) s)
def execAutoDoze (s : State) : Res := .next (autoDozeEff s)
def execHold (m : Mgmt) (s : State) : Res := .next (resetOp m (rsWord 3) s)
def execRest (m : Mgmt) (s : State) : Res := .next (resetOp m (rsWord 4) s)
def execRun (m : Mgmt) (s : State) : Res := .next (resetOp m (rsWord 5) s)
def execModResetNRelease (s : State) : Res := .next (modReleaseEff s)
def execDozeEntryComplete (s : State) : Res := .next (dozeDoneEff s)

end Sys2Proof.Machine
end

