-- ==== Sys2Proof/Machine/Timebase.lean ====
section
/-! DEFINITION. The device timebase: its count, the reference, the set and the latch (R196 to R198, R203), and
the takeover by SD[1] (R199, R284, R473). -/
namespace Sys2Proof.Machine

def nsPerS : Nat := 1000000000

/-- SEC_TLS_REFUSED for the second that ends (R473). -/
def tlsSecond (s : State) : State :=
  if s.plane.tlsRefused = 0 then s
  else
    let n := s.plane.tlsRefused
    logPut (modPlane s fun p => { p with tlsRefused := 0 }) 0x1414 sevNotice (svcSrc s) n s.plane.tlsReason 0

/-- An idle step: the timebase counts 5 periods of 1.25 GHz, 4 ns (R196; notes/assumptions/6). -/
def idleTick (s : State) : State :=
  let n := now s
  let s := modPlane (modTime s fun t => { t with count := t.count + 4 }) fun p => { p with run := p.run + 4 }
  if n / nsPerS ≠ now s / nsPerS then tlsSecond s else s

/-- The reference is lost: stamps carry the unlocked flag (R197). A loss already declared goes on. -/
def tbLossEff (freq : Bool) (s : State) : State :=
  if unlocked s && s.time.lossTold then s
  else
    let s := pinc (pset s R.TB_STAT_LOCKED 0) R.TB_STAT_UNLOCKS
    let s := modTime s fun t => { t with sinceLoss := now s, lossTold := true }
    logPut s 0x0710 sevWarning (svcSrc s) (b2n freq) (now s % 2 ^ 32) (pget s R.TB_STAT_SOURCE)

/-- The PLL locks again without a step of the count; the entry is for a loss that was declared. -/
def tbRelockEff (s : State) : State :=
  if !(unlocked s) then s
  else
    let told := s.time.lossTold
    let ms := (now s - s.time.sinceLoss) / 1000000
    let s := modTime (pset s R.TB_STAT_LOCKED 1) fun t => { t with lossTold := false }
    if told then logPut s 0x0711 sevNotice (svcSrc s) ms (now s % 2 ^ 32) (pget s R.TB_STAT_SOURCE) else s

/-- The write of TB_SET[0] loads the 64-bit value (R198); its high word is the one TB_SET[1] holds. -/
def tbSetEff (v : Word) (s : State) : State :=
  let old := now s
  let new := s.time.setHigh.toNat * 2 ^ 32 + v.toNat
  let s := modTime s fun t => { t with count := new }
  logPut s 0x0712 sevNotice (svcSrc s) (old / 2 ^ 32 % 2 ^ 32) s.time.setHigh.toNat v.toNat

/-- The value of TB_NOW[0], and the latch of bits 63:32 of the same instant. -/
def tbNowEff (s : State) : State :=
  modTime s fun t => { t with latched := BitVec.ofNat 32 (t.count / 2 ^ 32 % 2 ^ 32) }

/-- SD[1] takes over from its mirrored state: requests being assembled are lost and management sessions end;
the count, the flag, the log and the sequence table go on (R199, R284, R473). -/
def takeoverEff (s : State) : State :=
  if s.plane.primary || !s.plane.standbyOk then s
  else
    let s := modPlane s fun p => { p with primary := true, standbyOk := false }
    let s := pset (pset s R.TB_STAT_SOURCE 1) R.LOG_STAT_MIRRORED 0
    let s := modServing s fun x => { x with assembling := [] }
    { s with sessions := [] }

def execTbRefLoss (freq : Bool) (s : State) : Res := .next (tbLossEff freq s)
def execTbRelock (s : State) : Res := .next (tbRelockEff s)
def execTbSet (v : Word) (s : State) : Res := .next (tbSetEff v s)
def execTbNowRead (s : State) : Res := .next (tbNowEff s)
def execSdTakeover (s : State) : Res := .next (takeoverEff s)

end Sys2Proof.Machine
end

