-- ==== Sys2Proof/Machine/RegAccess.lean ====
section
/-! DEFINITION. Register access: the management address map (R482 to R484), what each register reads and what
a write does, the control channel's ACCESS (R192) and the control ring (R195). -/
namespace Sys2Proof.Machine

/-! ## Addresses (Tables 21.4 and 21.5) -/

/-- A reachable register: the die and tile under which its fields are kept, its block and its offset. -/
structure Place where
  die  : Nat
  tile : Nat
  blk  : Nat
  off  : Nat
  deriving DecidableEq, Repr

/-- The register of a primary-only block that an address of a service die names. -/
def isPrimaryBlk (b : Nat) : Bool := 0x30 ≤ b && b ≤ 0x3A && b ≠ 0x36

def identityBlk : Nat := 0x18

/-- A compute-die address (R483): the block must be of its scope, and must answer as the die is powered. -/
def computePlace (s : State) (d tile blk off : Nat) : Except Nat Place :=
  if !(dieActive s d) then .error stNoTarget
  else if tile = dieScope then
    if 0x10 ≤ blk && blk ≤ identityBlk && (dieOn s d || blk = identityBlk || blk = 0x13) then .ok ⟨d, dieScope, blk, off⟩
    else .error stNoTarget
  else if tile < 24 && blk ≤ 0x07 && dieOn s d
      && (railOn s ⟨Fin.ofNat 56 d, Fin.ofNat 24 tile⟩ || blk = 0x05 || blk = 0x06) then .ok ⟨d, tile, blk, off⟩
  else .error stNoTarget

/-- An edge-die address. -/
def edgePlace (s : State) (d tile blk off : Nat) : Except Nat Place :=
  if tile ≠ dieScope then .error stNoTarget
  else if blk = identityBlk then .ok ⟨d, dieScope, blk, off⟩
  else if 58 ≤ d then
    if blk = 0x20 || blk = 0x21 then .ok ⟨d, dieScope, blk, off⟩ else .error stNoTarget
  else if blk = 0x36 then .ok ⟨d, dieScope, blk, off⟩
  else if isPrimaryBlk blk then
    if d = 56 + b2n s.plane.primary then .ok ⟨primaryDie, dieScope, blk, off⟩ else .error stNotPrimary
  else .error stNoTarget

/-- What a management address names, or the reply status that answers it (R483). -/
def placeAt (s : State) (addr : Nat) : Except Nat Place :=
  let die := bitsOf addr 32 8
  let d := if die = primaryDie then 56 + b2n s.plane.primary else die
  let tile := bitsOf addr 27 5
  let blk := bitsOf addr 16 8
  let off := bitsOf addr 0 16
  if bitsOf addr 40 24 ≠ 0 || bitsOf addr 24 3 ≠ 0 || 60 ≤ d then .error stNoTarget
  else if d < 56 then computePlace s d tile blk off
  else edgePlace s d tile blk off

/-! ## What a field reads -/

/-- The field is one of `count` registers of an array. -/
def Fld.isOf (f g : Fld) (count : Nat := 1) (stride : Nat := 4) : Bool :=
  f.blk = g.blk && f.lo = g.lo && g.off ≤ f.off && (f.off - g.off) % stride = 0 && (f.off - g.off) / stride < count

/-- The number of the register within its array. -/
def Fld.nth (f g : Fld) (stride : Nat := 4) : Nat := (f.off - g.off) / stride

/-- A register that shows a measurement which no command of the model brings (Tables 14.10, 14.15, 14.18 to
14.20). -/
def isMeasured (blk off : Nat) : Bool :=
  blk = 0x34 || (blk = R.PACE_RATE_RATE.blk && off = R.PACE_RATE_RATE.off) || (blk = 0x13 && off = R.PW_SITE_VOUT.off) || (blk = 0x05 && off = R.MITTEN_RAIL_MV.off)

/-- The interval of a mean, in ns: 10 µs of a tile's regulator, 1 ms of the rest (Tables 14.10, 14.12, 14.20;
notes/assumptions/96). -/
def meanNs (blk : Nat) : Nat := if blk = 0x05 then 10000 else 1000000

/-- The measurement of an interval: a free value of the register and the interval. -/
def meanOf (die tile : Nat) (f : Fld) (k : Nat) : Nat :=
  bitsOf (Config.measure (fkey die tile ⟨f.blk, f.off, 0, 32⟩) k).toNat f.lo f.w

/-- A measured field: that of the last interval that ended, and 0 from a module reset until the next one ends. -/
def measured (s : State) (die tile : Nat) (f : Fld) : Nat :=
  let k := s.plane.run / meanNs f.blk
  if k ≤ s.plane.runFrom / meanNs f.blk then 0 else meanOf die tile f k

/-- PEAK of PW_DEV_POWER: the largest of the means that ended since its last read (Table 14.20). -/
def devPeak (s : State) : Nat :=
  let a := s.plane.peakFrom / meanNs R.PW_DEV_POWER_MEAN.blk
  (List.range (s.plane.run / meanNs R.PW_DEV_POWER_MEAN.blk - a)).foldl
    (fun m i => max m (meanOf primaryDie dieScope R.PW_DEV_POWER_MEAN (a + i + 1))) 0

/-- Fields of a tile that the state holds in another form. -/
def tileShown (s : State) (t : Tid) (f : Fld) : Nat :=
  let c := (tileOf s t).caps
  if f = R.TILE_ID_DIE_INDEX then t.d.val
  else if f = R.TILE_ID_TILE_INDEX then t.t.val
  else if f = R.TILE_ID_WAFER_X then waferX t
  else if f = R.TILE_ID_WAFER_Y then waferY t
  else if f = R.PACE_STEP_CAP then capOf s t
  else if f = R.PACE_CAP_MGMT then b2n (decide (fieldOf s F.PC_MAX_STEP < 15))
  else if f = R.PACE_CAP_CAL then b2n (decide (calCap s t < 15))
  else if f = R.PACE_CAP_PHASE then b2n (decide (c.phase < 15))
  else if f = R.PACE_CAP_TURN_ON then b2n (decide (c.turnOn < 15))
  else if f = R.PACE_CAP_BUDGET then b2n (decide (c.budget < 15))
  else if f = R.PACE_CAP_SENSOR then b2n (decide (c.sensor < 15))
  else if f = R.PACE_CAP_THERMAL then b2n (decide (c.thermal < 15))
  else if f = R.PACE_CAP_FLOW then b2n (decide (c.flow < 15))
  else if f.isOf R.MITTEN_STAT_CURRENT 16 then measured s t.d.val t.t.val f
  else tget s t f

/-- Bits 32 i + 31 to 32 i of a serial. -/
def serialWord (v : BitVec 128) (i : Nat) : Nat := bitsOf v.toNat (32 * i) 32

def serialOf (l : List (BitVec 128)) (d : Nat) : BitVec 128 := (l[d]?).getD 0

/-- The longest wait of a parked sequence of a die, in ms. -/
def oldestPark (s : State) (d : Nat) : Nat :=
  (((dieOf s d).parkQ.head?).map fun e => min 65535 ((now s - e.since) / 1000000)).getD 0

/-- The cache fields of a die show the pool from READY on; before it, STK_FREE shows the allocatable frames, its
value after a module reset (Table 8.17). -/
def dieShown (s : State) (d : Nat) (f : Fld) : Nat :=
  let up (n : Nat) : Nat := if isReady s then n else 0
  if f = R.STK_FREE_FRAMES then if isReady s then poolSize s d - (dieOf s d).reserve else allocatable s d
  else if f = R.STK_STAT_SCRUB_AGE then min 255 ((now s - (dieOf s d).scrubAt) / hourNs)
  else if f = R.KV_AVAIL_FRAMES then up (available s d)
  else if f = R.KV_RESERVED_FRAMES then sumRes s d
  else if f = R.KV_GRANTED_FRAMES then sumGrant s d
  else if f = R.KV_PENDING_FRAMES then pendingFrames s d
  else if f = R.KV_PARK_PARKED then (dieOf s d).parkQ.length
  else if f = R.KV_PARK_OLDEST_MS then oldestPark s d
  else if f = R.PW_GRANT_STAT_PENDING then ((dieOf s d).turnOns.filter fun e => e.span.isNone).length
  else if f.isOf R.ID_STACK_SERIAL_WORD 4 then
    if d < 56 then serialWord (serialOf s.store.stackSerials d) (f.nth R.ID_STACK_SERIAL_WORD) else 0
  else if f.isOf R.ID_SERIAL_WORD 4 then serialWord (serialOf s.store.dieSerials d) (f.nth R.ID_SERIAL_WORD)
  else dget s d f

/-- The pools of a port die that hold pages, and their pages. -/
def poolsOf (s : State) (p : Nat) : List Pool := (portOf s p).pools.filterMap (·.2)

def portShown (s : State) (p : Nat) (f : Fld) : Nat :=
  let cur := ((portOf s p).current.map fun i => (poolOf s p i).isSome).getD false
  if f = R.PT_STAT_ENABLED then b2n (portOn s p)
  else if f = R.SPILL_STAT_POOL_VALID then b2n cur
  else if f = R.SPILL_STAT_ACTIVE then b2n (cur && portUp s p)
  else if f = R.SPILL_STAT_DRAINING then b2n ((poolsOf s p).any fun q => q.draining && q.used ≠ 0)
  else if f = R.SPILL_STAT_USED_KPAGES then sumNat ((poolsOf s p).map (·.used)) / 1024
  else portGet s p f

/-- Sequences in a state (Table 10.7); kept ones have ended. -/
def inSt (s : State) (st : SeqSt) : Nat := (s.serving.seqs.filter fun q => q.st = st).length

/-- The capability record (Table 17.13) as a number, little-endian. -/
def capRecord (s : State) : List Byte :=
  let g := s.store.grade
  let failed := allDies.foldl (fun a d => if dieFailed s d.val then a + 2 ^ d.val else a) 0
  let upP := (List.range 2).foldl (fun a p => if portUp s p then a + 2 ^ p else a) 0
  let tiles := ((upDies s).map tilesOfDie).flatten
  let able := (tiles.filter fun t => roleOf s t ≠ roleDark).length
  let spares := (tiles.filter fun t => roleOf s t = roleSpare).length
  let slots := 4096 - sumNat ((List.range 4).map fun c => ((ctxOf s c).map (·.slots.length)).getD 0)
  leBytes 2 g.grade.toNat ++ leBytes 2 g.gib.toNat ++ leBytes 8 g.dies.toNat ++ leBytes 8 failed
    ++ [g.ports] ++ leBytes 1 upP ++ leBytes 2 able ++ leBytes 4 g.units.toNat ++ leBytes 4 (unitsUsable s)
    ++ leBytes 2 spares ++ leBytes 2 slots ++ leBytes 4 s.plane.fwIface.toNat ++ leBytes 24 0

/-- The deficit of a class: of the speed or of the other classes' scan. -/
def classDeficit (s : State) (k : Nat) : Nat :=
  kget (fun _ => 0) (if isSpeed s k then s.serving.speedDeficit else s.serving.deficit) k

/-- The policy of the replacement in progress, or of the next one (R329). -/
def policyShown (s : State) (c : Nat) : Nat :=
  match (ctxOf s c).bind (·.replacing) with
  | some r => b2n r.ends
  | none => fieldOf s (F.WT_REPLACE_POLICY + c)

def primaryShown (s : State) (f : Fld) : Nat :=
  if f = R.TB_NOW0_TIME then bitsOf (now s) 0 32
  else if f = R.TB_NOW1_TIME then s.time.latched.toNat
  else if f = R.SV_SLOT_USE_SLOTS then (((s.serving.seqs.filter slotHeld).filterMap (·.slot)).eraseDups).length
  else if f = R.SV_SLOT_USE_QUEUED then queuedCount s
  else if f = R.SV_STATES0_FIRST then inSt s .prefilling
  else if f = R.SV_STATES0_SECOND then inSt s .decoding
  else if f = R.SV_STATES1_FIRST then inSt s .parked
  else if f = R.SV_STATES1_SECOND then (s.serving.seqs.filter (·.kept)).length
  else if f.isOf R.SV_CLASS_QUEUE_DEFICIT 64 then min 65535 (classDeficit s (f.nth R.SV_CLASS_QUEUE_DEFICIT))
  else if f.isOf R.SV_CLASS_QUEUE_READY 64 then
    let k := f.nth R.SV_CLASS_QUEUE_READY
    ((readyItems s (isSpeed s k)).filter fun i => i.cls = k).length
  else if f.isOf R.SP_LANE_STAT_SEATS_USED 32 then
    (s.serving.seqs.filter fun q => q.seat = some (f.nth R.SP_LANE_STAT_SEATS_USED)).length
  else if f.isOf R.CTX_STAT_POLICY 4 16 then policyShown s (f.nth R.CTX_STAT_POLICY 16)
  else if f.isOf R.CAP_WORD_WORD 16 then leNat (((capRecord s).drop (4 * f.nth R.CAP_WORD_WORD)).take 4)
  else if f = R.LOG_STAT_HELD then s.log.length
  else if f.isOf R.MODULE_SERIAL_WORD 4 then serialWord s.store.moduleSerial (f.nth R.MODULE_SERIAL_WORD)
  else if f = R.BON_KEYS_TENANTS then (s.serving.tenants.filter fun e => e.2.isSome).length
  else if f = R.BON_KEYS_CONTENT then keysHeld s
  else pget s f

/-- The value of a field of a reachable register. -/
def shown (s : State) (x : Place) (f : Fld) : Nat :=
  if isMeasured x.blk x.off then
    if f = R.PW_DEV_POWER_PEAK then devPeak s
    else if f = R.PACE_RATE_RATE && !(railOn s ⟨Fin.ofNat 56 x.die, Fin.ofNat 24 x.tile⟩) then 0
    else measured s x.die x.tile f
  else if x.die = primaryDie then primaryShown s f
  else if 58 ≤ x.die && (x.blk = 0x20 || x.blk = 0x21) then portShown s (x.die - 58) f
  else if x.tile ≠ dieScope then tileShown s ⟨Fin.ofNat 56 x.die, Fin.ofNat 24 x.tile⟩ f
  else dieShown s x.die f

/-- The fields of the register at an offset with their access codes; none of a reserved offset. -/
def fieldsAt (x : Place) : List (Fld × Acc) :=
  ((regAt x.blk x.off).map (·.fields)).getD [] |>.map fun e => (⟨x.blk, x.off, e.1, e.2.1⟩, e.2.2)

/-- What a read of a register gives: a write-only field and a reserved offset read 0 (R12, R15). -/
def regWord (s : State) (x : Place) : Nat :=
  (fieldsAt x).foldl (fun a e =>
    if e.2 = Acc.wo then a else a + shown s x e.1 % 2 ^ e.1.w * 2 ^ e.1.lo) 0

/-- What a read leaves: an RC field is cleared (R12, R14), TB_NOW[0] latches (R203). -/
def afterRead (s : State) (x : Place) : State :=
  let s := forEach (fieldsAt x) s fun s e => if e.2 = Acc.rc then rset s x.die x.tile e.1 0 else s
  let s := if x.die = primaryDie && x.blk = R.TB_NOW0_TIME.blk && x.off = R.TB_NOW0_TIME.off then tbNowEff s else s
  if x.die = primaryDie && x.blk = R.PW_DEV_POWER_PEAK.blk && x.off = R.PW_DEV_POWER_PEAK.off then
    modPlane s fun p => { p with peakFrom := p.run }
  else s

/-- One management read. -/
def mgmtRead (s : State) (x : Place) : Nat × State := (regWord s x, afterRead s x)

/-! ## Writes (Table 0.5, R13, R15) -/

/-- A register without an effect of its own: each field acts by its access code. -/
def writePlain (s : State) (x : Place) (v : Nat) : State :=
  forEach (fieldsAt x) s fun s e =>
    let b := bitsOf v e.1.lo e.1.w
    match e.2 with
    | .rw => rset s x.die x.tile e.1 b
    | .w1c => if b ≠ 0 then rset s x.die x.tile e.1 0 else s
    | _ => s

/-- TILE_CTRL (Table 2.8): a fence request, then a tile reset. -/
def writeTileCtrl (s : State) (t : Tid) (v : Nat) : State :=
  let s := if tbit v R.TILE_CTRL_FENCE_REQ.lo then fenceReqEff t s else s
  if tbit v R.TILE_CTRL_TILE_RESET.lo then tileResetEff t s else s

/-- ADC_DAC_CTRL and SADC_DAC_CTRL (R397): DONE clears until the conversion is done; its raw code is free. -/
def writeDac (s : State) (d v : Nat) : State :=
  let s := adcSet s d R.ADC_DAC_RESULT_DONE 0
  dacConvertEff d v ((Config.freeWord (freeNo s)).toNat % 4096) (bumpFree s)

/-- PT_CTRL (Table 13.9): a port reset stands over a retraining. -/
def writePtCtrl (s : State) (p v : Nat) : State :=
  if tbit v R.PT_CTRL_PORT_RESET.lo then resetPort s p
  else if tbit v R.PT_CTRL_RETRAIN.lo then retrainPort s p
  else s

/-- PW_SITE_CTRL (R365): whether the converter holds is a free bit. -/
def writeSiteCtrl (s : State) (d v : Nat) : State :=
  if tbit v R.PW_SITE_CTRL_RETRY.lo then
    siteRetryEff (Fin.ofNat 56 d) (tbit (Config.freeWord (freeNo s)).toNat 0) (bumpFree s)
  else s

/-- LOG_STAT (R457): ALERT written 1 clears, and ALERT_N deasserts outside the recovery state. -/
def writeLogStat (s : State) (v : Nat) : State :=
  if tbit v R.LOG_STAT_ALERT.lo then
    modPins (pset s R.LOG_STAT_ALERT 0) fun p => { p with alertN := !(inRecovery s) }
  else s

/-- One management write. -/
def mgmtWrite (s : State) (x : Place) (v : Nat) : State :=
  let is (f : Fld) : Bool := x.blk = f.blk && x.off = f.off
  if is R.TILE_CTRL_FENCE_REQ then writeTileCtrl s ⟨Fin.ofNat 56 x.die, Fin.ofNat 24 x.tile⟩ v
  else if is R.PW_SITE_CTRL_RETRY then writeSiteCtrl s x.die v
  else if is R.ADC_DAC_CTRL_SLICE || is R.SADC_DAC_CTRL_SLICE then writeDac s x.die v
  else if is R.PT_CTRL_RETRAIN then writePtCtrl s (x.die - 58) v
  else if is R.TB_SET0_VALUE then tbSetEff (BitVec.ofNat 32 v) s
  else if is R.TB_SET1_VALUE then modTime s fun t => { t with setHigh := BitVec.ofNat 32 v }
  else if is R.RS_CTRL_KEY then (rsAct s v).2
  else if is R.LOG_STAT_ALERT then writeLogStat s v
  else writePlain s x v

/-! ## Control channel and control ring -/

/-- An ACCESS message reaches a Bowler or tile (R192); one that no register answers has no effect. -/
def accessEff (addr : Nat) (write : Option Nat) (s : State) : State :=
  match placeAt s addr with
  | .error _ => s
  | .ok x =>
    if addr % 4 ≠ 0 || 56 ≤ x.die then s
    else
      match write with
      | some v => mgmtWrite s x v
      | none =>
        let r := mgmtRead s x
        send r.2 (.accessData (BitVec.ofNat 64 addr) (BitVec.ofNat 32 r.1))

/-- One byte of a CRC-8 with polynomial 0x07 (Table 7.7). -/
def crcByte (c b : Nat) : Nat :=
  (List.range 8).foldl (fun a _ => if 128 ≤ a then (a * 2) % 256 ^^^ 7 else a * 2) (c ^^^ b)

def crc8 (l : List Byte) : Nat := l.foldl (fun a b => crcByte a b.toNat) 0

/-- Bytes 0 to 11 of a ring frame. -/
def ringBytes (f : RingFrame) (status : Nat) : List Byte :=
  [f.sync, f.op, f.node] ++ leBytes 1 status ++ leBytes 4 f.addr.toNat ++ leBytes 4 f.data.toNat

/-- The die of a ring node (R195). -/
def nodeDie (n : Nat) : Nat :=
  if n = 0 then 56 else if n ≤ 56 then n - 1 else if n = 59 then 57 else n + 1

/-- A node whose die is unpowered is bypassed. -/
def nodePowered (s : State) (d : Nat) : Bool := if d < 56 then dieOn s d else s.plane.vaux

def ringDone : Nat := 0
def ringNoNode : Nat := 1
def ringRefused : Nat := 2
def ringNoResponse : Nat := 3

/-- A frame goes round: STATUS and DATA as it returns. -/
def ringAct (f : RingFrame) (s : State) : Nat × Word × State :=
  if crc8 (ringBytes f 0) ≠ f.crc.toNat || f.sync ≠ 0xA5 then (ringNoResponse, f.data, s)
  else if 59 < f.node.toNat || !(nodePowered s (nodeDie f.node.toNat)) then (ringNoNode, f.data, s)
  else if f.op = 3 then (ringDone, f.data, s)
  else if f.op ≠ 1 && f.op ≠ 2 then (ringRefused, f.data, s)
  else
    match placeAt s (nodeDie f.node.toNat * 2 ^ 32 + f.addr.toNat) with
    | .error _ => (ringRefused, f.data, s)
    | .ok x =>
      if f.addr.toNat % 4 ≠ 0 then (ringRefused, f.data, s)
      else if f.op = 2 then (ringDone, f.data, mgmtWrite s x f.data.toNat)
      else
        let r := mgmtRead s x
        (ringDone, BitVec.ofNat 32 r.1, r.2)

/-- A frame from an IEEE 1149.1 port. -/
def ringFrameEff (f : RingFrame) (s : State) : State :=
  let r := ringAct f s
  send r.2.2 (.ringReply r.1 r.2.1)

def execAccess (addr : DWord) (write : Option Word) (s : State) : Res :=
  .next (accessEff addr.toNat (write.map (·.toNat)) s)
def execRingFrame (f : RingFrame) (s : State) : Res := .next (ringFrameEff f s)

end Sys2Proof.Machine
end

