-- ==== Sys2Proof/Machine/Mgmt.lean ====
section
/-! DEFINITION. Management operations on registers, run settings, the log, the configuration image and the
records of the device (R480 to R485). Where the manual names what a reply body holds and gives it no layout, the
layout is the model's (notes/assumptions/83). -/
namespace Sys2Proof.Machine

def opStatusRead : Nat := 0x0001
def opRegRead : Nat := 0x0002
def opRegWrite : Nat := 0x0003
def opFieldRead : Nat := 0x0004
def opFieldWrite : Nat := 0x0005
def opConfigReport : Nat := 0x0006
def opLogRead : Nat := 0x0007
def opBciWrite : Nat := 0x0008
def opCapability : Nat := 0x000A
def opRepairMap : Nat := 0x000B
def opTestRecord : Nat := 0x000C
def opRingAccess : Nat := 0x000D
def opLoadReport : Nat := 0x0013
def opPoolRegister : Nat := 0x0016
def opSequenceQuery : Nat := 0x0017

/-- An operation that only reads: its body is the result. -/
def answer (s : State) (m : Mgmt) (op : Nat) (body : List Byte) : State := reply s m op stDone body

/-! ## Status (R481) -/

/-- A register of the primary service die, read without clearing. -/
def primaryWord (s : State) (f : Fld) : Nat := regWord s ⟨primaryDie, dieScope, f.blk, f.off⟩

/-- An installed module carries a wear warning (R348). -/
def opticsWorn (s : State) : Bool :=
  [0, 1].any fun p => portGet s p R.PT_OPT_STAT_PRESENT = 1
    && (portGet s p R.PT_OPT_STAT_LIFE_WARN = 1 || portGet s p R.PT_OPT_STAT_BIAS_WARN = 1)

/-- Conditions of the alarm word (Table 21.3), bit 0 first. -/
def alarms (s : State) : List Bool := [
  allDies.any fun d => dget s d.val R.QC_DIE_STAT_STORM = 1,
  opticsWorn s,
  s.plant.vinLow,
  pget s R.LOG_STAT_ALERT = 1,
  inRecovery s,
  unlocked s,
  s.plane.primary,
  coolState s ≠ coolNormal]

def bitsNat : List Bool → Nat
  | [] => 0
  | b :: r => b2n b + 2 * bitsNat r

/-- The 32 bytes of a status reply. -/
def statusBody (s : State) : List Byte :=
  leBytes 4 (bitsNat (alarms s)) ++ leBytes 4 (primaryWord s R.RS_STAT_STATE) ++ leBytes 4 (primaryWord s R.BU_STAT_STEP)
    ++ ((List.range 4).map fun c => leBytes 4 (primaryWord s (R.CTX_STAT_STATE.at c 16))).flatten ++ leBytes 4 0

def statusReadEff (m : Mgmt) : State → State := mgmtOp always opStatusRead m fun s => answer s m opStatusRead (statusBody s)

/-! ## Registers (R484) -/

/-- The count and the range of a multi-register access are well formed. -/
def rangeOk (addr count : Nat) : Bool :=
  addr % 4 = 0 && 1 ≤ count && count ≤ 64 && addr % 65536 + 4 * count ≤ 65536

/-- The registers of an access, or the status that answers it: a range outside the block first. -/
def placesAt (s : State) (addr count : Nat) : Except Nat (List Place) :=
  if !(rangeOk addr count) then .error stMalformed
  else
    match placeAt s addr with
    | .error e => .error e
    | .ok x => .ok ((List.range count).map fun i => { x with off := x.off + 4 * i })

/-- Reads in order, each a management access. -/
def readAll : List Place → State → List Byte × State
  | [], s => ([], s)
  | x :: r, s =>
    let a := mgmtRead s x
    let b := readAll r a.2
    (leBytes 4 a.1 ++ b.1, b.2)

def regReadEff (m : Mgmt) (addr count : Nat) : State → State :=
  mgmtOp isReady opRegRead m fun s =>
    match placesAt s addr count with
    | .error e => reply s m opRegRead e []
    | .ok l =>
      let r := readAll l s
      answer r.2 m opRegRead r.1

/-- The reply goes out before a write can end the session. -/
def regWriteEff (m : Mgmt) (addr : Nat) (words : List Nat) : State → State :=
  mgmtOp isReady opRegWrite m fun s =>
    match placesAt s addr words.length with
    | .error e => reply s m opRegWrite e []
    | .ok l => forEach (l.zip words) (answer s m opRegWrite []) fun s e => mgmtWrite s e.1 e.2

/-- One ring frame inside the session; the frame comes back with its STATUS and DATA. -/
def ringAccessEff (m : Mgmt) (f : RingFrame) : State → State :=
  mgmtOp (fun s => !(inRecovery s)) opRingAccess m fun s =>
    let r := ringAct f s
    let body := ringBytes { f with data := r.2.1 } r.1
    answer r.2.2 m opRingAccess (body ++ leBytes 1 (crc8 body))

/-! ## Run settings (R485, R486) -/

/-- The value as checked at bring-up, and the effective value. -/
def fieldReadEff (m : Mgmt) (id : Nat) : State → State :=
  mgmtOp isReady opFieldRead m fun s =>
    if (fieldDef id).isNone then reply s m opFieldRead stNoTarget []
    else answer s m opFieldRead (leBytes 16 (kget fieldDefault s.bciFields id) ++ leBytes 16 (fieldOf s id))

def fwStands : Nat := 0
def fwClampedTo : Nat := 1
def fwUnknown : Nat := 2
def fwMalformed : Nat := 4
def fwNoEffect : Nat := 6

/-- The class whose field an ID is: of the weights, the speed flags, the pipeline slots and the lanes. -/
def classOfField (id : Nat) : Option Nat :=
  ([F.SV_CLASS_WEIGHT, F.SV_CLASS_SPEED, F.SV_CLASS_PIPE, F.SV_CLASS_LANES].find? fun b =>
    b ≤ id && id < b + 64).map (id - ·)

/-- A class field changes: the old value applies until the scan pointer advances (R288), and SV_CLASS_SET is
written (Table 10.23). -/
def classSet (s : State) (k id v : Nat) : State :=
  let old := fieldOf s id
  let held := s.serving.classHeld
  let s := modServing s fun x => { x with classHeld := if held.any fun e => e.1 = id then held else held ++ [(id, old)] }
  let s := { s with fields := kset fieldDefault s.fields id v }
  logPut s 0x0A13 sevNotice (svcSrc s) k (fieldOf s (F.SV_CLASS_WEIGHT + k))
    (fieldOf s (F.SV_CLASS_PIPE + k) + fieldOf s (F.SV_CLASS_LANES + k) * 2 ^ 9
      + fieldOf s (F.SV_CLASS_SPEED + k) * 2 ^ 14)

/-- Records above a lowered SV_RESEND_RECORDS are held no more (R273, R288). -/
def trimRecords (s : State) : State :=
  let keep := fieldOf s F.SV_RESEND_RECORDS
  modServing s fun x => { x with seqs := x.seqs.map fun q => { q with records := q.records.drop (q.records.length - keep) } }

/-- The new run setting of one field. -/
def setField (s : State) (id v : Nat) : State :=
  match classOfField id with
  | some k => classSet s k id v
  | none =>
    let s := { s with fields := kset fieldDefault s.fields id v }
    if id = F.SV_PIPE_SLOTS then refreshPipes s
    else if id = F.SV_RESEND_RECORDS then trimRecords s
    else if id = F.SK_PERIODIC then periodicSet s
    else s

/-- The change that a write makes, with its status, stored value and effective value. -/
def fieldWrite (s : State) (id len value : Nat) : State × Nat × Nat × Nat :=
  let v := value % 2 ^ (8 * len)
  if len < 1 || 16 < len then (s, fwMalformed, value % 2 ^ 128, 0)
  else
    match fieldDef id with
    | none => (s, fwUnknown, v, 0)
    | some f =>
      if f.noEffect then
        ({ s with recorded := kset (fun _ => 0) s.recorded id v }, fwNoEffect, v, fieldOf s id)
      else
        let e := fieldCheckVal f v
        (setField s id e, if fieldClamped f v then fwClampedTo else fwStands, v, e)

def fieldWriteEff (m : Mgmt) (id len value : Nat) : State → State :=
  mgmtOp isReady opFieldWrite m fun s =>
    let r := fieldWrite s id len value
    answer r.1 m opFieldWrite
      (leBytes 2 id ++ leBytes 1 r.2.1 ++ leBytes 16 r.2.2.1 ++ leBytes 16 r.2.2.2)

/-! ## Configuration report, log and configuration image -/

/-- A report entry (Table 17.8). -/
def cfgBytes (e : CfgEntry) : List Byte :=
  leBytes 2 e.id.toNat ++ [e.status] ++ leBytes 1 e.len.toNat ++ leBytes 4 e.offset.toNat
    ++ leBytes 16 e.stored ++ leBytes 16 e.effective

/-- The 64-byte header and the entries (R415). -/
def reportBytes (r : CfgReport) : List Byte :=
  leBytes 1 (b2n r.image) ++ leBytes 1 r.rejA ++ leBytes 1 r.rejB ++ leBytes 1 0 ++ leBytes 4 r.entries.length
    ++ leBytes 8 r.seqA.toNat ++ leBytes 8 r.seqB.toNat
    ++ ((List.range 7).map fun i => leBytes 4 ((r.counts[i]?).getD 0)).flatten ++ leBytes 12 0
    ++ (r.entries.map cfgBytes).flatten

def configReportEff (m : Mgmt) : State → State :=
  mgmtOp always opConfigReport m fun s => answer s m opConfigReport (reportBytes s.report)

/-- A log entry (Table 19.6). -/
def logBytes (e : LogEnt) : List Byte :=
  let b := e.body
  leBytes 8 b.stamp.toNat ++ leBytes 4 e.seqno.toNat ++ leBytes 2 b.code.toNat ++ leBytes 1 b.severity.toNat
    ++ leBytes 1 0 ++ leBytes 2 (b.srcKind.toNat * 2 ^ 13 + b.source.toNat) ++ leBytes 2 0
    ++ leBytes 4 b.p0.toNat ++ leBytes 4 b.p1.toNat ++ leBytes 4 b.p2.toNat

/-- Entries from a SEQNO on, and how many of those asked for have been overwritten (R457). SEQNO wraps, so an entry
lies at or above `first` when the difference is below 2^31. -/
def logFrom (s : State) (first : Word) (count : Nat) : Nat × List LogEnt :=
  let l := s.log.filter fun e => waitOk e.seqno first
  let gap :=
    match s.log.head? with
    | some e => if waitOk e.seqno (first + 1) then (e.seqno - first).toNat else 0
    | none => 0
  (gap, l.take count)

def logReadEff (m : Mgmt) (first : Word) (count : Nat) : State → State :=
  mgmtOp always opLogRead m fun s =>
    if count < 1 || 256 < count then reply s m opLogRead stMalformed []
    else
      let r := logFrom s first count
      answer s m opLogRead (leBytes 4 r.1 ++ leBytes 4 r.2.length ++ (r.2.map logBytes).flatten)

/-- The image replaces that of one flash device when Table 17.7 gives no reason against it (R411). -/
def bciWriteEff (m : Mgmt) (dev : Nat) (img : BciImage) : State → State :=
  mgmtOp (fun s => isReady s || inRecovery s) opBciWrite m fun s =>
    let why := imageReason s img
    if 1 < dev || why = 1 then reply s m opBciWrite stMalformed []
    else if why ≠ 0 then refuse s m opBciWrite why
    else
      answer (modStore s fun r => if dev = 0 then { r with bciA := img } else { r with bciB := img }) m opBciWrite []

/-! ## Records of the device -/

def capabilityEff (m : Mgmt) : State → State :=
  mgmtOp isReady opCapability m fun s => answer s m opCapability (capRecord s)

/-- An SM2 signature with the device key over some bytes, in the layout of R169. -/
def signed (s : State) (l : List Byte) : List Byte :=
  bytes512 (Config.sm2Sign (sm3 l)) ++ bytes256 (sm3 (bytes512 s.store.deviceKey)) ++ leBytes 32 0

/-- A repair-map entry (Table 17.10). -/
def rmBytes (e : RmEntry) : List Byte :=
  leBytes 8 (e.kind.toNat * 2 ^ 56 + e.die.toNat * 2 ^ 48 + e.item.toNat * 2 ^ 32 + e.detail.toNat)

/-- Header, entries and signature (R420). -/
def repairBytes (s : State) : List Byte :=
  let l := leBytes 4 Config.rmMagic.toNat ++ leBytes 8 s.store.repairSeq ++ leBytes 4 s.store.repair.length
    ++ (s.store.repair.map rmBytes).flatten
  l ++ signed s l

def repairMapEff (m : Mgmt) : State → State :=
  mgmtOp isReady opRepairMap m fun s => answer s m opRepairMap (repairBytes s)

/-- A test record (Table 19.3). -/
def testBytes (r : TestRec) : List Byte :=
  leBytes 8 r.stamp.toNat ++ leBytes 2 r.tile.toNat ++ [r.kind, r.index, r.outcome, r.coverage]
    ++ leBytes 2 r.micros.toNat

def testRecordEff (m : Mgmt) (d : Nat) : State → State :=
  mgmtOp isReady opTestRecord m fun s =>
    if 55 < d || !(dieOn s d) then reply s m opTestRecord stNoTarget []
    else answer s m opTestRecord ((dieOf s d).ring.map testBytes).flatten

/-- Pairs with their count. -/
def pairBytes (l : List (Nat × Nat)) : List Byte :=
  leBytes 2 l.length ++ (l.map fun e => leBytes 2 e.1 ++ leBytes 2 e.2).flatten

/-- A load report (R173). -/
def loadBytes (r : LoadReport) : List Byte :=
  leBytes 1 r.result ++ leBytes 1 r.reason ++ leBytes 1 r.tiles ++ leBytes 1 r.layers
    ++ leBytes 1 r.density ++ leBytes 1 (b2n r.sigSkipped) ++ leBytes 2 r.dies.length
    ++ leBytes 4 r.disabled.toNat ++ leBytes 4 r.detail.toNat ++ leBytes 1 r.field ++ leBytes 16 r.pack.toNat
    ++ (r.dies.map fun d => leBytes 1 d).flatten ++ leBytes 2 r.variants.length
    ++ (r.variants.map fun v => leBytes 2 v.1 ++ leBytes 1 v.2.1 ++ leBytes 1 v.2.2).flatten ++ pairBytes r.pipes

/-- The report of a context's last load operation; an empty body when there has been none. -/
def loadReportEff (m : Mgmt) (c : Nat) : State → State :=
  mgmtOp isReady opLoadReport m fun s =>
    if 3 < c then reply s m opLoadReport stMalformed []
    else answer s m opLoadReport (((kget (fun _ => none) s.loader.reports c).map loadBytes).getD [])

/-- The slot and the effective values of a live or kept sequence (R277). -/
def seqBytes (q : Seq) : List Byte :=
  let p := q.samp
  leBytes 2 (q.slot.getD 0xFFFF) ++ leBytes 1 q.cls ++ leBytes 1 (b2n q.keep + 2 * b2n q.noSpec)
    ++ leBytes 4 q.clamped.toNat ++ leBytes 4 q.maxNew ++ leBytes 4 p.temp.toNat ++ leBytes 4 p.topK
    ++ leBytes 4 p.topP.toNat ++ leBytes 4 p.minP.toNat ++ leBytes 4 p.repPen.toNat ++ leBytes 4 p.presPen.toNat
    ++ leBytes 8 p.seed.toNat ++ leBytes 4 (p.grammar.getD 0xFFFFFFFF)
    ++ leBytes 2 p.bias.length ++ (p.bias.map fun e => leBytes 4 e.1 ++ leBytes 4 e.2.toNat).flatten
    ++ leBytes 2 p.stops.length
    ++ (p.stops.map fun l => leBytes 1 l.length ++ (l.map fun t => leBytes 4 t).flatten).flatten

def sequenceQueryEff (m : Mgmt) (tenant : Nat) (req : DWord) : State → State :=
  mgmtOp isReady opSequenceQuery m fun s =>
    match seqOf s tenant req with
    | none => reply s m opSequenceQuery stNoTarget []
    | some q =>
      if isLive q || q.kept then answer s m opSequenceQuery (seqBytes q)
      else reply s m opSequenceQuery stNoTarget []

/-! ## Spill pools (R224, R225) -/

def poolBusy : Nat := 1

/-- The current pool becomes a draining one, which closes when it holds no page. -/
def displacePool (s : State) (p : Nat) : State :=
  match (portOf s p).current with
  | none => s
  | some i =>
    let s := modPort s p fun x => { x with current := none, drainWait := false }
    poolCheck (setPool s p i ((poolOf s p i).map fun q => { q with draining := true, broughtBack := 0 })) p i

/-- The pool slot that no pool holds. -/
def freePool (s : State) (p : Nat) : Nat := if (poolOf s p 0).isNone then 0 else 1

/-- A registration becomes the current pool; a page count of 0 names none. -/
def registerPool (s : State) (p : Nat) (q : PoolParams) : State :=
  let i := freePool s p
  let s := displacePool s p
  if q.pages = 0 then s
  else modPort (setPool s p i (some ⟨q, 0, false, 0⟩)) p fun x => { x with
    current := some i, qps := kput x.qps (poolQp i) ⟨macRate (portGet s p R.PT_STAT_MODE), none, none, 0⟩ }

def poolRegisterEff (m : Mgmt) (p : Nat) (q : PoolParams) : State → State :=
  mgmtOp isReady opPoolRegister m fun s =>
    if 1 < p then reply s m opPoolRegister stNoTarget []
    else if (poolsOf s p).any fun x => x.draining then refuse s m opPoolRegister poolBusy
    else answer (registerPool s p q) m opPoolRegister []

/-! ## The commands -/

def execStatusRead (m : Mgmt) (s : State) : Res := .next (statusReadEff m s)
def execRegRead (m : Mgmt) (addr : DWord) (count : Word) (s : State) : Res :=
  .next (regReadEff m addr.toNat count.toNat s)
def execRegWrite (m : Mgmt) (addr : DWord) (words : List Word) (s : State) : Res :=
  .next (regWriteEff m addr.toNat (words.map (·.toNat)) s)
def execRingAccess (m : Mgmt) (f : RingFrame) (s : State) : Res := .next (ringAccessEff m f s)
def execFieldRead (m : Mgmt) (id : Half) (s : State) : Res := .next (fieldReadEff m id.toNat s)
def execFieldWrite (m : Mgmt) (id len : Half) (value : Nat) (s : State) : Res :=
  .next (fieldWriteEff m id.toNat len.toNat value s)
def execConfigReportRead (m : Mgmt) (s : State) : Res := .next (configReportEff m s)
def execLogRead (m : Mgmt) (first count : Word) (s : State) : Res := .next (logReadEff m first count.toNat s)
def execBciWrite (m : Mgmt) (dev : Byte) (img : BciImage) (s : State) : Res := .next (bciWriteEff m dev.toNat img s)
def execCapabilityRead (m : Mgmt) (s : State) : Res := .next (capabilityEff m s)
def execRepairMapRead (m : Mgmt) (s : State) : Res := .next (repairMapEff m s)
def execTestRecordRead (m : Mgmt) (die : Byte) (s : State) : Res := .next (testRecordEff m die.toNat s)
def execLoadReportRead (m : Mgmt) (c : Byte) (s : State) : Res := .next (loadReportEff m c.toNat s)
def execSequenceQuery (m : Mgmt) (tenant : Half) (req : DWord) (s : State) : Res :=
  .next (sequenceQueryEff m tenant.toNat req s)
def execSpillPoolRegister (m : Mgmt) (p : Byte) (pool : PoolParams) (s : State) : Res :=
  .next (poolRegisterEff m p.toNat pool s)

end Sys2Proof.Machine
end

