-- ==== Sys2Proof/Machine/MgmtKeys.lean ====
section
/-! DEFINITION. Management sessions, tenants, the certificate, attestation and the configuration key (R467 to
R473). -/
namespace Sys2Proof.Machine

def opTenantSet : Nat := 0x0019
def opCertificate : Nat := 0x0020
def opAttestation : Nat := 0x0021
def opSetConfigKey : Nat := 0x0022

/-! ## Sessions (R473) -/

def tlsProtocol : Nat := 0
def tlsClient : Nat := 1
def tlsLimit : Nat := 2

/-- A refused handshake is counted. -/
def tlsRefuse (s : State) (why : Nat) : State :=
  modPlane (pinc s R.BON_STAT_TLS_REFUSED) fun p => { p with tlsRefused := p.tlsRefused + 1, tlsReason := why }

/-- Some Bonnet holds the device key (R466). -/
def keyOk (s : State) : Bool := pget s R.BON_STAT_KEY_OK_0 = 1 || pget s R.BON_STAT_KEY_OK_1 = 1

/-- The offer is that of R473, and asks for nothing else. -/
def offerOk (o : TlsOffer) : Bool := o.tls13 && (o.gcm || o.ccm) && o.curve && o.scheme && !o.extra

/-- A client connects: the session limit closes it at once, another offer than that of R473 or a certificate that
the configuration key does not sign ends the handshake with an alert. -/
def tlsEff (o : TlsOffer) (s : State) : State :=
  let alert (s : State) : State :=
    let f := frameTag s o.port.val .mgmt
    sendOn s o.port.val f.pcp (.tlsAlert o.session f)
  if !s.plane.vaux || !(keyOk s) || !(portUp s o.port.val) || (sessionOf s o.session).isSome then s
  else if fieldOf s F.SEC_MGMT_SESSIONS ≤ s.sessions.length then tlsRefuse s tlsLimit
  else if !(offerOk o) then alert (tlsRefuse s tlsProtocol)
  else if !(Config.sm2Verify (cfgKey s).key (sm3 o.certBody) o.certSig) then alert (tlsRefuse s tlsClient)
  else { s with sessions := s.sessions ++ [⟨o.session, o.port, o.certKey, fieldOf s F.SEC_MGMT_IDLE_S⟩] }

/-- A session that has been idle for the limit with which it opened is closed. -/
def idleEff (id idleS : Nat) (s : State) : State :=
  { s with sessions := s.sessions.filter fun x => !(x.id = id && x.idle ≤ idleS) }

/-! ## Tenants (R471) -/

/-- An entry that stands adds a tenant, or replaces it and leaves its replay state. -/
def putTenant (s : State) (e : TenantEntry) : State :=
  let f := freshTenant s e
  let t :=
    match tenantOf s e.tenant.toNat with
    | some x => { f with highest := x.highest, accepted := x.accepted, send := x.send }
    | none => f
  setTenant s e.tenant.toNat (some t)

/-- The entries of a message in order; one that R471 leaves out changes nothing. -/
def putTenants (s : State) (earlier : List TenantEntry) : List TenantEntry → State
  | [] => s
  | e :: rest =>
    let cause := tenantCause s.store.devicePriv.toNat earlier e
    let s := if cause = 0 then putTenant s e else if cause = 1 then unwrapFail s e.tenant.toNat else s
    putTenants s (earlier ++ [e]) rest

/-- The body is whole entries, at most 1,024, with their reserved bytes 0 (R478). -/
def tenantBodyOk (body : List Byte) : Bool :=
  body.length % 192 = 0 && body.length ≤ 192 * 1024
    && (List.range (body.length / 192)).all fun n => tenantZeros body (192 * n)

def tenantSetEff (m : Mgmt) (body : List Byte) : State → State :=
  mgmtOp isReady opTenantSet m fun s =>
    if !(tenantBodyOk body) then reply s m opTenantSet stMalformed []
    else
      answer (putTenants s [] ((List.range (body.length / 192)).map fun n => tenantAt body (192 * n))) m opTenantSet []

/-! ## Certificate and attestation (R467, R472) -/

def certificateEff (m : Mgmt) : State → State :=
  mgmtOp isReady opCertificate m fun s => answer s m opCertificate s.store.certificate

def serialBytes (v : BitVec 128) : List Byte := leBytes 16 v.toNat

/-- The serials that the serial digest covers, in its order (R464). -/
def allSerials (s : State) : List (BitVec 128) :=
  ((List.range 60).map (serialOf s.store.dieSerials)) ++ ((List.range 56).map (serialOf s.store.stackSerials))

def serialDigest (s : State) : BitVec 256 := sm3 ((allSerials s).map serialBytes).flatten

/-- FLAGS of the report (Table 20.4). -/
def attFlags (s : State) : Nat :=
  bitsNat [inRecovery s, pget s R.BU_STAT_IMAGE = 1, (allSerials s).any fun v => v = 0]

/-- A context record (Table 20.5). -/
def ctxRecord (s : State) (c : Nat) : List Byte :=
  let st := ctxState s c
  let x := ctxOf s c
  let zero : BitVec 256 := 0
  let live (f : Context → BitVec 256) : BitVec 256 := if st = 0 then zero else (x.map f).getD zero
  let next (f : Replacing → BitVec 256) : BitVec 256 := ((x.bind (·.replacing)).map f).getD zero
  let flags := bitsNat [((x.map (·.sigSkipped)).getD false), ((x.map (·.replacing.isSome)).getD false)]
  leBytes 1 st ++ leBytes 1 flags ++ leBytes 2 0 ++ leBytes 4 (pget s (R.CTX_VERSION_VERSION.at c 16))
    ++ bytes256 (live fun x => imgDigest x.image) ++ bytes256 (live fun x => entryDigest x.manifest)
    ++ bytes256 (next fun r => imgDigest r.image) ++ bytes256 (next fun r => entryDigest r.manifest) ++ leBytes 24 0

/-- Bytes 0 to 1,023 of the report (Table 20.4). -/
def attBody (s : State) (nonce : BitVec 256) : List Byte :=
  let img := bciInUse s
  leBytes 4 0x54525441 ++ leBytes 2 1 ++ leBytes 2 0 ++ bytes256 nonce ++ leBytes 8 (stamp s).toNat
    ++ serialBytes s.store.moduleSerial ++ bytes256 (serialDigest s) ++ leBytes 2 s.store.grade.grade.toNat
    ++ leBytes 1 (b2n s.plane.primary) ++ leBytes 1 (attFlags s) ++ leBytes 4 0
    ++ bytes256 (Config.romDigest (b2n s.plane.primary)) ++ bytes256 s.store.grade.digest ++ bytes256 (sm3 img.bytes)
    ++ ([secFwService, secFwPort, secFwBowler, secFwTile].map fun t => bytes256 (fwDigestAt (bciPayload img t))).flatten
    ++ bytes256 (sm3 (bytes512 (cfgKey s).key)) ++ leBytes 8 s.store.repairSeq
    ++ leBytes 16 0 ++ ((List.range 4).map (ctxRecord s)).flatten

def attestationEff (m : Mgmt) (nonce : BitVec 256) : State → State :=
  mgmtOp isReady opAttestation m fun s =>
    let b := attBody s nonce
    answer s m opAttestation (b ++ signed s b)

/-! ## The configuration key (R470) -/

/-- What the current key must sign: the module serial, the new key and the counter. -/
def keyMessage (s : State) (key : BitVec 512) (counter : Nat) : BitVec 256 :=
  sm3 (serialBytes s.store.moduleSerial ++ bytes512 key ++ leBytes 8 counter)

/-- The new record goes to the copy of SD[1] and then to that of SD[0]. -/
def putConfigKey (s : State) (key : BitVec 512) (counter : Nat) : State :=
  let k : CfgKey := ⟨key, counter, true⟩
  let s := modStore (modStore s fun r => { r with cfg1 := k }) fun r => { r with cfg0 := k }
  logPut s 0x1412 sevNotice (svcSrc s) (counter % 2 ^ 32) (leNat ((bytes256 (sm3 (bytes512 key))).take 4)) 0

def setConfigKeyEff (m : Mgmt) (key : BitVec 512) (counter : Nat) (sig : BitVec 512) : State → State :=
  mgmtOp isReady opSetConfigKey m fun s =>
    if Config.sm2Verify (cfgKey s).key (keyMessage s key counter) sig && (cfgKey s).counter < counter then
      answer (putConfigKey s key counter) m opSetConfigKey []
    else refuse s m opSetConfigKey Config.keyRefused

/-! ## The commands -/

def execTlsHandshake (o : TlsOffer) (s : State) : Res := .next (tlsEff o s)
def execMgmtIdleTimeout (idle : IdleSession) (s : State) : Res := .next (idleEff idle.id idle.idleS.toNat s)
def execTenantSet (m : Mgmt) (body : List Byte) (s : State) : Res := .next (tenantSetEff m body s)
def execCertificateRead (m : Mgmt) (s : State) : Res := .next (certificateEff m s)
def execAttestation (m : Mgmt) (nonce : BitVec 256) (s : State) : Res := .next (attestationEff m nonce s)
def execSetConfigKey (m : Mgmt) (key : BitVec 512) (counter : DWord) (sig : BitVec 512) (s : State) : Res :=
  .next (setConfigKeyEff m key counter.toNat sig s)

end Sys2Proof.Machine
end

