-- ==== Sys2Proof/Machine/Vector.lean ====
section
/-! DEFINITION. The vector cores' commands NV.MAP, NV.RED, NV.NORM, NV.ROPE and NV.SMAX (R143 to R148)
over the arithmetic of Numerics.lean. A command reads all its sources before it writes. -/
namespace Sys2Proof.Machine

/-- Sequence two vector operations; their counts add. -/
def vb (a : VRes) (f : Word → VRes) : VRes :=
  let b := f a.w
  ⟨b.w, a.sat + b.sat, a.inv + b.inv⟩

def vpure (w : Word) : VRes := ⟨w, 0, 0⟩

/-- The sum of a list, a free value; a special candidate is a saturated result. -/
def vsumR (l : List Word) : VRes := ⟨vsum l, b2n (isSpecial 23 (Config.sumC l).toNat), 0⟩
def vquotR (a b : Word) : VRes := ⟨vquot a b, b2n (isSpecial 23 (Config.quotC a b).toNat), 0⟩

/-! ## Operands (Table 5.12) -/

/-- Bytes of an element of a plane format in memory. -/
def vfmtBytes (f : VFmt) (n : Nat) : Nat := match f with
  | .fp32 => 4 * n
  | .bf16 => 2 * n
  | .q4 => (n + 1) / 2
  | .q8 => n

/-- The memory a reference names: the tile buffer or the executing core's registers. -/
def vmem (ts : TileState) (core : Nat) (r : VRef) : List Host.Cell := if r.reg then vregFile ts core else ts.buf

/-- Values read of a source: FP32 words, replaced operands and overflowing products with the tensor scale (R76,
R94). -/
structure VIn where
  ws   : List Word
  spec : Nat
  sat  : Nat

/-- Element `i` of a source as FP32, with its replaced operands and overflows; `t` is the tensor scale. -/
def vread (ts : TileState) (core : Nat) (r : VRef) (t : Word) (i : Nat) : Word × Nat × Nat :=
  let i := if r.bcast then 0 else i
  let m := vmem ts core r
  let base := r.addr * lineBytes
  match r.fmt with
  | .fp32 => let (v, n) := f32Read (BitVec.ofNat 32 (mread m (base + 4 * i) 4)); (f32Enc v, n, 0)
  | .bf16 => let (v, n) := bfRead (BitVec.ofNat 16 (mread m (base + 2 * i) 2)); (f32Enc v, n, 0)
  | .q4 =>
    let c := bitsOf (mget m (base + i / 2)).toNat (4 * (i % 2)) 4
    let sc := u5m3 (mget ts.buf (r.scale * lineBytes + i / 16)).toNat
    let (x, o) := toF32 (mulFV (.ofRat (q4Val c * sc)) (rd t))
    (f32Enc x, 0, b2n o)
  | .q8 =>
    let (v, n) := q8Val (mget m (base + i)).toNat
    let sc := u5m3 (mget ts.buf (r.scale * lineBytes + i / 16)).toNat
    let (x, o) := toF32 (mulFV (.ofRat (v * sc)) (rd t))
    (f32Enc x, n, b2n o)

/-- The elements of a source. -/
def vreads (ts : TileState) (core : Nat) (r : VRef) (t : Word) (n : Nat) : VIn :=
  let l := (List.range n).map (vread ts core r t)
  ⟨l.map (·.1), l.foldl (fun a x => a + x.2.1) 0, l.foldl (fun a x => a + x.2.2) 0⟩

def VIn.zeros (n : Nat) : VIn := ⟨List.replicate n 0, 0, 0⟩

/-- What reading the sources met. -/
def readEv (l : List VIn) : NumEv :=
  { NumEv.zero with special := l.foldl (fun a x => a + x.spec) 0, newtSat := l.foldl (fun a x => a + x.sat) 0 }

/-- The tensor scale counts once when a source of the command needs it (R76). -/
def scaleEv (refs : List VRef) (n : Nat) (t : Word) : NumEv :=
  if n ≠ 0 && refs.any (fun r => r.v && (r.fmt = .q4 || r.fmt = .q8)) then
    { NumEv.zero with special := (f32Read t).2 }
  else NumEv.zero

/-- The bytes of the tile buffer that a source of `n` elements takes in: its elements and their scales. -/
def refSpans (r : VRef) (n : Nat) : List Span :=
  let n := if r.bcast then min n 1 else n
  if !r.v || n = 0 then []
  else (if r.reg then [] else [(r.addr * lineBytes, vfmtBytes r.fmt n)])
    ++ (if r.fmt = .q4 || r.fmt = .q8 then [(r.scale * lineBytes, cdiv n 16)] else [])

/-- A range of a reference lies in the buffer or the register file. -/
def vspan (r : VRef) (bytes : Nat) : Bool :=
  if r.reg then r.addr + cdiv bytes lineBytes ≤ vregs else planeOk r.addr bytes

/-- Checks of a needed reference: V, its format among those allowed, reserved bits, and its range for
`n` elements (none checked for a command of length 0). -/
def refChecks (w : DWord) (word n : Nat) (allowed : List VFmt) : List Check :=
  let r := vrefOf w
  let n := if r.bcast then min n 1 else n
  let l : List Check :=
    [(!r.v || !(allowed.contains r.fmt), reasonUndefined, word), (r.v && r.rsvd, reasonReserved, word),
     (r.v && n ≠ 0 && !(vspan r (vfmtBytes r.fmt n)), reasonRange, word),
     (r.v && n ≠ 0 && (r.fmt = .q4 || r.fmt = .q8) && !(planeOk r.scale (cdiv n 16)), reasonRange, word)]
  l

/-- Checks of a reference that the command does not need. -/
def idleRef (w : DWord) (word : Nat) : List Check :=
  let r := vrefOf w
  let l : List Check := [(r.v && r.rsvd, reasonReserved, word)]
  l

def anyFmt : List VFmt := [.fp32, .bf16, .q4, .q8]
def plainFmt : List VFmt := [.fp32, .bf16]

/-- Results as the bytes of a destination format, with the count of BF16 conversions that saturate a result which
did not overflow in FP32 (R94). -/
def vbytes (f : VFmt) (l : List VRes) : List Byte × Nat :=
  match f with
  | .bf16 =>
    ((l.map fun r => leBytes 2 (bfOf r.w).1.toNat).flatten,
      l.foldl (fun a r => a + b2n ((bfOf r.w).2 && r.sat = 0)) 0)
  | _ => ((l.map fun r => leBytes 4 r.w.toNat).flatten, 0)

/-- Write bytes at a destination. -/
def vstore (ts : TileState) (core : Nat) (r : VRef) (off : Nat) (bs : List Byte) : TileState :=
  if bs.isEmpty then ts
  else if r.reg then setVregFile ts core (mstore (vregFile ts core) (r.addr * lineBytes + off) bs)
  else bufWrite ts (r.addr * lineBytes + off) bs

/-- Store results from a byte offset of a destination on, and note the events. -/
def vfinish (s : State) (t : Tid) (core : Nat) (d : VRef) (off : Nat) (ev : NumEv) (rs : List VRes) : State :=
  let (bs, n) := vbytes d.fmt rs
  let s := modTile s t fun ts => vstore ts core d off bs
  noteNum s t (ev.add
    { NumEv.zero with newtSat := n + rs.foldl (fun a r => a + r.sat) 0
                      invalid := rs.foldl (fun a r => a + r.inv) 0 })

/-- The tensor scale of Q4 and Q8 sources, and c0 (R143, R144). -/
def lowConst (d : Desc) : Word := BitVec.ofNat 32 (dbits d.w6 0 32)
def highConst (d : Desc) : Word := BitVec.ofNat 32 (dbits d.w6 32 32)

/-- A vector command that has done its work. -/
def nvDone (s : State) (t : Tid) (core : Nat) (c : QCmd) : State := launch s t (core + 1) c 1

/-! ## NV.MAP (R144) -/

/-- Which of A, B and C a function needs. -/
def mapNeeds (fn : Nat) : Bool × Bool :=
  (fn = 0 || fn = 1 || fn = 2 || fn = 13 || fn = 14, fn = 2)

/-- The functions of Table 5.13. -/
def mapFn (fn : Nat) (c0 c1 a b c : Word) : VRes :=
  match fn with
  | 0 => vadd a b
  | 1 => vmul a b
  | 2 => vfma a b c
  | 3 => vfma a c1 c0
  | 4 => vexp a
  | 5 => vexp2 a
  | 6 => vrecip a
  | 7 => vrsqrt a
  | 8 => vlog2 a
  | 9 => vtanh a
  | 10 => vsigmoid a
  | 11 => vsilu a
  | 12 => vgelu a
  | 13 => vpure (vmax a b)
  | 14 => vb (vsilu a) fun x => vmul x b
  | _ => vpure a

def mapChecks (s : State) (t : Tid) (d : Desc) : List Check :=
  let fn := descFlags d % 32
  let n := dbits d.w1 0 24
  let (nb, nc) := mapNeeds fn
  headerChecks s t d 31 ++ zeroWords d [7] ++ [zeroFrom d 1 24, (15 < fn, reasonUndefined, 0)]
    ++ refChecks d.w2 2 n anyFmt ++ (if nb then refChecks d.w3 3 n anyFmt else idleRef d.w3 3)
    ++ (if nc then refChecks d.w4 4 n anyFmt else idleRef d.w4 4) ++ refChecks d.w5 5 n plainFmt

def nvMapEff (t : Tid) (core : Fin 2) (errs : List MemErr) (s : State) : State :=
  startCmd 0x20 (core.val + 1) s t fun c s =>
    let d := c.desc
    let fn := descFlags d % 32
    let n := dbits d.w1 0 24
    let (nb, nc) := mapNeeds fn
    let fix (w : Word) : Word × Nat := let (v, k) := f32Read w; (f32Enc v, k)
    checked s t (core.val + 1) c (mapChecks s t d) fun s =>
      let refs := [vrefOf d.w2] ++ (if nb then [vrefOf d.w3] else []) ++ (if nc then [vrefOf d.w4] else [])
      let s := bufReads s t (refs.map fun r => refSpans r n).flatten errs
      let ts := tileOf s t
      let tsc := lowConst d
      let as := vreads ts core.val (vrefOf d.w2) tsc n
      let bs := if nb then vreads ts core.val (vrefOf d.w3) tsc n else VIn.zeros n
      let cs := if nc then vreads ts core.val (vrefOf d.w4) tsc n else VIn.zeros n
      let (c0, k4) := if fn = 3 && n ≠ 0 then fix (lowConst d) else (0, 0)
      let (c1, k5) := if fn = 3 && n ≠ 0 then fix (highConst d) else (0, 0)
      let sc := if fn = 3 then NumEv.zero else scaleEv refs n tsc
      let rs := (List.zip as.ws (List.zip bs.ws cs.ws)).map fun x => mapFn fn c0 c1 x.1 x.2.1 x.2.2
      let ev := ((readEv [as, bs, cs]).add sc).add { NumEv.zero with special := k4 + k5 }
      nvDone (vfinish s t core.val (vrefOf d.w5) 0 ev rs) t core.val c

/-! ## NV.RED (R145) -/

/-- A record in memory (Table 3.7): COUNT and its two FP32 fields, with replaced operands. -/
structure Rec where
  count : Nat
  a     : Word
  b     : Word
  spec  : Nat

def recAt (m : List Host.Cell) (a : Nat) : Rec :=
  let (x, k) := f32Read (BitVec.ofNat 32 (mread m (a + 4) 4))
  let (y, l) := f32Read (BitVec.ofNat 32 (mread m (a + 8) 4))
  ⟨mread m a 4, f32Enc x, f32Enc y, k + l⟩

/-- An integer as FP32. -/
def intW (n : Nat) : Word := f32Of (n : Rat)

/-- The merge step of R93. -/
def mergeWelford (x y : Rec) : Rec × Nat :=
  let n := (x.count + y.count) % 2 ^ 32
  let d := vsub y.a x.a
  let mean := vb (vb (vmul d.w (intW y.count)) fun p => vquotR p (intW n)) fun q => vadd x.a q
  let q := vb (vb (vb (vmul d.w d.w) fun p => vmul p (intW x.count)) fun p => vmul p (intW y.count))
    fun p => vquotR p (intW n)
  let m2 := vb (vadd x.b y.b) fun p => vadd p q.w
  (⟨n, mean.w, m2.w, x.spec + y.spec⟩, d.sat + mean.sat + q.sat + m2.sat)

def mergeSumsq (x y : Rec) : Rec × Nat :=
  let a := vadd x.a y.a
  let b := vadd x.b y.b
  (⟨(x.count + y.count) % 2 ^ 32, a.w, b.w, x.spec + y.spec⟩, a.sat + b.sat)

/-- Merge records in order. -/
def mergeAll (welford : Bool) : List Rec → Rec × Nat
  | [] => (⟨0, 0, 0, 0⟩, 0)
  | x :: r => r.foldl (fun a y =>
      let (z, k) := if welford then mergeWelford a.1 y else mergeSumsq a.1 y
      (z, a.2 + k)) (x, 0)

/-- The index of the first maximum. -/
def argMax (l : List Word) : Nat :=
  (l.zipIdx.foldl (fun (a : Word × Nat) x => if f32Val a.1 < f32Val x.1 then x else a)
    (l.headD 0, 0)).2

def redChecks (s : State) (t : Tid) (d : Desc) : List Check :=
  let mode := descFlags d % 8
  let welford := tbit (descFlags d) 7
  let n := dbits d.w1 0 24
  let record : Bool := 3 ≤ mode && mode ≤ 5
  let merge : Bool := mode = 5
  let dn := if n = 0 then 0 else if record then 4 else 1
  headerChecks s t d 0x87 ++ zeroWords d [3, 4, 7] ++ [zeroFrom d 1 24,
      (5 < mode || (welford && !merge), reasonUndefined, 0)]
    ++ refChecks d.w2 2 (if merge then 4 * n else n) (if merge then [.fp32] else anyFmt)
    ++ refChecks d.w5 5 dn (if mode < 2 then plainFmt else [.fp32])

def nvRedEff (t : Tid) (core : Fin 2) (errs : List MemErr) (s : State) : State :=
  startCmd 0x21 (core.val + 1) s t fun c s =>
    let d := c.desc
    let mode := descFlags d % 8
    let welford := tbit (descFlags d) 7
    let n := dbits d.w1 0 24
    let a := vrefOf d.w2
    let dst := vrefOf d.w5
    let merge : Bool := mode = 5
    checked s t (core.val + 1) c (redChecks s t d) fun s =>
      if n = 0 then nvDone s t core.val c
      else
        let s := bufReads s t (refSpans a (if merge then 4 * n else n)) errs
        let ts := tileOf s t
        let x := if merge then VIn.zeros 0 else vreads ts core.val a (lowConst d) n
        let xs := x.ws
        let ev := (readEv [x]).add (scaleEv [a] n (lowConst d))
        let put (bs : List Byte) (ev : NumEv) : State :=
          noteNum (modTile s t fun ts => vstore ts core.val dst 0 bs) t ev
        let rec' (w : Bool) : State :=
          put (redRecord w (xs.map f32Val)) (ev.add { NumEv.zero with newtSat := redSats w (xs.map f32Val) })
        let s := match mode with
          | 0 => vfinish s t core.val dst 0 ev [vsumR xs]
          | 1 => vfinish s t core.val dst 0 ev [vpure (xs.foldl vmax (xs.headD 0))]
          | 2 => put (leBytes 4 (argMax xs)) ev
          | 3 => rec' false
          | 4 => rec' true
          | _ =>
            let rs := (List.range n).map fun i =>
              recAt (vmem ts core.val a) (a.addr * lineBytes + (if a.bcast then 0 else 16 * i))
            let (r, sat) := mergeAll welford rs
            put (recordBytes r.count r.a r.b)
              { NumEv.zero with special := rs.foldl (fun z r => z + r.spec) 0, newtSat := sat }
        nvDone s t core.val c

/-! ## NV.NORM (R146) -/

def normChecks (s : State) (t : Tid) (d : Desc) : List Check :=
  let n := dbits d.w1 0 24
  let line := dbits d.w3 0 17
  let r := recAt (tileOf s t).buf (line * lineBytes)
  headerChecks s t d 0x11 ++ [zeroFrom d 1 24, zeroFrom d 3 17, zeroFrom d 6 32,
      (n ≠ 0 && !(linesOk line 1), reasonRange, 3), (n ≠ 0 && r.count ≠ n, reasonRange, 3)]
    ++ refChecks d.w2 2 n anyFmt ++ refChecks d.w4 4 n anyFmt
    ++ (if tbit (descFlags d) 0 then refChecks d.w5 5 n anyFmt else idleRef d.w5 5) ++ refChecks d.w7 7 n plainFmt

def nvNormEff (t : Tid) (core : Fin 2) (errs : List MemErr) (s : State) : State :=
  startCmd 0x22 (core.val + 1) s t fun c s =>
    let d := c.desc
    let layer := tbit (descFlags d) 0
    let welford := tbit (descFlags d) 4
    let n := dbits d.w1 0 24
    let line := dbits d.w3 0 17
    checked s t (core.val + 1) c (normChecks s t d) fun s =>
      if n = 0 then nvDone s t core.val c
      else
        let s := bufReads s t (refSpans (vrefOf d.w2) n ++ refSpans (vrefOf d.w4) n
          ++ (if layer then refSpans (vrefOf d.w5) n else []) ++ [(line * lineBytes, 16)]) errs
        let ts := tileOf s t
        let r := recAt ts.buf (line * lineBytes)
        let tsc := lowConst d
        let (eps, k0) := f32Read (lowConst d)
        let cnt := intW n
        let xs := vreads ts core.val (vrefOf d.w2) tsc n
        let gs := vreads ts core.val (vrefOf d.w4) tsc n
        let bs := if layer then vreads ts core.val (vrefOf d.w5) tsc n else VIn.zeros n
        let mu := if welford then vpure r.a else vquotR r.a cnt
        let sq := vmul mu.w mu.w
        let base := vquotR r.b cnt
        let stat : VRes :=
          if layer then
            if welford then base
            else
              let v := vsub base.w sq.w
              ⟨if f32Val v.w < 0 then 0 else v.w, base.sat + sq.sat + v.sat, 0⟩
          else if welford then
            let q := vadd base.w sq.w
            ⟨q.w, base.sat + sq.sat + q.sat, 0⟩
          else base
        let rho := vb (vb stat fun v => vadd v (f32Enc eps)) vrsqrt
        let head : VRes := ⟨0, rho.sat + (if layer then mu.sat else 0), rho.inv⟩
        let y (x g b : Word) : VRes :=
          if layer then vb (vb (vsub x mu.w) fun p => vmul p rho.w) fun p => vfma p g b
          else vb (vmul x rho.w) fun p => vmul p g
        let ys := (List.zip xs.ws (List.zip gs.ws bs.ws)).map fun e => y e.1 e.2.1 e.2.2
        let ev := (readEv [xs, gs, bs]).add
          { NumEv.zero with special := r.spec + k0, newtSat := head.sat, invalid := head.inv }
        nvDone (vfinish s t core.val (vrefOf d.w7) 0 ev ys) t core.val c

/-! ## NV.ROPE (R147) -/

/-- The output elements of one row. -/
def ropeRow (half : Bool) (x cs : List Word) : List VRes :=
  let w := x.length
  let get (l : List Word) (i : Nat) : Word := l[i]?.getD 0
  (List.range w).map fun e =>
    let i := if half then e % (w / 2) else e / 2
    let second : Bool := if half then w / 2 ≤ e else e % 2 = 1
    let xa := get x (if half then i else 2 * i)
    let xb := get x (if half then i + w / 2 else 2 * i + 1)
    let c := get cs (2 * i)
    let s := get cs (2 * i + 1)
    if second then vb (vmul xb c) fun p => vfma xa s p
    else vb (vmul xb s) fun p => vfma xa c (vneg p)

def ropeChecks (s : State) (t : Tid) (d : Desc) : List Check :=
  let w := dbits d.w1 16 16
  let n := dbits d.w1 0 16 * w
  headerChecks s t d 1 ++ zeroWords d [5, 7] ++ [zeroFrom d 1 32, (w % 2 = 1 || 1024 < w, reasonRange, 1)]
    ++ refChecks d.w2 2 n anyFmt ++ refChecks d.w3 3 n [.fp32] ++ refChecks d.w4 4 n plainFmt

def nvRopeEff (t : Tid) (core : Fin 2) (errs : List MemErr) (s : State) : State :=
  startCmd 0x23 (core.val + 1) s t fun c s =>
    let d := c.desc
    let half := tbit (descFlags d) 0
    let rows := dbits d.w1 0 16
    let w := dbits d.w1 16 16
    let n := rows * w
    checked s t (core.val + 1) c (ropeChecks s t d) fun s =>
      let s := bufReads s t (refSpans (vrefOf d.w2) n ++ refSpans (vrefOf d.w3) n) errs
      let ts := tileOf s t
      let xs := vreads ts core.val (vrefOf d.w2) (lowConst d) n
      let tb := vreads ts core.val (vrefOf d.w3) (lowConst d) n
      let ys := ((List.range rows).map fun r =>
        ropeRow half ((xs.ws.drop (r * w)).take w) ((tb.ws.drop (r * w)).take w)).flatten
      let ev := (readEv [xs, tb]).add (scaleEv [vrefOf d.w2] n (lowConst d))
      nvDone (vfinish s t core.val (vrefOf d.w4) 0 ev ys) t core.val c

/-! ## NV.SMAX (R148, R249, R250) -/

/-- The bias bucket of a distance (R249). -/
def biasBucket (delta : Nat) : Nat :=
  if delta < 64 then delta
  else if delta < 2 ^ 18 then
    let e := Nat.log2 delta
    64 + 16 * (e - 6) + (delta / 2 ^ (e - 4) - 16)
  else 255

/-- Lines of a row of `n` elements of a format. -/
def rowLines (f : VFmt) (n : Nat) : Nat := cdiv (vfmtBytes f n) lineBytes

/-- One row of probabilities, with the count of replaced operands. -/
def smaxRow (ts : TileState) (core : Nat) (src : VRef) (cols bt q h kpos : Nat) (c0 tsc : Word) :
    List VRes × Nat :=
  let n := if kpos ≤ q then min cols (q - kpos + 1) else 0
  let z := (List.range n).map fun k =>
    let (x, a, _) := vread ts core src tsc k
    let (b, e) := halfRead (mread ts.buf ((bt + 2 * h) * lineBytes + 2 * biasBucket (q - (kpos + k))) 2)
    (if Config.smaxFused then vfma c0 x b else vb (vmul c0 x) fun p => vadd p b, a + e)
  let zs := z.map (·.1.w)
  let m := zs.foldl vmax (zs.headD 0)
  let es := zs.map fun w => vb (vsub w m) vexp
  let sum := vsumR (es.map (·.w))
  let ps := (List.zip z es).map fun x =>
    let p := vquotR x.2.w sum.w
    (⟨p.w, x.1.1.sat + x.2.sat + p.sat, x.1.1.inv + x.2.inv⟩ : VRes)
  let ps := match ps with
    | [] => []
    | p :: r => ⟨p.w, p.sat + sum.sat, p.inv⟩ :: r
  (ps ++ List.replicate (cols - n) (vpure 0), z.foldl (fun a x => a + x.2) 0)

def smaxChecks (s : State) (t : Tid) (d : Desc) : List Check :=
  let rows := dbits d.w1 0 16
  let cols := dbits d.w1 16 21
  let bt := dbits d.w3 0 17
  let qpos := dbits d.w3 17 17
  let qh (r : Nat) : Nat := mread (tileOf s t).buf (qpos * lineBytes + 8 * r) 8
  let run : Bool := rows ≠ 0
  let spanOk (r : VRef) : Bool := vspan r (rows * rowLines r.fmt cols * lineBytes)
  headerChecks s t d 0 ++ zeroWords d [7] ++ [zeroFrom d 1 37, zeroFrom d 3 34,
      (cols = 0 || 2 ^ 20 < cols, reasonRange, 1), (run && !(planeOk qpos (8 * rows)), reasonRange, 3),
      (run && (List.range rows).any (fun r => bufLines < bt + 2 * bitsOf (qh r) 32 16 + 2), reasonRange, 3),
      (run && !(spanOk (vrefOf d.w2)), reasonRange, 2), (run && !(spanOk (vrefOf d.w5)), reasonRange, 5)]
    ++ refChecks d.w2 2 0 plainFmt ++ refChecks d.w5 5 0 plainFmt

/-- The bytes that a softmax takes in: of each row its scores at or before the query's position, and its entry of
the query table with the bias entries of their distances. -/
def smaxSpans (ts : TileState) (src : VRef) (rows cols bt qpos kpos : Nat) : List Span :=
  ((List.range rows).map fun r =>
    let qh := mread ts.buf (qpos * lineBytes + 8 * r) 8
    let q := bitsOf qh 0 32
    let h := bitsOf qh 32 16
    let n := if kpos ≤ q then min cols (q - kpos + 1) else 0
    (qpos * lineBytes + 8 * r, 8) :: refSpans { src with addr := src.addr + r * rowLines src.fmt cols } n
      ++ (List.range n).map fun k => ((bt + 2 * h) * lineBytes + 2 * biasBucket (q - (kpos + k)), 2)).flatten

def nvSmaxEff (t : Tid) (core : Fin 2) (errs : List MemErr) (s : State) : State :=
  startCmd 0x24 (core.val + 1) s t fun c s =>
    let d := c.desc
    let rows := dbits d.w1 0 16
    let cols := dbits d.w1 16 21
    let bt := dbits d.w3 0 17
    let qpos := dbits d.w3 17 17
    let kpos := dbits d.w4 0 32
    let src := vrefOf d.w2
    let dst := vrefOf d.w5
    let run : Bool := rows ≠ 0
    checked s t (core.val + 1) c (smaxChecks s t d) fun s =>
      let s := bufReads s t (smaxSpans (tileOf s t) src rows cols bt qpos kpos) errs
      let ts := tileOf s t
      let qh (r : Nat) : Nat := mread ts.buf (qpos * lineBytes + 8 * r) 8
      let (c0, k0) := if run then f32Read (BitVec.ofNat 32 (dbits d.w4 32 32)) else (.zero, 0)
      let rs := (List.range rows).map fun r =>
        let src := { src with addr := src.addr + r * rowLines src.fmt cols }
        smaxRow ts core.val src cols bt (bitsOf (qh r) 0 32) (bitsOf (qh r) 32 16) kpos (f32Enc c0) (lowConst d)
      let s := noteNum s t { NumEv.zero with special := k0 }
      let s := forEach rs.zipIdx s fun s x =>
        vfinish s t core.val dst (x.2 * rowLines dst.fmt cols * lineBytes)
          { NumEv.zero with special := x.1.2 } x.1.1
      nvDone s t core.val c

def execNvMap (t : TileRun) (core : Fin 2) (s : State) : Res := .next (nvMapEff t.tile core t.errs s)
def execNvRed (t : TileRun) (core : Fin 2) (s : State) : Res := .next (nvRedEff t.tile core t.errs s)
def execNvNorm (t : TileRun) (core : Fin 2) (s : State) : Res := .next (nvNormEff t.tile core t.errs s)
def execNvRope (t : TileRun) (core : Fin 2) (s : State) : Res := .next (nvRopeEff t.tile core t.errs s)
def execNvSmax (t : TileRun) (core : Fin 2) (s : State) : Res := .next (nvSmaxEff t.tile core t.errs s)

end Sys2Proof.Machine
end

