-- ==== Sys2Proof/Machine/Quant.lean ====
section
/-! DEFINITION. NV.QUANT (R149): the decision for each block (R99 to R103), its counts (R108) and the
outlier region. -/
namespace Sys2Proof.Machine

/-- The settings a quantize command works under: those of its tile's context (R115). -/
structure QcSet where
  sat     : Nat
  flush   : Nat
  ratio   : Nat
  density : Nat
  forced  : Bool

def qcSet (s : State) (t : Tid) : QcSet :=
  let forced : Bool := tget s t R.QC_STAT_FORCED_Q8 = 1
  match (tileCtx s t).bind (ctxOf s) with
  | some c => ⟨c.satThr, c.flushThr, c.ratio, c.density, forced⟩
  | none => ⟨fieldOf s F.QC_SAT_THRESH, fieldOf s F.QC_FLUSH_THRESH, fieldOf s F.QC_OUTLIER_RATIO,
      fieldOf s F.QC_OUTLIER_DENSITY, forced⟩

/-- The three largest magnitudes in order. -/
def top3 (l : List Rat) : Rat × Rat × Rat :=
  l.foldl (fun a x =>
    let m := absR x
    if a.1 < m then (m, a.1, a.2.1)
    else if a.2.1 < m then (a.1, m, a.2.1)
    else if a.2.2 < m then (a.1, a.2.1, m)
    else a) (0, 0, 0)

/-- The base magnitude of a block (R101). -/
def baseMag (q : QcSet) (outl : Bool) (xs : List Rat) : Rat :=
  let (a1, a2, a3) := top3 xs
  let r : Rat := (q.ratio : Rat) * a3
  if !outl || q.density = 0 || a3 = 0 || a1 ≤ r then a1 else if r < a2 then a3 else a2

/-- What became of a block (Table 4.1). -/
structure BlockOut where
  elems : List Nat
  scale : Nat
  mask  : Bool
  fb    : Option (Nat × List Nat)
  outs  : List (Nat × Nat × Nat)
  sat   : Nat
  flush : Nat
  /-- 0 kept, 1 counter fallback, 2 overflow fallback, 3 forced -/
  kind  : Nat
  deriving DecidableEq

def countSat (l : List QElem) : Nat := (l.filter (·.sat)).length
def countFlush (l : List QElem) : Nat := (l.filter (·.flush)).length

/-- Step 6: the block in Q8 in the fallback plane, the Q4 block zero. -/
def fallBlock (t : Rat) (xs : List Rat) (sat flush kind : Nat) : BlockOut :=
  let (c, es) := quantBlockQ8 t xs
  ⟨List.replicate 16 0, 0, true, some (c, es.map (·.code)), [], sat, flush, kind⟩

/-- Decide one block; `free` is the room left in the outlier region (R100 to R102). -/
def decideBlock (q : QcSet) (outl : Bool) (fixed : Option Nat) (t : Rat) (free : Nat) (xs : List Rat) :
    BlockOut :=
  if q.forced then fallBlock t xs 0 0 3
  else
    let base := baseMag q outl xs
    let sc := fixed.getD (amaxScale q4 t base)
    let lim := 6 * u5m3 sc * t
    let isOut (x : Rat) : Bool := base < absR x && lim < absR x
    let es := xs.map fun x => if isOut x then ⟨0, false, false⟩ else quantQ4 t sc x
    let sat := countSat es
    let flush := countFlush es
    let outs := xs.zipIdx.filterMap fun x =>
      if isOut x.1 then
        let so := u5m3Up (absR x.1 / (448 * t))
        some (x.2, so, (quantQ8 t so x.1).code)
      else none
    if q.sat < sat || q.flush < flush then fallBlock t xs sat flush 1
    else if free < outs.length then fallBlock t xs sat flush 2
    else ⟨es.map (·.code), sc, false, none, outs, sat, flush, 0⟩

/-- Decide the blocks in order, with the entries written so far. -/
def decideAll (q : QcSet) (outl : Bool) (fixed : Option Nat) (t : Rat) (cap : Nat) :
    List (List Rat) → Nat → List BlockOut
  | [], _ => []
  | xs :: r, used =>
    let b := decideBlock q outl fixed t (cap - used) xs
    b :: decideAll q outl fixed t cap r (used + b.outs.length)

/-- The 8 bytes of an outlier entry (Table 4.2). -/
def entryBytes (block k scale elem : Nat) : List Byte :=
  leBytes 8 (block * 2 ^ 32 + k * 2 ^ 28 + scale * 2 ^ 8 + elem)

def boolBytes : List Bool → Nat → List Byte
  | _, 0 => []
  | l, n + 1 =>
    BitVec.ofNat 8 (((l.take 8).zipIdx).foldl (fun a x => a + b2n x.1 * 2 ^ x.2) 0) :: boolBytes (l.drop 8) n

/-- The values of a row of the source, padded with zeros, as blocks of 16. -/
def quantRow (ts : TileState) (core : Nat) (src : VRef) (k row : Nat) : List (List Rat) × Nat :=
  let src := { src with addr := src.addr + row * rowLines src.fmt k }
  let x := vreads ts core src 0 k
  let vs := x.ws.map f32Val ++ List.replicate (cdiv k 16 * 16 - k) 0
  (chunksOf 16 (cdiv k 16) vs, x.spec)

structure QuantOps where
  q8 : Bool
  fixed : Bool
  outl : Bool
  k : Nat
  rows : Nat
  elem : Nat
  scale : Nat
  mask : Nat
  fbElem : Nat
  fbScale : Nat
  base : Nat
  cap : Nat
  t : Word
  fscale : Nat

def quantOps (d : Desc) : QuantOps :=
  let f := descFlags d
  { q8 := tbit f 0, fixed := tbit f 1, outl := tbit f 2, k := dbits d.w1 0 24, rows := dbits d.w1 24 24
    elem := dbits d.w3 0 17, scale := dbits d.w3 17 17, mask := dbits d.w3 34 17
    fbElem := dbits d.w4 0 17, fbScale := dbits d.w4 17 17
    base := dbits d.w5 0 17, cap := dbits d.w5 17 17
    t := BitVec.ofNat 32 (dbits d.w6 0 32), fscale := dbits d.w6 32 8 }

def quantChecks (s : State) (t : Tid) (d : Desc) : List Check :=
  let o := quantOps d
  let src := vrefOf d.w2
  let blocks := o.rows * cdiv o.k 16
  let run : Bool := blocks ≠ 0
  headerChecks s t d 7 ++ zeroWords d [7]
    ++ [zeroFrom d 1 48, zeroFrom d 3 51, zeroFrom d 4 34, zeroFrom d 5 34, zeroFrom d 6 40,
        (run && !(vspan src (o.rows * rowLines src.fmt o.k * lineBytes)), reasonRange, 2),
        (run && !(planeOk o.elem (blocks * (if o.q8 then 16 else 8))), reasonRange, 3),
        (run && !(planeOk o.scale blocks), reasonRange, 3),
        (run && !o.q8 && !(planeOk o.mask (cdiv blocks 8)), reasonRange, 3),
        (run && !o.q8 && !(planeOk o.fbElem (16 * blocks)), reasonRange, 4),
        (run && !o.q8 && !(planeOk o.fbScale blocks), reasonRange, 4),
        (!o.q8 && outEntries < o.base + o.cap + 1, reasonRange, 5),
        (run && !(scaleOkQuant o.t), reasonScale, 6)]
    ++ refChecks d.w2 2 0 plainFmt

/-- Q8 output: planes only; saturated and flushed elements are counted (R99, R108). -/
def quantQ8Out (s : State) (t : Tid) (o : QuantOps) (blocks : List (List Rat)) : State :=
  let tv := f32Val o.t
  let bs := blocks.map fun xs =>
    if o.fixed then (o.fscale, xs.map (quantQ8 tv o.fscale)) else quantBlockQ8 tv xs
  let es := (bs.map (·.2)).flatten
  let s := modTile s t fun ts =>
    let ts := bufWrite ts (o.elem * lineBytes) (es.map fun e => BitVec.ofNat 8 e.code)
    bufWrite ts (o.scale * lineBytes) (bs.map fun b => BitVec.ofNat 8 b.1)
  let s := if countSat es = 0 then s else tinc s t R.QC_SAT_ELEM_COUNT (countSat es)
  if countFlush es = 0 then s else tinc s t R.QC_FLUSH_ELEM_COUNT (countFlush es)

/-- The side buffer with the entries of the blocks and the terminator from entry `base` on. DESIGN CHOICE
(notes/assumptions/100): bits 31:0 of the terminator are 0. -/
def writeEntries (ts : TileState) (base : Nat) (bs : List BlockOut) : TileState :=
  let es := (bs.zipIdx.map fun b => b.1.outs.map fun e => entryBytes b.2 e.1 e.2.1 e.2.2).flatten
  let bytes := es.flatten ++ entryBytes 0xFFFFFFFF 0 0 0
  { ts with side := mstore ts.side (8 * base) bytes }

def tincIf (s : State) (t : Tid) (f : Fld) (n : Nat) : State := if n = 0 then s else tinc s t f n

/-- Q4 output: planes, mask, fallback blocks, entries and terminator (R99, R106), and the counts. -/
def quantQ4Out (s : State) (t : Tid) (o : QuantOps) (blocks : List (List Rat)) : State :=
  let q := qcSet s t
  let bs := decideAll q o.outl (if o.fixed then some o.fscale else none) (f32Val o.t) o.cap blocks 0
  let n := bs.length
  let s := modTile s t fun ts =>
    let ts := bufWrite ts (o.elem * lineBytes) (bs.map fun b => packQ4 b.elems).flatten
    let ts := bufWrite ts (o.scale * lineBytes) (bs.map fun b => BitVec.ofNat 8 b.scale)
    let ts := bufWrite ts (o.mask * lineBytes) (boolBytes (bs.map (·.mask)) (cdiv n 8))
    let ts := bs.zipIdx.foldl (fun ts b =>
      match b.1.fb with
      | some (c, es) =>
        bufWrite (bufWrite ts (o.fbElem * lineBytes + 16 * b.2) (es.map (BitVec.ofNat 8)))
          (o.fbScale * lineBytes + b.2) [BitVec.ofNat 8 c]
      | none => ts) ts
    writeEntries ts o.base bs
  let ct (k : Nat) : Nat := (bs.filter fun b => b.kind = k).length
  let total := bs.foldl (fun a b => a + b.outs.length) 0
  let counted := n - ct 3
  let s := tincIf s t R.QC_BLOCKS_COUNT counted
  let s := tincIf s t R.QC_FALLBACK_COUNT (ct 1)
  let s := tincIf s t R.QC_OVERFLOW_COUNT (ct 2)
  let s := tincIf s t R.QC_OUTLIERS_COUNT total
  let s := tincIf s t R.QC_SAT_ELEM_COUNT (bs.foldl (fun a b => a + b.sat) 0)
  let s := tincIf s t R.QC_FLUSH_ELEM_COUNT (bs.foldl (fun a b => a + b.flush) 0)
  modTile s t fun ts => { ts with
    winBlocks := ts.winBlocks + counted, winFalls := ts.winFalls + ct 1 + ct 2 }

def nvQuantEff (t : Tid) (core : Fin 2) (errs : List MemErr) (s : State) : State :=
  startCmd 0x25 (core.val + 1) s t fun c s =>
    let d := c.desc
    let o := quantOps d
    checked s t (core.val + 1) c (quantChecks s t d) fun s =>
      let src := vrefOf d.w2
      let s := bufReads s t ((List.range o.rows).map fun r =>
        refSpans { src with addr := src.addr + r * rowLines src.fmt o.k } o.k).flatten errs
      let ts := tileOf s t
      let rows := (List.range o.rows).map (quantRow ts core.val (vrefOf d.w2) o.k)
      let blocks := (rows.map (·.1)).flatten
      let s := noteNum s t { NumEv.zero with special := rows.foldl (fun a r => a + r.2) 0 }
      let s :=
        if o.k = 0 && o.rows ≠ 0 then s
        else if o.q8 then (if blocks.isEmpty then s else quantQ8Out s t o blocks)
        else if blocks.isEmpty then modTile s t fun ts => writeEntries ts o.base []
        else quantQ4Out s t o blocks
      nvDone s t core.val c

def execNvQuant (t : TileRun) (core : Fin 2) (s : State) : Res := .next (nvQuantEff t.tile core t.errs s)

end Sys2Proof.Machine
end

