-- ==== Sys2Proof/Machine/Sampling.lean ====
section
/-! DEFINITION. The sampling unit (R291 to R299), verification and commit on the last die (R303, R305), and
the draft lanes' passes (R301, R302). -/
namespace Sys2Proof.Machine

/-! ## The draw generator (R296) -/

/-- ln 2 in FP32. -/
def ln2W : Word := 0x3F317218

/-- The 24 bits of U of a token's draw at a generated index. -/
def drawBits (seed : DWord) (n v : Nat) : Nat :=
  let key : BitVec 128 := seed ++ (0 : DWord)
  let block : BitVec 128 := BitVec.ofNat 32 n ++ BitVec.ofNat 32 (v / 4) ++ (0 : DWord)
  let y := sm4 key block
  let w : Word := match v % 4 with
    | 0 => y.1
    | 1 => y.2.1
    | 2 => y.2.2.1
    | _ => y.2.2.2
  w.toNat / 256

/-- log2 of U, which is exact, within the bound of Table 3.8. -/
def log2OfU (k : Nat) : Word :=
  let u : Rat := ((2 * k + 1 : Nat) : Rat) / ((2 ^ 25 : Nat) : Rat)
  let y := log2R u
  pick (Config.log2U k) y (if 1 / 2 ≤ u then pow2 (-22) else ulpBound 2 y)

/-- G(n, v) = −ln(−ln U). -/
def gumbel (seed : DWord) (n v : Nat) : Word :=
  let a := (vmul (log2OfU (drawBits seed n v)) ln2W).w
  vneg (vmul (vlog2 (vneg a)).w ln2W).w

/-! ## One position's values (Table 11.1, R292, R293, R299) -/

/-- A quotient in FP32 with RNE. -/
def fdiv (a b : Word) : Word :=
  let x := rd a
  let y := rd b
  if y.v = 0 then bigW (x.neg != y.neg) else (vround ⟨x.neg != y.neg, x.v / y.v⟩).w

def fsub (a b : Word) : Word := (vsub a b).w
def fadd (a b : Word) : Word := (vadd a b).w
def fmul (a b : Word) : Word := (vmul a b).w
def isPos (w : Word) : Bool := 0 < f32Val w

/-- Tokens of both sets that the bitmaps do not hold yet: of commits on their way to the sequence table, and the
draft tokens before the position. -/
def extraToks (s : State) (q : Seq) (drafts : List Nat) : List Nat :=
  ((s.serving.commits.filter fun c => q.slot = some c.slot).map (·.toks)).flatten ++ drafts

/-- A token of a slice is in a set: its bit is set, or it is one of `extra` (R292). -/
def inSet (bits first : Nat) (extra : List Nat) (v : Nat) : Bool := bits.testBit (v - first) || extra.contains v

/-- Penalties and bias of a token's logit. -/
def adjust (p : Sampling) (rep pres : Nat → Bool) (v : Nat) (z : Word) : Word :=
  let z := if isPos p.repPen && rep v then
      (if isPos z then fdiv z p.repPen else fmul z p.repPen)
    else z
  let z := if isPos p.presPen && pres v then fsub z p.presPen else z
  (p.bias.filter fun e => e.1 = v).foldl (fun z e => fadd z e.2) z

def tempered (p : Sampling) (z : Word) : Word := if isPos p.temp then fdiv z p.temp else z

/-- The grammar state after tokens (R299). -/
def grammarState (v : Serve) (g : Nat) (toks : List Nat) : Nat :=
  toks.foldl (fun st t =>
    ((v.next.find? fun e => e.1 = g && e.2.1 = st && e.2.2.1 = t).map (·.2.2.2)).getD st)
    (((v.grammars[g]?).map (·.1)).getD 0)

/-- The mask bits of the die's slice for the position's grammar state; none without a grammar. -/
def allowed (s : State) (d : Nat) (v : Serve) (p : Sampling) (toks : List Nat) : Option Nat :=
  p.grammar.map fun g => (((dieOf s d).masks[g]?).bind fun l => l[grammarState v g toks]?).getD 0

/-- The allowed tokens of a die's slice with their y, in ascending token id. -/
def sliceValues (x : Context) (p : Sampling) (rep pres : Nat → Bool) (ok : Option Nat) (first : Nat)
    (logits : List Word) : List (Nat × Word) :=
  (logits.zipIdx first).filterMap fun e =>
    let may := match ok with
      | none => true
      | some bits => bits.testBit (e.2 - first)
    if may && e.2 < x.caps.vocab.toNat then some (e.2, tempered p (adjust p rep pres e.2 e.1)) else none

/-! ## Partial records (R297, R298) -/

/-- Ranking: descending y, then ascending token id. -/
def ranksBefore (a b : Nat × Word) : Bool :=
  f32Val b.2 < f32Val a.2 || (f32Val a.2 = f32Val b.2 && a.1 ≤ b.1)

/-- The entry with the largest value; of equal ones the lower token. -/
def bestOf (l : List (Nat × Word)) : Option (Nat × Word) :=
  l.foldl (fun (a : Option (Nat × Word)) e =>
    match a with
    | none => some e
    | some b => if ranksBefore b e then some b else some e) none

def truncates (p : Sampling) : Bool := p.topK ≠ 0 || f32Val p.topP < 1 || isPos p.minP

def candidates : Nat := 1024
def noToken : Word := 0xFFFFFFFF

/-- The record of a slice; of one with no allowed token, the record that never wins. -/
def partialOf (p : Sampling) (n : Nat) (l : List (Nat × Word)) : Partial :=
  match bestOf l with
  | none => ⟨bigW true, 0, noToken, bigW true, []⟩
  | some top =>
    let sum := l.foldl (fun a e => fadd a (vexp (fsub e.2 top.2)).w) 0
    let win := if isPos p.temp then
        (bestOf (l.map fun e => (e.1, fadd e.2 (gumbel p.seed n e.1)))).getD top
      else top
    { maxz := top.2, sumexp := sum, winId := BitVec.ofNat 32 win.1, winKey := win.2
      cand := if truncates p then (l.mergeSort ranksBefore).take candidates else [] }

/-- A merge of two records (R298). -/
def mergePartials (a b : Partial) : Partial :=
  let m := vmax a.maxz b.maxz
  let part (x : Partial) : Word := fmul x.sumexp (vexp (fsub x.maxz m)).w
  let first := ranksBefore (a.winId.toNat, a.winKey) (b.winId.toNat, b.winKey)
  { maxz := m, sumexp := fadd (part a) (part b)
    winId := if first then a.winId else b.winId, winKey := if first then a.winKey else b.winKey
    cand := ((a.cand ++ b.cand).mergeSort ranksBefore).take candidates }

/-! ## Groups at the projection -/

/-- The group of a slot that is at the projection, with the slot's member. -/
def atProjection (s : State) (slot : Nat) : Option (WGroup × Member × Context) :=
  s.serving.groups.findSome? fun g =>
    (ctxOf s g.ctx.val).bind fun x =>
      if g.inside && g.layer = ctxLayers x then
        (g.members.find? fun m => m.slot = slot).map fun m => (g, m, x)
      else none

/-- Positions of a step that are projected: every one of a pass, the final one of a chunk. -/
def projected (m : Member) : Nat := if m.step.prefill then 1 else m.step.npos

/-- Place of a die in the order. -/
def dieAt (x : Context) (d : Nat) : Option Nat :=
  let i := x.dies.findIdx (· = d)
  if i < x.dies.length then some i else none

def partialAt (s : State) (d slot pos : Nat) : Option PartialAt :=
  s.serving.partials.find? fun p => p.die = d && p.slot = slot && p.pos = pos

/-- The die at a place has formed the partial record of every projected position of a group. -/
def projDone (s : State) (id d : Nat) : Bool :=
  (s.serving.groups.filter fun g => g.id = id).all fun g => g.members.all fun m =>
    (List.range (projected m)).all fun j => (partialAt s d m.slot j).isSome

/-- A die's sampling unit forms the partial record of a position. The layer group of the die's last layer
computes the logits, from its admission of the group's work to the last position (R32). -/
def samplingPartialEff (d slot pos : Nat) (logits : List Word) (s : State) : State :=
  match atProjection s slot with
  | none => s
  | some (g, m, x) =>
    match dieAt x d, seqBySlot s slot with
    | some i, some q =>
      let sl := projSlice x i
      if projected m ≤ pos || !(g.proj.contains (i, 1)) || logits.length ≠ sl.2 || (partialAt s d slot pos).isSome then s
      else
        let drafts := m.step.drafts.take pos
        let n := (allGen s q).length + pos
        let ok := allowed s d x.image.serve q.samp (allGen s q ++ drafts)
        let bits := bitmapsOf s d slot
        let extra := extraToks s q drafts
        let l := sliceValues x q.samp (inSet bits.1 sl.1 extra) (inSet bits.2 sl.1 extra) ok sl.1 logits
        let s := modServing s fun v => { v with
          partials := v.partials ++ [⟨d, slot, pos, false, partialOf q.samp n l⟩] }
        if projDone s g.id d then setProj s g.id (· = i) 2 else s
    | _, _ => s

/-- The children of a rank in the merge tree of `n` dies. -/
def treeChildren (n r : Nat) : List Nat := [2 * r + 1, 2 * r + 2].filter (· < n)

def dieOfRank (x : Context) (r : Nat) : Nat := (x.dies[x.dies.length - 1 - r]?).getD 56

/-- A die merges its own record with those of its children, once they have merged theirs. -/
def partialMergeEff (d slot pos : Nat) (s : State) : State :=
  match atProjection s slot with
  | none => s
  | some (_, _, x) =>
    match dieAt x d, partialAt s d slot pos with
    | some i, some own =>
      let kids := (treeChildren x.dies.length (x.dies.length - 1 - i)).map fun r =>
        partialAt s (dieOfRank x r) slot pos
      if own.merged || !(kids.all fun k => (k.map (·.merged)).getD false) then s
      else
        let body := (kids.filterMap fun k => k.map (·.body)).foldl mergePartials own.body
        modServing s fun v => { v with partials := v.partials.map fun p =>
          if p.die = d && p.slot = slot && p.pos = pos then { p with merged := true, body := body } else p }
    | _, _ => s

/-! ## Truncation and race (R294, R295) -/

/-- The candidates in rank order: token, y, p, and the sum of the p before it. -/
def ranked (r : Partial) : Word → List (Nat × Word) → List (Nat × Word × Word × Word)
  | _, [] => []
  | sum, e :: l =>
    let p := fdiv (vexp (fsub e.2 r.maxz)).w r.sumexp
    (e.1, e.2, p, sum) :: ranked r (fadd sum p) l

/-- The kept set of a position: tokens with their y. -/
def keptSet (p : Sampling) (r : Partial) : List (Nat × Word) :=
  let l := ranked r 0 r.cand
  let least := fmul p.minP (((l.head?).map fun e => e.2.2.1).getD 0)
  l.zipIdx.filterMap fun e =>
    let topK := p.topK = 0 || e.2 < p.topK
    let minP := !(isPos p.minP) || f32Val least ≤ f32Val e.1.2.2.1
    let topP := !(f32Val p.topP < 1) || f32Val e.1.2.2.2 < f32Val p.topP
    if topK && minP && topP then some (e.1.1, e.1.2.1) else none

/-- The winner of a position from the record that the last die holds. -/
def winner (p : Sampling) (n : Nat) (r : Partial) : Nat :=
  if isPos p.temp && truncates p then
    ((bestOf ((keptSet p r).map fun e => (e.1, fadd e.2 (gumbel p.seed n e.1)))).map (·.1)).getD r.winId.toNat
  else r.winId.toNat

/-! ## TOKEN_COMMIT (R303, R305) -/

/-- The leading winners that equal the proposals. -/
def agreed : List Nat → List Nat → Nat
  | w :: ws, d :: ds => if w = d then agreed ws ds + 1 else 0
  | _, _ => 0

/-- D and the all-reject count after a pass with `d'` proposals of which `a` stood (Table 11.5). -/
def adaptD (d rej d' a dMax : Nat) : Nat × Nat :=
  let r : Nat × Nat :=
    if a = d' then (min (d + 1) dMax, 0)
    else if 0 < a then (d, 0)
    else if 1 < d then (d / 2, 0)
    else (1, rej + 1)
  (min r.1 dMax, r.2)

/-- Speculation that is off counts the tokens that commit; it restarts at D = 1 (R305). -/
def countOff (q : Seq) (n : Nat) : Seq :=
  if q.offLeft = 0 then q
  else if q.offLeft ≤ n then { q with offLeft := 0, dLen := 1, allRej := 0 }
  else { q with offLeft := q.offLeft - n }

/-- Counters and draft length after a pass with D' of at least 1, under the settings that it began with (R308). -/
def adaptPass (s : State) (q : Seq) (spec : Nat × Nat × Nat) (d' a : Nat) : State :=
  let s := pinc s R.SP_PASSES_COUNT
  let s := pinc s R.SP_DRAFTED_COUNT d'
  let s := pinc s R.SP_ACCEPTED_COUNT a
  let s := if a = 0 then pinc s R.SP_ALLREJECT_PASSES else s
  let r := adaptD q.dLen q.allRej d' a spec.1
  let off : Bool := spec.2.1 ≤ r.2
  let s := if off then pinc s R.SP_ALLREJECT_OFF else s
  modThis s q fun q => { q with
    dLen := r.1, allRej := r.2, offLeft := if off then spec.2.2 else q.offLeft }

/-- The member leaves its group; an empty group ends. -/
def leaveGroup (s : State) (g : WGroup) (slot : Nat) : State :=
  modServing s fun v => { v with
    groups := (v.groups.map fun h =>
      if h.id = g.id then { h with members := h.members.filter fun m => m.slot ≠ slot } else h).filter fun h =>
        h.bubble || !h.members.isEmpty
    partials := v.partials.filter fun p => p.slot ≠ slot }

/-- The sequence goes on after a commit: draft length, seat, next step. -/
def afterCommit (s : State) (q : Seq) (m : Member) (toks : List Nat) : State :=
  let d' := m.step.drafts.length
  let s := modThis s q fun q => countOff q toks.length
  let s := if d' = 0 then s
    else match seqNow s q with
      | some y => adaptPass s y m.step.spec d' (toks.length - 1)
      | none => s
  match seqNow s q with
  | none => s
  | some y =>
    let s := if y.leaving then s else askSeat s y
    nextDecode s y

/-- A commit of the slot is on its way to the sequence table: its record is delivered first (R33). -/
def undelivered (s : State) (slot : Nat) : Bool := s.serving.commits.any fun k => k.slot = slot

/-- The last die commits the tokens of a slot's step. -/
def tokenCommitEff (slot : Nat) (s : State) : State :=
  match atProjection s slot, seqBySlot s slot with
  | some (g, m, x), some q =>
    let last := dieOfRank x 0
    let recs := (List.range (projected m)).map fun j => (partialAt s last slot j).bind fun p =>
      if p.merged then some p.body else none
    if !(recs.all (·.isSome)) || undelivered s slot then s
    else
      let n := (allGen s q).length
      let ws := (recs.filterMap id).zipIdx.map fun e => winner q.samp (n + e.2) e.1
      let toks := ws.take (agreed ws m.step.drafts + 1)
      let bad := g.discarded || m.step.noPage
      let s := leaveGroup s g slot
      let s := modServing s fun v => { v with
        commits := v.commits ++ [⟨slot, toks, m.step, g.discarded, (q.dLen, q.allRej, q.offLeft), q.seat.isSome⟩] }
      if bad || !(isLive q) then s else afterCommit s q m toks
  | _, _ => s

/-! ## Draft passes (R301, R302) -/

/-- The proposal for a generated index from the draft's logits over the shortlist. -/
def proposal (p : Sampling) (shortlist : List Nat) (m : Nat) (logits : List Word) : Nat :=
  let l := (shortlist.zip logits).map fun e =>
    let z := (p.bias.filter fun b => b.1 = e.1).foldl (fun z b => fadd z b.2) e.2
    let y := tempered p z
    (e.1, if isPos p.temp then fadd y (gumbel p.seed m e.1) else y)
  ((bestOf l).map (·.1)).getD 0

/-- The slot at the head of a lane's queue, with its sequence. -/
def laneHead (s : State) (l : Nat) (slot : Nat) : Option (Lane × Seq) :=
  (laneOf s l).bind fun x =>
    if x.queue.head? = some slot && !(draftHeld s x.ctx.val) then
      (seqBySlot s slot).bind fun q => if isLive q && q.seat = some l then some (x, q) else none
    else none

/-- The lane has ended the work at its head, and begins the next. -/
def popLane (s : State) (l : Nat) : State := requeue s l true (·.drop 1)

/-- A lane's pass ends: the sequence's next step carries the proposals. -/
def draftPassEff (l slot : Nat) (logits : List (List Word)) (s : State) : State :=
  match laneHead s l slot with
  | none => s
  | some (_, q) =>
    match ctxOf s q.ctx.val with
    | none => s
    | some x =>
      let s := beginLane s l
      let d' := passLen s q
      let short := x.image.serve.shortlist
      if q.catchup || logits.length ≠ d' || !(logits.all fun r => r.length = short.length) then s
      else
        let n := (allGen s q).length
        let drafts := logits.zipIdx.map fun e => proposal q.samp short (n + e.2) e.1
        let pos := nextPos s q
        let s := modThis (popLane s l) q fun y => { y with draftLen := pos + d' }
        giveStep s q (decodeStep pos drafts (specNow s))

/-- A lane ends a sequence's draft catch-up. -/
def draftCatchupEff (l slot : Nat) (s : State) : State :=
  match laneHead s l slot with
  | none => s
  | some (_, q) =>
    if !q.catchup then s
    else
      let window := ((ctxOf s q.ctx.val).map fun x => x.image.serve.draftWindow).getD 0
      let n := q.base + q.prompt.length + (allGen s q).length
      modThis (popLane (beginLane s l) l) q fun q => { q with
        catchup := false, draftLen := min n window }

def execSamplingPartial (d : Fin 56) (slot : BitVec 12) (pos : Fin 17) (logits : List Word) (s : State) : Res :=
  .next (samplingPartialEff d.val slot.toNat pos.val logits s)
def execPartialMerge (d : Fin 56) (slot : BitVec 12) (pos : Fin 17) (s : State) : Res :=
  .next (partialMergeEff d.val slot.toNat pos.val s)
def execTokenCommit (slot : BitVec 12) (s : State) : Res := .next (tokenCommitEff slot.toNat s)
def execDraftPass (l : Fin 32) (slot : BitVec 12) (logits : List (List Word)) (s : State) : Res :=
  .next (draftPassEff l.val slot.toNat logits s)
def execDraftCatchup (l : Fin 32) (slot : BitVec 12) (s : State) : Res :=
  .next (draftCatchupEff l.val slot.toNat s)

end Sys2Proof.Machine
end

