-- ==== Sys2Proof/Machine/Dispatch.lean ====
section
/-! DEFINITION. One arm per command: its meaning, named in full. -/
namespace Sys2Proof.Machine

def exec (i : Instr) (s : State) : Host.Outcome State Fault Refusal :=
  match i with
  | .nop t w => Sys2Proof.Machine.execNop t w s
  | .alu t w => Sys2Proof.Machine.execAlu t w s
  | .alui t w => Sys2Proof.Machine.execAlui t w s
  | .movhi t w => Sys2Proof.Machine.execMovhi t w s
  | .cmp t w => Sys2Proof.Machine.execCmp t w s
  | .cmpi t w => Sys2Proof.Machine.execCmpi t w s
  | .plog t w => Sys2Proof.Machine.execPlog t w s
  | .ld t w => Sys2Proof.Machine.execLd t w s
  | .ldw t w => Sys2Proof.Machine.execLdw t w s
  | .st t w => Sys2Proof.Machine.execSt t w s
  | .stw t w => Sys2Proof.Machine.execStw t w s
  | .br t w => Sys2Proof.Machine.execBr t w s
  | .jal t w => Sys2Proof.Machine.execJal t w s
  | .jr t w => Sys2Proof.Machine.execJr t w s
  | .loop t w => Sys2Proof.Machine.execLoop t w s
  | .cset t w => Sys2Proof.Machine.execCset t w s
  | .cinc t w => Sys2Proof.Machine.execCinc t w s
  | .crd t w => Sys2Proof.Machine.execCrd t w s
  | .wait t w => Sys2Proof.Machine.execWait t w s
  | .waitRelease t => Sys2Proof.Machine.execWaitRelease t s
  | .csig t w => Sys2Proof.Machine.execCsig t w s
  | .wslr t w => Sys2Proof.Machine.execWslr t w s
  | .wslw t w => Sys2Proof.Machine.execWslw t w s
  | .slotWaitRelease t => Sys2Proof.Machine.execSlotWaitRelease t s
  | .issue t w => Sys2Proof.Machine.execIssue t w s
  | .issues t w => Sys2Proof.Machine.execIssues t w s
  | .queueEntryFreed t => Sys2Proof.Machine.execQueueEntryFreed t s
  | .std t w => Sys2Proof.Machine.execStd t w s
  | .sysr t w => Sys2Proof.Machine.execSysr t w s
  | .gdone t w => Sys2Proof.Machine.execGdone t w s
  | .halt t w => Sys2Proof.Machine.execHalt t w s
  | .syncFault t => Sys2Proof.Machine.execSyncFault t s
  | .mxSeed t => Sys2Proof.Machine.execMxSeed t s
  | .mxOpen t => Sys2Proof.Machine.execMxOpen t s
  | .mxStream t errs => Sys2Proof.Machine.execMxStream t errs s
  | .mxDrain t => Sys2Proof.Machine.execMxDrain t s
  | .nvMap t core => Sys2Proof.Machine.execNvMap t core s
  | .nvRed t core => Sys2Proof.Machine.execNvRed t core s
  | .nvNorm t core => Sys2Proof.Machine.execNvNorm t core s
  | .nvRope t core => Sys2Proof.Machine.execNvRope t core s
  | .nvSmax t core => Sys2Proof.Machine.execNvSmax t core s
  | .nvQuant t core => Sys2Proof.Machine.execNvQuant t core s
  | .tgCfg t => Sys2Proof.Machine.execTgCfg t s
  | .tgRun t => Sys2Proof.Machine.execTgRun t s
  | .tgFree t => Sys2Proof.Machine.execTgFree t s
  | .dmaMove t errs => Sys2Proof.Machine.execDmaMove t errs s
  | .dmaFill t => Sys2Proof.Machine.execDmaFill t s
  | .dmaCopy t => Sys2Proof.Machine.execDmaCopy t s
  | .kvAppend t => Sys2Proof.Machine.execKvAppend t s
  | .kvSetlen t => Sys2Proof.Machine.execKvSetlen t s
  | .kvFree t => Sys2Proof.Machine.execKvFree t s
  | .commandComplete t n => Sys2Proof.Machine.execCommandComplete t n s
  | .eccWriteback t line word => Sys2Proof.Machine.execEccWriteback t line word s
  | .bowlerBufferUncorr t => Sys2Proof.Machine.execBowlerBufferUncorr t s
  | .bufferScrub t errs => Sys2Proof.Machine.execBufferScrub t errs s
  | .quadrantRotate t => Sys2Proof.Machine.execQuadrantRotate t s
  | .newtAlternate t => Sys2Proof.Machine.execNewtAlternate t s
  | .gridFault t x y => Sys2Proof.Machine.execGridFault t x y s
  | .fenceReq t => Sys2Proof.Machine.execFenceReq t s
  | .tileReset t => Sys2Proof.Machine.execTileReset t s
  | .tileFence t cause => Sys2Proof.Machine.execTileFence t cause s
  | .laneClose l spare => Sys2Proof.Machine.execLaneClose l spare s
  | .laneForm c => Sys2Proof.Machine.execLaneForm c s
  | .barrierAdmit c layer => Sys2Proof.Machine.execBarrierAdmit c layer s
  | .admitMsg t => Sys2Proof.Machine.execAdmitMsg t s
  | .done t => Sys2Proof.Machine.execDone t s
  | .signal src dst => Sys2Proof.Machine.execSignal src dst s
  | .order t o => Sys2Proof.Machine.execOrder t o s
  | .report t r => Sys2Proof.Machine.execReport t r s
  | .access addr write => Sys2Proof.Machine.execAccess addr write s
  | .crossingLineSend t dir edge => Sys2Proof.Machine.execCrossingLineSend t dir edge s
  | .crossingLineArrive t dir => Sys2Proof.Machine.execCrossingLineArrive t dir s
  | .crossingCreditReturn t dir => Sys2Proof.Machine.execCrossingCreditReturn t dir s
  | .stretchBegin t droopMv => Sys2Proof.Machine.execStretchBegin t droopMv s
  | .stretchEnd t waves => Sys2Proof.Machine.execStretchEnd t waves s
  | .paceStepChange t => Sys2Proof.Machine.execPaceStepChange t s
  | .mittenSettled t => Sys2Proof.Machine.execMittenSettled t s
  | .governorTrim t rate => Sys2Proof.Machine.execGovernorTrim t rate s
  | .skidRateSecond d => Sys2Proof.Machine.execSkidRateSecond d s
  | .stormWindowEnd t => Sys2Proof.Machine.execStormWindowEnd t s
  | .wideCheckComplete t => Sys2Proof.Machine.execWideCheckComplete t s
  | .forecastWindow d measured => Sys2Proof.Machine.execForecastWindow d measured s
  | .ringFrame f => Sys2Proof.Machine.execRingFrame f s
  | .tbRefLoss freq => Sys2Proof.Machine.execTbRefLoss freq s
  | .tbRelock => Sys2Proof.Machine.execTbRelock s
  | .tbSet v => Sys2Proof.Machine.execTbSet v s
  | .tbNowRead => Sys2Proof.Machine.execTbNowRead s
  | .sdTakeover => Sys2Proof.Machine.execSdTakeover s
  | .walkComplete t va => Sys2Proof.Machine.execWalkComplete t va s
  | .invalidationRound d => Sys2Proof.Machine.execInvalidationRound d s
  | .invalidationAck t => Sys2Proof.Machine.execInvalidationAck t s
  | .stackUncorrectable d col frame line => Sys2Proof.Machine.execStackUncorrectable d col frame line s
  | .softSwapComplete d => Sys2Proof.Machine.execSoftSwapComplete d s
  | .stackPatrolScrub d errs complete => Sys2Proof.Machine.execStackPatrolScrub d errs complete s
  | .pageOutAck d vpn => Sys2Proof.Machine.execPageOutAck d vpn s
  | .pageOutTimeout d vpn why => Sys2Proof.Machine.execPageOutTimeout d vpn why s
  | .pageInComplete d vpn page => Sys2Proof.Machine.execPageInComplete d vpn page s
  | .pageInTimeout d vpn refused => Sys2Proof.Machine.execPageInTimeout d vpn refused s
  | .drainPoolPageIn p => Sys2Proof.Machine.execDrainPoolPageIn p s
  | .drainPoolRetry p => Sys2Proof.Machine.execDrainPoolRetry p s
  | .grantRequest slot => Sys2Proof.Machine.execGrantRequest slot s
  | .parkLimit slot => Sys2Proof.Machine.execParkLimit slot s
  | .request x bytes seed => Sys2Proof.Machine.execRequest x bytes seed s
  | .part x bytes => Sys2Proof.Machine.execPart x bytes s
  | .cancel x bytes => Sys2Proof.Machine.execCancel x bytes s
  | .resend x bytes => Sys2Proof.Machine.execResend x bytes s
  | .fragTimeout tenant req => Sys2Proof.Machine.execFragTimeout tenant req s
  | .sequenceAdmit tenant req => Sys2Proof.Machine.execSequenceAdmit tenant req s
  | .groupForm c speed => Sys2Proof.Machine.execGroupForm c speed s
  | .sequenceCommit slot => Sys2Proof.Machine.execSequenceCommit slot s
  | .keepExpiry tenant req => Sys2Proof.Machine.execKeepExpiry tenant req s
  | .authBurstSecond => Sys2Proof.Machine.execAuthBurstSecond s
  | .samplingPartial d slot pos logits => Sys2Proof.Machine.execSamplingPartial d slot pos logits s
  | .partialMerge d slot pos => Sys2Proof.Machine.execPartialMerge d slot pos s
  | .tokenCommit slot => Sys2Proof.Machine.execTokenCommit slot s
  | .draftPass l slot logits => Sys2Proof.Machine.execDraftPass l slot logits s
  | .draftCatchup l slot => Sys2Proof.Machine.execDraftCatchup l slot s
  | .load m c entry dies => Sys2Proof.Machine.execLoad m c entry dies s
  | .loadExecute img headers tags => Sys2Proof.Machine.execLoadExecute img headers tags s
  | .chunkReadComplete p container chunk first more => Sys2Proof.Machine.execChunkReadComplete p container chunk first more s
  | .chunkFetchTimeout p container chunk => Sys2Proof.Machine.execChunkFetchTimeout p container chunk s
  | .replace m c entry => Sys2Proof.Machine.execReplace m c entry s
  | .replaceUnitDrained c => Sys2Proof.Machine.execReplaceUnitDrained c s
  | .unload m c => Sys2Proof.Machine.execUnload m c s
  | .unloadZeroDone c ms => Sys2Proof.Machine.execUnloadZeroDone c ms s
  | .manifestWrite m n e => Sys2Proof.Machine.execManifestWrite m n e s
  | .portTraining p lanes aligned ms => Sys2Proof.Machine.execPortTraining p lanes aligned ms s
  | .trainAttemptTimeout p lanes => Sys2Proof.Machine.execTrainAttemptTimeout p lanes s
  | .portRetry p => Sys2Proof.Machine.execPortRetry p s
  | .pcsAlignLoss p => Sys2Proof.Machine.execPcsAlignLoss p s
  | .fecSecond p fec held => Sys2Proof.Machine.execFecSecond p fec held s
  | .ethFrameReceive p f => Sys2Proof.Machine.execEthFrameReceive p f s
  | .pfcPauseReceive p prio xoff => Sys2Proof.Machine.execPfcPauseReceive p prio xoff s
  | .pauseStorm p prio => Sys2Proof.Machine.execPauseStorm p prio s
  | .cnpReceive p qp => Sys2Proof.Machine.execCnpReceive p qp s
  | .rdmaRateRaise p qp => Sys2Proof.Machine.execRdmaRateRaise p qp s
  | .rdmaAckTimeout p qp packet => Sys2Proof.Machine.execRdmaAckTimeout p qp packet s
  | .modulePoll p answer => Sys2Proof.Machine.execModulePoll p answer s
  | .moduleReadyTimeout p => Sys2Proof.Machine.execModuleReadyTimeout p s
  | .moduleMonitor p modFlags laneFlags => Sys2Proof.Machine.execModuleMonitor p modFlags laneFlags s
  | .lifeRecordHourly p lanes bias => Sys2Proof.Machine.execLifeRecordHourly p lanes bias s
  | .opticsRecordSet m rec hours ratedKh => Sys2Proof.Machine.execOpticsRecordSet m rec hours ratedKh s
  | .powerMeasure d watts => Sys2Proof.Machine.execPowerMeasure d watts s
  | .budgetCapLift d => Sys2Proof.Machine.execBudgetCapLift d s
  | .turnOnRequest t segDa dieDa => Sys2Proof.Machine.execTurnOnRequest t segDa dieDa s
  | .grantRetest d segDa dieDa => Sys2Proof.Machine.execGrantRetest d segDa dieDa s
  | .grantWaitExpiry t segDa dieDa => Sys2Proof.Machine.execGrantWaitExpiry t segDa dieDa s
  | .turnOnSettled t => Sys2Proof.Machine.execTurnOnSettled t s
  | .phaseFailure t phases cause => Sys2Proof.Machine.execPhaseFailure t phases cause s
  | .railShort t deciAmps => Sys2Proof.Machine.execRailShort t deciAmps s
  | .siteTrip d cause => Sys2Proof.Machine.execSiteTrip d cause s
  | .siteRetry d holds => Sys2Proof.Machine.execSiteRetry d holds s
  | .vinLow volts10mV => Sys2Proof.Machine.execVinLow volts10mV s
  | .vinLoss volts10mV => Sys2Proof.Machine.execVinLoss volts10mV s
  | .vinOvervoltage volts10mV => Sys2Proof.Machine.execVinOvervoltage volts10mV s
  | .vauxLoss => Sys2Proof.Machine.execVauxLoss s
  | .pgInAssert => Sys2Proof.Machine.execPgInAssert s
  | .pgInDeassert => Sys2Proof.Machine.execPgInDeassert s
  | .facilitySample codes => Sys2Proof.Machine.execFacilitySample codes s
  | .flowSensorLost c => Sys2Proof.Machine.execFlowSensorLost c s
  | .inletAlarm c below => Sys2Proof.Machine.execInletAlarm c below s
  | .flowEvaluate => Sys2Proof.Machine.execFlowEvaluate s
  | .flowCapLoosen => Sys2Proof.Machine.execFlowCapLoosen s
  | .stackOverheatRest d => Sys2Proof.Machine.execStackOverheatRest d s
  | .holdTimeout => Sys2Proof.Machine.execHoldTimeout s
  | .holdResume holdS => Sys2Proof.Machine.execHoldResume holdS s
  | .resume m => Sys2Proof.Machine.execResume m s
  | .roEstimate t e => Sys2Proof.Machine.execRoEstimate t e s
  | .sensorScan d bank codes => Sys2Proof.Machine.execSensorScan d bank codes s
  | .suspectClear t => Sys2Proof.Machine.execSuspectClear t s
  | .thermalCapLoosen t => Sys2Proof.Machine.execThermalCapLoosen t s
  | .sliceCalibrate d ground bandgap dac => Sys2Proof.Machine.execSliceCalibrate d ground bandgap dac s
  | .sliceRotate d inCodes outCodes inCheck outCheck => Sys2Proof.Machine.execSliceRotate d inCodes outCodes inCheck outCheck s
  | .adcDacConvert d ctrl raw => Sys2Proof.Machine.execAdcDacConvert d ctrl raw s
  | .coldPowerOn romOk0 bonnetOk0 romOk1 bonnetOk1 => Sys2Proof.Machine.execColdPowerOn romOk0 bonnetOk0 romOk1 bonnetOk1 s
  | .bciVerify boot => Sys2Proof.Machine.execBciVerify boot s
  | .fieldCheck => Sys2Proof.Machine.execFieldCheck s
  | .siteSoftStart failed serials => Sys2Proof.Machine.execSiteSoftStart failed serials s
  | .linkTraining results => Sys2Proof.Machine.execLinkTraining results s
  | .crossingCalibration results => Sys2Proof.Machine.execCrossingCalibration results s
  | .firmwareBroadcast badTiles badBowlers => Sys2Proof.Machine.execFirmwareBroadcast badTiles badBowlers s
  | .firmwareResend t bowler ok => Sys2Proof.Machine.execFirmwareResend t bowler ok s
  | .stackInit failed => Sys2Proof.Machine.execStackInit failed s
  | .skinkFullPass results => Sys2Proof.Machine.execSkinkFullPass results s
  | .buReady ms => Sys2Proof.Machine.execBuReady ms s
  | .buLate ms => Sys2Proof.Machine.execBuLate ms s
  | .modResetPin => Sys2Proof.Machine.execModResetPin s
  | .modReset m => Sys2Proof.Machine.execModReset m s
  | .cpResetPin => Sys2Proof.Machine.execCpResetPin s
  | .cpReset m => Sys2Proof.Machine.execCpReset m s
  | .cpResetEnd => Sys2Proof.Machine.execCpResetEnd s
  | .doze m => Sys2Proof.Machine.execDoze m s
  | .autoDoze => Sys2Proof.Machine.execAutoDoze s
  | .hold m => Sys2Proof.Machine.execHold m s
  | .rest m => Sys2Proof.Machine.execRest m s
  | .run m => Sys2Proof.Machine.execRun m s
  | .portReset p => Sys2Proof.Machine.execPortReset p s
  | .retrain p => Sys2Proof.Machine.execRetrain p s
  | .testSliceStart t k => Sys2Proof.Machine.execTestSliceStart t k s
  | .testSliceEnd t r => Sys2Proof.Machine.execTestSliceEnd t r s
  | .sliceAbandon t => Sys2Proof.Machine.execSliceAbandon t s
  | .bubbleRequest t => Sys2Proof.Machine.execBubbleRequest t s
  | .sweepLate d hours => Sys2Proof.Machine.execSweepLate d hours s
  | .bowlerTimeout d => Sys2Proof.Machine.execBowlerTimeout d s
  | .logEntry e => Sys2Proof.Machine.execLogEntry e s
  | .tlsHandshake o => Sys2Proof.Machine.execTlsHandshake o s
  | .mgmtIdleTimeout idle => Sys2Proof.Machine.execMgmtIdleTimeout idle s
  | .statusRead m => Sys2Proof.Machine.execStatusRead m s
  | .regRead m addr count => Sys2Proof.Machine.execRegRead m addr count s
  | .regWrite m addr words => Sys2Proof.Machine.execRegWrite m addr words s
  | .fieldRead m id => Sys2Proof.Machine.execFieldRead m id s
  | .fieldWrite m id len value => Sys2Proof.Machine.execFieldWrite m id len value s
  | .configReportRead m => Sys2Proof.Machine.execConfigReportRead m s
  | .logRead m first count => Sys2Proof.Machine.execLogRead m first count s
  | .bciWrite m dev img => Sys2Proof.Machine.execBciWrite m dev img s
  | .capabilityRead m => Sys2Proof.Machine.execCapabilityRead m s
  | .repairMapRead m => Sys2Proof.Machine.execRepairMapRead m s
  | .testRecordRead m die => Sys2Proof.Machine.execTestRecordRead m die s
  | .ringAccess m f => Sys2Proof.Machine.execRingAccess m f s
  | .loadReportRead m c => Sys2Proof.Machine.execLoadReportRead m c s
  | .spillPoolRegister m p pool => Sys2Proof.Machine.execSpillPoolRegister m p pool s
  | .sequenceQuery m tenant req => Sys2Proof.Machine.execSequenceQuery m tenant req s
  | .tenantSet m body => Sys2Proof.Machine.execTenantSet m body s
  | .certificateRead m => Sys2Proof.Machine.execCertificateRead m s
  | .attestation m nonce => Sys2Proof.Machine.execAttestation m nonce s
  | .setConfigKey m key counter sig => Sys2Proof.Machine.execSetConfigKey m key counter sig s
  | .modResetNRelease => Sys2Proof.Machine.execModResetNRelease s
  | .bubblePassOn c layer => Sys2Proof.Machine.execBubblePassOn c layer s
  | .dozeEntryComplete => Sys2Proof.Machine.execDozeEntryComplete s
  | .vin48BackInRange volts10mV => Sys2Proof.Machine.execVin48BackInRange volts10mV s

end Sys2Proof.Machine
end

