-- ==== Sys2Proof/Safety.lean ====
section
/-! DEFINITION. What counts as a safe state and a safe outcome of a step: sparse maps and byte memories in their
one canonical form, so that equal contents are equal data; and a step that goes on. -/
namespace Sys2Proof.Machine

/-- The step answers a next state. -/
def Goes (o : Res) : Prop := ∃ t, o = .next t

/-- The byte memories, scalar registers, descriptor store, command queues, accumulators, grid regions and crossings
of a tile are canonical. -/
structure TileMem (ts : TileState) : Prop where
  sdata  : Memory.wf ts.sdata = true
  buf    : Memory.wf ts.buf = true
  side   : Memory.wf ts.side = true
  vreg0  : Memory.wf ts.vreg0 = true
  vreg1  : Memory.wf ts.vreg1 = true
  sregs  : kwf zeroD ts.sregs = true
  store  : kwf zeroDesc ts.store = true
  queues : kwf noQueue ts.queues = true
  groups : kwf noGrp ts.groups = true
  acc    : kwf noSum ts.acc = true
  regions : kwf noRegion ts.regions = true
  crossings : kwf noCrossing ts.crossings = true

def blankTile : Nat → TileState := fun _ => TileState.reset
def blankDie : Nat → DieState := fun _ => DieState.reset
def blankPort : Nat → PortState := fun _ => PortState.reset

/-- What a ring of `logCap` entries holds of a list of entries (R456). -/
def ringKeep (l : List LogEnt) : List LogEnt := l.drop (l.length - logCap)

/-- The register fields, the tiles, dies and port dies, the run settings, and the byte memories of every tile and
stack are canonical, and the log holds no more than its ring. -/
structure Canonical (s : State) : Prop where
  regs    : kwf regDefault s.regs = true
  tiles   : kwf blankTile s.tiles = true
  dies    : kwf blankDie s.dies = true
  ports   : kwf blankPort s.ports = true
  fields  : kwf fieldDefault s.fields = true
  tileMem : ∀ k, TileMem (kget blankTile s.tiles k)
  stack   : ∀ d, Memory.wf (kget blankDie s.dies d).mem = true
  log     : s.log.length ≤ logCap

/-! ## Frames -/

/-- Nothing but the state of tile `t` changes. -/
def OnlyTile (t : Tid) (s u : State) : Prop :=
  u = { s with tiles := u.tiles } ∧ ∀ k, k ≠ t → tileOf u k = tileOf s k

/-- Nothing but register fields, the log and pins changes. -/
def OnlyRegs (s u : State) : Prop := u = { s with regs := u.regs, log := u.log, pins := u.pins }

/-! ## What is written and sent -/

/-- Between `s` and `u` the log took an entry `r`, with others before and after it; the ring keeps the last of
them all (R456). -/
def Logged (s u : State) (r : LogRec) : Prop :=
  ∃ n a b, u.log = ringKeep (s.log ++ a ++ ⟨n, r⟩ :: b)

/-- Between `s` and `u` an entry of a code and severity was written. -/
def LoggedCode (s u : State) (code sev : Nat) : Prop :=
  ∃ r, Logged s u r ∧ r.code = BitVec.ofNat 16 code ∧ r.severity = BitVec.ofNat 4 sev

/-- Between `s` and `u` an entry of a code, a severity and three parameters was written. -/
def LoggedAs (s u : State) (code sev p0 p1 p2 : Nat) : Prop :=
  ∃ r, Logged s u r ∧ r.code = BitVec.ofNat 16 code ∧ r.severity = BitVec.ofNat 4 sev
    ∧ r.p0 = BitVec.ofNat 32 p0 ∧ r.p1 = BitVec.ofNat 32 p1 ∧ r.p2 = BitVec.ofNat 32 p2

/-- Between `s` and `u` the device sent `o`, with other messages before and after it. -/
def Sent (s u : State) (o : Out) : Prop := ∃ a b, u.out = s.out ++ a ++ o :: b

/-- The device gave `o` to a port: it was sent between `s` and `u`, or it stands in the port's queue, where it waits
for a received pause to end (R340). -/
def Given (s u : State) (o : Out) : Prop := Sent s u o ∨ ∃ p prio, (prio, o) ∈ (portOf u p).egress

/-- A management request is answered with a status and a body (R478, R480). -/
def Answered (s u : State) (m : Mgmt) (op status : Nat) (body : List Byte) : Prop :=
  ∃ f, Given s u (.reply m.session op status m.tag body f)

/-- The session of a request is open, and its port is up. -/
def SessionUp (s : State) (m : Mgmt) : Prop := ((sessionOf s m.session).any fun x => portUp s x.port.val) = true

/-- A request as R478 has it comes over an open session whose port is up: a whole header with this row's OP, and a
body of the form that Table 21.2 gives. -/
def HasSession (s : State) (m : Mgmt) : Prop :=
  SessionUp s m ∧ mgmtHeadOk m = true ∧ m.other = none ∧ m.bodyOk = true

/-! ## Serving messages -/

/-- The device sent a serving message to a session, under some nonce and its tag (R266, R267). -/
def Replied (s u : State) (x : Session) (tenant : Nat) (req : DWord) (m : ServeMsg) : Prop :=
  ∃ l n tag, Given s u (.serve x l tenant req n m tag)

/-- A serving message to a session finds a way out by the session's port (R273, R336). -/
def Reaches (s : State) (x : Session) : Prop :=
  portUp s x.port.val = true ∧ (wayTo s x.port.val .serve x.addr).isSome = true

/-- A message of a type is authentic: it came over a port that is up, with the magic number, version 1, a known
tenant, a good tag, this boot's number, and a nonce of the window (R264 to R268). -/
def Authentic (s : State) (x : Session) (b : List Byte) (type : Nat) (tn : Tenant) : Prop :=
  portUp s x.port.val = true ∧ b.length ≤ serveMax s x.port.val x.addr ∧ msgType b = type ∧ headBytes ≤ b.length ∧ fieldAt b 0 2 = serveMagic
    ∧ fieldAt b 2 1 = 1 ∧ tenantOf s (msgTenant b) = some tn ∧ tagGood tn b = true
    ∧ msgNonce b / 2 ^ 32 = s.serving.boot.toNat ∧ nonceOk tn (msgNonce b) = true

/-- The state once its nonce is accepted. -/
def nonceTaken (s : State) (b : List Byte) (tn : Tenant) : State :=
  setTenant s (msgTenant b) (some (acceptNonce tn (msgNonce b)))

/-! ## Commands of a tile -/

/-- An instruction of opcode `op` executes: the sequencer issues it, its encoding is legal and its guard true
(R124, R125). -/
def Runs (s : State) (t : Tid) (w : GWord) (op : Nat) : Prop :=
  canIssue s t = true ∧ w.op.toNat = op ∧ encodingOk (tileOf s t) w = true ∧ guardOk (tileOf s t) w = true

/-- The state after an instruction that writes register `r` and goes on after `n` waves: s0 keeps reading 0, and
nothing else of the machine changes (R118). -/
def RegisterStep (s u : State) (t : Tid) (r : BitVec 5) (v : DWord) : Prop :=
  OnlyTile t s u ∧ sregGet (tileOf u t) r = (if r = 0 then 0 else v)
    ∧ (∀ q, q ≠ r → sregGet (tileOf u t) q = sregGet (tileOf s t) q)
    ∧ tileOf u t = { tileOf s t with
        sregs := (tileOf u t).sregs, pc := (tileOf s t).pc + 1, waves := (tileOf s t).waves + 1 }

/-- The Gecko rows: opcode of Table 5.6 and command. -/
def geckoRows (t : Tid) (w : GWord) : List (Nat × Instr) :=
  [(0x00, .nop t w), (0x01, .alu t w), (0x02, .alui t w), (0x03, .movhi t w), (0x04, .cmp t w), (0x05, .cmpi t w),
   (0x06, .plog t w), (0x08, .ld t w), (0x09, .ldw t w), (0x0A, .st t w), (0x0B, .stw t w), (0x10, .br t w),
   (0x11, .jal t w), (0x12, .jr t w), (0x13, .loop t w), (0x20, .cset t w), (0x21, .cinc t w), (0x22, .crd t w),
   (0x23, .wait t w), (0x24, .csig t w), (0x25, .wslr t w), (0x26, .wslw t w), (0x30, .issue t w),
   (0x31, .issues t w), (0x32, .std t w), (0x38, .sysr t w), (0x39, .gdone t w), (0x3F, .halt t w)]

/-- The head of a queue is command `c` of opcode `op`, and its engine takes it now (R41). -/
def HeadStarts (s : State) (t : Tid) (q op : Nat) (c : QCmd) (rest : List QCmd) : Prop :=
  queueOf (tileOf s t) q = c :: rest ∧ descOp c.desc = op ∧ (tileOf s t).qstop = false
    ∧ waving s t = true ∧ engineFree s t q op (cmdGrp q c.desc) = true

/-- No check of a command is broken once its queue has given it up (Table 5.9). -/
def Passes (s : State) (t : Tid) (q : Nat) (rest : List QCmd) (checks : State → List Check) : Prop :=
  firstBroken (checks (takeHead s t q rest)) = none

/-- The command has left its queue and runs: it will increment its counter by `amount` (R135). -/
def Launched (s u : State) (t : Tid) (q : Nat) (c : QCmd) (rest : List QCmd) (amount : Nat) : Prop :=
  (tileOf u t).queues = (setQueue (tileOf s t) q rest).queues
    ∧ ∃ f, (tileOf u t).inflight = (tileOf s t).inflight ++ [f] ∧ f.queue.val = q
      ∧ f.op = BitVec.ofNat 8 (descOp c.desc) ∧ f.cref = BitVec.ofNat 32 (dbits c.desc.w0 0 32)
      ∧ f.amount = BitVec.ofNat 32 amount

/-- A command meets no error of memory, and no word of its tile's buffer is lost (R57). -/
def CleanReads (s : State) (t : Tid) (errs : List MemErr) : Prop := errs = [] ∧ (tileOf s t).bufBad = []

/-- The errors that a command meets are of words of the tile buffer. -/
def OfBuffer (errs : List MemErr) : Prop := ∀ e ∈ errs, ∃ l w, e = .bufSingle l w ∨ e = .bufDouble l w

/-! ## What a command of a tile stores to -/

/-- Ranges of bytes (start, length) of a tile's buffer, its two vector register files and its sideband memory. -/
structure Stores where
  buf  : List (Nat × Nat)
  v0   : List (Nat × Nat)
  v1   : List (Nat × Nat)
  side : List (Nat × Nat)

def noStores : Stores := ⟨[], [], [], []⟩

/-- The same with the words of the buffer that a read finds uncorrectable, whose bytes are lost (R57). -/
def withLost (m : Stores) (errs : List MemErr) : Stores :=
  { m with buf := m.buf ++ errs.filterMap fun e =>
      match e with
      | .bufDouble l w => some (l.toNat * lineBytes + 8 * w.toNat, 8)
      | _ => none }

/-- An address lies in none of the ranges. -/
def Outside (l : List (Nat × Nat)) (a : Nat) : Prop := ∀ r ∈ l, a < r.1 ∨ r.1 + r.2 ≤ a

/-- Every byte of tile `t` outside the stored ranges stays, its program state stays, and so does every other tile. -/
structure TileFrame (t : Tid) (m : Stores) (s u : State) : Prop where
  others : ∀ k, k ≠ t → tileOf u k = tileOf s k
  buf    : ∀ a, Outside m.buf a → mget (tileOf u t).buf a = mget (tileOf s t).buf a
  vreg0  : ∀ a, Outside m.v0 a → mget (tileOf u t).vreg0 a = mget (tileOf s t).vreg0 a
  vreg1  : ∀ a, Outside m.v1 a → mget (tileOf u t).vreg1 a = mget (tileOf s t).vreg1 a
  side   : ∀ a, Outside m.side a → mget (tileOf u t).side a = mget (tileOf s t).side a
  sdata  : (tileOf u t).sdata = (tileOf s t).sdata
  sregs  : (tileOf u t).sregs = (tileOf s t).sregs
  preds  : (tileOf u t).preds = (tileOf s t).preds
  pc     : (tileOf u t).pc = (tileOf s t).pc
  imem   : (tileOf u t).imem = (tileOf s t).imem
  store  : (tileOf u t).store = (tileOf s t).store

/-- The fields of the register map but those of the blocks of numerics and of quality of tile `t` (Table 21.5). -/
def OtherFields (t : Tid) (s u : State) : Prop :=
  ∀ k b, k / 2 ^ 21 = b → b ≠ (t.d.val * 32 + t.t.val) * 256 + 1 → b ≠ (t.d.val * 32 + t.t.val) * 256 + 2 →
    kget regDefault u.regs k = kget regDefault s.regs k

/-- A command of an engine that works in its tile alone: nothing but the tile, its registers of numerics and quality
and the number of the next free value changes. -/
structure EngineFrame (t : Tid) (m : Stores) (s u : State) : Prop where
  tile   : TileFrame t m s u
  rest   : u = { s with tiles := u.tiles, regs := u.regs, plane := { s.plane with freeCounter := u.plane.freeCounter } }
  fields : OtherFields t s u

/-- A destination in the buffer, or in the register file of the executing core (R143). -/
def dstStores (core : Nat) (r : VRef) (l : List (Nat × Nat)) : Stores :=
  if r.reg then (if core = 0 then ⟨[], l, [], []⟩ else ⟨[], [], l, []⟩) else ⟨l, [], [], []⟩

def elemBytes (f : VFmt) : Nat := if f = .bf16 then 2 else 4

/-- What a vector command stores to: its destination, or the planes and the outlier list of NV.QUANT (R144 to
R149). -/
def vecStores (op core : Nat) (d : Desc) : Stores :=
  let one (w : DWord) (n : Nat) : Stores :=
    let r := vrefOf w
    dstStores core r [(r.addr * lineBytes, n * elemBytes r.fmt)]
  let n := dbits d.w1 0 24
  let mode := descFlags d % 8
  if op = 0x20 then one d.w5 n
  else if op = 0x21 then
    if n = 0 then noStores
    else if mode < 2 then one d.w5 1
    else dstStores core (vrefOf d.w5) [((vrefOf d.w5).addr * lineBytes, if mode = 2 then 4 else 16)]
  else if op = 0x22 then one d.w7 n
  else if op = 0x23 then one d.w4 (dbits d.w1 0 16 * dbits d.w1 16 16)
  else if op = 0x24 then
    let r := vrefOf d.w5
    let cols := dbits d.w1 16 21
    dstStores core r ((List.range (dbits d.w1 0 16)).map fun i =>
      (r.addr * lineBytes + i * rowLines r.fmt cols * lineBytes, cols * elemBytes r.fmt))
  else
    let o := quantOps d
    let b := o.rows * cdiv o.k 16
    if o.q8 then ⟨[(o.elem * lineBytes, 16 * b), (o.scale * lineBytes, b)], [], [], []⟩
    else if o.k = 0 && o.rows ≠ 0 then noStores
    else
      ⟨[(o.elem * lineBytes, 8 * b), (o.scale * lineBytes, b), (o.mask * lineBytes, cdiv b 8),
        (o.fbElem * lineBytes, 16 * b), (o.fbScale * lineBytes, b)], [], [], [(8 * o.base, 8 * (o.cap + 1))]⟩

/-- What a drain stores to: the values of its rows, and a record of 16 bytes for each (R142). -/
def drainStores (ts : TileState) (d : Desc) : Stores :=
  let o := drainOps d
  let (p, fb, _) := drainRows (grpOf ts o.g)
  let bytes := p * fb * (o.jc * if o.obf then 2 else 4)
  let recs := if o.red = 0 || o.jc = 0 then [] else [(o.recLine * lineBytes, 16 * (p * fb))]
  if o.tonewt then
    if o.vcore = 0 then ⟨recs, [(o.vreg * lineBytes, bytes)], [], []⟩
    else ⟨recs, [], [(o.vreg * lineBytes, bytes)], []⟩
  else ⟨(o.out * lineBytes, bytes) :: recs, [], [], []⟩

/-- What a run of a grid region stores to: its output lines, when it has input (R150). -/
def gridStores (op : Nat) (d : Desc) : Stores :=
  if op = 0x41 && (lineRange d.w2).2 ≠ 0 then
    ⟨[((lineRange d.w3).1 * lineBytes, (lineRange d.w3).2 * lineBytes)], [], [], []⟩
  else noStores

end Sys2Proof.Machine
end

