-- ==== Sys2Proof/Certificates/Slice0/Obligations.lean ====
section
/-! DEFINITION. The statements for the provers, from the numbered rules of spec/. -/
open Sys2Proof Sys2Proof.Machine

/-! ## The machine -/

/-- O1. A step is the meaning of the command at the front of the queue on the state with the queue's rest. Model's
choice: notes/assumptions/92. -/
def Obligations.StepRunsTheFrontCommand : Prop :=
  ∀ (s : State) (c : Instr) (rest : List Instr), s.pending = c :: rest →
    step s = exec c { s with pending := rest }

/-- O2. With no command waiting a tick of 4 ns passes. Model's choice: notes/assumptions/6. -/
def Obligations.IdleStepCountsTheTimebase : Prop :=
  ∀ s : State, s.pending = [] → ∃ u, step s = .next u ∧ now u = now s + 4 ∧ u.pending = [] ∧ u.tiles = s.tiles
    ∧ u.dies = s.dies ∧ u.store = s.store

/-- O3. The state after reset is canonical and has no command waiting. Model's choice: notes/assumptions/93. -/
def Obligations.ResetIsCanonical : Prop := Canonical State.reset ∧ State.reset.pending = []

/-- O4. Every step keeps the canonical forms. -/
def Obligations.EveryStepKeepsCanonical : Prop :=
  ∀ s u : State, Canonical s → step s = .next u → Canonical u

/-- O5. No command changes the module serial, the certificate or the device key (R463, R467, R468). -/
def Obligations.EveryStepKeepsTheIdentity : Prop :=
  ∀ s u : State, Canonical s → step s = .next u → u.store.moduleSerial = s.store.moduleSerial
    ∧ u.store.certificate = s.store.certificate ∧ u.store.deviceKey = s.store.deviceKey

/-- O6. No step withdraws what was sent, and each takes at most the front command from the queue. Model's choice:
notes/assumptions/92. -/
def Obligations.EveryStepOnlyAddsOutputs : Prop :=
  ∀ s u : State, Canonical s → step s = .next u → (∃ l, u.out = s.out ++ l) ∧ u.pending = s.pending.tail

/-- O7. A log entry stays until the ring pushes it out, in every step but a cold power-on and the loss of VAUX12
(R456, R457). Model's choice: notes/assumptions/66. -/
def Obligations.LogIsAFullRing : Prop :=
  ∀ (s u : State) (c : Instr), Canonical s → c ≠ .vauxLoss →
    (∀ a b d e, c ≠ .coldPowerOn a b d e) → exec c s = .next u →
    u.log.length ≤ 65536 ∧ ∃ l, u.log = (s.log ++ l).drop ((s.log ++ l).length - 65536)

/-! ## The scalar sequencer -/

/-- O8. ALU, ALUI and MOVHI write their register and change nothing else (Table 5.6). Model's choice:
notes/assumptions/4. -/
def Obligations.AluWritesItsRegister : Prop :=
  ∀ (s : State) (t : Tid) (w : GWord), Canonical s →
    (Runs s t w 0x01 → ∃ u, exec (.alu t w) s = .next u ∧ RegisterStep s u t w.rd
      (aluFn w.fn.toNat (sregGet (tileOf s t) w.ra) (sregGet (tileOf s t) w.rb))) ∧
    (Runs s t w 0x02 → ∃ u, exec (.alui t w) s = .next u ∧ RegisterStep s u t w.rd
      (aluFn w.fn.toNat (sregGet (tileOf s t) w.ra) (w.imm.signExtend 64))) ∧
    (Runs s t w 0x03 → ∃ u, exec (.movhi t w) s = .next u ∧ RegisterStep s u t w.rd
      (w.imm ++ (sregGet (tileOf s t) w.rd).setWidth 32))

/-- O9. LD, LDW, CRD and SYSR write their register and change nothing else; a misaligned or out-of-range load is
illegal (R119, R125, R126). Model's choice: notes/assumptions/4. -/
def Obligations.LoadsWriteTheirRegister : Prop :=
  ∀ (s : State) (t : Tid) (w : GWord), Canonical s →
    (Runs s t w 0x08 → sdataOk (sdataAddr (tileOf s t) w) 8 = true → ∃ u, exec (.ld t w) s = .next u ∧
      RegisterStep s u t w.rd (BitVec.ofNat 64 (mread (tileOf s t).sdata (sdataAddr (tileOf s t) w) 8))) ∧
    (Runs s t w 0x09 → sdataOk (sdataAddr (tileOf s t) w) 4 = true → ∃ u, exec (.ldw t w) s = .next u ∧
      RegisterStep s u t w.rd (BitVec.ofNat 64 (mread (tileOf s t).sdata (sdataAddr (tileOf s t) w) 4))) ∧
    (Runs s t w 0x22 → ∃ u, exec (.crd t w) s = .next u ∧
      RegisterStep s u t w.rd ((ctrGet s t (w.imm.toNat % 256)).setWidth 64)) ∧
    (Runs s t w 0x38 → ∃ u, exec (.sysr t w) s = .next u ∧
      RegisterStep s u t w.rd (sysWord s t w.imm.toNat)) ∧
    (Runs s t w 0x08 → sdataOk (sdataAddr (tileOf s t) w) 8 = false →
      exec (.ld t w) s = .next (illegalInstr s t w)) ∧
    (Runs s t w 0x09 → sdataOk (sdataAddr (tileOf s t) w) 4 = false →
      exec (.ldw t w) s = .next (illegalInstr s t w))

/-- O10. CMP, CMPI and PLOG write one predicate and change nothing else; p0 keeps reading 1 (R118, Table 5.6). Model's
choice: notes/assumptions/4. -/
def Obligations.ComparesWriteOnePredicate : Prop :=
  ∀ (s : State) (t : Tid) (w : GWord), Canonical s →
    let ts := tileOf s t
    let after (u : State) (v : Bool) : Prop :=
      OnlyTile t s u ∧ predGet (tileOf u t) w.rd.toNat = (if w.rd.toNat = 0 then true else v)
        ∧ (∀ i, i ≤ 7 → i ≠ w.rd.toNat → predGet (tileOf u t) i = predGet ts i)
        ∧ tileOf u t = { ts with preds := (tileOf u t).preds, pc := ts.pc + 1, waves := ts.waves + 1 }
    (Runs s t w 0x04 → ∃ u, exec (.cmp t w) s = .next u
      ∧ after u (cmpFn w.fn.toNat (sregGet ts w.ra) (sregGet ts w.rb))) ∧
    (Runs s t w 0x05 → ∃ u, exec (.cmpi t w) s = .next u
      ∧ after u (cmpFn w.fn.toNat (sregGet ts w.ra) (w.imm.signExtend 64))) ∧
    (Runs s t w 0x06 → ∃ u, exec (.plog t w) s = .next u
      ∧ after u (plogFn w.fn.toNat (predGet ts w.ra.toNat) (predGet ts w.rb.toNat)))

/-- O11. ST and STW store the low bytes of s[RB] at s[RA] + sext(IMM); every other byte of scalar data memory, and
everything else, stays (Table 5.6, R10). Model's choice: notes/assumptions/4. -/
def Obligations.StoresWriteExactlyTheirBytes : Prop :=
  ∀ (s : State) (t : Tid) (w : GWord), Canonical s →
    let ts := tileOf s t
    let a := sdataAddr ts w
    let after (u : State) (n : Nat) : Prop :=
      OnlyTile t s u ∧ mread (tileOf u t).sdata a n = (sregGet ts w.rb).toNat % 256 ^ n
        ∧ (∀ x, x < a ∨ a + n ≤ x → mget (tileOf u t).sdata x = mget ts.sdata x)
        ∧ tileOf u t = { ts with sdata := (tileOf u t).sdata, pc := ts.pc + 1, waves := ts.waves + 1 }
    (Runs s t w 0x0A → sdataOk a 8 = true → ∃ u, exec (.st t w) s = .next u ∧ after u 8) ∧
    (Runs s t w 0x0B → sdataOk a 4 = true → ∃ u, exec (.stw t w) s = .next u ∧ after u 4) ∧
    (Runs s t w 0x0A → sdataOk a 8 = false → exec (.st t w) s = .next (illegalInstr s t w)) ∧
    (Runs s t w 0x0B → sdataOk a 4 = false → exec (.stw t w) s = .next (illegalInstr s t w))

/-- O12. STD copies 64 bytes of scalar data memory into one entry of the descriptor store; every other entry stays
(R119, Table 5.6). Model's choice: notes/assumptions/4. -/
def Obligations.StdWritesOneStoreEntry : Prop :=
  ∀ (s : State) (t : Tid) (w : GWord), Canonical s → Runs s t w 0x32 →
    sdataOk (sdataAddr (tileOf s t) w) 64 = true →
    ∃ u, exec (.std t w) s = .next u ∧ OnlyTile t s u
      ∧ kget zeroDesc (tileOf u t).store (dbits (sregGet (tileOf s t) w.rb) 0 12)
          = descAt (tileOf s t).sdata (sdataAddr (tileOf s t) w)
      ∧ (∀ k, k ≠ dbits (sregGet (tileOf s t) w.rb) 0 12 →
          kget zeroDesc (tileOf u t).store k = kget zeroDesc (tileOf s t).store k)
      ∧ (tileOf u t).sdata = (tileOf s t).sdata ∧ (tileOf u t).pc = (tileOf s t).pc + 1

/-- O13. NOP, BR, JAL, JR and LOOP: where the program counter goes, and the register that JAL and LOOP write. Model's
choices: notes/assumptions/4, 7. -/
def Obligations.ControlFlowMovesTheCounter : Prop :=
  ∀ (s : State) (t : Tid) (w : GWord), Canonical s →
    let ts := tileOf s t
    let moved (u : State) (pc : BitVec 17) : Prop := OnlyTile t s u ∧ (tileOf u t).pc = pc
      ∧ (tileOf u t).sdata = ts.sdata ∧ (tileOf u t).preds = ts.preds
    let same (u : State) : Prop := ∀ q, sregGet (tileOf u t) q = sregGet ts q
    (Runs s t w 0x00 → ∃ u, exec (.nop t w) s = .next u ∧ moved u (ts.pc + 1) ∧ same u) ∧
    (Runs s t w 0x10 → ∃ u, exec (.br t w) s = .next u ∧ moved u (w.imm.setWidth 17) ∧ same u) ∧
    (Runs s t w 0x11 → ∃ u, exec (.jal t w) s = .next u ∧ moved u (w.imm.setWidth 17)
      ∧ sregGet (tileOf u t) w.rd = (if w.rd = 0 then 0 else BitVec.ofNat 64 ((ts.pc.toNat + 1) % 2 ^ 17))
      ∧ ∀ q, q ≠ w.rd → sregGet (tileOf u t) q = sregGet ts q) ∧
    (Runs s t w 0x12 → (sregGet ts w.ra).toNat ≤ 0x1FFFF → ∃ u, exec (.jr t w) s = .next u
      ∧ moved u ((sregGet ts w.ra).setWidth 17) ∧ same u) ∧
    (Runs s t w 0x12 → 0x1FFFF < (sregGet ts w.ra).toNat → exec (.jr t w) s = .next (illegalInstr s t w)) ∧
    (Runs s t w 0x13 → ∃ u, exec (.loop t w) s = .next u
      ∧ moved u (if sregGet ts w.ra - 1 ≠ 0 then w.imm.setWidth 17 else ts.pc + 1)
      ∧ sregGet (tileOf u t) w.ra = (if w.ra = 0 then 0 else sregGet ts w.ra - 1)
      ∧ ∀ q, q ≠ w.ra → sregGet (tileOf u t) q = sregGet ts q)

/-- O14. CSET and CINC change one counter of the tile, CSIG the counter of its own tile or a message to another:
increments wrap (R58, R130, Table 5.6). Model's choices: notes/assumptions/10, 50. -/
def Obligations.CountersAreSetAndSignalled : Prop :=
  ∀ (s : State) (t : Tid) (w : GWord), Canonical s →
    let ts := tileOf s t
    let c := crefOf ((sregGet ts w.ra).toNat % 2 ^ 32)
    (Runs s t w 0x20 → ∃ u, exec (.cset t w) s = .next u
      ∧ ctrGet u t (w.imm.toNat % 256) = (sregGet ts w.ra).setWidth 32 ∧ (tileOf u t).pc = ts.pc + 1) ∧
    (Runs s t w 0x21 → ∃ u, exec (.cinc t w) s = .next u
      ∧ ctrGet u t (w.imm.toNat % 256) = ctrGet s t (w.imm.toNat % 256)
        + (if w.fn = 0 then (sregGet ts w.ra).setWidth 32 else BitVec.ofNat 32 (w.imm.toNat / 256 % 2 ^ 24))
      ∧ (tileOf u t).pc = ts.pc + 1) ∧
    (Runs s t w 0x24 → csigBad s t c = true → exec (.csig t w) s = .next (illegalInstr s t w)) ∧
    (Runs s t w 0x24 → csigBad s t c = false → ∃ u, exec (.csig t w) s = .next u
      ∧ (tileOf u t).pc = ts.pc + 1
      ∧ (c.v = false → u = { s with tiles := u.tiles })
      ∧ (c.v = true → (c.remote = false ∨ c.tile = widx t) → u.ctrl = s.ctrl
        ∧ ctrGet u t c.index = ctrGet s t c.index + w.imm)
      ∧ (c.v = true → c.remote = true → c.tile ≠ widx t → u.regs = s.regs
        ∧ u.ctrl = s.ctrl ++ [.signal t (tidOf c.tile) c.index w.imm ts.sigsSent]))

/-- O15. A wait is satisfied when (value − target) mod 2^32 is less than 2^31 (R59): WAIT, WSLR and WSLW then go on,
and otherwise stall where they stand. Model's choice: notes/assumptions/4. -/
def Obligations.WaitsTestModularly : Prop :=
  ∀ (s : State) (t : Tid) (w : GWord), Canonical s →
    let ts := tileOf s t
    let target : Word := (sregGet ts w.ra).setWidth 32 + BitVec.ofNat 32 (w.imm.toNat / 256 % 2 ^ 24)
    let slot := w.imm.toNat % 2 ^ 20
    let sat (n : Nat) (v : Word) : Prop := (ctrGet s t n - v).toNat < 2 ^ 31
    (Runs s t w 0x23 → sat (w.imm.toNat % 256) target →
      ∃ u, exec (.wait t w) s = .next u ∧ OnlyTile t s u ∧ (tileOf u t).pc = ts.pc + 1 ∧ (tileOf u t).wait = ts.wait) ∧
    (Runs s t w 0x23 → ¬ sat (w.imm.toNat % 256) target →
      ∃ u, exec (.wait t w) s = .next u ∧ OnlyTile t s u ∧ (tileOf u t).pc = ts.pc
        ∧ (tileOf u t).wait = some ⟨if w.fn = 1 then .idle else .plain, w.imm.toNat % 256, target, 0⟩) ∧
    (∀ rd, Runs s t w (if rd then 0x25 else 0x26) → sat (slotTarget ts slot rd).1 (slotTarget ts slot rd).2 →
      ∃ u, exec (if rd then .wslr t w else .wslw t w) s = .next u ∧ OnlyTile t s u ∧ (tileOf u t).pc = ts.pc + 1
        ∧ slotField (tileOf u t) slot (if rd then 8 else 12) 4
          = (slotField ts slot (if rd then 8 else 12) 4 + 1) % 2 ^ 32) ∧
    (∀ rd, Runs s t w (if rd then 0x25 else 0x26) → ¬ sat (slotTarget ts slot rd).1 (slotTarget ts slot rd).2 →
      ∃ u, exec (if rd then .wslr t w else .wslw t w) s = .next u ∧ OnlyTile t s u ∧ (tileOf u t).pc = ts.pc
        ∧ (tileOf u t).wait = some ⟨if rd then .slotRead else .slotWrite, (slotTarget ts slot rd).1,
          (slotTarget ts slot rd).2, slot⟩)

/-- O16. The releases of a stalled wait: WAIT_RELEASE and SLOT_WAIT_RELEASE go on once the counter has reached the
target; SYNC_FAULT records a wait that is not satisfied and halts the program (R61, R128, R129). -/
def Obligations.StalledWaitsReleaseOrFault : Prop :=
  ∀ (s : State) (t : Tid) (k : WaitKind) (n : Nat) (v : Word) (slot : Nat), Canonical s →
    (tileOf s t).wait = some ⟨k, n, v, slot⟩ → (tileOf s t).running = true → waving s t = true →
    (k = .plain ∨ k = .idle → (ctrGet s t n - v).toNat < 2 ^ 31 → ∃ u, exec (.waitRelease t) s = .next u
      ∧ OnlyTile t s u ∧ (tileOf u t).wait = none ∧ (tileOf u t).pc = (tileOf s t).pc + 1) ∧
    (k = .slotRead ∨ k = .slotWrite → (ctrGet s t n - v).toNat < 2 ^ 31 →
      ∃ u, exec (.slotWaitRelease t) s = .next u ∧ OnlyTile t s u ∧ (tileOf u t).wait = none
        ∧ (tileOf u t).pc = (tileOf s t).pc + 1
        ∧ slotField (tileOf u t) slot (if k = .slotRead then 8 else 12) 4
          = (slotField (tileOf s t) slot (if k = .slotRead then 8 else 12) 4 + 1) % 2 ^ 32) ∧
    (k ≠ .idle → ¬ (ctrGet s t n - v).toNat < 2 ^ 31 → ∃ u v, exec (.syncFault t) s = .next u ∧ u = haltTile v t (tileOf s t).pc.toNat 0x0512
      ∧ (tileOf u t).running = false ∧ (tileOf u t).qstop = true ∧ tget v t R.TILE_FAULT_SYNC_FAULT = 1 ∧ tget v t R.TILE_FAULT_INFO_COUNTER = n % 256
      ∧ tget v t R.TILE_FAULT_INFO_KIND = waitKindNo k ∧ tget v t R.TILE_FAULT_INFO_SLOT = slot % 2 ^ 20
      ∧ LoggedCode s u 0x0512 sevError)

/-- O17. ISSUE and ISSUES copy their descriptor to the end of queue RD, or stall on a full queue with the copy; the
stalled instruction goes on when an entry is free (R41, R131). Model's choice: notes/assumptions/9. -/
def Obligations.IssueQueuesACopy : Prop :=
  ∀ (s : State) (t : Tid) (w : GWord), Canonical s →
    let ts := tileOf s t
    let put (u : State) (d : Desc) : Prop :=
      let q := w.rd.toNat
      OnlyTile t s u ∧
      ((queueOf ts q).length < queueDepth q →
        queueOf (tileOf u t) q = queueOf ts q ++ [⟨d, ts.pc, ts.serial, []⟩] ∧ (tileOf u t).pc = ts.pc + 1
          ∧ ∀ k, k ≠ q → queueOf (tileOf u t) k = queueOf ts k) ∧
      (queueDepth q ≤ (queueOf ts q).length →
        (tileOf u t).queues = ts.queues ∧ (tileOf u t).pc = ts.pc
          ∧ (tileOf u t).stall = some (Fin.ofNat 6 q, ⟨d, ts.pc, ts.serial, []⟩))
    (Runs s t w 0x30 → sdataOk (sdataAddr ts w) 64 = true →
      ∃ u, exec (.issue t w) s = .next u ∧ put u (descAt ts.sdata (sdataAddr ts w))) ∧
    (Runs s t w 0x31 → ∃ u, exec (.issues t w) s = .next u ∧
      let d0 := kget zeroDesc ts.store (w.imm.toNat % 4096)
      let d1 := if tbit w.imm.toNat 15 then descSet d0 (w.imm.toNat / 2 ^ 12 % 8) (sregGet ts w.ra) else d0
      put u (if tbit w.imm.toNat 19 then descSet d1 (w.imm.toNat / 2 ^ 16 % 8) (sregGet ts w.rb) else d1)) ∧
    (∀ q c, ts.stall = some (q, c) → ts.running = true → waving s t = true →
      (queueOf ts q.val).length < queueDepth q.val → ∃ u, exec (.queueEntryFreed t) s = .next u ∧ OnlyTile t s u
        ∧ queueOf (tileOf u t) q.val = queueOf ts q.val ++ [c] ∧ (tileOf u t).stall = none
        ∧ (tileOf u t).pc = ts.pc + 1)

/-- O18. GDONE records the commands and signals issued before it; HALT stops instruction issue and leaves the queues
and HALTED (R132, R133). Model's choice: notes/assumptions/4. -/
def Obligations.GdoneAndHalt : Prop :=
  ∀ (s : State) (t : Tid) (w : GWord), Canonical s →
    (Runs s t w 0x39 → ∃ u, exec (.gdone t w) s = .next u ∧ OnlyTile t s u
      ∧ (tileOf u t).gdone = some ((tileOf s t).serial, (tileOf s t).sigsSent)
      ∧ (tileOf u t).pc = (tileOf s t).pc + 1) ∧
    (Runs s t w 0x3F → ∃ u, exec (.halt t w) s = .next u ∧ OnlyTile t s u ∧ (tileOf u t).running = false
      ∧ (tileOf u t).queues = (tileOf s t).queues ∧ (tileOf u t).inflight = (tileOf s t).inflight
      ∧ (tileOf u t).qstop = (tileOf s t).qstop)

/-- O19. An instruction whose guard is false takes one wave and changes nothing else, whichever it is (R124). Model's
choice: notes/assumptions/4. -/
def Obligations.FalseGuardTakesOneWave : Prop :=
  ∀ (s : State) (t : Tid) (w : GWord), Canonical s → ∀ r ∈ geckoRows t w, canIssue s t = true →
    w.op.toNat = r.1 → encodingOk (tileOf s t) w = true → guardOk (tileOf s t) w = false →
    ∃ u, exec r.2 s = .next u ∧ OnlyTile t s u ∧ tileOf u t = { tileOf s t with
      pc := (tileOf s t).pc + 1, waves := (tileOf s t).waves + 1 }

/-- O20. An illegal encoding halts the program whatever its guard: ILLEGAL_INSTR, the index in TILE_FAULT_PC, the
GECKO_ILLEGAL entry, and no instruction issues any more (R62, R124, R125). Model's choices: notes/assumptions/4, 8. -/
def Obligations.IllegalEncodingHalts : Prop :=
  ∀ (s : State) (t : Tid) (w : GWord), Canonical s → ∀ r ∈ geckoRows t w, canIssue s t = true →
    w.op.toNat = r.1 → encodingOk (tileOf s t) w = false →
    ∃ u v, exec r.2 s = .next u ∧ u = haltTile v t (tileOf s t).pc.toNat 0x0510
      ∧ Logged s u (logEntry s 0x0510 sevError (.tile t) (tileOf s t).pc.toNat (wordHi w) w.imm.toNat)
      ∧ (tileOf u t).running = false ∧ (tileOf u t).qstop = true ∧ tget v t R.TILE_FAULT_ILLEGAL_INSTR = 1
      ∧ (tileCtx v t = none → tget u t R.TILE_FAULT_ILLEGAL_INSTR = 1
        ∧ tget u t R.TILE_FAULT_PC_PC = (tileOf s t).pc.toNat ∧ tget u t R.TILE_STAT_HALTED = 1)

/-! ## The engines -/

/-- O21. MX.SEED, MX.OPEN, MX.STREAM and MX.DRAIN, once their checks pass, leave their queue and run, to increment
their counter by 1; MX.SEED seeds every multiply-add cell and leaves the accumulators, and MX.OPEN opens its group
afresh; a drain stores its rows and records, the others nothing; words found uncorrectable on the way are lost, and
nothing else of the buffer is (R57, R134, R135, R138, R142). A streaming command that paused runs on once its pages
are local (R44). Model's choice: notes/assumptions/18. -/
def Obligations.MatrixCommandsRun : Prop :=
  ∀ (s : State) (t : Tid) (c : QCmd) (rest : List QCmd), Canonical s →
    (∀ errs, HeadStarts s t 0 0x10 c rest → Passes s t 0 rest (fun v => seedChecks v t c.desc) →
      ∃ u, exec (.mxSeed ⟨t, errs⟩) s = .next u ∧ Launched s u t 0 c rest 1
        ∧ (OfBuffer errs → TileFrame t (withLost noStores errs) s u ∧ (tileOf u t).acc = (tileOf s t).acc)
        ∧ (CleanReads s t errs → OnlyTile t s u
          ∧ ∀ i j, i < 128 → j < 128 → lfsrGet (tileOf u t) i j = lfsrSeed
            (if tbit (descFlags c.desc) 0 then leNat (bufRead (tileOf s t) (dbits c.desc.w1 0 17 * 256 + 4 * i) 4)
              else (dbits c.desc.w1 0 32 + 0xB5 * i) % 2 ^ 32) j)) ∧
    (∀ errs, HeadStarts s t 0 0x11 c rest → Passes s t 0 rest (fun v => openChecks v t c.desc) →
      ∃ u, exec (.mxOpen ⟨t, errs⟩) s = .next u ∧ Launched s u t 0 c rest 1
        ∧ (OfBuffer errs → TileFrame t (withLost noStores errs) s u)
        ∧ (CleanReads s t errs →
          grpOf (tileOf u t) (descFlags c.desc % 8) = ⟨true, tbit (descFlags c.desc) 3, none, 0, 0, false, [], []⟩
          ∧ (tbit (descFlags c.desc) 3 = false → ∀ i j, i < 128 → j < 128 →
            accGet (tileOf u t) (descFlags c.desc % 8) i j = none) ∧ EngineFrame t noStores s u)) ∧
    (∀ errs, (tileOf s t).inflight.findSome? (·.held) = none →
      HeadStarts s t 0 0x12 c rest → Passes s t 0 rest (fun v => streamChecks v t c.desc) →
      (streamOps c.desc).k = 0 ∨ (streamOps c.desc).wbuf = true
        ∨ (transAll t false 0 (weightPages c.desc (streamOps c.desc)) (takeHead s t 0 rest)).1 = ⟨none, []⟩ →
      ∃ u, exec (.mxStream t errs) s = .next u ∧ Launched s u t 0 c rest 1
        ∧ (OfBuffer errs → TileFrame t (withLost noStores errs) s u)) ∧
    (∀ errs, (tileOf s t).inflight.findSome? (·.held) = some c → waving s t = true →
      (streamOps c.desc).wbuf = true
        ∨ (transAll t false 0 (weightPages c.desc (streamOps c.desc)) (dropHeld s t)).1 = ⟨none, []⟩ →
      ∃ u, exec (.mxStream t errs) s = .next u ∧ (tileOf u t).queues = (tileOf s t).queues
        ∧ (∃ f, (tileOf u t).inflight = ((tileOf s t).inflight.filter fun x => x.held.isNone) ++ [f]
          ∧ f.queue.val = 0 ∧ f.op = BitVec.ofNat 8 (descOp c.desc) ∧ f.amount = 1)
        ∧ (OfBuffer errs → TileFrame t (withLost noStores errs) s u)) ∧
    (HeadStarts s t 0 0x13 c rest → Passes s t 0 rest (fun v => drainChecks v t c.desc) →
      ∃ u, exec (.mxDrain t) s = .next u ∧ Launched s u t 0 c rest 1
        ∧ EngineFrame t (drainStores (tileOf s t) c.desc) s u
        ∧ grpOf (tileOf u t) (descFlags c.desc % 8)
          = if tbit (descFlags c.desc) 3 then noGrp 0 else grpOf (tileOf s t) (descFlags c.desc % 8))

/-- O22. The six vector commands, once their checks pass, leave the queue of their core and run, to increment their
counter by 1, and store to their destination alone; words found uncorrectable on the way are lost, and nothing else of
the buffer is (R57, R134, R135, R143 to R149). Model's choices: notes/assumptions/18, 19, 20, 21, 22. -/
def Obligations.VectorCommandsRun : Prop :=
  ∀ (s : State) (t : Tid) (core : Fin 2) (errs : List MemErr) (c : QCmd) (rest : List QCmd), Canonical s →
    ∀ r ∈ [(0x20, Instr.nvMap ⟨t, errs⟩ core, fun v => mapChecks v t c.desc),
      (0x21, .nvRed ⟨t, errs⟩ core, fun v => redChecks v t c.desc),
      (0x22, .nvNorm ⟨t, errs⟩ core, fun v => normChecks v t c.desc),
      (0x23, .nvRope ⟨t, errs⟩ core, fun v => ropeChecks v t c.desc),
      (0x24, .nvSmax ⟨t, errs⟩ core, fun v => smaxChecks v t c.desc),
      (0x25, .nvQuant ⟨t, errs⟩ core, fun v => quantChecks v t c.desc)],
    HeadStarts s t (core.val + 1) r.1 c rest → Passes s t (core.val + 1) rest r.2.2 →
      ∃ u, exec r.2.1 s = .next u ∧ Launched s u t (core.val + 1) c rest 1
        ∧ (OfBuffer errs → TileFrame t (withLost (vecStores r.1 core.val c.desc) errs) s u)
        ∧ (CleanReads s t errs → EngineFrame t (vecStores r.1 core.val c.desc) s u
          ∧ (tileOf u t).acc = (tileOf s t).acc ∧ (tileOf u t).groups = (tileOf s t).groups
          ∧ (tileOf u t).lfsr = (tileOf s t).lfsr)

/-- O23. The three grid commands, once their checks pass, leave queue 3 and run, to increment their counter by 1; a
run stores to its output lines alone, and TG.FREE leaves its region unconfigured; words found uncorrectable on the way
are lost, and nothing else of the buffer is (R57, R134, R135, R150). Model's choices: notes/assumptions/18, 57. -/
def Obligations.GridCommandsRun : Prop :=
  ∀ (s : State) (t : Tid) (errs : List MemErr) (c : QCmd) (rest : List QCmd), Canonical s →
    ∀ r ∈ [(0x40, Instr.tgCfg ⟨t, errs⟩, fun v => tgCfgChecks v t c.desc),
      (0x41, .tgRun ⟨t, errs⟩, fun v => tgRunChecks v t c.desc), (0x42, .tgFree t, fun v => tgFreeChecks v t c.desc)],
    HeadStarts s t 3 r.1 c rest → Passes s t 3 rest r.2.2 →
      ∃ u, exec r.2.1 s = .next u ∧ Launched s u t 3 c rest 1
        ∧ (OfBuffer errs → TileFrame t (withLost (gridStores r.1 c.desc) errs) s u)
        ∧ (CleanReads s t errs → EngineFrame t (gridStores r.1 c.desc) s u)
        ∧ (r.2.1 = .tgFree t → regionOf (tileOf u t) (tgRegion c.desc) = none)

/-- O24. DMA.FILL writes its 8-byte pattern over exactly the lines of its range and DMA.COPY the lines it read before
it wrote; every other byte of the buffer, and everything outside the tile, stays. Each increments its counter by its
line count; a length of 0 completes at once. Words that a copy finds uncorrectable are lost, and nothing else outside
its lines is (R57, R135, R152, R153). Model's choice: notes/assumptions/18. -/
def Obligations.FillAndCopyWriteExactlyTheirLines : Prop :=
  ∀ (s : State) (t : Tid) (c : QCmd) (rest : List QCmd), Canonical s →
    let d := c.desc
    let runs (u : State) (n : Nat) : Prop :=
      (n ≠ 0 → Launched s u t 4 c rest n)
        ∧ (n = 0 → (tileOf u t).inflight = (tileOf s t).inflight
          ∧ (tileOf u t).queues = (setQueue (tileOf s t) 4 rest).queues)
    let after (u : State) (dst n : Nat) (src : Nat → Byte) : Prop :=
      OnlyTile t s u ∧ (∀ x, x < 256 * n → mget (tileOf u t).buf (256 * dst + x) = src x)
        ∧ (∀ a, a < 256 * dst ∨ 256 * (dst + n) ≤ a → mget (tileOf u t).buf a = mget (tileOf s t).buf a)
    (HeadStarts s t 4 0x51 c rest → Passes s t 4 rest (fun v => fillChecks v t d) →
      ∃ u, exec (.dmaFill t) s = .next u ∧ runs u (d.w2.toNat % 2 ^ 17)
        ∧ after u (d.w1.toNat % 2 ^ 17) (d.w2.toNat % 2 ^ 17) fun x => BitVec.ofNat 8 (d.w3.toNat / 256 ^ (x % 8))) ∧
    (∀ errs, HeadStarts s t 4 0x52 c rest → Passes s t 4 rest (fun v => copyChecks v t d) →
      ∃ u, exec (.dmaCopy ⟨t, errs⟩) s = .next u ∧ runs u (d.w3.toNat % 2 ^ 17)
        ∧ (OfBuffer errs → TileFrame t
          (withLost ⟨[(256 * (d.w2.toNat % 2 ^ 17), 256 * (d.w3.toNat % 2 ^ 17))], [], [], []⟩ errs) s u)
        ∧ (CleanReads s t errs → after u (d.w2.toNat % 2 ^ 17) (d.w3.toNat % 2 ^ 17)
          fun x => mget (tileOf s t).buf (256 * (d.w1.toNat % 2 ^ 17) + x)))

/-- O25. DMA.MOVE, once its checks pass and its pages translate, leaves queue 4 and runs: to the tile's own buffer or
its die's stack to increment its counter by its line count, and over the mesh as a transfer whose lines the mesh
carries. Without an error of memory on the way it stores to the lines of its destination alone. With a page that is
away it holds its place (R151, R152, R190, R212). Model's choices: notes/assumptions/16, 58, 101. -/
def Obligations.MoveRuns : Prop :=
  ∀ (s : State) (t : Tid) (errs : List MemErr) (c : QCmd) (rest : List QCmd), Canonical s →
    HeadStarts s t 4 0x50 c rest → Passes s t 4 rest (fun v => moveChecks v t c.desc) → moveLines c.desc ≠ 0 →
    let v := takeHead s t 4 rest
    let a := transAll t false 1 (sidePages c.desc.w1 (moveLines c.desc)) v
    let b := transAll t true 1 (sidePages c.desc.w2 (moveLines c.desc)) a.2
    let bare (l : List InFlight) : List InFlight := l.map fun f => { f with left := 0 }
    (a.1.fault = none → b.1.fault = none → a.1.waits ++ b.1.waits ≠ [] →
      exec (.dmaMove t errs) s
        = .next (holdPlace (pauseFor b.2 t c.met (a.1.waits ++ b.1.waits)) t 4 c (a.1.waits ++ b.1.waits))) ∧
    (a.1 = ⟨none, []⟩ → b.1 = ⟨none, []⟩ →
      ∃ u, exec (.dmaMove t errs) s = .next u
        ∧ (tileOf u t).queues = (setQueue (tileOf s t) 4 rest).queues
        ∧ (meshDest b.2 t c.desc.w2 = none → Launched s u t 4 c rest (moveLines c.desc))
        ∧ bare (tileOf u t).inflight = bare ((tileOf s t).inflight ++ moveParts (bufReads b.2 t (moveSpans c.desc) errs) t c)
        ∧ (CleanReads s t errs →
          (∀ k x, (∀ i < moveLines c.desc, Loc.buf k (x / lineBytes) ∉ sideLoc b.2 t c.desc.w2 i) →
            mget (tileOf u k).buf x = mget (tileOf s k).buf x) ∧
          (∀ x, (∀ i < moveLines c.desc,
              Loc.stk (x / frameBytes) (x % frameBytes / lineBytes) ∉ sideLoc b.2 t c.desc.w2 i) →
            mget (dieOf u t.d.val).mem x = mget (dieOf s t.d.val).mem x) ∧
          (∀ k, k ≠ t.d.val → dieOf u k = dieOf s k) ∧
          (∀ k, (tileOf u k).sdata = (tileOf s k).sdata ∧ (tileOf u k).sregs = (tileOf s k).sregs
            ∧ (tileOf u k).vreg0 = (tileOf s k).vreg0 ∧ (tileOf u k).vreg1 = (tileOf s k).vreg1
            ∧ (tileOf u k).side = (tileOf s k).side ∧ (tileOf u k).acc = (tileOf s k).acc)))

/-- O26. KV.APPEND, KV.SETLEN and KV.FREE of a layer kept on the tile's die, their pages local, leave queue 5 and run,
to increment their counter by 1; an append waits at its place for a round of page invalidation, a free for a transfer
of its range, and a command whose page is away for the page. In the tile they store the status bytes of an append and
nothing else, but for words found uncorrectable on the way, and they change no other die (R57, R154, R155, R212, R242,
R245). Model's choice: notes/assumptions/59. -/
def Obligations.CacheCommandsRun : Prop :=
  ∀ (s : State) (t : Tid) (errs : List MemErr) (c : QCmd) (rest : List QCmd) (a : KvAt), Canonical s →
    let v := takeHead s t 5 rest
    let d := t.d.val
    let o := appendOps c.desc
    let w := (walkerOf v d a.n).getD (freshWRec 0)
    let tr := transAll t true reqWalker (appendAddrs v d a o w.len) v
    let cut := appendCut tr.2 d a w o.pos
    let waits := waitsRound cut d a.x.rho a.n a.plan (maskHeads o.mask) o.pos o.count
    let len := clampLen w (dbits c.desc.w2 0 21)
    let pages := if len % 16 = 0 then [] else tailVpn a.x.rho a.n a.plan :: valuePages a.x.rho a.n a.plan (len - 1)
    let ts := transAll t true reqWalker ((pages.filter fun p => pteV (l2Of v d p)).map (· * frameBytes)) v
    let stays (u : State) (m : Stores) : Prop := TileFrame t m s u ∧ ∀ k, k ≠ d → dieOf u k = dieOf s k
    let inRange : Prop := kvAt v t (dbits c.desc.w1 0 12) (dbits c.desc.w1 12 16) = some a
    (HeadStarts s t 5 0x60 c rest → firstBroken (appendFirst v t c.desc) = none → kvAt v t o.slot o.layer = some a →
      (o.count = 0 → ∃ u, exec (.kvAppend ⟨t, errs⟩) s = .next u ∧ Launched s u t 5 c rest 1 ∧ stays u noStores) ∧
      (o.count ≠ 0 → firstBroken (appendSecond w a.plan o) = none → tr.1 = ⟨none, []⟩ → waits = false →
        ∃ u, exec (.kvAppend ⟨t, errs⟩) s = .next u ∧ Launched s u t 5 c rest 1
          ∧ (OfBuffer errs → stays u (withLost ⟨[(o.status * lineBytes, o.count)], [], [], []⟩ errs))) ∧
      (o.count ≠ 0 → firstBroken (appendSecond w a.plan o) = none → tr.1 = ⟨none, []⟩ → waits = true →
        exec (.kvAppend ⟨t, errs⟩) s = .next (holdPlace cut t 5 c c.met)) ∧
      (o.count ≠ 0 → firstBroken (appendSecond w a.plan o) = none → tr.1.fault = none → tr.1.waits ≠ [] →
        exec (.kvAppend ⟨t, errs⟩) s = .next (holdPlace (pauseFor tr.2 t c.met tr.1.waits) t 5 c tr.1.waits))) ∧
    (HeadStarts s t 5 0x61 c rest → Passes s t 5 rest (fun v => setlenChecks v t c.desc) → inRange →
      (ts.1 = ⟨none, []⟩ → ∃ u, exec (.kvSetlen t) s = .next u ∧ Launched s u t 5 c rest 1 ∧ stays u noStores) ∧
      (ts.1.fault = none → ts.1.waits ≠ [] →
        exec (.kvSetlen t) s = .next (holdPlace (pauseFor ts.2 t c.met ts.1.waits) t 5 c ts.1.waits))) ∧
    (HeadStarts s t 5 0x62 c rest → Passes s t 5 rest (fun v => kvFreeChecks v t c.desc) → inRange →
      (rangeInTransfer v d a.x.rho a.n = false →
        ∃ u, exec (.kvFree t) s = .next u ∧ Launched s u t 5 c rest 1 ∧ stays u noStores) ∧
      (rangeInTransfer v d a.x.rho a.n = true → exec (.kvFree t) s = .next (holdPlace v t 5 c c.met)))

/-- O27. A command that completes, no line of it on the mesh and none of it held by empty stream buffers, leaves those
in flight; one with a valid reference, one home, no members and no source reference increments that counter of its
home once, by its amount (R44, R58, R135, R152). -/
def Obligations.CompletionIncrementsTheCounter : Prop :=
  ∀ (s : State) (t : Tid) (i : Nat) (f : InFlight), Canonical s → (tileOf s t).inflight[i]? = some f →
    f.held = none → f.left = 0 → waving s t = true →
    ∃ u, exec (.commandComplete t i) s = .next u ∧ u = { s with tiles := u.tiles, regs := u.regs }
      ∧ (tileOf u t).inflight = (tileOf s t).inflight.eraseIdx i ∧ (tileOf u t).buf = (tileOf s t).buf
      ∧ ((crefOf f.cref.toNat).v = false → f.members = [] → (crefOf f.src.toNat).v = false → u.regs = s.regs)
      ∧ ∀ h, f.homes = [h] → f.members = [] → (crefOf f.src.toNat).v = false → (crefOf f.cref.toNat).v = true →
        ctrGet u h (crefOf f.cref.toNat).index = ctrGet s h (crefOf f.cref.toNat).index + f.amount

/-- O28. A command that its queue gives up and that breaks a check faults with the reason and the word: CMD_FAULT, a
CMD_FAULT entry, and the tile halts at the instruction that issued it (R136, Table 5.9). Model's choices:
notes/assumptions/8, 18. -/
def Obligations.BrokenCommandFaults : Prop :=
  ∀ (s : State) (t : Tid) (core : Fin 2) (errs : List MemErr) (c : QCmd) (rest : List QCmd) (r w : Nat), Canonical s →
    let faults (i : Instr) (q op : Nat) : Prop :=
      ∃ u v, exec i s = .next u ∧ u = haltTile v t c.pc.toNat 0x0511 ∧ (tileOf u t).running = false
        ∧ (tileOf u t).qstop = true ∧ tget v t R.TILE_FAULT_CMD_FAULT = 1
        ∧ Logged s u (logEntry s 0x0511 sevError (.tile t) (op * 2 ^ 24 + q * 2 ^ 21 + r * 2 ^ 17 + c.pc.toNat) w
          ((descWord c.desc w).toNat % 2 ^ 32))
    (∀ x ∈ [(0, 0x10, Instr.mxSeed ⟨t, errs⟩, fun v => seedChecks v t c.desc),
      (0, 0x11, .mxOpen ⟨t, errs⟩, fun v => openChecks v t c.desc),
      (0, 0x13, .mxDrain t, fun v => drainChecks v t c.desc),
      (core.val + 1, 0x20, .nvMap ⟨t, errs⟩ core, fun v => mapChecks v t c.desc),
      (core.val + 1, 0x21, .nvRed ⟨t, errs⟩ core, fun v => redChecks v t c.desc),
      (core.val + 1, 0x22, .nvNorm ⟨t, errs⟩ core, fun v => normChecks v t c.desc),
      (core.val + 1, 0x23, .nvRope ⟨t, errs⟩ core, fun v => ropeChecks v t c.desc),
      (core.val + 1, 0x24, .nvSmax ⟨t, errs⟩ core, fun v => smaxChecks v t c.desc),
      (core.val + 1, 0x25, .nvQuant ⟨t, errs⟩ core, fun v => quantChecks v t c.desc),
      (3, 0x40, .tgCfg ⟨t, errs⟩, fun v => tgCfgChecks v t c.desc),
      (3, 0x41, .tgRun ⟨t, errs⟩, fun v => tgRunChecks v t c.desc), (3, 0x42, .tgFree t, fun v => tgFreeChecks v t c.desc),
      (4, 0x50, .dmaMove t errs, fun v => moveChecks v t c.desc), (4, 0x51, .dmaFill t, fun v => fillChecks v t c.desc),
      (4, 0x52, .dmaCopy ⟨t, errs⟩, fun v => copyChecks v t c.desc),
      (5, 0x60, .kvAppend ⟨t, errs⟩, fun v => appendFirst v t c.desc),
      (5, 0x61, .kvSetlen t, fun v => setlenChecks v t c.desc), (5, 0x62, .kvFree t, fun v => kvFreeChecks v t c.desc)],
      HeadStarts s t x.1 x.2.1 c rest → firstBroken (x.2.2.2 (takeHead s t x.1 rest)) = some (r, w) →
      faults x.2.2.1 x.1 x.2.1) ∧
    ((tileOf s t).inflight.findSome? (·.held) = none → HeadStarts s t 0 0x12 c rest →
      firstBroken (streamChecks (takeHead s t 0 rest) t c.desc) = some (r, w) → faults (.mxStream t errs) 0 0x12) ∧
    (∀ a, HeadStarts s t 5 0x60 c rest → firstBroken (appendFirst (takeHead s t 5 rest) t c.desc) = none →
      kvAt (takeHead s t 5 rest) t (appendOps c.desc).slot (appendOps c.desc).layer = some a →
      (appendOps c.desc).count ≠ 0 → firstBroken (appendSecond
        ((walkerOf (takeHead s t 5 rest) t.d.val a.n).getD (freshWRec 0)) a.plan (appendOps c.desc)) = some (r, w) →
      faults (.kvAppend ⟨t, errs⟩) 5 0x60)

/-! ## Tiles, lanes and barriers -/

/-- O29. Buffer words: a write-back leaves the bytes; a scrub counts and lists a corrected word, and records an
uncorrectable one, whose eight bytes alone change; the Bowler logs the oldest notice (R57, R219, R455). Model's
choice: notes/assumptions/27. -/
def Obligations.BufferWordErrorsAreHandled : Prop :=
  ∀ (s : State) (t : Tid) (line : BitVec 17) (word : BitVec 5), Canonical s →
    ((line.toNat, word.toNat) ∈ (tileOf s t).writeBacks → ∃ u, exec (.eccWriteback t line word) s = .next u
      ∧ OnlyTile t s u ∧ (line.toNat, word.toNat) ∉ (tileOf u t).writeBacks ∧ (tileOf u t).buf = (tileOf s t).buf) ∧
    (railOn s t = true → line.toNat < 98304 → ∃ u, exec (.bufferScrub t [.bufSingle line word]) s = .next u
      ∧ tget u t R.TILE_ECC_CORR_CORR_COUNT
        = min (tget s t R.TILE_ECC_CORR_CORR_COUNT + 1) (2 ^ R.TILE_ECC_CORR_CORR_COUNT.w - 1)
      ∧ (line.toNat, word.toNat) ∈ (tileOf u t).writeBacks ∧ (tileOf u t).buf = (tileOf s t).buf) ∧
    (railOn s t = true → line.toNat < 98304 → ∃ u, exec (.bufferScrub t [.bufDouble line word]) s = .next u
      ∧ tget u t R.TILE_FAULT_ECC_UNCORR = 1 ∧ tget u t R.TILE_ECC_ADDR_VALID = 1
      ∧ tget u t R.TILE_ECC_ADDR_WORD = word.toNat ∧ tget u t R.TILE_ECC_ADDR_LINE = line.toNat
      ∧ u.ctrl = s.ctrl ++ [.report t .fault]
      ∧ ∀ a, a < 256 * line.toNat + 8 * word.toNat ∨ 256 * line.toNat + 8 * word.toNat + 8 ≤ a →
        mget (tileOf u t).buf a = mget (tileOf s t).buf a) ∧
    (∀ rest, (tileOf s t).bufNotices = (line.toNat, word.toNat) :: rest →
      ∃ u, exec (.bowlerBufferUncorr t) s = .next u ∧ LoggedAs s u 0x1314 sevError (widx t * 2 ^ 16)
        (2 ^ 31 + word.toNat * 2 ^ 17 + line.toNat) (((regionAt s t line.toNat).map fun r => r.2.2.kind.val).getD 3))

/-- O30. At 2^16 waves since the last rotation the quadrants rotate once, with no accumulation group open; the vector
cores alternate when one of them alone had commands, with no command in flight (R45, R48). -/
def Obligations.CoresRotate : Prop :=
  ∀ (s : State) (t : Tid), Canonical s →
    let ts := tileOf s t
    (2 ^ 16 ≤ (wavesNow s t).toNat - ts.quadWave.toNat → anyOpen ts = false → ∃ u, exec (.quadrantRotate t) s = .next u
      ∧ OnlyTile t s u ∧ tileOf u t = { ts with quadRot := ts.quadRot + 1, quadWave := wavesNow s t }) ∧
    (2 ^ 16 ≤ (wavesNow s t).toNat - ts.newtWave.toNat → tget s t R.TILE_STAT_NEWT_FENCE = 0 → inFlightOf ts 1 = [] →
      inFlightOf ts 2 = [] → ∃ u, exec (.newtAlternate t) s = .next u ∧ OnlyTile t s u
        ∧ tileOf u t = { ts with
          newtAlt := (if ts.newtUse = 1 ∨ ts.newtUse = 2 then !ts.newtAlt else ts.newtAlt), newtWave := wavesNow s t
          newtUse := newtQueued ts })

/-- O31. A failed grid core and a fence request leave the fence to the Bowler; a fence writes TILE_FENCED; a reset
turns the rail off, and the tile keeps neither program nor data (R51, R66, R432, R452). Model's choices:
notes/assumptions/36, 43, 46, 49. -/
def Obligations.FencesAndResets : Prop :=
  ∀ (s : State) (t : Tid), Canonical s → roleOf s t ≠ roleDark →
    (∀ (x y : BitVec 3) (f : InFlight) (g : GridRegion), f ∈ (tileOf s t).inflight → f.queue.val = 3 → f.op = 0x41 →
      regionOf (tileOf s t) f.grp = some g →
      rectHas g (logicalCore (tileOf s t).gridOrient x.toNat y.toNat).1
        (logicalCore (tileOf s t).gridOrient x.toNat y.toNat).2 = true →
      ∃ u, exec (.gridFault t x y) s = .next u ∧ tget u t R.TILE_FAULT_GRID_FAULT = 1
        ∧ tileOf u t = { tileOf s t with fencePend := some .grid }) ∧
    (∃ u, exec (.fenceReq t) s = .next u ∧ u = { s with tiles := u.tiles, ctrl := s.ctrl ++ [.order t .fence] }
      ∧ tileOf u t = { tileOf s t with fencePend := some ((tileOf s t).fencePend.getD .request) }) ∧
    (∀ cause, (tileOf s t).fencePend = some cause →
      ∃ u, exec (.tileFence t cause) s = .next u ∧ LoggedCode s u 0x1311 sevWarning) ∧
    (tget s t R.MITTEN_TILE_RAIL ≠ 3 → s.plane.powered = true → s.plane.cpHeld = false →
      pget s R.RS_STAT_STATE < 2 → ∃ u, exec (.tileReset t) s = .next u ∧ tget u t R.MITTEN_TILE_RAIL = 0
        ∧ (tileOf u t).running = false ∧ (tileOf u t).queues = [] ∧ (tileOf u t).buf = [] ∧ (tileOf u t).sdata = []
        ∧ (tileOf u t).imem = [])

/-- O32. A lane whose tile has left it closes: its number is free, no sequence is seated on it any more, and
SP_LANE_CLOSED is written; and the loader forms one more lane from the first free spares, under the lowest free
number, with SP_LANES_FORMED (R27, R300). Model's choices: notes/assumptions/44, 45. -/
def Obligations.LanesCloseAndForm : Prop :=
  ∀ (s : State) (c : Fin 4) (l : Fin 32) (t : Tid) (x : Lane), Canonical s →
    (laneOf s l.val = some x → x.tiles.contains t = true → roleOf s t ≠ roleLane →
      ∃ u, exec (.laneClose l t) s = .next u ∧ u.serving.lanes = kset noLane s.serving.lanes l.val none ∧ (∀ q ∈ u.serving.seqs, q.seat ≠ some l.val)
        ∧ LoggedAs s u 0x0B11 sevWarning (x.ctx.val * 2 ^ 30 + l.val) (widx t) (seatsUsed s l.val)) ∧
    (∀ y n, ctxServing s c.val = true → ctxOf s c.val = some y → usesDraft y = true →
      y.caps.draftLayers.toNat ≤ (freeSpares s y).length → freeLaneNo s = some n →
      ∃ u, exec (.laneForm c) s = .next u
        ∧ laneOf u n = some ⟨c, (freeSpares s y).take y.caps.draftLayers.toNat, y.seats, [], false⟩
        ∧ LoggedCode s u 0x0B10 sevNotice)

/-- O33. A free layer group admits the first group of the best rank: it enters, takes the layer's next admission
number, and has an ADMIT message sent to every tile; projection work that comes first begins instead. A bubble inside
goes on to the next barrier. An ADMIT message that its node holds writes the wave-group record and increments counter
240. A complete GDONE is taken once, and with the last of them the group goes on to the next barrier (R30, R32, R122,
R132). Model's choice: notes/assumptions/51. -/
def Obligations.BarriersAdmit : Prop :=
  ∀ (s : State) (c : Fin 4) (layer : Nat) (x : Context), Canonical s → ctxOf s c.val = some x →
    let opened : Bool := if layer = 0 then admissionOpen s c.val else ctxServing s c.val || ctxState s c.val = 4
    (∀ g, opened = true → layer < ctxLayers x → unitClosed x layer = false →
      layerBusy s c.val layer = false → sliceIn s (layerTiles x layer) = false →
      bestGroup (waitingAt s c.val x layer) = some g → ∃ u, exec (.barrierAdmit c layer) s = .next u
        ∧ u.serving.groups.map (·.id) = s.serving.groups.map (·.id)
        ∧ (canEnter s c.val x layer g = true →
          (∀ h ∈ u.serving.groups, h.id = g.id → h.inside = true ∧ h.dones = [])
          ∧ u.serving.groupSeq = kset zeroN s.serving.groupSeq (layerKey c.val layer)
            ((kget zeroN s.serving.groupSeq (layerKey c.val layer) + 1) % 2 ^ 32)
          ∧ u.ctrl = s.ctrl ++ (if g.bubble then [] else (layerTiles x layer).map
            (CtrlMsg.admitted · g.id (kget zeroN s.serving.groupSeq (layerKey c.val layer)))))
        ∧ (canEnter s c.val x layer g = false → u.ctrl = s.ctrl ∧ ∀ h ∈ u.serving.groups, h.id = g.id →
          ∀ e ∈ h.proj, projLayer x e.1 = layer → e.2 = 1)) ∧
    (∀ g, s.serving.groups.find? (fun g => g.bubble && g.ctx = c && g.inside && g.layer = layer) = some g →
      ∃ u, exec (.bubblePassOn c layer) s = .next u
        ∧ (ctxLayers x ≤ layer + 1 → u = { s with serving := u.serving }
          ∧ u.serving.groups = s.serving.groups.filter (fun h => h.id ≠ g.id))
        ∧ (layer + 1 < ctxLayers x → u.serving.groups = s.serving.groups.filter (fun h => h.id ≠ g.id)
          ++ [{ g with layer := layer + 1, inside := false, since := now s, dones := [] }])) ∧
    (∀ t id no g, (arrived s.ctrl).find? (admitTo t) = some (.admitted t id no) →
      s.serving.groups.find? (fun g => g.id = id) = some g → railOn s t = true →
      ∃ u, exec (.admitMsg t) s = .next u ∧ ctrGet u t 240 = ctrGet s t 240 + 1
        ∧ (tileOf u t).sdata = writeRecord (tileOf s t).sdata (tileOf s t).groupAddr g no
        ∧ u.ctrl = s.ctrl.erase (.admitted t id no)) ∧
    (∀ t serial sigs g, (tileOf s t).gdone = some (serial, sigs) → groupAt s t = some g → g.ctx = c →
      gdoneReady s t serial sigs = true → noticePending s t = false → g.bubble = false →
      let dones := if g.dones.contains t then g.dones else g.dones ++ [t]
      ((layerTiles x g.layer).all dones.contains = false →
        ∃ u, exec (.done t) s = .next u ∧ tileOf u t = { tileOf s t with gdone := none }
          ∧ u.serving.groups.map (·.id) = s.serving.groups.map (·.id)
          ∧ (∀ h ∈ u.serving.groups, h.id = g.id → h.dones = dones)) ∧
      ((layerTiles x g.layer).all dones.contains = true → g.layer + 1 < ctxLayers x → g.prefill = false →
        ∃ u, exec (.done t) s = .next u ∧ tileOf u t = { tileOf s t with gdone := none }
          ∧ u.serving.groups = s.serving.groups.filter (fun h => h.id ≠ g.id)
            ++ [{ g with layer := g.layer + 1, inside := false, since := now s, dones := [] }]))

/-- O34. The oldest message of its kind that its node holds arrives: a signal increments its counter by its amount, an
order counter 248, a report reaches its Bowler: each message leaves the control channel (R130, R192, R193, R194).
Model's choice: notes/assumptions/50. -/
def Obligations.ControlMessagesArrive : Prop :=
  ∀ (s : State) (t : Tid), Canonical s →
    (∀ src i (amount : Word) no, (arrived s.ctrl).find? (signalFrom src t) = some (.signal src t i amount no) → railOn s t = true →
      ∃ u, exec (.signal src t) s = .next u ∧ ctrGet u t i = ctrGet s t i + amount
        ∧ u.ctrl = s.ctrl.erase (.signal src t i amount no) ∧ u.tiles = s.tiles) ∧
    (∀ o, (arrived s.ctrl).find? (orderTo t) = some (.order t o) → railOn s t = true →
      ∃ u, exec (.order t o) s = .next u ∧ ctrGet u t 248 = ctrGet s t 248 + 1
        ∧ u.ctrl = s.ctrl.erase (.order t o) ∧ (∀ k, k ≠ t → tileOf u k = tileOf s k)
        ∧ ((∀ p, o ≠ .invalidate p) → u.tiles = s.tiles)
        ∧ ∀ p, o = .invalidate p → (tileOf u t).invPending = (tileOf s t).invPending ++ [p]) ∧
    (∀ r, (arrived s.ctrl).find? (reportFrom t) = some (.report t r) → ∃ u, exec (.report t r) s = .next u
      ∧ u = { s with ctrl := s.ctrl.erase (.report t r) })

/-! ## Crossings, pace and the timebase -/

/-- O35. A producer with a credit sends the line that its router's turn gives; without one it begins a skid episode,
which counts in SKID_STAT and in counter 251; at a crossing that a test slice loops the line waits. An edge die beside
a rim tile sends its lines in the same way. A line that arrives joins the buffer with the stage count of the step; a
credit returns with the oldest entry, which commits at a tile that is its destination and otherwise goes on to its
next output, and an episode ends at 6 entries or less. A second with more episodes than the limit writes
MESH_SKID_RATE (R183, R184, R185, R186, R190, R194, R201). Model's choices: notes/assumptions/65, 101. -/
def Obligations.CrossingsKeepTheirCredits : Prop :=
  ∀ (s : State) (t n : Tid) (d : Dir), Canonical s → neighbour t d = some n → neighbour n (dirOpp d) = some t →
    dieOn s t.d.val = true → dieOn s n.d.val = true →
    let i := dirOpp d
    let c := crossingOf s n i
    let ts := tileOf s t
    (∀ edge q p rest, nextPort ts.staging d (kget (fun _ => 4) ts.granted (dirNum d)) = some q →
      takeStaged ts.staging d q = some (p, rest) →
      (looped s n i = false → c.flight.length + c.buf.length < 16 → ∃ u, exec (.crossingLineSend t d edge) s = .next u
        ∧ crossingOf u n i
          = { c with flight := c.flight ++ [p], skid := c.skid && rest.any fun e => e.1 = dirNum d }
        ∧ (tileOf u t).staging = rest) ∧
      (looped s n i = false → 16 ≤ c.flight.length + c.buf.length → c.skid = false →
        ∃ u, exec (.crossingLineSend t d edge) s = .next u
          ∧ crossingOf u n i = { c with skid := true, stall := some (now s) } ∧ (tileOf u t).staging = ts.staging
          ∧ ctrGet u t 251 = ctrGet s t 251 + 1
          ∧ tget u t R.SKID_STAT_EPISODES
            = min (tget s t R.SKID_STAT_EPISODES + 1) (2 ^ R.SKID_STAT_EPISODES.w - 1)) ∧
      (looped s n i = true → c.held = none → ∃ u, exec (.crossingLineSend t d edge) s = .next u
        ∧ crossingOf u n i = { c with held := some (now s) } ∧ (tileOf u t).staging = ts.staging)) ∧
    (∀ p rest, c.flight = p :: rest → ∃ u, exec (.crossingLineArrive n i) s = .next u
      ∧ crossingOf u n i = { c with flight := rest, buf := c.buf ++ [(stageCount s n i (meshStep s n), p)] }) ∧
    (∀ e rest, c.buf = e :: rest → stagingRoom (tileOf s n) = true →
      ∃ u, exec (.crossingCreditReturn n i) s = .next u
        ∧ crossingOf u n i
          = { c with buf := rest, stall := none, skid := c.skid && decide (6 < c.flight.length + rest.length) }
        ∧ (e.2.group = none → aheadOf n e.2.via = [] → e.2.src.isSome = true → railOn s n = true →
          (tileOf u n).buf = (bufWrite (tileOf s n) (256 * e.2.line) e.2.data).buf)
        ∧ (∀ w o, e.2.group = none → (aheadOf n e.2.via).head? = some w → dirTo n w = some o →
          (tileOf u n).staging
            = (tileOf s n).staging ++ [(dirNum o, dirNum i, { e.2 with via := aheadOf n e.2.via })])) ∧
    (∀ r (f : Dir) way, neighbour r f = none → (edgeDie r f).isSome = true → dieOn s r.d.val = true →
      looped s r f = false → (crossingOf s r f).flight.length + (crossingOf s r f).buf.length < 16 →
      ∃ u, exec (.crossingLineSend r f way) s = .next u ∧ crossingOf u r f
        = { crossingOf s r f with flight := (crossingOf s r f).flight ++ [edgeLine way] }) ∧
    (∀ k : Fin 56, fieldOf s F.MESH_SKID_LOG < (dieOf s k.val).skids.foldl (fun a e => a + e.2) 0 →
      ∃ u, exec (.skidRateSecond k) s = .next u ∧ LoggedCode s u 0x0713 sevNotice)

/-- O36. The pace of a powered tile: a lower step than the one in force is taken at a barrier, a higher one first
waits for its voltage and is then taken at a barrier against the caps in force; a settled voltage; a stretch, which
below 0.50 V stops the tile's handshakes, and its end with the tile's summary; and a trim (R175, R176, R178, R179,
R181). Model's choice: notes/assumptions/63. -/
def Obligations.PaceFollowsTheRequest : Prop :=
  ∀ (s : State) (t : Tid), Canonical s →
    let ts := tileOf s t
    (railOn s t = true → roleOf s t ≠ roleSpare → wantedStep s t < effStep s t → groupAt s t = none →
      ∃ u, exec (.paceStepChange t) s = .next u ∧ effStep u t = wantedStep s t % 16 ∧ ctrGet u t 250 = ctrGet s t 250 + 1) ∧
    (railOn s t = true → roleOf s t ≠ roleSpare → effStep s t < wantedStep s t → ts.raise = none →
      ∃ u, exec (.paceStepChange t) s = .next u ∧ OnlyTile t s u
        ∧ tileOf u t = { ts with raise := some (wantedStep s t), settled := false }) ∧
    (∀ r, railOn s t = true → roleOf s t ≠ roleSpare → effStep s t < wantedStep s t → ts.raise = some r →
      ts.settled = true → ts.stretch = false → groupAt s t = none →
      ∃ u, exec (.paceStepChange t) s = .next u ∧ effStep u t = min r (wantedStep s t) % 16
        ∧ (tileOf u t).raise = none) ∧
    (ts.raise.isSome = true → ts.settled = false → ts.stretch = false →
      ∃ u, exec (.mittenSettled t) s = .next u ∧ OnlyTile t s u ∧ tileOf u t = { ts with settled := true }) ∧
    (∀ mv, railOn s t = true → ts.stretch = false → 30 < mv → ∃ u, exec (.stretchBegin t mv) s = .next u
      ∧ tileOf u t = { ts with stretch := true, lowRail := decide (stepMv (effStep s t) < 500 + mv) }
      ∧ tget u t R.STRETCH_STAT_EVENTS
        = min (tget s t R.STRETCH_STAT_EVENTS + 1) (2 ^ R.STRETCH_STAT_EVENTS.w - 1)) ∧
    (∀ waves, ts.stretch = true → ∃ u, exec (.stretchEnd t waves) s = .next u
      ∧ tileOf u t = { ts with stretch := false, lowRail := false, stretchRem := (ts.stretchRem + waves) % 1024 }
      ∧ (1024 ≤ ts.stretchRem + waves → tget u t R.STRETCH_STAT_KWAVES = min
        (tget s t R.STRETCH_STAT_KWAVES + (ts.stretchRem + waves) / 1024) (2 ^ R.STRETCH_STAT_KWAVES.w - 1))
      ∧ u.ctrl = s.ctrl ++ [.report t .summary]) ∧
    (∀ rate : BitVec 12, railOn s t = true → ∃ u, exec (.governorTrim t rate) s = .next u ∧ OnlyTile t s u
      ∧ tileOf u t = { ts with ringTrim := ts.ringTrim + ((stepRate (effStep s t) : Int) - (rate.toNat : Int)) })

/-- O37. The forecast gives each live tile of a die the highest step that keeps it cool (an idle one TH_IDLE_STEP),
within its cap, when the die's budget allows them all, and counts the tiles that missed theirs; a storm window puts
the die into its storm state, any other is measured and no more; a wide check whose reads are had counts, one with a
breach writes WIDE_BREACH, and one whose reads cannot be had is abandoned (R109, R112, R212, R383, R384). Model's
choices: notes/assumptions/23, 55, 64, 99. -/
def Obligations.WindowsAndChecks : Prop :=
  ∀ (s : State) (t : Tid), Canonical s →
    let ts := tileOf s t
    let f := ts.winFalls
    let b := ts.winBlocks
    let p := ts.winPercent.getD (fieldOf s F.QC_STORM_PERCENT)
    (∀ measured, dieOn s t.d.val = true → dieUp s t.d.val = true →
      let live := (List.range 24).filter fun i => railOn s ⟨t.d, tileNo i⟩
        && (roleOf s ⟨t.d, tileNo i⟩ = roleActive || roleOf s ⟨t.d, tileNo i⟩ = roleLane)
      let energy (i : Nat) := tileEnergy s ⟨t.d, tileNo i⟩
      let pdie := sumPower t.d.val ((live.filter fun i => energy i ≠ 0).map fun i => (i, energy i, 11))
      let want (i : Nat) := if energy i = 0 then min (fieldOf s F.TH_IDLE_STEP) (capOf s ⟨t.d, tileNo i⟩)
        else coolStep s t.d.val i (energy i) pdie (capOf s ⟨t.d, tileNo i⟩)
      let plan := live.map fun i => (i, energy i, want i)
      let missed := (live.filter fun i =>
        11 * (tileOf s ⟨t.d, tileNo i⟩).forecast < 10 * (measured[i]?).getD 0).length
      sumPower t.d.val plan ≤ ((fieldOf s F.PW_DIE_CONT_W : Int) : Rat) →
      ∃ u, exec (.forecastWindow t.d measured) s = .next u
        ∧ dget u t.d.val R.FC_STAT_FC_ENERGY = satW 16 (sumPower t.d.val plan)
        ∧ dget u t.d.val R.FC_STAT_FC_MISS = (if missed = 0 then dget s t.d.val R.FC_STAT_FC_MISS
          else min (dget s t.d.val R.FC_STAT_FC_MISS + missed) (2 ^ R.FC_STAT_FC_MISS.w - 1))
        ∧ ∀ i ∈ live, tget u ⟨t.d, tileNo i⟩ R.PACE_STEP_TARGET = want i
          ∧ (tget s ⟨t.d, tileNo i⟩ R.PACE_STEP_TARGET ≠ want i →
            .order ⟨t.d, tileNo i⟩ (.paceTarget (Fin.ofNat 16 (want i))) ∈ u.ctrl)) ∧
    (railOn s t = true → 0 < b → p * b < 100 * f → dget s t.d.val R.QC_DIE_STAT_STORM = 0 →
      ∃ u, exec (.stormWindowEnd t) s = .next u ∧ dget u t.d.val R.QC_DIE_STAT_STORM = 1
        ∧ tget u t R.QC_STAT_STORM_WIN = 1 ∧ u.ctrl = s.ctrl ++ [.report t .window]
        ∧ LoggedAs s u 0x0410 sevWarning (widx t) (f * 1024 / b) ((dieOf s t.d.val).stormTotal + 1)) ∧
    (railOn s t = true → 0 < b → 100 * f ≤ p * b → ts.inEpisode = false →
      ∃ u, exec (.stormWindowEnd t) s = .next u ∧ OnlyTile t { s with regs := u.regs, ctrl := s.ctrl ++ [.report t .window] } u
        ∧ tget u t R.QC_WINDOW_VALID = 1 ∧ tget u t R.QC_WINDOW_FRACTION = f * 1024 / b % 2 ^ R.QC_WINDOW_FRACTION.w
        ∧ tget u t R.QC_STAT_STORM_WIN = 0
        ∧ tileOf u t = { ts with
          winBlocks := 0, winFalls := 0, winPercent := some (fieldOf s F.QC_STORM_PERCENT) }) ∧
    (∀ c tr v, ts.capture = some c → transAll t false reqCheck (checkAddrs c) s = (tr, v) →
      (tr.fault = none → tr.waits = [] → firstBreach v t c = none →
        ∃ u, exec (.wideCheckComplete t) s = .next u
          ∧ OnlyTile t { v with regs := u.regs } u ∧ tileOf u t = { tileOf v t with capture := none }
          ∧ tget u t R.QC_STAT_CHECK_BUSY = 0
          ∧ tget u t R.QC_CHECK_COUNT_DONE
            = min (tget v t R.QC_CHECK_COUNT_DONE + 1) (2 ^ R.QC_CHECK_COUNT_DONE.w - 1)) ∧
      (∀ i r ref, tr.fault = none → tr.waits = [] → firstBreach v t c = some (i, r, ref) →
        ∃ u, exec (.wideCheckComplete t) s = .next u
          ∧ LoggedAs s u 0x0412 sevWarning ((tileCtx v t).getD 0 * 2 ^ 30 + c.layer * 2 ^ 16 + i % 128 * 2 ^ 9) r.dev.toNat
            (f32Of (checkValue c ref)).toNat) ∧
      (∀ k va, tr.fault = some (k, va) → ∃ u, exec (.wideCheckComplete t) s = .next u
        ∧ (k ≠ 6 → tget u t R.QC_STAT_CHECK_BUSY = 0 ∧ (tileOf u t).capture = none)
        ∧ LoggedAs s u 0x0810 sevError (k * 2 ^ 28 + widx t * 2 ^ 17) (va % 2 ^ 32) (va / 2 ^ 32)) ∧
      (tr.fault = none → tr.waits ≠ [] → ∃ u, exec (.wideCheckComplete t) s = .next u
        ∧ (tileOf u t).capture = some { c with met := tr.waits }))

/-- O38. The timebase: the loss of the reference and the relock, the set, the latched read, and the takeover by SD[1],
at which the count goes on with a step of at most 4 ns and never backward, and the unlocked flag and the log stay
(R196 to R199, R284, R473). Model's choice: notes/assumptions/56. -/
def Obligations.TheTimebaseGoesOn : Prop :=
  ∀ s : State, Canonical s →
    (∀ freq, (unlocked s = true → s.time.lossTold = false) → ∃ u, exec (.tbRefLoss freq) s = .next u ∧ pget u R.TB_STAT_LOCKED = 0 ∧ now u = now s
      ∧ pget u R.TB_STAT_UNLOCKS = min (pget s R.TB_STAT_UNLOCKS + 1) (2 ^ R.TB_STAT_UNLOCKS.w - 1)
      ∧ LoggedAs s u 0x0710 sevWarning (b2n freq) (now s % 2 ^ 32) (pget s R.TB_STAT_SOURCE)) ∧
    (∀ freq, unlocked s = true → s.time.lossTold = true → exec (.tbRefLoss freq) s = .next s) ∧
    (unlocked s = true → ∃ u, exec .tbRelock s = .next u ∧ pget u R.TB_STAT_LOCKED = 1 ∧ now u = now s
      ∧ (s.time.lossTold = true → LoggedAs s u 0x0711 sevNotice ((now s - s.time.sinceLoss) / 1000000) (now s % 2 ^ 32)
        (pget s R.TB_STAT_SOURCE))) ∧
    (∀ v, ∃ u, exec (.tbSet v) s = .next u ∧ now u = s.time.setHigh.toNat * 2 ^ 32 + v.toNat
      ∧ LoggedAs s u 0x0712 sevNotice (now s / 2 ^ 32 % 2 ^ 32) s.time.setHigh.toNat v.toNat) ∧
    (∃ u, exec .tbNowRead s = .next u
      ∧ u = { s with time := { s.time with latched := BitVec.ofNat 32 (now s / 2 ^ 32 % 2 ^ 32) } }) ∧
    (s.plane.primary = false → s.plane.standbyOk = true → ∃ u, exec .sdTakeover s = .next u ∧ u.plane.primary = true
      ∧ pget u R.TB_STAT_SOURCE = 1 ∧ u.sessions = [] ∧ u.serving.assembling = [] ∧ u.serving.seqs = s.serving.seqs
      ∧ u.log = s.log
      ∧ now s ≤ now u ∧ now u ≤ now s + 4 ∧ unlocked u = unlocked s)

/-- O39. An uncorrectable stack line is logged with the type of its page; the copy to a spare channel ends with the
spare in place, and its corrected words count from zero; a complete patrol pass restarts the age of the scrub (R220 to
R222). Model's choice: notes/assumptions/28. -/
def Obligations.StackErrorsAreHandled : Prop :=
  ∀ (s : State) (d : Fin 56) (col : Fin 24) (frame : BitVec 16) (line : Byte), Canonical s → dieUp s d.val = true →
    frame.toNat < colFrames →
    let r := frameOf s d.val (fid col.val frame.toNat)
    let logs (u : State) : Prop := LoggedAs s u 0x0811 sevError (eccWord col.val frame.toNat line.toNat)
      ((r.map (·.type)).getD 0)
      (match r with | some x => if x.type = 1 then x.slot else 0xFFFFFFFF | none => 0xFFFFFFFF)
    (∃ u, exec (.stackUncorrectable d col frame line) s = .next u ∧ logs u) ∧
    (∃ u, exec (.stackPatrolScrub d [.stkUncorr col frame line] true) s = .next u ∧ logs u
      ∧ (dieOf u d.val).scrubAt = now u) ∧
    (∃ u, exec (.stackPatrolScrub d [] true) s = .next u
      ∧ u = { s with dies := u.dies } ∧ dieOf u d.val = { dieOf s d.val with scrubAt := now s }) ∧
    (∀ c ch, (dieOf s d.val).swap = some (c, ch) → c < 24 → ch < 10 → ∃ u, exec (.softSwapComplete d) s = .next u
      ∧ dieOf u d.val = { dieOf s d.val with
        swap := none, chHour := kset (fun _ => 0) (dieOf s d.val).chHour (c * 10 + ch) 0 } ∧ dget u d.val R.STK_STAT_SWAP_BUSY = 0
      ∧ tbit (dget u d.val (R.STK_COL_SPARED.at c)) ch = true)

/-- O40. Translation and spill: a walk counts and fills the TLB; a round takes every queued frame and waits for the
tiles; a page-out that waits for no tile any more is encrypted and written to its pool; an acknowledged one counts; a
failed one is logged; a verified page-in counts, one that fails its tag or its attempts is logged; a draining pool
brings a page back or waits (R210, R211, R225 to R228, R247). Model's choices: notes/assumptions/14, 15, 17, 52. -/
def Obligations.PagesMove : Prop :=
  ∀ (s : State) (d : Fin 56) (vpn : Word), Canonical s →
    (∀ t (va : BitVec 48), railOn s t = true → (tileCtx s t).isSome = true → tlbFind (tileOf s t) (va.toNat / frameBytes) = none →
      ∃ u, exec (.walkComplete t va) s = .next u ∧ OnlyTile t { s with regs := u.regs } u
        ∧ tget u t R.TU_MISS_COUNT = min (tget s t R.TU_MISS_COUNT + 1) (2 ^ R.TU_MISS_COUNT.w - 1)) ∧
    ((dieOf s d.val).round = none → (dieOf s d.val).returnQ ≠ [] → dieTilesOf s d.val ≠ [] →
      ∃ u, exec (.invalidationRound d) s = .next u ∧ u = { s with dies := u.dies, ctrl := u.ctrl }
        ∧ dieOf u d.val = { dieOf s d.val with
          returnQ := [], round := some ⟨(dieOf s d.val).returnQ, (dieTilesOf s d.val).map fun t => t.t.val⟩ }) ∧
    (∀ t r, (dieOf s t.d.val).round = some r → t.t.val ∈ r.waiting → ordersPending s t = false →
      (∃ i ∈ r.waiting, i ≠ t.t.val) →
      (∀ e ∈ (dieOf s t.d.val).pageOuts, t.t.val ∈ e.waiting → ∃ i ∈ e.waiting, i ≠ t.t.val) →
      ∃ u, exec (.invalidationAck t) s = .next u
        ∧ tileOf u t = { tileOf s t with invPending := [] }
        ∧ dieOf u t.d.val = { dieOf s t.d.val with
          pageOuts := (dieOf s t.d.val).pageOuts.map fun e => { e with waiting := e.waiting.filter fun i => i ≠ t.t.val }
          round := some { r with waiting := r.waiting.filter fun i => i ≠ t.t.val } }) ∧
    (∀ t e, e ∈ (dieOf s t.d.val).pageOuts → e.waiting = [t.t.val] → ordersPending s t = false →
      (dieOf s t.d.val).round = none → ∃ u, exec (.invalidationAck t) s = .next u
        ∧ ∃ gen tag r, Given s u (.pageWrite e.port e.index
          (gcmCrypt s.plane.spillKey (pageIv e.index gen) (stackRead s t.d.val e.frame 0 frameBytes)) tag gen r)) ∧
    (∀ e, (dieOf s d.val).pageOuts.find? (fun e => e.vpn = vpn) = some e → e.waiting = [] → e.orphan = false →
      ∃ u, exec (.pageOutAck d vpn) s = .next u ∧ portGet u e.port R.SPILL_OUT_COUNT
        = min (portGet s e.port R.SPILL_OUT_COUNT + 1) (2 ^ R.SPILL_OUT_COUNT.w - 1)) ∧
    (∀ e (why : Fin 3), (dieOf s d.val).pageOuts.find? (fun e => e.vpn = vpn) = some e →
      ∃ u, exec (.pageOutTimeout d vpn why) s = .next u ∧ LoggedAs s u 0x0814 sevWarning d.val why.val e.slot) ∧
    (∀ e page bytes, (dieOf s d.val).pageIns.find? (fun e => e.vpn = vpn) = some e → e.orphan = false →
      gcmOpen s.plane.spillKey (pageIv e.index page.gen.toNat) [] page.text page.tag = some bytes →
      ∃ u, exec (.pageInComplete d vpn page) s = .next u
        ∧ portGet u e.port R.SPILL_IN_COUNT = min (portGet s e.port R.SPILL_IN_COUNT + 1) (2 ^ R.SPILL_IN_COUNT.w - 1)) ∧
    (∀ e, (dieOf s d.val).pageIns.find? (fun e => e.vpn = vpn) = some e →
      (∀ page : SealedPage, gcmOpen s.plane.spillKey (pageIv e.index page.gen.toNat) [] page.text page.tag = none →
        ∃ u, exec (.pageInComplete d vpn page) s = .next u
          ∧ LoggedAs s u 0x0815 sevError d.val 1 (ownerSlot s d.val e.vpn.toNat)) ∧
      (∀ r, e.limit ≤ e.tries → ∃ u, exec (.pageInTimeout d vpn r) s = .next u
        ∧ LoggedAs s u 0x0815 sevError d.val (if r then 2 else 0) (ownerSlot s d.val e.vpn.toNat)) ∧
      (∀ r, e.tries < e.limit → ∃ u, exec (.pageInTimeout d vpn r) s = .next u
        ∧ u = { s with dies := u.dies, ports := u.ports, out := u.out } ∧ dieOf u d.val = { dieOf s d.val with
          pageIns := (dieOf s d.val).pageIns.map fun y => if y.vpn = vpn then { y with tries := y.tries + 1 } else y })) ∧
    (∀ (p : Fin 2) i k x (e : Nat) v, drainingPool s p.val = some i → drainBusy s p.val i = false →
      lowestSlot (drainPages s p.val i) = some (k, x, e, v) → (portOf s p.val).drainWait = false →
      (available s e = 0 → ∃ u, exec (.drainPoolPageIn p) s = .next u ∧ u = { s with ports := u.ports }
        ∧ portOf u p.val = { portOf s p.val with drainWait := true }) ∧
      (∀ f v', available s e ≠ 0 → findRemote s e v = some (p.val, x) → takeFrame s e (cacheRec s e v) = some (f, v') →
        (∀ y ∈ (dieOf s e).pageIns, y.vpn.toNat ≠ v) → ∃ u, exec (.drainPoolPageIn p) s = .next u
          ∧ ∃ y ∈ (dieOf u e).pageIns, y.vpn.toNat = v ∧ y.drain = true ∧ y.index = x ∧ y.port = p.val)) ∧
    (∀ p : Fin 2, (portOf s p.val).drainWait = true → drainingPool s p.val = none →
      ∃ u, exec (.drainPoolRetry p) s = .next u ∧ u = { s with ports := u.ports }
        ∧ portOf u p.val = { portOf s p.val with drainWait := false })

/-- O41. A step whose frames no die with a FULL layer lacks is granted; a park that passes its limit ends with
KV_CACHE_FULL (R254, R258). Model's choice: notes/assumptions/53. -/
def Obligations.GrantsAndParks : Prop :=
  ∀ (s : State) (slot : BitVec 12) (q : Seq) (x : Context) (st : SeqStep), Canonical s →
    seqBySlot s slot.toNat = some q → ctxOf s q.ctx.val = some x → q.step = some st →
    (isLive q = true → st.granted = false → q.st ≠ .parked → anyJob s slot.toNat = false →
      seqNow s q = some q → (∀ d ∈ x.dies, fullLayers x d = []) → ∃ u, exec (.grantRequest slot) s = .next u
        ∧ ∀ y ∈ u.serving.seqs, y.uid = q.uid → ∀ k, y.step = some k → k.granted = true) ∧
    (∀ d n, longestPark s slot.toNat = some (d, n) → ∃ u, exec (.parkLimit slot) s = .next u
      ∧ LoggedCode s u 0x0912 sevWarning)

/-! ## Serving -/

/-- O42. REQUEST, PART, CANCEL and RESEND: a bad tag counts and no more, a message that no packet of PT_MTU holds is
UNSERVED; of the authentic ones, a REQUEST is accepted or rejected with the first reason of Table 10.4, a PART joins
its REQUEST, a CANCEL is answered, a RESEND sends the records held (R267, R270 to R273, R285, R286, R290). Model's
choices: notes/assumptions/88, 89, 90. -/
def Obligations.AuthenticMessagesAct : Prop :=
  ∀ (s : State) (x : Session) (b : List Byte) (tn : Tenant), Canonical s →
    let tenant := msgTenant b
    let req := msgReq b
    let body := msgBody b
    let v := nonceTaken s b tn
    let tm := acceptNonce tn (msgNonce b)
    let forms (seed : DWord) : List (Nat × Instr) :=
      [(1, .request x b seed), (2, .part x b), (3, .cancel x b), (4, .resend x b)]
    let own (type : Nat) : Prop := msgType b = type ∨ ¬ (1 ≤ msgType b ∧ msgType b ≤ 4)
    (∀ seed c, c ∈ forms seed → portUp s x.port.val = true → b.length ≤ serveMax s x.port.val x.addr →
      headBytes ≤ b.length → fieldAt b 0 2 = serveMagic →
      own c.1 → tenantOf s tenant = some tn → tagGood tn b = false →
      ∃ u, exec c.2 s = .next u ∧ u = { s with regs := u.regs, serving := u.serving }
        ∧ u.serving.tenants = s.serving.tenants ∧ u.serving.seqs = s.serving.seqs
        ∧ pget u R.SV_AUTH_FAIL_COUNT
          = min (pget s R.SV_AUTH_FAIL_COUNT + 1) (2 ^ R.SV_AUTH_FAIL_COUNT.w - 1)) ∧
    (∀ seed c, c ∈ forms seed → portUp s x.port.val = true → serveMax s x.port.val x.addr < b.length →
      own c.1 → ∃ u, exec c.2 s = .next u ∧ u = { s with regs := u.regs }
        ∧ portGet u x.port.val R.PT_DROP_UNSERVED
          = min (portGet s x.port.val R.PT_DROP_UNSERVED + 1) (2 ^ R.PT_DROP_UNSERVED.w - 1)) ∧
    (∀ seed r, Authentic s x b 1 tn → Reaches s x → (∀ q, seqOf v tenant req = some q → isLive q = false ∧ q.kept = false) →
      assemblyOf v tenant req = none → fieldAt b 6 2 = b.length → fieldAt body 46 2 = 0 →
      parseBody body body.length = .ok r →
      (∀ e, refusal v tenant tm r = some e → ∃ u, exec (.request x b seed) s = .next u
        ∧ Replied s u x tenant req (.reject e.1 (BitVec.ofNat 32 e.2))
        ∧ LoggedAs s u 0x0A10 sevNotice (e.1 * 2 ^ 24 + tenant % 1024) (req.toNat / 2 ^ 32) (req.toNat % 2 ^ 32)) ∧
      (refusal v tenant tm r = none → ∃ u, exec (.request x b seed) s = .next u
        ∧ ∃ slot cls clamped sd n, Replied s u x tenant req (.accept slot cls clamped sd n))) ∧
    (∀ a, Authentic s x b 2 tn → assemblyOf v tenant req = some a → 4 ≤ body.length → fieldAt body 0 2 ≠ 0 →
      nonzeroAt body 2 2 = none → (∀ p ∈ a.parts, p.1 ≠ fieldAt body 0 2) → a.parts.length + 1 < a.count →
      fieldAt body 0 2 ≤ a.count → ∃ u, exec (.part x b) s = .next u
        ∧ assemblyOf u tenant req = some { a with parts := a.parts ++ [(fieldAt body 0 2, body.drop 4)] }) ∧
    (Authentic s x b 3 tn → seqOf v tenant req = none →
      (∀ a, assemblyOf v tenant req = some a → Reaches s a.sess →
        ∃ u, exec (.cancel x b) s = .next u ∧ assemblyOf u tenant req = none
          ∧ Replied s u a.sess tenant req (.cancelAck 1)
          ∧ pget u R.SV_CANCEL_STAT_CANCELLED
            = min (pget s R.SV_CANCEL_STAT_CANCELLED + 1) (2 ^ R.SV_CANCEL_STAT_CANCELLED.w - 1)) ∧
      (Reaches s x → assemblyOf v tenant req = none → cancelledBefore v tenant req = false →
        ∃ u, exec (.cancel x b) s = .next u ∧ Replied s u x tenant req (.cancelAck 3)
          ∧ pget u R.SV_CANCEL_STAT_UNKNOWN
            = min (pget s R.SV_CANCEL_STAT_UNKNOWN + 1) (2 ^ R.SV_CANCEL_STAT_UNKNOWN.w - 1))) ∧
    (∀ q, Authentic s x b 4 tn → seqOf v tenant req = some q → Reaches s q.sess → 4 ≤ body.length →
      oldestRecord q ≤ fieldAt body 0 4 → ∃ u, exec (.resend x b) s = .next u
        ∧ (∀ r ∈ q.records, fieldAt body 0 4 ≤ r.no → Replied s u q.sess tenant req (.token r))
        ∧ ∀ e, q.ended = some e → Replied s u q.sess tenant req (.ended e))

/-- O43. A REQUEST whose parts are late ends INCOMPLETE; what is kept of an ended sequence expires; a second with more
than 1,000 failed authentications writes AUTH_BURST and starts a new count (R271, R273, R281, R290). Model's choice:
notes/assumptions/90. -/
def Obligations.ServingTimesOut : Prop :=
  ∀ (s : State) (tenant : Half) (req : DWord), Canonical s →
    (∀ a tn, assemblyOf s tenant.toNat req = some a → tenantOf s tenant.toNat = some tn → Reaches s a.sess →
      ∃ u, exec (.fragTimeout tenant req) s = .next u ∧ assemblyOf u tenant.toNat req = none
        ∧ Replied s u a.sess tenant.toNat req (.reject 5 (BitVec.ofNat 32 a.parts.length))
        ∧ LoggedCode s u 0x0A10 sevNotice) ∧
    (∀ q, seqOf s tenant.toNat req = some q → isLive q = false → q.kept = false →
      ∃ u, exec (.keepExpiry tenant req) s = .next u ∧ u = { s with serving := u.serving }
        ∧ (∀ y ∈ u.serving.seqs, y.uid = q.uid → y.ended = none ∧ y.records = [])
        ∧ ∀ y, y.uid ≠ q.uid → (y ∈ u.serving.seqs ↔ y ∈ s.serving.seqs)) ∧
    (∃ u, exec .authBurstSecond s = .next u ∧ u.serving = { s.serving with authFails := 0 }
      ∧ (burstLimit < s.serving.authFails →
        LoggedAs s u 0x0A12 sevWarning s.serving.lastTenant.toNat s.serving.authFails 0))

/-- O44. A queued request whose reservations fit takes the lowest free slot and starts its prefill; the scheduler
forms a group of what the deficit round robin takes; the sequence table delivers a commit as one TOKEN record (R253,
R278, R279, R283, R304). Model's choices: notes/assumptions/33, 91, 103. -/
def Obligations.TheSchedulerAdmits : Prop :=
  ∀ (s : State) (c : Fin 4) (x : Context), Canonical s → ctxOf s c.val = some x →
    (∀ (tenant : Half) req q k, seqOf s tenant.toNat req = some q → q.ctx = c → q.st = .queued →
      admissionOpen s c.val = true → reserveFits s x = true → freeSlotNo s x = some k →
      ∃ u, exec (.sequenceAdmit tenant req) s = .next u ∧ (∃ y ∈ u.serving.seqs, y.uid = q.uid)
        ∧ ∀ y ∈ u.serving.seqs, y.uid = q.uid → y.slot = some k ∧ y.st = .prefilling) ∧
    (∀ speed f, admissionOpen s c.val = true → slotFree s c x speed = true →
      f = formLoop c (if speed then fieldOf s F.SV_SPEED_GROUP_MAX_POS else fieldOf s F.SV_GROUP_MAX_POS)
        (fun k => fieldOf s (F.SV_CLASS_WEIGHT + k) * fieldOf s F.SV_QUANTUM) formFuel
        { items := readyItems s speed, taken := []
          deficit := if speed then s.serving.speedDeficit else s.serving.deficit
          ptr := if speed then s.serving.speedPtr else s.serving.scanPtr, moved := false } → f.taken ≠ [] →
      ∃ u, exec (.groupForm c speed) s = .next u
        ∧ (∃ g ∈ u.serving.groups, g.ctx = c ∧ g.speed = speed ∧ g.layer = 0 ∧ g.inside = false
          ∧ g.members = f.taken.map fun i => ⟨i.slot, i.step⟩)
        ∧ ∀ q ∈ u.serving.seqs, (∃ i ∈ f.taken, i.uid = q.uid) → q.step = none) ∧
    (∀ (slot : BitVec 12) m q tn, s.serving.commits.find? (fun c => c.slot = slot.toNat) = some m →
      seqBySlot s slot.toNat = some q → q.ctx = c → isLive q = true → q.doomed = none → m.flagged = false →
      m.step.noPage = false → tenantOf s q.tenant = some tn → Reaches s q.sess →
      ∃ u, exec (.sequenceCommit slot) s = .next u ∧ ∃ st, Replied s u q.sess q.tenant q.req
        (.token ⟨q.recNo, q.gen.length, (scanTokens x.image.serve.eos q [] m.toks).1, st⟩))

/-- O45. Sampling and drafts: a die's partial record of a position, its merge with its children's, the tokens that the
last die commits, the proposals of a draft pass, and the end of a catch-up, which counts when a lane begins it (R294
to R298, R301 to R305). Model's choices: notes/assumptions/48, 102. -/
def Obligations.TokensAreSampled : Prop :=
  ∀ (s : State) (slot : BitVec 12) (q : Seq) (g : WGroup) (m : Member) (x : Context), Canonical s →
    let k := slot.toNat
    seqBySlot s k = some q →
    (∀ (d : Fin 56) (pos : Fin 17) i logits, atProjection s k = some (g, m, x) → dieAt x d.val = some i →
      pos.val < projected m → g.proj.contains (i, 1) = true →
      logits.length = (projSlice x i).2 → partialAt s d.val k pos.val = none →
      ∃ u, exec (.samplingPartial d slot pos logits) s = .next u ∧ u = { s with serving := u.serving }
        ∧ u.serving.partials = s.serving.partials ++ [⟨d.val, k, pos.val, false,
          partialOf q.samp ((allGen s q).length + pos.val) (sliceValues x q.samp
            (inSet (bitmapsOf s d.val k).1 (projSlice x i).1 (extraToks s q (m.step.drafts.take pos.val)))
            (inSet (bitmapsOf s d.val k).2 (projSlice x i).1 (extraToks s q (m.step.drafts.take pos.val)))
            (allowed s d.val x.image.serve q.samp (allGen s q ++ m.step.drafts.take pos.val)) (projSlice x i).1 logits)⟩]
        ∧ (projDone u g.id d.val = true → ∀ h ∈ u.serving.groups, h.id = g.id → (i, 1) ∉ h.proj)) ∧
    (∀ (d : Fin 56) (pos : Fin 17) i own, atProjection s k = some (g, m, x) → dieAt x d.val = some i →
      partialAt s d.val k pos.val = some own → own.merged = false →
      (∀ r ∈ treeChildren x.dies.length (x.dies.length - 1 - i),
        ∃ p, partialAt s (dieOfRank x r) k pos.val = some p ∧ p.merged = true) →
      ∃ u, exec (.partialMerge d slot pos) s = .next u ∧ u = { s with serving := u.serving }
        ∧ partialAt u d.val k pos.val = some { own with merged := true, body :=
          ((treeChildren x.dies.length (x.dies.length - 1 - i)).filterMap fun r =>
            (partialAt s (dieOfRank x r) k pos.val).map (·.body)).foldl mergePartials own.body }) ∧
    (∀ recs : List Partial, atProjection s k = some (g, m, x) →
      (List.range (projected m)).map (fun j => (partialAt s (dieOfRank x 0) k j).bind fun p =>
        if p.merged then some p.body else none) = recs.map some → undelivered s k = false →
      ∃ u, exec (.tokenCommit slot) s = .next u ∧
        let ws := recs.zipIdx.map fun e => winner q.samp ((allGen s q).length + e.2) e.1
        u.serving.commits = s.serving.commits ++ [⟨k, ws.take (agreed ws m.step.drafts + 1), m.step, g.discarded,
          (q.dLen, q.allRej, q.offLeft), q.seat.isSome⟩]) ∧
    (∀ (l : Fin 32) y z logits, laneHead s l.val k = some (y, q) → ctxOf s q.ctx.val = some z → q.catchup = false →
      logits.length = passLen s q → (∀ r ∈ logits, r.length = z.image.serve.shortlist.length) →
      ∃ u, exec (.draftPass l slot logits) s = .next u
        ∧ ∀ w ∈ u.serving.seqs, w.uid = q.uid → w.draftLen = nextPos s q + passLen s q
          ∧ ∃ st, w.step = some st ∧ st.first = nextPos s q ∧ st.npos = 1 + logits.length
            ∧ st.drafts = logits.zipIdx.map fun e =>
              proposal q.samp z.image.serve.shortlist ((allGen s q).length + e.2) e.1) ∧
    (∀ (l : Fin 32) y z, laneHead s l.val k = some (y, q) → ctxOf s q.ctx.val = some z → q.catchup = true →
      let n := b2n (!y.begun) + b2n (((y.queue[1]?).bind fun j => (seqBySlot s j).map (·.catchup)).getD false)
      ∃ u, exec (.draftCatchup l slot) s = .next u
        ∧ pget u R.SP_CATCHUP_COUNT = (if n = 0 then pget s R.SP_CATCHUP_COUNT
          else min (pget s R.SP_CATCHUP_COUNT + n) (2 ^ R.SP_CATCHUP_COUNT.w - 1))
        ∧ ∀ w ∈ u.serving.seqs, w.uid = q.uid → w.catchup = false
          ∧ w.draftLen = min (q.base + q.prompt.length + (allGen s q).length) z.image.serve.draftWindow)

/-! ## The loader -/

/-- O46. LOAD and REPLACE queue their operation, UNLOAD begins at once, MANIFEST_WRITE stores a signed entry and
refuses an unsigned one; each is answered once, and with NOT_NOW when the state does not permit it (R311, R325, R469,
R478 to R480). Model's choices: notes/assumptions/82, 83, 97. -/
def Obligations.LoaderRequestsAreAnswered : Prop :=
  ∀ (s : State) (m : Mgmt) (c entry : Byte), Canonical s → HasSession s m →
    (∀ dies, loadOpen s = true → c.toNat < 4 → entry.toNat ≤ 63 → ∃ u, exec (.load m c entry dies) s = .next u
      ∧ Answered s u m opLoad stQueued [] ∧ u = { s with loader := u.loader, out := u.out, ports := u.ports }
      ∧ u.loader = { s.loader with queue := s.loader.queue ++
          [.load (Fin.ofNat 4 c.toNat) entry.toNat (dies.map (·.toNat)) []] }) ∧
    (loadOpen s = true → c.toNat < 4 → entry.toNat ≤ 63 → ∃ u, exec (.replace m c entry) s = .next u
      ∧ Answered s u m opReplace stQueued [] ∧ u = { s with loader := u.loader, out := u.out, ports := u.ports }
      ∧ u.loader = { s.loader with queue := s.loader.queue ++ [.replace (Fin.ofNat 4 c.toNat) entry.toNat] }) ∧
    (isReady s = true → c.toNat < 4 → ∃ u, exec (.unload m c) s = .next u ∧ Answered s u m opUnload stQueued []
      ∧ ∀ x, ctxOf s c.toNat = some x → ctxState s c.toNat ≠ 4 → ctxState s c.toNat ≠ 1 →
        (∀ q ∈ s.serving.seqs, q.ctx.val = c.toNat → isLive q = false ∧ q.kept = false) →
        ctxState u c.toNat = 4 ∧ ctxOf u c.toNat = some { x with
          replacing := none, refetch := [], endedSeqs := 0, since := now s }) ∧
    (∀ e : ManifestEntry, isReady s = true → entry.toNat ≤ 63 → entryShapeOk e = true → entrySigned s e = true →
      ∃ u, exec (.manifestWrite m entry e) s = .next u ∧ Answered s u m opManifestWrite stDone []
        ∧ kget noEntry u.store.manifest entry.toNat = some e
        ∧ u = { s with store := u.store, out := u.out, ports := u.ports }) ∧
    (∀ e : ManifestEntry, isReady s = true → entry.toNat ≤ 63 → entryShapeOk e = true → entrySigned s e = false →
      ∃ u, exec (.manifestWrite m entry e) s = .next u ∧ Answered s u m opManifestWrite stRefused (leBytes 4 0x11)
        ∧ LoggedAs s u 0x1413 sevWarning entry.toNat 0 0 ∧ u.store = s.store) ∧
    (∀ r ∈ [(opLoad, Instr.load m c entry []), (opReplace, .replace m c entry)], loadOpen s = false →
      ∃ u, exec r.2 s = .next u ∧ Answered s u m r.1 stNotNow [] ∧ u = { s with out := u.out, ports := u.ports }) ∧
    (∀ e, ∀ r ∈ [(opUnload, Instr.unload m c), (opManifestWrite, .manifestWrite m entry e)], isReady s = false →
      ∃ u, exec r.2 s = .next u ∧ Answered s u m r.1 stNotNow [] ∧ u = { s with out := u.out, ports := u.ports })

/-- O47. The loader runs its queue in order: a replacement that passes its checks starts, an operation of an absent
entry is refused; a chunk whose read fails, or whose tag does not verify, is retried up to its limit, the last chunk
of a load brings the context into service, and a context that has no work left is unloaded (R159, R316 to R325, Table
6.6). Model's choices: notes/assumptions/82, 97, 98. -/
def Obligations.TheLoaderRuns : Prop :=
  ∀ (s : State) (c : Fin 4) (x : Context), Canonical s → s.loader.paused = false →
    (∀ entry rest img headers tags ent, let v := { s with loader := { s.loader with queue := rest } }
      let heads := headsOf headers tags
      s.loader.queue = .replace c entry :: rest → s.plane.cpHeld = false → loaderBusy s = false →
      manifestOf v entry = some ent → entrySigned v ent = true → checkEntry v ent img = none → ctxOf v c.val = some x →
      ctxState v c.val = 2 → sameImage x.image img = true → fieldOf s (F.WT_REPLACE_POLICY + c.val) ≠ 1 →
      checkWeights v ent img (templateOf x img) heads (keysHeld v) = none →
      ∃ u, exec (.loadExecute (some img) headers tags) s = .next u ∧ u.loader.queue = rest ∧ ctxState u c.val = 3
        ∧ LoggedAs s u 0x0C11 sevNotice (c.val * 2 ^ 30 + entry)
          (s.serving.seqs.filter fun q => q.ctx.val = c.val && liveForReplace q).length
          ((pget s (R.CTX_VERSION_VERSION.at c.val 16) + 1) % 2 ^ 32)) ∧
    (∀ o rest img headers tags entry dies barred, s.loader.queue = o :: rest → s.plane.cpHeld = false →
      loaderBusy s = false → o = .load c entry dies barred ∨ o = .replace c entry →
      manifestOf { s with loader := { s.loader with queue := rest } } entry = none →
      ∃ u, exec (.loadExecute img headers tags) s = .next u ∧ u.loader.queue = rest
        ∧ LoggedAs s u 0x0611 sevError (c.val * 2 ^ 30 + 1) 0 1) ∧
    (∀ (p : Fin 2) k n w first more pages, wantedAt (refill s) p.val (k, n) = some w → w.ctx = c.val →
      ctxOf (refill s) c.val = some x → w.use = .load → x.left.erase w.key = [] →
      decryptChunk (refill s) w.ctx x w.use w.key (first ++ more) = some pages →
      ∃ u, exec (.chunkReadComplete p k n first more) s = .next u ∧ LoggedCode s u 0x0610 sevNotice) ∧
    (∀ (p : Fin 2) k n w, wantedAt (refill s) p.val (k, n) = some w → w.ctx = c.val → ctxOf (refill s) c.val = some x →
      ∀ i, i = .chunkFetchTimeout p k n ∨ (∃ first more, i = Instr.chunkReadComplete p k n first more
        ∧ decryptChunk (refill s) w.ctx x w.use w.key (first ++ more) = none) →
      let detail := match i with | .chunkFetchTimeout _ _ _ => 1 | _ => 5
      (triesOf x w.key < fieldOf s F.WT_FETCH_RETRIES →
        ∃ u, exec i s = .next u ∧ ctxOf u c.val = some (setTries x w.key (triesOf x w.key + 1))
          ∧ pget u (R.WT_REFETCH_RETRIES.at c.val 16) = min (pget s (R.WT_REFETCH_RETRIES.at c.val 16) + 1)
            (2 ^ R.WT_REFETCH_RETRIES.w - 1)) ∧
      (fieldOf s F.WT_FETCH_RETRIES ≤ triesOf x w.key → ∃ u, exec i s = .next u
        ∧ (w.use = .load → LoggedAs s u 0x0611 sevError (c.val * 2 ^ 30 + reasonWeights) detail 11)
        ∧ (w.use = .replace → LoggedCode s u 0x0C13 sevError)
        ∧ ∀ j v, w.use = .refetch j v → LoggedAs s u 0x0C15 sevError (c.val * 2 ^ 30 + w.die * 2 ^ 12) w.key.1.toNat
          w.key.2.toNat)) ∧
    (∀ r, ctxOf s c.val = some x → x.replacing = some r → r.writing = false → unitDrained s c.val x r.unit = true →
      r.unit ≤ ctxLayers x → let l := chunksOfRows ((usedWeights (templateOf x r.image) x.dies.length).filter fun w =>
        w.unit = r.unit)
      l ≠ [] → ∃ u, exec (.replaceUnitDrained c) s = .next u
        ∧ ctxOf u c.val = some { x with
          replacing := some { r with writing := true, left := l }
          refetch := x.refetch.filter fun j => j.1 ≠ r.unit || newVersion s c.val j.2.1 }) ∧
    (∀ ms : Word, ctxOf s c.val = some x → ctxState s c.val = 4 → unloadIdle s c.val = true →
      ∃ u, exec (.unloadZeroDone c ms) s = .next u
        ∧ LoggedAs s u 0x0C10 sevNotice (c.val * 2 ^ 30) x.endedSeqs ms.toNat)

/-! ## Ports and modules -/

/-- O48. Training: an attempt whose lanes hold its group and align brings the port up, a failed one goes on with the
next group or takes the port down; the loss of alignment, too many uncorrected codewords, RETRAIN and a port reset
take the port down with their reason (R333, R334, R343, R433). Model's choices: notes/assumptions/85, 104. -/
def Obligations.PortsTrain : Prop :=
  ∀ (s : State) (p : Fin 2), Canonical s →
    let x := portOf s p.val
    let retrained (u : State) : Prop := (portOf u p.val).attempt = some (mode16T, 0)
      ∧ (portOf u p.val).tried = [(mode16T, 0)] ∧ (portOf u p.val).retryAt = false
    let listed : Prop := portOn (latchFields s p.val trainFields) p.val = true
    let down (u : State) (reason fec : Nat) : Prop :=
      LoggedAs s u 0x0D11 sevWarning (p.val * 2 ^ 31 + reason) fec (portGet s p.val R.PT_STAT_TRAINED)
    (∀ g i app (lanes : Byte) ms, x.attempt = some g → moduleReady s p.val = some i → portOn s p.val = true →
      isUp s p.val = false → appOf i g.1 = some app → lanesIn (groupMask g) lanes.toNat = true →
      ∃ u, exec (.portTraining p lanes true ms) s = .next u ∧ isUp u p.val = true ∧ LoggedCode s u 0x0D10 sevNotice
        ∧ (g.1 ≠ mode16T → LoggedCode s u 0x0D12 sevWarning)) ∧
    (∀ g i app (lanes : Byte), x.attempt = some g → moduleReady s p.val = some i → portOn s p.val = true →
      isUp s p.val = false → appOf i g.1 = some app →
      let v := if g.1 = mode16T then portSet s p.val R.PT_STAT_TRAINED lanes.toNat else s
      (∀ h, nextGroup v p.val i = some h → ∃ u, exec (.trainAttemptTimeout p lanes) s = .next u
        ∧ (portOf u p.val).tried = x.tried ++ [h] ∧ (portOf u p.val).attempt = some h
        ∧ portGet u p.val R.PT_OPT_STAT_APP = ((appOf i h.1).getD 0) % 2 ^ R.PT_OPT_STAT_APP.w) ∧
      (nextGroup v p.val i = none → i.apps ≠ [] → ∃ u, exec (.trainAttemptTimeout p lanes) s = .next u
        ∧ (portOf u p.val).attempt = none ∧ (portOf u p.val).retryAt = true ∧ LoggedCode s u 0x0D11 sevWarning)) ∧
    (x.retryAt = true → listed → ∃ u, exec (.portRetry p) s = .next u
      ∧ u = { s with ports := u.ports, regs := u.regs, out := u.out } ∧ retrained u) ∧
    (isUp s p.val = true → ∃ u, exec (.pcsAlignLoss p) s = .next u ∧ down u 0 x.fecLast) ∧
    (∀ n k held, isUp s p.val = true → n ≤ fieldOf s F.PT_FEC_LIMIT → ∃ u, exec (.fecSecond p ⟨n, k⟩ held) s = .next u
      ∧ portGet u p.val R.PT_FEC_UNCORRECTED
        = min (portGet s p.val R.PT_FEC_UNCORRECTED + n) (2 ^ R.PT_FEC_UNCORRECTED.w - 1)
      ∧ portGet u p.val R.PT_FEC_CORRECTED_K
        = min (portGet s p.val R.PT_FEC_CORRECTED_K + (x.fecRem + k) / 1024) (2 ^ R.PT_FEC_CORRECTED_K.w - 1)
      ∧ portOf u p.val = { x with fecLast := n, fecRem := (x.fecRem + k) % 1024, xoff := (portOf u p.val).xoff }) ∧
    (∀ n k held, isUp s p.val = true → fieldOf s F.PT_FEC_LIMIT < n → ∃ u, exec (.fecSecond p ⟨n, k⟩ held) s = .next u
      ∧ down u 1 n) ∧
    (portOn s p.val = true → isReady s = true → isUp s p.val = true → ∃ u, exec (.retrain p) s = .next u
      ∧ down u 4 x.fecLast) ∧
    (portOn s p.val = true → isReady s = true → isUp s p.val = false →
      (∃ u, exec (.retrain p) s = .next u ∧ down u 4 x.fecLast ∧ (listed → retrained u)) ∧
      ∃ u, exec (.portReset p) s = .next u ∧ down u 4 x.fecLast ∧ (listed → retrained u) ∧ (portOf u p.val).qps = []
        ∧ portGet u p.val R.PT_STAT_FLAPS = min (portGet s p.val R.PT_STAT_FLAPS + 1) (2 ^ R.PT_STAT_FLAPS.w - 1)) ∧
    (portOn s p.val = false → isReady s = true → listed → ∀ c ∈ [Instr.retrain p, .portReset p],
      ∃ u, exec c s = .next u ∧ portOn u p.val = true ∧ retrained u)

/-- O49. A frame is dropped by the first reason that holds, or answered; XOFF is sent above 75 % of the share and a
received one is honoured; a CNP cuts a queue pair's rate to 7/8, 100 µs without one raise it by 5 % of the MAC rate,
and a missing acknowledgement sends the packet again up to 7 times, after which the operation fails (R337 to R343).
Model's choices: notes/assumptions/86, 104. -/
def Obligations.PortsCarryFrames : Prop :=
  ∀ (s : State) (p : Fin 2) (f : EthFrame) (qp : Byte), Canonical s → isUp s p.val = true →
    let x := portOf s p.val
    let q := qpOf s p.val qp.toNat
    let counts (u : State) (g : Fld) : Prop := portGet u p.val g = min (portGet s p.val g + 1) (2 ^ g.w - 1)
    let mac := macRate (portGet s p.val R.PT_STAT_MODE)
    (f.fcsOk = false → ∃ u, exec (.ethFrameReceive p f) s = .next u ∧ u = { s with regs := u.regs }
      ∧ counts u R.PT_DROP_FCS) ∧
    (f.fcsOk = true → framePrio s p.val f = none ∨ portField s p.val F.PT_MTU < f.ipLen ∨ frameServed s p.val f = false →
      ∃ u, exec (.ethFrameReceive p f) s = .next u ∧ u = { s with regs := u.regs } ∧ counts u R.PT_DROP_UNSERVED) ∧
    (∀ prio, f.fcsOk = true → framePrio s p.val f = some prio → f.ipLen ≤ portField s p.val F.PT_MTU →
      frameServed s p.val f = true →
      let held := f.held.zipIdx.map fun e => if e.2 = prio then e.1 + frameBytesOn f else e.1
      let lossless (k : Nat) := tbit (portField s p.val F.PT_PFC_MASK) k
      let past := (List.range 8).filter fun k => lossless k && !(tbit x.xoff.toNat k)
        && losslessShare * 3 / 4 < (held[k]?).getD 0
      let lossy := lossless prio = false ∧ lossyShare < lossyHeld s p.val held
      (∃ u, exec (.ethFrameReceive p f) s = .next u ∧ u = { s with regs := u.regs, ports := u.ports, out := u.out }
        ∧ portGet u p.val R.PT_PFC_XOFF_SENT = (if past = [] then portGet s p.val R.PT_PFC_XOFF_SENT
          else min (portGet s p.val R.PT_PFC_XOFF_SENT + past.length) (2 ^ R.PT_PFC_XOFF_SENT.w - 1))
        ∧ (∀ k ∈ past, Sent s u (.net p 4 k (frameTag s p.val .mgmt)))
        ∧ (lossy → counts u R.PT_DROP_LOSSY_DROP)
        ∧ (¬ lossy → portGet u p.val R.PT_DROP_LOSSY_DROP = portGet s p.val R.PT_DROP_LOSSY_DROP
          ∧ (3 ≤ f.proto → f.proto ≤ 5 → Given s u (.net p (f.proto - 3) 0 (frameTag s p.val .mgmt)))))) ∧
    (∀ (prio : BitVec 3) b, ∃ u, exec (.pfcPauseReceive p prio b) s = .next u
      ∧ (portOf u p.val).paused = withBit x.paused prio.toNat b ∧ (b = true → counts u R.PT_PFC_XOFF_RECEIVED)
      ∧ (b = false → ∀ o, (prio.toNat, o) ∈ x.egress → Sent s u o)) ∧
    (∀ prio : BitVec 3, tbit x.paused.toNat prio.toNat = true → tbit x.stormTold.toNat prio.toNat = false →
      ∃ u, exec (.pauseStorm p prio) s = .next u ∧ (portOf u p.val).stormTold = withBit x.stormTold prio.toNat true
        ∧ LoggedAs s u 0x0D13 sevWarning (p.val * 2 ^ 31 + prio.toNat) (fieldOf s F.PT_PAUSE_STORM_MS) 0) ∧
    (∃ u, exec (.cnpReceive p qp) s = .next u ∧ counts u R.PT_RDMA_CNP_RECEIVED
      ∧ (gapOver s q.lastCut = true → qpOf u p.val qp.toNat = { q with rate := q.rate * 7 / 8, lastCut := some (now s) })
      ∧ (gapOver s q.lastCut = false → qpOf u p.val qp.toNat = q)) ∧
    (q.rate < mac → ∃ u, exec (.rdmaRateRaise p qp) s = .next u
      ∧ qpOf u p.val qp.toNat = { q with rate := min mac (q.rate + mac / 20) }) ∧
    (∀ again use, opOutstanding s p.val use = true → let n := if again then q.resends else 0
      (n < 7 → ∃ u, exec (.rdmaAckTimeout p qp ⟨again, use⟩) s = .next u ∧ counts u R.PT_RDMA_RESENDS
        ∧ qpOf u p.val qp.toNat = { q with resends := n + 1 }) ∧
      (7 ≤ n → ∃ u, exec (.rdmaAckTimeout p qp ⟨again, use⟩) s = .next u
        ∧ (∀ d vpn e, use = .pageOut d vpn → (dieOf s d.val).pageOuts.find? (fun e => e.vpn = vpn) = some e →
          LoggedAs s u 0x0814 sevWarning d.val 2 e.slot)
        ∧ (∀ d vpn e, use = .pageIn d vpn → (dieOf s d.val).pageIns.find? (fun e => e.vpn = vpn) = some e →
          e.limit ≤ e.tries → LoggedAs s u 0x0815 sevError d.val 0 (ownerSlot s d.val e.vpn.toNat))
        ∧ (∀ a b w y, use = .chunk a b → wantedAt s p.val (a, b) = some w → ctxOf s w.ctx = some y →
          triesOf y w.key < fieldOf s F.WT_FETCH_RETRIES → ctxOf u w.ctx = some (setTries y w.key (triesOf y w.key + 1)))))

/-- O50. A module that answers is installed, one that misses three polls is removed; a module that does not become
ready is reported; changed flags are logged; the hourly write adds to the life record, which management may set (R345
to R348). Model's choices: notes/assumptions/87, 104. -/
def Obligations.ModulesAreManaged : Prop :=
  ∀ (s : State) (p : Fin 2) (i : ModuleInfo), Canonical s →
    let x := portOf s p.val
    let k := portGet s p.val R.PT_OPT_STAT_RECORD
    (portOn s p.val = true → portOn (latchFields s p.val trainFields) p.val = true → x.moduleIn = none →
      cmisOk i = true → ∃ u, exec (.modulePoll p (some i)) s = .next u
      ∧ portGet u p.val R.PT_OPT_STAT_PRESENT = 1 ∧ LoggedCode s u 0x0D14 sevNotice) ∧
    (portOn s p.val = true → x.moduleIn = none → cmisOk i = false → ∃ u, exec (.modulePoll p (some i)) s = .next u
      ∧ LoggedAs s u 0x0D16 sevError (p.val * 2 ^ 31) i.ident.toNat i.cmis.toNat) ∧
    (portOn s p.val = true → x.moduleIn = some i → x.missed + 1 < 3 → ∃ u, exec (.modulePoll p none) s = .next u
      ∧ u = { s with ports := u.ports } ∧ portOf u p.val = { x with missed := x.missed + 1 }) ∧
    (portOn s p.val = true → x.moduleIn = some i → 3 ≤ x.missed + 1 → ∃ u, exec (.modulePoll p none) s = .next u
      ∧ portGet u p.val R.PT_OPT_STAT_PRESENT = 0 ∧ LoggedCode s u 0x0D15 sevNotice) ∧
    (x.moduleIn = some i → cmisOk i = true → portGet s p.val R.PT_OPT_STAT_READY ≠ 1 →
      ∃ u, exec (.moduleReadyTimeout p) s = .next u ∧ portOf u p.val = { x with retryAt := true }
        ∧ LoggedAs s u 0x0D16 sevError (p.val * 2 ^ 31 + 2) i.ident.toNat i.cmis.toNat) ∧
    (∀ a b : Word, portOn s p.val = true → x.moduleIn = some i → ¬ (x.modFlags = a ∧ x.laneFlags = b) →
      ∃ u, exec (.moduleMonitor p a b) s = .next u ∧ portOf u p.val = { x with modFlags := a, laneFlags := b }
        ∧ LoggedAs s u 0x0D19 sevNotice (p.val * 2 ^ 31 + k) a.toNat b.toNat) ∧
    (∀ lanes bias r, portOn s p.val = true → x.moduleIn = some i → cmisOk i = true → k < 64 → lifeOf s k = some r →
      let ns := x.laserNs + ((x.laserFrom.map fun t => s.plane.run - t).getD 0)
      ∃ u, exec (.lifeRecordHourly p lanes bias) s = .next u ∧ ∃ r', lifeOf u k = some r'
        ∧ r'.laserS = min (r.laserS + ns / 1000000000) (2 ^ 32 - 1) ∧ r'.hour = eightLanes (bias.take lanes) ∧ r'.seq = r.seq + 1
        ∧ r'.serial = r.serial ∧ (portOf u p.val).laserNs = ns % 1000000000) ∧
    (∀ m (n : Byte) (hours : Word) (rated : Half) r, HasSession s m → isReady s = true → n.toNat < lifeRecords →
      lifeOf s n.toNat = some r → ∃ u, exec (.opticsRecordSet m n hours rated) s = .next u
        ∧ Answered s u m opOpticsSet stDone []
        ∧ lifeOf u n.toNat = some { r with
          laserS := min (hours.toNat * 3600) (2 ^ 32 - 1), ratedKh := rated.toNat, lifeWarned := false, seq := r.seq + 1 })

/-! ## Power, temperature and coolant -/

/-- O51. The governor: while P1 is at most B_c nothing is cut; above B_p every tile at the highest step loses one step
at once; below 0.95 × B_c every BUDGET cap rises by one. A turn-on is granted at the shortest span that passes both
checks, waits otherwise in request order, and is granted after the wait regardless (R356 to R360). Model's choice:
notes/assumptions/76. -/
def Obligations.PowerIsGoverned : Prop :=
  ∀ (s : State) (t : Tid), Canonical s → dieOn s t.d.val = true →
    let d := t.d.val
    let x := dieOf s d
    let hist (w : Nat) : List Nat := histWith s t.d w
    (∀ w, powerAbove (hist w) (budgetCont s) = false → ∃ u, exec (.powerMeasure t.d w) s = .next u
      ∧ u = { s with regs := u.regs, dies := u.dies } ∧ (dieOf u d).powerHist = hist w
      ∧ dget u d R.PW_DIE_POWER_MEAN_W = min (meanPower (hist w)) 65535 ∧ dget u d R.PW_DIE_STAT_OVER_CONT = 0) ∧
    (∀ w, powerAbove (hist w) (budgetPeak s) = true → cutDue s t.d = true → railOn s t = true →
      0 < effStep s t → effStep s t ≤ 15 → (∀ n : Tid, n.d = t.d → railOn s n = true → effStep s n ≤ effStep s t) →
      ∃ u, exec (.powerMeasure t.d w) s = .next u
        ∧ (∀ n : Tid, n.d = t.d → railOn s n = true → effStep s n = effStep s t →
          (tileOf u n).caps.budget = effStep s t - 1 ∧ effStep u n ≤ effStep s t - 1)
        ∧ (x.budgetEpisode = false → LoggedCode s u 0x0E13 sevNotice)) ∧
    (x.powerHist ≠ [] → 100 * sumNat x.powerHist < 95 * budgetCont s * x.powerHist.length →
      ∃ u, exec (.budgetCapLift t.d) s = .next u ∧ u = { s with regs := u.regs, tiles := u.tiles, dies := u.dies }
        ∧ ∀ n : Tid, n.d = t.d → (tileOf s n).caps.budget ≤ 15 →
          (tileOf u n).caps.budget = min 15 ((tileOf s n).caps.budget + 1)) ∧
    (∀ a b, mayTurnOn s t = true → (∀ e ∈ x.turnOns, e.tile ≠ t.t.val ∧ e.span ≠ none) →
      let e : TurnOn := ⟨t.t.val, now s, shortestSpan s t a b, []⟩
      ∃ u, exec (.turnOnRequest t a b) s = .next u ∧ (dieOf u d).turnOns = x.turnOns ++ [e]
        ∧ tget u t R.MITTEN_TILE_RAIL = if e.span = none then railOff else railTurning) ∧
    (∀ a b e, oldestTurnOn s t.d = some e → e.tile = t.t.val →
      (∀ n, shortestSpan s t a b = some n → ∃ u, exec (.grantRetest t.d a b) s = .next u
        ∧ tget u t R.MITTEN_TILE_RAIL = railTurning
        ∧ (dieOf u d).turnOns = x.turnOns.map fun y =>
          if y.tile = t.t.val then { y with span := some n, capped := [] } else y) ∧
      (shortestSpan s t a b = none → ∃ u, exec (.grantRetest t.d a b) s = .next u ∧ u = s) ∧
      ∃ u, exec (.grantWaitExpiry t a b) s = .next u ∧ tget u t R.MITTEN_TILE_RAIL = railTurning
        ∧ (dieOf u d).turnOns = x.turnOns.map (fun y => if y.tile = t.t.val then
            { y with span := some ((shortestSpan s t a b).getD 200)
                     capped := (((segment t).drop 1).filter (railOn s)).map fun n => n.t.val } else y)
        ∧ LoggedAs s u 0x0E14 sevNotice (widx t * 2 ^ 16) ((now s - e.since) / 1000)
          (((segment t).drop 1).filter (railOn s)).length) ∧
    (∀ e n, x.turnOns.find? (fun y => y.tile = t.t.val) = some e → e.span = some n → n ∈ spans →
      ∃ u, exec (.turnOnSettled t) s = .next u ∧ tget u t R.MITTEN_TILE_RAIL = railIsOn
        ∧ tget u t R.MITTEN_TILE_LAST_SPAN = n
        ∧ tget u t R.MITTEN_EVENTS_TURN_ONS = min (tget s t R.MITTEN_EVENTS_TURN_ONS + 1) 255
        ∧ (dieOf u d).turnOns = x.turnOns.filter fun y => y.tile ≠ t.t.val)

/-- O52. Failed phases lower the tile's largest step to 14 and 12, a third isolates the rail, and so does a short; a
tripped site converter takes its die dark and fails it, and a retry that holds takes it from the failed list (R361 to
R365). Model's choice: notes/assumptions/77. -/
def Obligations.RailsAndSitesFail : Prop :=
  ∀ (s : State) (t : Tid), Canonical s →
    let dark (u : State) : Prop := (tileOf u t).raise = none
      ∧ (∀ p : Fin 16, tget u t (R.MITTEN_STAT_ISOLATED.at p.val) = 1)
      ∧ tget u t R.MITTEN_TILE_RAIL = railIsolated
    (∀ (p : Fin 16) (k : Fin 3), dieOn s t.d.val = true → phaseFailed s t p.val = false → failedPhases s t < 2 →
      ∃ u, exec (.phaseFailure t [p] k) s = .next u ∧ phaseFailed u t p.val = true
        ∧ tget u t (R.MITTEN_STAT_CAUSE.at p.val) = k.val + 1
        ∧ (tileOf u t).caps.phase = (if failedPhases s t = 0 then 14 else 12)
        ∧ LoggedAs s u 0x0E10 sevWarning (widx t * 2 ^ 16 + p.val) (k.val + 1)
          (if failedPhases s t = 0 then 14 else 12)) ∧
    (∀ (l : List (Fin 16)) (k : Fin 3), dieOn s t.d.val = true → tget s t R.MITTEN_TILE_RAIL ≠ railIsolated → l.Nodup → (∀ p ∈ l, phaseFailed s t p.val = false) →
      l ≠ [] → 3 ≤ failedPhases s t + l.length → ∃ u, exec (.phaseFailure t l k) s = .next u ∧ dark u
        ∧ (tileOf u t).fencePend = some .phases ∧ LoggedCode s u 0x0E11 sevError) ∧
    (∀ a : BitVec 12, railLive s t = true → ∃ u, exec (.railShort t a) s = .next u ∧ dark u
      ∧ (tileOf u t).fencePend = some .railShort
      ∧ LoggedAs s u 0x0E11 sevError (widx t * 2 ^ 16) 1 a.toNat) ∧
    (∀ k : Fin 3, dieOn s t.d.val = true → ∃ u, exec (.siteTrip t.d k) s = .next u
      ∧ dget u t.d.val R.PW_DIE_STAT_SITE = siteTripped ∧ (dieOf u t.d.val).mem = []
      ∧ LoggedAs s u 0x0E12 sevError t.d.val k.val (ctxHit s t.d.val)) ∧
    (s.plane.powered = true → dget s t.d.val R.PW_DIE_STAT_SITE = siteTripped → dieUnnamed s t.d.val = true →
      (∃ u, exec (.siteRetry t.d true) s = .next u ∧ dget u t.d.val R.PW_DIE_STAT_SITE = siteOn
        ∧ (∀ e ∈ u.store.repair, ¬ (e.kind.toNat = 0x0C ∧ e.die.toNat = t.d.val)) ∧ dieUp u t.d.val = false) ∧
      ∃ u, exec (.siteRetry t.d false) s = .next u ∧ u = s)

/-- O53. VIN48 below its warning level is logged; a loss of VIN48 or of PG_IN sends the device to Rest with one entry,
or bring-up back to step 5; VIN48 back in its range re-arms the entry; the loss of VAUX12 leaves what the flash, the
MRAM and the input pins keep (R366, R439, R491, R494). Model's choice: notes/assumptions/77. -/
def Obligations.SuppliesAreWatched : Prop :=
  ∀ (s : State) (v : Half), Canonical s → s.plane.vaux = true →
    let warn := fieldOf s F.PW_VIN_WARN
    let rests (u : State) : Prop := powerState u = psRest ∧ LoggedCode s u 0x0E16 sevError
      ∧ u.plane.powered = false ∧ u.loader.paused = true
    let lossDue : Prop := s.plane.powered = true ∧ inPowerSteps s = false ∧ s.plant.lossTold = false
      ∧ powerState s ≠ psRest
    (s.plant.vinLow = false → v.toNat < 10 * warn → ∃ u, exec (.vinLow v) s = .next u
      ∧ u.plant = { s.plant with vinLow := true } ∧ LoggedAs s u 0x0E15 sevWarning v.toNat warn 0) ∧
    (lossDue → v.toNat < 4000 → ∃ u, exec (.vinLoss v) s = .next u ∧ rests u) ∧
    (lossDue → 5800 < v.toNat → ∃ u, exec (.vinOvervoltage v) s = .next u ∧ rests u) ∧
    (lossDue → s.pins.pgIn = true → ∃ u, exec .pgInDeassert s = .next u ∧ rests u) ∧
    (s.plane.powered = true → inPowerSteps s = true → v.toNat < 4000 → ∃ u, exec (.vinLoss v) s = .next u
      ∧ pget u R.BU_STAT_STEP = 5 ∧ u.plane.powered = false) ∧
    (∃ u, exec .pgInAssert s = .next u ∧ u.pins = { s.pins with pgIn := true }
      ∧ (s.plant.vinLost = false → u.plant.lossTold = false)) ∧
    (4000 ≤ v.toNat → v.toNat ≤ 5800 → 10 * warn ≤ v.toNat → ∃ u, exec (.vin48BackInRange v) s = .next u
      ∧ u.plant.vinLow = false ∧ u.plant.vinLost = false ∧ (s.pins.pgIn = true → u.plant.lossTold = false)) ∧
    ∃ u, exec .vauxLoss s = .next u ∧ u.plane.vaux = false ∧ u.regs = [] ∧ u.tiles = [] ∧ u.dies = [] ∧ u.log = []
      ∧ u.store.repair = s.store.repair ∧ u.store.moduleSerial = s.store.moduleSerial
      ∧ u.pins.cpResetN = s.pins.cpResetN ∧ u.pins.modResetN = s.pins.modResetN ∧ u.pins.pgIn = s.pins.pgIn

/-- O54. The hot spot of a tile sets its THERMAL cap at once by Table 15.4, which loosens by one row once the value
that set it has stayed 3 °C below that row's threshold; suspect readings set the SENSOR cap until they have cleared; a
stack above TH_STACK_SR_C in Hold sends the device to Rest (R374 to R377, R381). Model's choice: notes/assumptions/79.
-/
def Obligations.HotSpotsSetCaps : Prop :=
  ∀ (s : State) (t : Tid), Canonical s →
    let c := (tileOf s t).caps
    let st := stackTemp s t.d.val
    let hot (h : Int) : Prop := hot2 s t ≤ 2 * h ∧ ((tileOf s t).capHot = true → hot2 s t ≤ 2 * (h - 24))
    let stack (k : Int) : Prop := st ≤ k ∧ ((tileOf s t).capStack = true → st ≤ k - 24)
    (∀ e : BitVec 12, railOn s t = true →
      let v := tset s t R.TH_HOT_ESTIMATE e.toNat
      (readsSuspect v t = false → c.thermal ≤ 15 → ∃ u, exec (.roEstimate t e) s = .next u
        ∧ tget u t R.TH_HOT_ESTIMATE = e.toNat ∧ tget u t R.TH_HOT_HOT = to12 (hot2 v t / 2)
        ∧ (tileOf u t).caps.thermal = min c.thermal (thermalRow (limitL s) (limitK s) (hot2 v t) st)) ∧
      (readsSuspect v t = true → tget s t R.TH_HOT_SUSPECT = 0 → ∃ u, exec (.roEstimate t e) s = .next u
        ∧ tget u t R.TH_HOT_SUSPECT = 1 ∧ (tileOf u t).caps.sensor = 9
        ∧ LoggedCode s u 0x0F16 sevWarning)) ∧
    (tget s t R.TH_HOT_SUSPECT = 1 → readsSuspect s t = false → ∃ u, exec (.suspectClear t) s = .next u
      ∧ tget u t R.TH_HOT_SUSPECT = 0
      ∧ (tileOf u t).caps.sensor = if dget s t.d.val R.TH_DIE_STAT_STACK_SUSPECT = 1 then 9 else 15) ∧
    (dieOn s t.d.val = true →
      (c.thermal = 0 → hot (limitL s + 80) → stack (limitK s + 40) → ∃ u, exec (.thermalCapLoosen t) s = .next u
        ∧ (tileOf u t).caps = { c with thermal := 9 } ∧ tget u t R.TH_HOT_THERMAL_CAP = 9) ∧
      (c.thermal = 9 → hot (limitL s + 40) → stack (limitK s) → ∃ u, exec (.thermalCapLoosen t) s = .next u
        ∧ (tileOf u t).caps = { c with thermal := 13 } ∧ tget u t R.TH_HOT_THERMAL_CAP = 13) ∧
      (c.thermal = 13 → hot (limitL s) → st ≤ limitK s → ∃ u, exec (.thermalCapLoosen t) s = .next u
        ∧ (tileOf u t).caps = { c with thermal := 15 } ∧ tget u t R.TH_HOT_THERMAL_CAP = 15) ∧
      (c.thermal = 15 ∨ (c.thermal = 0 ∧ ¬ (hot (limitL s + 80) ∧ stack (limitK s + 40))) →
        exec (.thermalCapLoosen t) s = .next s)) ∧
    (powerState s = psHold → dieOn s t.d.val = true → 8 * (fieldOf s F.TH_STACK_SR_C : Int) < st →
      ∃ u, exec (.stackOverheatRest t.d) s = .next u ∧ powerState u = psRest ∧ coolState u = coolRest
        ∧ LoggedAs s u 0x0F14 sevError t.d.val (to12 st) (liveCount s))

/-- O55. A scan that passes its references fills the bank's registers with corrected codes, one that fails them is
discarded and counted; a calibration writes O and G and passes only within its ranges; a rotation hands the bank over,
is given up, or retires the slice that fails; a DAC conversion answers PASS by ADC_DAC_TOL_LSB, and waits while a
sensor check has the DAC (R390 to R398). Model's choice: notes/assumptions/80. -/
def Obligations.ConvertersAreChecked : Prop :=
  ∀ (s : State) (d : Fin 58), Canonical s → adcOn s d.val = true →
    let raw (u : State) (f : Fld) (b k : Nat) : Nat := adcGet u d.val (rawFld f b k)
    (∀ (b : Fin 4) i codes, servingSlice s d.val b.val = some i → (dieOf s d.val).adcWarm = true → isCalibrated s d.val i = true →
      b.val < bankCount d.val → (d.val = 56 + b2n s.plane.primary → b.val ≠ 0) →
      (scanPasses s d.val i codes = true → 56 ≤ d.val ∨ 2 ≤ b.val → ∃ u, exec (.sensorScan d b codes) s = .next u
        ∧ u = { s with regs := u.regs, dies := u.dies }
        ∧ ∀ k, k < 32 → raw u R.ADC_RAW0_SLICE b.val k = i % 2 ^ R.ADC_RAW0_SLICE.w
          ∧ raw u R.ADC_RAW0_VALID b.val k = b2n (!(reservedInput d.val b.val k))
          ∧ raw u R.ADC_RAW0_CODE b.val k
            = if reservedInput d.val b.val k then 0 else corrected s d.val i (rawAt codes k) % 4096) ∧
      (scanPasses s d.val i codes = false → kget noServed (dieOf s d.val).scanFails b.val < 2 →
        ∃ u, exec (.sensorScan d b codes) s = .next u ∧ u = { s with regs := u.regs, dies := u.dies }
          ∧ (∀ k, k < 32 → raw u R.ADC_RAW0_VALID b.val k = 0)
          ∧ adcGet u d.val R.ADC_STAT_REF_FAULTS = min (adcGet s d.val R.ADC_STAT_REF_FAULTS + 1)
            (2 ^ R.ADC_STAT_REF_FAULTS.w - 1))) ∧
    (∀ ground bandgap dac i, calSlice s d.val = some i →
      let g := codesNat ground
      let v := codesNat bandgap
      let o := calOffset g
      (calPasses s d.val g v (codesNat dac) = true → ∃ u, exec (.sliceCalibrate d ground bandgap dac) s = .next u
        ∧ u = { s with regs := u.regs, dies := u.dies } ∧ isCalibrated u d.val i = true
        ∧ adcGet u d.val (R.ADC_SLICE_OFFSET.at i) = (BitVec.ofInt 7 o).toNat
        ∧ adcGet u d.val (R.ADC_SLICE_GAIN.at i) = calGain d.val g v) ∧
      (calPasses s d.val g v (codesNat dac) = false → kget noServed (dieOf s d.val).calFails i = 0 →
        ∃ u, exec (.sliceCalibrate d ground bandgap dac) s = .next u ∧ isCalibrated u d.val i = false
          ∧ LoggedAs s u 0x1010 sevWarning (adcWord d.val i) (BitVec.ofInt 32 o).toNat (calGain d.val g v)) ∧
      (calPasses s d.val g v (codesNat dac) = false → 1 ≤ kget noServed (dieOf s d.val).calFails i →
        ∃ u, exec (.sliceCalibrate d ground bandgap dac) s = .next u ∧ LoggedCode s u 0x1011 sevError)) ∧
    (∀ inCodes outCodes inCheck outCheck inc out, oldestServing s d.val = some out →
      (List.range (sliceCount d.val)).find? (fun i => sliceState s d.val i = slSpare && isCalibrated s d.val i)
        = some inc → (workingSlices s d.val).length = sliceCount d.val →
      (checkRuns s d.val = true → 2 ≤ sliceBank s d.val out) → servingSlice s d.val (sliceBank s d.val out) = some out →
      56 ≤ d.val ∨ 2 ≤ sliceBank s d.val out → sliceBank s d.val out < bankCount d.val →
      scanPasses s d.val out outCodes = true →
      let gap := rotateGap s d.val inc out inCodes outCodes
      (gap ≤ adcTol s → ∃ u, exec (.sliceRotate d inCodes outCodes inCheck outCheck) s = .next u
        ∧ sliceState u d.val inc = slServing ∧ sliceBank u d.val inc = sliceBank s d.val out
        ∧ sliceState u d.val out = slCalibrating) ∧
      (adcTol s < gap → dacCheck s d.val inc inCheck = true → dacCheck s d.val out outCheck = true →
        ∃ u, exec (.sliceRotate d inCodes outCodes inCheck outCheck) s = .next u
          ∧ LoggedAs s u 0x1012 sevNotice (adcWord d.val inc) out gap ∧ sliceState u d.val inc = slCalibrating) ∧
      (adcTol s < gap → (dacCheck s d.val inc inCheck && dacCheck s d.val out outCheck) = false →
        ∃ u, exec (.sliceRotate d inCodes outCodes inCheck outCheck) s = .next u ∧ LoggedCode s u 0x1011 sevError)) ∧
    (∀ (ctrl : Word) (code : BitVec 12),
      let i := bitsOf ctrl.toNat 10 3
      let c := corrected s d.val i code.toNat
      i ∈ workingSlices s d.val → isCalibrated s d.val i = true → dacBusy s d.val i = false →
      ∃ u, exec (.adcDacConvert d ctrl code) s = .next u ∧ u = { s with regs := u.regs, dies := u.dies }
        ∧ adcGet u d.val R.ADC_DAC_RESULT_DONE = 1
        ∧ adcGet u d.val R.ADC_DAC_RESULT_PASS = b2n (near c (4 * bitsOf ctrl.toNat 0 10) (adcTol s))
        ∧ adcGet u d.val R.ADC_DAC_RESULT_CODE = c % 4096) ∧
    (∀ (ctrl : Word) (code : BitVec 12), dacBusy s d.val (bitsOf ctrl.toNat 10 3) = true →
      ∃ u, exec (.adcDacConvert d ctrl code) s = .next u ∧ u = { s with dies := u.dies }
        ∧ dieOf u d.val = { dieOf s d.val with dacAsk := some (ctrl.toNat, code.toNat) })

/-- O56. Facility samples: the flow rules of a sudden stop bring Hold with FLOW cap 0; a lost flow sensor and an inlet
out of range are logged; slow rules warn below 90 % and cap below 85 %, and loosen one step at a time; a Hold ends its
sequences after TH_HOLD_END_S, and ends by itself or by RESUME once the flow is restored (R371 to R380). Model's
choice: notes/assumptions/78. -/
def Obligations.CoolantIsGuarded : Prop :=
  ∀ (s : State) (m : Mgmt) (i : Fin 2) (holdS : Word), Canonical s →
    let resumed (u : State) (secs how : Nat) : Prop :=
      LoggedAs s u 0x0F13 sevNotice secs s.plant.endedInHold how
      ∧ (s.plane.cpHeld = false → LoggedAs s u 0x1212 sevNotice psHold psRun 1)
    (∀ codes sl, let d := 56 + b2n s.plane.primary
      let v := noteFlows (fun n => corrected s d sl (rawAt codes n)) (dacFree (scanBank s d 0 codes) d)
      servingSlice s d 0 = some sl → (dieOf s d).adcWarm = true → s.plane.vaux = true → isCalibrated s d sl = true → scanPasses s d sl codes = true →
      (stopRule v 0 = none → stopRule v 1 = none → ∃ u, exec (.facilitySample codes) s = .next u ∧ u = v) ∧
      (∀ r, stopRule v 0 = some r → v.plant.stopped = false → v.plane.powered = true → powerState v ≠ psRest →
        fieldOf v F.TH_HOLD_END_S ≠ 0 → ∃ u, exec (.facilitySample codes) s = .next u ∧ powerState u = psHold
          ∧ coolState u = coolHold ∧ u.plant.stopped = true
          ∧ LoggedAs s u 0x0F12 sevError 0 (flow100 (flowLast v 0 : Rat)) r)) ∧
    (s.plane.vaux = true → flowLost s i.val = false → ∃ u, exec (.flowSensorLost i) s = .next u
      ∧ flowLost u i.val = true ∧ LoggedAs s u 0x0F18 sevWarning i.val (flow100 (flowLast s i.val : Rat)) 0) ∧
    (∀ below, let x := pget s (R.TH_COOL_TEMP_INLET.at i.val)
      s.plane.vaux = true → (below = true → temp12 x < 200) →
      (below = false → 8 * (fieldOf s F.TH_INLET_MAX_C : Int) < temp12 x) →
      ∃ u, exec (.inletAlarm i below) s = .next u ∧ LoggedAs s u 0x0F19 sevWarning i.val x (b2n below)) ∧
    (∀ c f, flowWorst s = some (c, f) →
      (f < 90 → s.plant.warnEpisode = false → ∃ u, exec .flowEvaluate s = .next u
        ∧ LoggedAs s u 0x0F10 sevWarning c (permilleR f) 0) ∧
      (∀ cap, capForFlow f = some cap → cap < pget s R.TH_COOL_STAT_FLOW_CAP → s.plant.stopped = false →
        ∃ u, exec .flowEvaluate s = .next u ∧ LoggedAs s u 0x0F11 sevWarning c (permilleR f) cap
          ∧ coolState u = coolCap ∧ pget u R.TH_COOL_STAT_FLOW_CAP = cap % 16) ∧
      let cap := pget s R.TH_COOL_STAT_FLOW_CAP
      s.plant.stopped = false → cap < 15 → ((92 - 5 * (15 - cap : Nat) : Int) : Rat) ≤ f →
        ∃ u, exec .flowCapLoosen s = .next u ∧ pget u R.TH_COOL_STAT_FLOW_CAP = cap + 1
          ∧ ∀ t : Tid, dieOn s t.d.val = true → (tileOf u t).caps = { (tileOf s t).caps with flow := cap + 1 }) ∧
    (∀ q l, inStopHold s = true → s.serving.seqs.filter isLive = q :: l → seqNow s q = some q →
      ∃ u, exec .holdTimeout s = .next u
        ∧ LoggedAs s u 0x0A11 sevError (q.slot.getD 0 + q.ctx.val * 2 ^ 12) q.gen.length 0x0F12) ∧
    (inStopHold s = true → fieldOf s F.TH_AUTO_RESUME = 1 → flowRestored s = true →
      ∃ u, exec (.holdResume holdS) s = .next u ∧ resumed u holdS.toNat 0) ∧
    (HasSession s m → isReady s = true →
      ((inStopHold s && restoredLong s) = true → ∃ u, exec (.resume m) s = .next u ∧ Answered s u m opResume stDone []
        ∧ resumed u ((now s - s.plant.holdSince) / secNs) 1) ∧
      ((inStopHold s && restoredLong s) = false → ∃ u, exec (.resume m) s = .next u
        ∧ Answered s u m opResume stNotNow [] ∧ u = { s with out := u.out, ports := u.ports }))

/-- O57. Each step of Table 17.1 ends in the next: COLD_POWER_ON starts at step 3 with SD[0] primary unless it or its
Bonnet fails; step 3 judges both images or enters recovery; step 4 checks the fields; step 5 starts the dies; step 6
records reduced and failed links; step 7 logs limited crossings; step 8 broadcasts firmware with three attempts, and a
later multicast checks it again when the tiles are back on; step 9 logs failed channels; step 10 starts the ports;
READY and BU_LATE are logged (R184, R405 to R419, R466). Model's choices: notes/assumptions/67, 68, 69, 70, 71, 72,
105. -/
def Obligations.BringUpRunsItsSteps : Prop :=
  ∀ s : State, Canonical s →
    (∀ rom0 bon0 rom1 bon1, ∃ u, exec (.coldPowerOn rom0 bon0 rom1 bon1) s = .next u
      ∧ u.tiles = [] ∧ u.dies = [] ∧ u.fields = [] ∧ now u = 0 ∧ buStep u = 3 ∧ u.pins.ready = false
      ∧ u.plane.primary = !(rom0 && bon0) ∧ pget u R.BON_STAT_KEY_OK_0 = b2n bon0
      ∧ pget u R.BON_STAT_KEY_OK_1 = b2n bon1 ∧ inRecovery u = !(bon0 || bon1)
      ∧ u.store = { s.store with overflow := [] }) ∧
    (∀ boot, boot ≠ 0 → atStep s 3 = true →
      let g := readGrade (syncCfgKey s)
      let v := applyRepairMap (readRepair g.2)
      let a := imageReason v v.store.bciA
      let b := imageReason v v.store.bciB
      ∃ u, exec (.bciVerify boot) s = .next u ∧ u.serving.boot = boot ∧ pget u R.BU_STAT_REJECT_A = a
        ∧ pget u R.BU_STAT_REJECT_B = b ∧ pget u R.BU_STAT_IMAGE = b2n (a ≠ 0 && b = 0)
        ∧ (g.1 = true → a = 0 ∨ b = 0 → buStep u = 4)
        ∧ (g.1 = false ∨ (a ≠ 0 ∧ b ≠ 0) → inRecovery u = true ∧ u.pins.alertN = false
          ∧ LoggedAs s u 0x1111 sevError (a + b * 2 ^ 4) (b2n !g.1) 0)) ∧
    (atStep s 4 = true →
      let k := checkFields .start (bciFieldRecs (bciInUse s))
      ∃ u, exec .fieldCheck s = .next u ∧ buStep u = 5 ∧ u.fields = k.values ∧ u.bciFields = k.values
        ∧ pget u R.BU_STAT_LISTED = min u.report.entries.length 65535
        ∧ LoggedAs s u 0x1110 sevNotice (b2n (pget s R.BU_STAT_IMAGE = 1) + pget s R.BU_STAT_REJECT_A * 2 ^ 8
          + pget s R.BU_STAT_REJECT_B * 2 ^ 12) ((bciSeq (bciInUse s)).toNat % 2 ^ 32) u.report.entries.length) ∧
    (∀ failed serials, atStep s 5 = true → supplyGood s = true → powerState s = psRun →
      ∃ u, exec (.siteSoftStart failed serials) s = .next u ∧ buStep u = 6
        ∧ u.store.dieSerials = (List.range 60).map (fun i => (serials[i]?).getD 0)
        ∧ u.store.stackSerials = (List.range 56).map (fun i => (serials[60 + i]?).getD 0)
        ∧ ∀ d ∈ failed, dieActive s d.val = true → dieFailed s d.val = false →
          (∀ e : Fin 56, e < d → dieActive s e.val = false) → LoggedCode s u 0x1313 sevError) ∧
    (∀ results, atPowerStep s 6 = true → ∃ u, exec (.linkTraining results) s = .next u ∧ buStep u = 7
      ∧ ∀ (t : Tid) d o, linkTo t d = some o → dieActive s t.d.val = true → (56 ≤ o || dieActive s o) = true →
        let r := resultOf s results t d
        let subs := (List.range 4).map fun i => sublinkOf ((r.1[i]?).getD [])
        let half := (List.range 4).filter fun i => (subs[i]?).any (·.2.1)
        let fails : Prop := subs.any (·.2.2) = true ∨ 2 < ((r.2.filter (· < 18)).eraseDups).length
        let up := dieUp s t.d.val && (56 ≤ o || dieUp s o)
        (up = false ∨ fails → LoggedCode s u 0x1115 sevError) ∧
        (up = true → ¬ fails → half ≠ [] →
          LoggedAs s u 0x1114 sevWarning (widx t) (dirNum d) (1024 - 128 * half.length))) ∧
    (∀ results, atPowerStep s 7 = true → ∃ u, exec (.crossingCalibration results) s = .next u ∧ buStep u = 8
      ∧ ∀ r ∈ results, calMaxOf r.flight < 15 → dieOn s r.consumer.d.val = true →
        LoggedAs s u 0x0714 sevWarning (widx r.consumer) (dirNum r.dir) (calMaxOf r.flight)) ∧
    (∀ tiles bowlers, atPowerStep s 8 = true → s.plane.resend = [] →
      ∃ u, exec (.firmwareBroadcast tiles bowlers) s = .next u
        ∧ (u.plane.resend = [] ↔ (∀ t ∈ tiles, railOn s t = false) ∧
          ∀ d ∈ bowlers, (dieOn s d.val && dieUp s d.val) = false)
        ∧ (u.plane.resend = [] → buStep u = 9 ∧ u.plane.fwIface = fwRevision (bciPayload (bciInUse s) secFwTile))
        ∧ (u.plane.resend ≠ [] → buStep u = 8)) ∧
    (∀ tiles bowlers, isReady s = true → s.plane.fwCheck = true → s.plane.powered = true → s.plane.cpHeld = false →
      powerState s ≤ psDoze → s.plane.resend = [] → (∀ t ∈ tiles, railOn s t = false) →
      ∃ u, exec (.firmwareBroadcast tiles bowlers) s = .next u ∧ u = { s with plane := { s.plane with fwCheck := false } }) ∧
    (∀ (t : Tid) bowler ok n, atPowerStep s 8 = true →
      let key := if bowler then bowlerKey t.d.val else tkey t
      let rest := s.plane.resend.filter fun x => x.1 ≠ key
      (s.plane.resend.find? fun e => e.1 = key) = some (key, n) →
      (ok = true → ∃ u, exec (.firmwareResend t bowler ok) s = .next u ∧ u.plane.resend = rest
        ∧ (rest = [] → buStep u = 9) ∧ (rest ≠ [] → buStep u = 8)) ∧
      (ok = false → n + 1 < 3 → ∃ u, exec (.firmwareResend t bowler ok) s = .next u
        ∧ u = { s with plane := { s.plane with resend := rest ++ [(key, n + 1)] } }) ∧
      (ok = false → 3 ≤ n + 1 → ∃ u, exec (.firmwareResend t bowler ok) s = .next u
        ∧ LoggedAs s u 0x1116 sevWarning (widx t) (b2n bowler) 3)) ∧
    (∀ failed, atPowerStep s 9 = true → ∃ u, exec (.stackInit failed) s = .next u ∧ buStep u = 10
      ∧ ∀ d c ch l, failed = (d, c, ch) :: l → dieOn s d.val = true → dieUp s d.val = true →
        chRetired s d.val c.val ch.val = false →
        let left := dget s d.val R.STK_STAT_SPARES_LEFT
        (left ≠ 0 → LoggedAs s u 0x0812 sevWarning (c.val * 2 ^ 24 + ch.val) 1 (left - 1)) ∧
        (left = 0 → LoggedCode s u 0x0813 sevError)) ∧
    (∀ results, atPowerStep s 10 = true → ∃ u, exec (.skinkFullPass results) s = .next u ∧ buStep u = 11
      ∧ (results = [] → ∀ p < 2, portOn (latchFields s p trainFields) p = true → (portOf u p).attempt = some (mode16T, 0))
      ∧ ∀ t k r l, results = (t, k, r) :: l → railOn s t = true → sliceValid t k = true →
        sliceFails s t k r = true → LoggedCode s u 0x1310 sevError) ∧
    (∀ ms, atPowerStep s 11 = true → portTrains s 0 = false → portTrains s 1 = false →
      ∃ u, exec (.buReady ms) s = .next u ∧ isReady u = true ∧ u.pins.ready = true ∧ buStep u = 12
        ∧ pget u R.BU_TIME_MS = ms.toNat ∧ LoggedAs s u 0x1112 sevNotice ms.toNat (failedDies s) s.plane.fenced) ∧
    (∀ ms : Word, s.plane.vaux = true → isReady s = false → pget s R.BU_STAT_LATE ≠ 1 →
      1000 * fieldOf s F.BU_READY_LATE_S ≤ ms.toNat → ∃ u, exec (.buLate ms) s = .next u
        ∧ pget u R.BU_STAT_LATE = 1 ∧ buStep u = buStep s ∧ LoggedAs s u 0x1113 sevWarning (buStep s) ms.toNat 0)

/-- O58. A module reset logs RS_MOD_RESET, counts itself and leaves step 3 with the log, the timebase, the flash and
the input pins; a compute-plane reset logs RS_CP_RESET, unless Hold or Rest rank above it, and ends with the rails on;
Doze stops every governor at step 0; Hold, Rest and Run are entered as Table 18.3 and R440 give (R412, R429 to R440).
Model's choices: notes/assumptions/66, 75. -/
def Obligations.ResetsAndPowerStates : Prop :=
  ∀ (s : State) (m : Mgmt), Canonical s →
    let fresh (u : State) (cause : Nat) : Prop := u.tiles = [] ∧ u.dies = [] ∧ u.fields = [] ∧ buStep u = 3
      ∧ isReady u = false ∧ u.serving = Serving.reset ∧ pget u R.RS_STAT_LAST_CAUSE = cause
      ∧ LoggedAs s u 0x1210 sevWarning cause (liveCount s) 0
    let quiet : Prop := ∀ c, ctxOf s c = none
    let lit (u : State) : Prop := powerState u = psRun ∧ ∀ t : Tid, dieOn s t.d.val = true → dieUp s t.d.val = true →
      roleOf s t ≠ roleDark → tget s t R.MITTEN_TILE_RAIL ≠ railIsolated → tget u t R.MITTEN_TILE_RAIL = railIsOn
    let at_ (n : Nat) : Prop := powerState s = n
    let noted (c : Instr) (st : Nat) : Prop := ∃ u, exec c s = .next u ∧ Answered s u m opReset st []
      ∧ u = { s with out := u.out, ports := u.ports }
    let managed (c : Instr) (bit : Nat) : Prop := ∃ u, exec c s = .next u ∧ Answered s u m opReset stDone []
      ∧ (bit = 1 → powerState u = psReset
        ∧ LoggedAs s u 0x1211 sevWarning 2 s.serving.groups.length (servingMap s))
      ∧ (bit = 2 → powerState u = psDoze ∧ u.plane.dozing = true ∧ LoggedAs s u 0x1212 sevNotice psRun psDoze 0)
      ∧ (bit = 3 → powerState u = psHold) ∧ (bit = 4 → powerState u = psRest ∧ u.plane.powered = false)
    (s.pins.modResetN = true → s.plane.vaux = true → ∃ u, exec .modResetPin s = .next u ∧ fresh u 1
      ∧ now u = now s ∧ u.pins.modResetN = false ∧ u.pins.cpResetN = s.pins.cpResetN ∧ u.pins.pgIn = s.pins.pgIn
      ∧ u.store = { s.store with overflow := [] }
      ∧ pget u R.RS_STAT_MOD_RESETS = min (pget s R.RS_STAT_MOD_RESETS + 1) (2 ^ R.RS_STAT_MOD_RESETS.w - 1)) ∧
    (s.pins.modResetN = false → ∃ u, exec .modResetPin s = .next u ∧ u = s) ∧
    (∃ u, exec .modResetNRelease s = .next u ∧ u = { s with pins := { s.pins with modResetN := true } }) ∧
    (HasSession s m → ∃ u, exec (.modReset m) s = .next u ∧ fresh u 2
      ∧ (tbit (portOf s (sessionPort s m.session)).paused.toNat (fieldOf s F.PT_PCP_MGMT) = false →
        Answered s u m opReset stDone [])
      ∧ ∀ q l, s.serving.seqs.filter isLive = q :: l → seqNow s q = some q →
        LoggedAs s u 0x0A11 sevError (q.slot.getD 0 + q.ctx.val * 2 ^ 12) q.gen.length 0x1210) ∧
    (s.pins.cpResetN = true → s.plane.vaux = true → s.pins.modResetN = true → (at_ psRun ∨ at_ psDoze → ∃ u, exec .cpResetPin s = .next u
        ∧ powerState u = psReset ∧ LoggedAs s u 0x1211 sevWarning 1 s.serving.groups.length (servingMap s)) ∧
      (at_ psHold ∨ at_ psRest → ∃ u, exec .cpResetPin s = .next u
        ∧ u = { s with pins := { s.pins with cpResetN := false } })) ∧
    (s.plane.cpHeld = true → at_ psReset → quiet → ∃ u, exec .cpResetEnd s = .next u ∧ lit u
      ∧ u.plane.cpHeld = false ∧ u.pins.cpResetN = true) ∧
    (s.plane.cpHeld = true → at_ psHold ∨ at_ psRest → ∃ u, exec .cpResetEnd s = .next u
      ∧ u = { s with pins := { s.pins with cpResetN := true }, plane := { s.plane with cpHeld := false } }) ∧
    (isReady s = true → at_ psRun → planeIdle s = true → s.plane.cpHeld = false → fieldOf s F.RS_AUTO_DOZE_MS ≠ 0 →
      ∃ u, exec .autoDoze s = .next u ∧ powerState u = psDoze ∧ u.plane.autoDozed = true
        ∧ LoggedAs s u 0x1212 sevNotice psRun psDoze 3) ∧
    (s.plane.dozing = true → s.plane.dozeDone = false → s.serving.groups = [] → s.serving.commits = [] →
      ∃ u, exec .dozeEntryComplete s = .next u ∧ u.plane.dozeDone = true
        ∧ ∀ t : Tid, railOn s t = true → effStep u t = 0) ∧
    (HasSession s m → inRecovery s = true → ∀ c ∈ [Instr.cpReset m, .doze m, .hold m, .rest m, .run m],
      noted c stNotNow) ∧
    (HasSession s m → inRecovery s = false →
      (s.plane.vaux = true → s.pins.modResetN = true → at_ psRun ∨ at_ psDoze → managed (.cpReset m) 1) ∧
      (at_ psHold ∨ at_ psRest → noted (.cpReset m) stDone ∧ noted (.doze m) stDone ∧ noted (.hold m) stDone) ∧
      (at_ psRun → s.plane.cpHeld = false → managed (.doze m) 2) ∧
      (at_ psRun ∨ at_ psDoze ∨ at_ psReset → managed (.hold m) 3) ∧
      (¬ at_ psRest → managed (.rest m) 4) ∧ (at_ psRest → noted (.rest m) stDone ∧ noted (.run m) stDone) ∧
      (at_ psDoze → ∃ u, exec (.run m) s = .next u ∧ Answered s u m opReset stDone [] ∧ powerState u = psRun
        ∧ u.plane.dozing = false ∧ LoggedAs s u 0x1212 sevNotice psDoze psRun 0) ∧
      (at_ psHold → s.plant.stopped = false → s.plane.cpHeld = false → quiet → ∃ u, exec (.run m) s = .next u
        ∧ Answered s u m opReset stDone [] ∧ lit u ∧ LoggedAs s u 0x1212 sevNotice psHold psRun 0) ∧
      (at_ psHold → s.plant.stopped = true → restoredLong s = false → noted (.run m) stNotNow))

/-- O59. A slice starts in its place and turn, its region goes to the test frames and the tile is ordered to test; it
ends with a record and its mark in the sweep, and a failed one also with its count, SK_SLICE_FAIL and, for a quadrant,
a buffer part, a vector core or a path, the action of Table 19.2; an abandoned one counts and fails nothing, and one
that a fault has started is placed again; a bubble takes a free pipeline slot; a late sweep and a silent Bowler are
logged; an entry takes the next SEQNO, and the ring drops its oldest (R445 to R457). Model's choices:
notes/assumptions/74, 106. -/
def Obligations.TestsAndTroubleLog : Prop :=
  ∀ (s : State) (t : Tid) (d : Fin 56), Canonical s →
    (∀ k, (slicePlace s t k = true → sliceTurn s t k = true → ∃ u, exec (.testSliceStart t k) s = .next u
        ∧ tileOf u t = { tileOf s t with
            slice := some ⟨k, now s, (tileOf s t).wanted.contains k⟩
            lastKind := if (tileOf s t).wanted.contains k then (tileOf s t).lastKind else k.kind.val
            wanted := (tileOf s t).wanted.filter (· ≠ k) }
        ∧ u.ctrl = s.ctrl ++ [.order t .testSlice]
        ∧ (∀ i b, (sliceSaves (tileOf s t) k)[i]? = some b →
            mget (dieOf u t.d.val).mem (fid t.t.val testFrame0 * frameBytes + i) = b)
        ∧ tget u t R.SK_TILE_STAT_BUSY = 1) ∧
      ((slicePlace s t k && sliceTurn s t k) = false → ∃ u, exec (.testSliceStart t k) s = .next u ∧ u = s)) ∧
    (∀ r x, (tileOf s t).slice = some x → sliceValid t x.id = true → ∃ u, exec (.testSliceEnd t r) s = .next u
      ∧ (tileOf u t).slice = none ∧ (sliceDone u t x.id = true ∨ doneSlices u t = 0)
      ∧ (∃ q ∈ (dieOf u t.d.val).ring, q.tile = BitVec.ofNat 16 (widx t)
          ∧ q.kind = BitVec.ofNat 8 x.id.kind.val ∧ q.index = BitVec.ofNat 8 x.id.index
          ∧ q.outcome = (if sliceFails s t x.id r then 1 else 0)
          ∧ q.coverage = coverageOf x.id.kind.val ∧ q.micros = r.micros)
      ∧ (sliceFails s t x.id r = false → r.lost = [] → u.log = s.log)
      ∧ (sliceFails s t x.id r = true →
          tget u t R.SK_TILE_FAIL_FAILED = min (tget s t R.SK_TILE_FAIL_FAILED + 1) (2 ^ R.SK_TILE_FAIL_FAILED.w - 1)
          ∧ (∃ act, LoggedAs s u 0x1310 sevError (widx t * 2 ^ 16 + x.id.kind.val * 2 ^ 8 + x.id.index)
              (sliceDetail s t x.id r) act)
          ∧ (x.id.kind.val < 2 → (tileOf u t).fencePend = some .slice)
          ∧ (x.id.kind.val = 2 → tbit (tget u t R.TILE_STAT_NEWT_FENCE) x.id.index = true)
          ∧ (x.id.kind.val = 5 → (pathFails s t r 0).isSome = true → tget u t R.TH_HOT_A_FAILED = 1)
          ∧ (x.id.kind.val = 5 → (pathFails s t r 1).isSome = true → tget u t R.TH_HOT_B_FAILED = 1))) ∧
    (∀ x, (tileOf s t).slice = some x → ∃ u, exec (.sliceAbandon t) s = .next u ∧ (tileOf u t).slice = none
      ∧ u.log = s.log ∧ tget u t R.SK_TILE_STAT_BUSY = 0
      ∧ (tileOf u t).wanted = (if x.asked then x.id :: (tileOf s t).wanted else (tileOf s t).wanted)
      ∧ tget u t R.SK_TILE_FAIL_ABANDONED = min (tget s t R.SK_TILE_FAIL_ABANDONED + 1)
        (2 ^ R.SK_TILE_FAIL_ABANDONED.w - 1)
      ∧ ∃ q ∈ (dieOf u t.d.val).ring, q.tile = BitVec.ofNat 16 (widx t) ∧ q.outcome = 2 ∧ q.coverage = 0) ∧
    (∀ (c : Fin 4) x, tileCtx s t = some c.val → ctxOf s c.val = some x → placed x t = true → ctxServing s c.val = true →
      isReady s = true →
      let full : Bool := pipeSlots s x ≤ (s.serving.groups.filter fun g => g.ctx = c).length
      let bubbles (u : State) : Prop := dget u t.d.val R.SK_DIE_STAT_BUBBLES
        = min (dget s t.d.val R.SK_DIE_STAT_BUBBLES + 1) (2 ^ R.SK_DIE_STAT_BUBBLES.w - 1)
      (admissionOpen s c.val = true → bubbleDue s c.val = true → full = false →
        ∃ u, exec (.bubbleRequest t) s = .next u ∧ bubbles u
          ∧ ∃ g ∈ u.serving.groups, g.ctx = c ∧ g.bubble = true ∧ g.members = [] ∧ g.layer = 0) ∧
      ((admissionOpen s c.val && bubbleDue s c.val && !full) = false →
        ∃ u, exec (.bubbleRequest t) s = .next u ∧ bubbles u ∧ u.serving = s.serving)) ∧
    (∀ (hours : Word) h, isReady s = true → dieOn s d.val = true → (dieOf s d.val).lateWritten = false →
      (dieOf s d.val).sweep = some h → h ≤ hours.toNat →
      ∃ u, exec (.sweepLate d hours) s = .next u ∧ dget u d.val R.SK_DIE_STAT_LATE = 1
        ∧ (dieOf u d.val).lateWritten = true
        ∧ LoggedAs s u 0x1315 sevWarning d.val hours.toNat (sweepTotal s d - sweepDone s d)) ∧
    ((isReady s && dieOn s d.val && !(dieFailed s d.val)) = true →
      ∃ u, exec (.bowlerTimeout d) s = .next u ∧ dieUp u d.val = false
        ∧ ∃ hit, LoggedAs s u 0x1313 sevError d.val 3 hit) ∧
    ((isReady s && dieOn s d.val && !(dieFailed s d.val)) = false →
      ∃ u, exec (.bowlerTimeout d) s = .next u ∧ u = s) ∧
    (∀ e : LogRec, codeNamed e.code.toNat = false → ∃ u, exec (.logEntry e) s = .next u ∧ u = s) ∧
    (∀ e : LogRec, codeNamed e.code.toNat = true → ∃ u, exec (.logEntry e) s = .next u
      ∧ u.log = s.log.drop (s.log.length + 1 - logCap) ++ [⟨BitVec.ofNat 32 (pget s R.LOG_HEAD_SEQNO), e⟩]
      ∧ pget u R.LOG_HEAD_SEQNO = (pget s R.LOG_HEAD_SEQNO + 1) % 2 ^ 32
      ∧ (s.log.length = logCap → pget u R.LOG_LOST_COUNT = min (pget s R.LOG_LOST_COUNT + 1) (2 ^ 32 - 1))
      ∧ (e.severity = 3 → pget u R.LOG_STAT_ALERT = 1 ∧ u.pins.alertN = false)
      ∧ (e.severity ≠ 3 → pget u R.LOG_STAT_ALERT = pget s R.LOG_STAT_ALERT ∧ u.pins = s.pins))

/-- O60. A management request is answered as its session, header, OP and state ask, and a broken header ends the
session; registers, run settings, the log and the records are read as their tables lay them out; writes change the one
register, field, image, pool, tenant or key that they name, or nothing; a handshake opens a session within the limit,
and an idle one closes; ring frames and ACCESS reach one register (R192, R195, R224, R411, R467 to R473, R478 to
R485). Model's choices: notes/assumptions/60, 83, 107. -/
def Obligations.ManagementIsAnswered : Prop :=
  ∀ (s : State) (m : Mgmt), Canonical s →
    let same (u : State) (v : State) : Prop := u = { v with out := u.out, ports := u.ports }
    let answers (c : Instr) (op st : Nat) (body : List Byte) : Prop :=
      ∃ u, exec c s = .next u ∧ Answered s u m op st body ∧ same u s
    let ready : Prop := isReady s = true
    let rows (addr : DWord) words (n : Word) (id len : Half) v (c d : Byte) q t r body nc key ctr sig f e ds rec : List (Instr × Nat) :=
      [(.regRead m addr n, opRegRead), (.regWrite m addr words, opRegWrite), (.fieldRead m id, opFieldRead),
        (.fieldWrite m id len v, opFieldWrite), (.capabilityRead m, opCapability), (.repairMapRead m, opRepairMap),
        (.testRecordRead m d, opTestRecord), (.loadReportRead m c, opLoadReport),
        (.spillPoolRegister m d q, opPoolRegister), (.sequenceQuery m t r, opSequenceQuery),
        (.tenantSet m body, opTenantSet), (.certificateRead m, opCertificate), (.attestation m nc, opAttestation),
        (.setConfigKey m key ctr sig, opSetConfigKey), (.load m c d ds, opLoad), (.replace m c d, opReplace),
        (.unload m c, opUnload), (.manifestWrite m c e, opManifestWrite), (.opticsRecordSet m c rec len, opOpticsSet),
        (.resume m, opResume)]
        ++ [(.ringAccess m f, opRingAccess), (.modReset m, opReset), (.cpReset m, opReset), (.doze m, opReset),
          (.hold m, opReset), (.rest m, opReset), (.run m, opReset)]
    (∀ addr words n id len v c d q t r body nc key ctr sig f e ds rec dev img,
      let asked := rows addr words n id len v c d q t r body nc key ctr sig f e ds rec
      let all : List (Instr × Nat) := asked ++ [(.statusRead m, opStatusRead), (.configReportRead m, opConfigReport),
        (.logRead m addr.toNat n, opLogRead), (.bciWrite m dev img, opBciWrite)]
      (sessionOf s m.session = none → ∀ x ∈ all, ∃ u, exec x.1 s = .next u ∧ u = s) ∧
      (SessionUp s m → mgmtHeadOk m = false → ∀ x ∈ all, ∃ u g, exec x.1 s = .next u
        ∧ Given s u (.tlsAlert m.session g)
        ∧ same u { s with sessions := s.sessions.filter (·.id ≠ m.session) }) ∧
      (SessionUp s m → mgmtHeadOk m = true → ∀ k : Half, m.other = some k → ∀ x ∈ all,
        answers x.1 k.toNat (if opCodes.contains k.toNat then stMalformed else stUnknownOp) []) ∧
      (SessionUp s m → mgmtHeadOk m = true → m.other = none →
        (isReady s = false → ∀ x ∈ asked.take 20, answers x.1 x.2 stNotNow []) ∧
        (ready → m.bodyOk = false → ∀ x ∈ asked.take 14, answers x.1 x.2 stMalformed []) ∧
        (inRecovery s = true → answers (.ringAccess m f) opRingAccess stNotNow []) ∧
        (isReady s = false → inRecovery s = false → answers (.bciWrite m dev img) opBciWrite stNotNow []))) ∧
    (HasSession s m →
      (answers (.statusRead m) opStatusRead stDone (statusBody s) ∧ (statusBody s).length = 32) ∧
      (∀ (addr : DWord) (n : Word), ready →
        (∀ e, placesAt s addr.toNat n.toNat = .error e → answers (.regRead m addr n) opRegRead e []) ∧
        (rangeOk addr.toNat n.toNat = false → placesAt s addr.toNat n.toNat = .error stMalformed) ∧
        (∀ l, placesAt s addr.toNat n.toNat = .ok l → ∃ u, exec (.regRead m addr n) s = .next u
          ∧ Answered s u m opRegRead stDone (readAll l s).1) ∧
        (∀ x, placesAt s addr.toNat 1 = .ok [x] → ∃ u, exec (.regRead m addr 1) s = .next u
          ∧ Answered s u m opRegRead stDone (leBytes 4 (regWord s x))
          ∧ (∀ e ∈ fieldsAt x, e.2 = Acc.rc → rget u x.die x.tile e.1 = 0)
          ∧ u = { s with
              regs := u.regs, time := u.time, plane := { s.plane with peakFrom := u.plane.peakFrom }
              out := u.out, ports := u.ports })) ∧
      (∀ (addr : DWord) (words : List Word), ready →
        (∀ e, placesAt s addr.toNat words.length = .error e → answers (.regWrite m addr words) opRegWrite e []) ∧
        (∀ l, placesAt s addr.toNat words.length = .ok l →
          tbit (portOf s (sessionPort s m.session)).paused.toNat (fieldOf s F.PT_PCP_MGMT) = false →
          ∃ u, exec (.regWrite m addr words) s = .next u ∧ Answered s u m opRegWrite stDone []) ∧
        (∀ x v, placesAt s addr.toNat 1 = .ok [x] → x.blk = R.PACE_STEP_EFFECTIVE.blk → x.off = R.PACE_STEP_EFFECTIVE.off →
          ∃ u, exec (.regWrite m addr [v]) s = .next u ∧ Answered s u m opRegWrite stDone []
            ∧ (∀ e ∈ fieldsAt x, rget u x.die x.tile e.1
              = if e.2 = Acc.rw then bitsOf v.toNat e.1.lo e.1.w else rget s x.die x.tile e.1)
            ∧ same u { s with regs := u.regs }) ∧
        (∃ u, exec (.regWrite m 0xFFF8390000 [0x80000000]) s = .next u ∧ Answered s u m opRegWrite stDone []
          ∧ pget u R.LOG_STAT_ALERT = 0 ∧ u.pins.alertN = true ∧ u.log = s.log)) ∧
      (∀ (id len : Half) v f, ready → fieldDef id.toNat = some f →
        let w := v % 2 ^ (8 * len.toNat)
        let told (u : State) (st a b : Nat) : Prop := Answered s u m opFieldWrite stDone
          (leBytes 2 id.toNat ++ leBytes 1 st ++ leBytes 16 a ++ leBytes 16 b)
        answers (.fieldRead m id) opFieldRead stDone
          (leBytes 16 (kget fieldDefault s.bciFields id.toNat) ++ leBytes 16 (fieldOf s id.toNat)) ∧
        (len.toNat < 1 ∨ 16 < len.toNat → ∃ u, exec (.fieldWrite m id len v) s = .next u ∧ same u s
          ∧ told u 4 (v % 2 ^ 128) 0) ∧
        (1 ≤ len.toNat → len.toNat ≤ 16 →
          (f.noEffect = true → kwf (fun _ => (0 : Nat)) s.recorded = true → ∃ u, exec (.fieldWrite m id len v) s = .next u
            ∧ same u { s with recorded := u.recorded } ∧ kget (fun _ => 0) u.recorded id.toNat = w
            ∧ told u 6 w (fieldOf s id.toNat)) ∧
          (f.noEffect = false → ∃ u, exec (.fieldWrite m id len v) s = .next u
            ∧ fieldOf u id.toNat = fieldCheckVal f w ∧ u.bciFields = s.bciFields
            ∧ told u (b2n (fieldClamped f w)) w (fieldCheckVal f w)
            ∧ (classOfField id.toNat ≠ none → LoggedCode s u 0x0A13 sevNotice)
            ∧ (classOfField id.toNat = none →
                id.toNat ∉ [F.SV_PIPE_SLOTS, F.SV_RESEND_RECORDS, F.SK_PERIODIC] →
                same u { s with fields := u.fields })))) ∧
      (∀ (id len : Half) v, ready → fieldDef id.toNat = none → 1 ≤ len.toNat → len.toNat ≤ 16 →
        answers (.fieldRead m id) opFieldRead stNoTarget [] ∧
        answers (.fieldWrite m id len v) opFieldWrite stDone
          (leBytes 2 id.toNat ++ leBytes 1 2 ++ leBytes 16 (v % 2 ^ (8 * len.toNat)) ++ leBytes 16 0)) ∧
      (answers (.configReportRead m) opConfigReport stDone (reportBytes s.report)
        ∧ (reportBytes s.report).length = 64 + 40 * s.report.entries.length) ∧
      (∀ first n : Word, (n = 0 ∨ 256 < n.toNat → answers (.logRead m first n) opLogRead stMalformed []) ∧
        (n ≠ 0 → n.toNat ≤ 256 → answers (.logRead m first n) opLogRead stDone
          (leBytes 4 (logFrom s first n.toNat).1 ++ leBytes 4 (logFrom s first n.toNat).2.length
            ++ ((logFrom s first n.toNat).2.map logBytes).flatten))) ∧
      (∀ (dev : Byte) img, isReady s = true ∨ inRecovery s = true →
        (dev.toNat ≤ 1 → imageReason s img = 0 → ∃ u, exec (.bciWrite m dev img) s = .next u
          ∧ Answered s u m opBciWrite stDone [] ∧ same u { s with
            store := if dev = 0 then { s.store with bciA := img } else { s.store with bciB := img } }) ∧
        (1 < dev.toNat ∨ imageReason s img = 1 → answers (.bciWrite m dev img) opBciWrite stMalformed []) ∧
        (dev.toNat ≤ 1 → 2 ≤ imageReason s img →
          answers (.bciWrite m dev img) opBciWrite stRefused (leBytes 4 (imageReason s img)))) ∧
      (ready → answers (.capabilityRead m) opCapability stDone (capRecord s) ∧ (capRecord s).length = 64 ∧
        answers (.repairMapRead m) opRepairMap stDone (repairBytes s)
        ∧ answers (.certificateRead m) opCertificate stDone s.store.certificate) ∧
      (∀ nc, ready → answers (.attestation m nc) opAttestation stDone (attBody s nc ++ signed s (attBody s nc))
        ∧ (attBody s nc).length = 1024 ∧ (signed s (attBody s nc)).length = 128) ∧
      (∀ d : Byte, ready → (d.toNat ≤ 55 → dieOn s d.toNat = true → answers (.testRecordRead m d) opTestRecord stDone
          ((dieOf s d.toNat).ring.map testBytes).flatten) ∧
        (55 < d.toNat ∨ dieOn s d.toNat = false → answers (.testRecordRead m d) opTestRecord stNoTarget [])) ∧
      (∀ c : Byte, ready → (3 < c.toNat → answers (.loadReportRead m c) opLoadReport stMalformed []) ∧
        (c.toNat ≤ 3 → answers (.loadReportRead m c) opLoadReport stDone
          (((kget (fun _ => none) s.loader.reports c.toNat).map loadBytes).getD []))) ∧
      (∀ (t : Half) r, ready → (∀ q, seqOf s t.toNat r = some q → (isLive q || q.kept) = true →
          answers (.sequenceQuery m t r) opSequenceQuery stDone (seqBytes q)) ∧
        ((∀ q, seqOf s t.toNat r = some q → (isLive q || q.kept) = false) →
          answers (.sequenceQuery m t r) opSequenceQuery stNoTarget [])) ∧
      (∀ (p : Byte) q, ready → (1 < p.toNat → answers (.spillPoolRegister m p q) opPoolRegister stNoTarget []) ∧
        (p.toNat ≤ 1 → (poolsOf s p.toNat).any (·.draining) = true →
          answers (.spillPoolRegister m p q) opPoolRegister stRefused (leBytes 4 1)) ∧
        (p.toNat ≤ 1 → (poolsOf s p.toNat).any (·.draining) = false →
          ∃ u, exec (.spillPoolRegister m p q) s = .next u ∧ Answered s u m opPoolRegister stDone []
            ∧ (q.pages = 0 → (portOf u p.toNat).current = none)
            ∧ (q.pages ≠ 0 → ∃ i, (portOf u p.toNat).current = some i
              ∧ poolOf u p.toNat i = some ⟨q, 0, false, 0⟩))) ∧
      (∀ body, ready → (tenantBodyOk body = false → answers (.tenantSet m body) opTenantSet stMalformed []) ∧
        (tenantBodyOk body = true → ∃ u, exec (.tenantSet m body) s = .next u ∧ Answered s u m opTenantSet stDone []) ∧
        (tenantBodyOk body = true → body.length = 192 → kwf noTenant s.serving.tenants = true →
          let e := tenantAt body 0
          let cause := tenantCause s.store.devicePriv.toNat [] e
          ∃ u, exec (.tenantSet m body) s = .next u
            ∧ (cause = 0 → ∃ x, tenantOf u e.tenant.toNat = some x ∧ x.mask = e.mask ∧ x.maxSeq = e.maxSeq.toNat
              ∧ tenantSecret s.store.devicePriv.toNat e.wrapped = some x.key ∧ x.defClass = defaultClass e
              ∧ ∀ y, tenantOf s e.tenant.toNat = some y →
                x.highest = y.highest ∧ x.accepted = y.accepted ∧ x.send = y.send)
            ∧ (∀ n, n ≠ e.tenant.toNat ∨ cause ≠ 0 → tenantOf u n = tenantOf s n)
            ∧ (cause = 1 → LoggedAs s u 0x1411 sevWarning 1 e.tenant.toNat 0))) ∧
      (∀ key (ctr : DWord) sig, ready →
        let ok := Config.sm2Verify (cfgKey s).key (keyMessage s key ctr.toNat) sig && (cfgKey s).counter < ctr.toNat
        (ok = true → ∃ u, exec (.setConfigKey m key ctr sig) s = .next u ∧ Answered s u m opSetConfigKey stDone []
          ∧ u.store = { s.store with cfg0 := ⟨key, ctr.toNat, true⟩, cfg1 := ⟨key, ctr.toNat, true⟩ }
          ∧ LoggedCode s u 0x1412 sevNotice) ∧
        (ok = false → answers (.setConfigKey m key ctr sig) opSetConfigKey stRefused (leBytes 4 Config.keyRefused)))) ∧
    (∀ o : TlsOffer, s.plane.vaux = true → keyOk s = true → portUp s o.port.val = true → sessionOf s o.session = none →
      let full : Prop := fieldOf s F.SEC_MGMT_SESSIONS ≤ s.sessions.length
      let good := offerOk o && Config.sm2Verify (cfgKey s).key (sm3 o.certBody) o.certSig
      (¬ full → good = true → ∃ u, exec (.tlsHandshake o) s = .next u
        ∧ u = { s with sessions := s.sessions ++ [⟨o.session, o.port, o.certKey, fieldOf s F.SEC_MGMT_IDLE_S⟩] }) ∧
      (full ∨ good = false → ∃ u, exec (.tlsHandshake o) s = .next u ∧ u.sessions = s.sessions
        ∧ pget u R.BON_STAT_TLS_REFUSED = min (pget s R.BON_STAT_TLS_REFUSED + 1) 255
        ∧ (full → u.out = s.out ∧ u.plane.tlsReason = 2)
        ∧ (¬ full → u.plane.tlsReason = (if offerOk o then 1 else 0) ∧ ∃ g, Given s u (.tlsAlert o.session g)))) ∧
    (∀ (id : Nat) (idleS : Word), ∃ u, exec (.mgmtIdleTimeout ⟨id, idleS⟩) s = .next u
      ∧ u = { s with sessions := u.sessions }
      ∧ ∀ x, x ∈ u.sessions ↔ x ∈ s.sessions ∧ ¬ (x.id = id ∧ x.idle ≤ idleS.toNat)) ∧
    (∀ (addr : DWord) x, placeAt s addr.toNat = .ok x → addr.toNat % 4 = 0 → x.die < 56 →
      ∃ u, exec (.access addr none) s = .next u ∧ Sent s u (.accessData addr (BitVec.ofNat 32 (regWord s x)))) ∧
    (∀ (f : RingFrame) x, let good := crc8 (ringBytes f 0) = f.crc.toNat ∧ f.sync = 0xA5
      let on := f.node.toNat ≤ 59 ∧ nodePowered s (nodeDie f.node.toNat) = true
      let body (st : Nat) (v : Word) : List Byte :=
        ringBytes { f with data := v } st ++ leBytes 1 (crc8 (ringBytes { f with data := v } st))
      let back (st : Nat) (v : Word) : Prop :=
        (∃ u, exec (.ringFrame f) s = .next u ∧ Sent s u (.ringReply st v)) ∧
        (HasSession s m → inRecovery s = false → ∃ u, exec (.ringAccess m f) s = .next u
          ∧ Answered s u m opRingAccess stDone (body st v))
      (¬ good → back 3 f.data) ∧ (good → ¬ on → back 1 f.data) ∧ (good → on → f.op = 3 → back 0 f.data) ∧
      (good → on → f.op ≠ 1 → f.op ≠ 2 → f.op ≠ 3 → back 2 f.data) ∧
      (good → on → f.op = 1 → placeAt s (nodeDie f.node.toNat * 2 ^ 32 + f.addr.toNat) = .ok x →
        f.addr.toNat % 4 = 0 → back 0 (BitVec.ofNat 32 (regWord s x))))
end

