-- ==== Sys2Proof/Laws/Sparse.lean ====
section
/-! SUPPORT. Laws of the sparse maps and byte memories of Machine/Ops.lean: reads after writes, and that every
operation keeps the canonical form. -/
namespace Sys2Proof.Machine

variable {α : Type} [DecidableEq α] {d : Nat → α} {m : List (Nat × α)} {k j b : Nat} {v : α}

/-! ## The canonical form -/

theorem kwf_nil : kwf d [] = true := rfl

theorem kwf_cons {e : Nat × α} {r : List (Nat × α)} :
    kwf d (e :: r) = true ↔ kabove e.1 r = true ∧ e.2 ≠ d e.1 ∧ kwf d r = true := by
  obtain ⟨k, v⟩ := e
  simp [kwf, and_assoc]

/-- Every key of a canonical list after a key is above it. -/
theorem kwf_lt {e : Nat × α} {r : List (Nat × α)} (h : kwf d (e :: r) = true) :
    ∀ x ∈ r, e.1 < x.1 := by
  induction r generalizing e with
  | nil => simp
  | cons y r ih =>
    obtain ⟨ha, -, hr⟩ := kwf_cons.1 h
    have hy : e.1 < y.1 := by simpa [kabove] using ha
    intro x hx
    rcases List.mem_cons.1 hx with rfl | hx
    · exact hy
    · exact Nat.lt_trans hy (ih hr x hx)

omit [DecidableEq α] in
theorem kabove_of_lt {r : List (Nat × α)} (h : ∀ x ∈ r, b < x.1) : kabove b r = true := by
  cases r with
  | nil => rfl
  | cons y r => simpa [kabove] using h y (by simp)

omit [DecidableEq α] in
theorem kget_above {r : List (Nat × α)} (h : ∀ x ∈ r, k < x.1) : kget d r k = d k := by
  induction r with
  | nil => rfl
  | cons y r ih =>
    have := h y (by simp)
    simp only [kget]
    rw [if_neg (by omega)]
    exact ih fun x hx => h x (by simp [hx])

omit [DecidableEq α] in
theorem mem_kdel {x : Nat × α} (h : x ∈ kdel m k) : x ∈ m := by
  induction m with
  | nil => simp [kdel] at h
  | cons y r ih =>
    simp only [kdel] at h
    split at h
    · exact List.mem_cons_of_mem _ h
    · rcases List.mem_cons.1 h with rfl | h
      · simp
      · exact List.mem_cons_of_mem _ (ih h)

omit [DecidableEq α] in
theorem mem_kput {x : Nat × α} (h : x ∈ kput m k v) : x ∈ m ∨ x = (k, v) := by
  induction m with
  | nil => simpa [kput] using h
  | cons y r ih =>
    simp only [kput] at h
    split at h
    · rcases List.mem_cons.1 h with rfl | h
      · exact .inr rfl
      · exact .inl h
    · split at h
      · rcases List.mem_cons.1 h with rfl | h
        · exact .inr rfl
        · exact .inl (List.mem_cons_of_mem _ h)
      · rcases List.mem_cons.1 h with rfl | h
        · exact .inl (by simp)
        · exact (ih h).imp (List.mem_cons_of_mem _) id

theorem kwf_kdel (h : kwf d m = true) : kwf d (kdel m k) = true := by
  induction m with
  | nil => rfl
  | cons y r ih =>
    obtain ⟨-, hv, hr⟩ := kwf_cons.1 h
    simp only [kdel]
    split
    · exact hr
    · exact kwf_cons.2 ⟨kabove_of_lt fun x hx => kwf_lt h x (mem_kdel hx), hv, ih hr⟩

theorem kwf_kput (hv : v ≠ d k) (h : kwf d m = true) : kwf d (kput m k v) = true := by
  induction m with
  | nil => simp [kput, kwf, kabove, hv]
  | cons y r ih =>
    obtain ⟨ha, hy, hr⟩ := kwf_cons.1 h
    simp only [kput]
    split
    · next hlt => exact kwf_cons.2 ⟨by simpa [kabove] using hlt, hv, h⟩
    · split
      · next he => subst he; exact kwf_cons.2 ⟨ha, hv, hr⟩
      · refine kwf_cons.2 ⟨kabove_of_lt fun x hx => ?_, hy, ih hr⟩
        rcases mem_kput hx with hx | rfl
        · exact kwf_lt h x hx
        · simp only; omega

theorem kwf_kset (h : kwf d m = true) : kwf d (kset d m k v) = true := by
  unfold kset
  split
  · exact kwf_kdel h
  · next hv => exact kwf_kput hv h

theorem kwf_filter (p : Nat × α → Bool) (h : kwf d m = true) : kwf d (m.filter p) = true := by
  induction m with
  | nil => rfl
  | cons y r ih =>
    obtain ⟨-, hv, hr⟩ := kwf_cons.1 h
    rw [List.filter_cons]
    split
    · exact kwf_cons.2 ⟨kabove_of_lt fun x hx => kwf_lt h x (List.mem_filter.1 hx).1, hv, ih hr⟩
    · exact ih hr

/-! ## Reads after writes -/

omit [DecidableEq α] in
theorem kget_kdel_ne (h : j ≠ k) : kget d (kdel m k) j = kget d m j := by
  induction m with
  | nil => rfl
  | cons y r ih =>
    simp only [kdel]
    split
    · next he => subst he; simp [kget, h]
    · simp [kget, ih]

omit [DecidableEq α] in
theorem kget_kput_ne (h : j ≠ k) : kget d (kput m k v) j = kget d m j := by
  induction m with
  | nil => simp [kput, kget, h]
  | cons y r ih =>
    simp only [kput]
    split
    · simp [kget, h]
    · split
      · next he => subst he; simp [kget, h]
      · simp [kget, ih]

omit [DecidableEq α] in
@[simp] theorem kget_kput_self : kget d (kput m k v) k = v := by
  induction m with
  | nil => simp [kput, kget]
  | cons y r ih =>
    simp only [kput]
    split
    · simp [kget]
    · split
      · simp [kget]
      · next h => simp [kget, h, ih]

/-- A write of another key leaves a read alone. -/
theorem kget_kset_ne (h : j ≠ k) : kget d (kset d m k v) j = kget d m j := by
  unfold kset
  split
  · exact kget_kdel_ne h
  · exact kget_kput_ne h

/-- A read of the key that a canonical map has just had written. -/
theorem kget_kset_self (h : kwf d m = true) : kget d (kset d m k v) k = v := by
  unfold kset
  split
  · next hv =>
    subst hv
    induction m with
    | nil => rfl
    | cons y r ih =>
      simp only [kdel]
      split
      · next he => subst he; exact kget_above (kwf_lt h)
      · next he => simp [kget, he, ih (kwf_cons.1 h).2.2]
  · exact kget_kput_self

/-! ## Byte memories -/

theorem memory_nil : Memory.wf [] = true := rfl

theorem mset_wf {m : List Host.Cell} {a : Nat} {x : Byte} (h : Memory.wf m = true) :
    Memory.wf (mset m a x) = true := kwf_kset h

theorem mstore_wf {m : List Host.Cell} {a : Nat} {l : List Byte} (h : Memory.wf m = true) :
    Memory.wf (mstore m a l) = true := by
  induction l generalizing m a with
  | nil => exact h
  | cons x r ih => exact ih (mset_wf h)

theorem mwrite_wf {m : List Host.Cell} {a n v : Nat} (h : Memory.wf m = true) :
    Memory.wf (mwrite m a n v) = true := mstore_wf h

theorem clearFrame_wf {m : List Host.Cell} {f : Nat} (h : Memory.wf m = true) :
    Memory.wf (clearFrame m f) = true := kwf_filter _ h

theorem putFrame_wf {m : List Host.Cell} {f : Nat} {bytes : List Byte} (h : Memory.wf m = true) :
    Memory.wf (putFrame m f bytes) = true := mstore_wf (clearFrame_wf h)

theorem foldl_mset_wf {β : Type} {f : β → Nat} {g : β → Byte} {l : List β} {m : List Host.Cell}
    (h : Memory.wf m = true) : Memory.wf (l.foldl (fun m e => mset m (f e) (g e)) m) = true := by
  induction l generalizing m with
  | nil => exact h
  | cons x r ih => exact ih (mset_wf h)

/-- A byte written reads back. -/
theorem mget_mset_self {m : List Host.Cell} {a : Nat} {x : Byte} (h : Memory.wf m = true) :
    mget (mset m a x) a = x := kget_kset_self h

/-- A byte written leaves every other byte alone. -/
theorem mget_mset_ne {m : List Host.Cell} {a c : Nat} {x : Byte} (h : c ≠ a) :
    mget (mset m a x) c = mget m c := kget_kset_ne h

/-- A store leaves every byte outside it alone. -/
theorem mget_mstore_out {m : List Host.Cell} {a c : Nat} {l : List Byte} (h : c < a ∨ a + l.length ≤ c) :
    mget (mstore m a l) c = mget m c := by
  induction l generalizing m a with
  | nil => rfl
  | cons x r ih =>
    simp only [List.length_cons] at h
    rw [mstore, ih (by omega), mget_mset_ne (by omega)]

/-- A byte stored reads back. -/
theorem mget_mstore_in {m : List Host.Cell} {a i : Nat} {l : List Byte} (hw : Memory.wf m = true)
    (h : i < l.length) : mget (mstore m a l) (a + i) = l[i] := by
  induction l generalizing m a i with
  | nil => simp at h
  | cons x r ih =>
    cases i with
    | zero => rw [mstore, mget_mstore_out (.inl (by omega))]; exact mget_mset_self hw
    | succ i =>
      have := ih (m := mset m a x) (a := a + 1) (i := i) (mset_wf hw) (by simpa using h)
      rw [mstore, show a + (i + 1) = a + 1 + i by omega, this]; rfl

end Sys2Proof.Machine
end

