-- ==== Sys2Proof/Laws/State.lean ====
section
/-! SUPPORT. For each named update of the state (Machine/Ops.lean), what every other part of the state reads after
it; and reads of tiles, dies, ports and register fields after writes. -/
namespace Sys2Proof.Machine

variable {s : State}

/-! ## setTile -/

@[simp] theorem setTile_regs {t : Tid} {v : TileState} : (setTile s t v).regs = s.regs := rfl
@[simp] theorem setTile_dies {t : Tid} {v : TileState} : (setTile s t v).dies = s.dies := rfl
@[simp] theorem setTile_ports {t : Tid} {v : TileState} : (setTile s t v).ports = s.ports := rfl
@[simp] theorem setTile_fields {t : Tid} {v : TileState} : (setTile s t v).fields = s.fields := rfl
@[simp] theorem setTile_bciFields {t : Tid} {v : TileState} : (setTile s t v).bciFields = s.bciFields := rfl
@[simp] theorem setTile_recorded {t : Tid} {v : TileState} : (setTile s t v).recorded = s.recorded := rfl
@[simp] theorem setTile_ctrl {t : Tid} {v : TileState} : (setTile s t v).ctrl = s.ctrl := rfl
@[simp] theorem setTile_serving {t : Tid} {v : TileState} : (setTile s t v).serving = s.serving := rfl
@[simp] theorem setTile_loader {t : Tid} {v : TileState} : (setTile s t v).loader = s.loader := rfl
@[simp] theorem setTile_store {t : Tid} {v : TileState} : (setTile s t v).store = s.store := rfl
@[simp] theorem setTile_report {t : Tid} {v : TileState} : (setTile s t v).report = s.report := rfl
@[simp] theorem setTile_log {t : Tid} {v : TileState} : (setTile s t v).log = s.log := rfl
@[simp] theorem setTile_time {t : Tid} {v : TileState} : (setTile s t v).time = s.time := rfl
@[simp] theorem setTile_pins {t : Tid} {v : TileState} : (setTile s t v).pins = s.pins := rfl
@[simp] theorem setTile_plant {t : Tid} {v : TileState} : (setTile s t v).plant = s.plant := rfl
@[simp] theorem setTile_plane {t : Tid} {v : TileState} : (setTile s t v).plane = s.plane := rfl
@[simp] theorem setTile_sessions {t : Tid} {v : TileState} : (setTile s t v).sessions = s.sessions := rfl
@[simp] theorem setTile_out {t : Tid} {v : TileState} : (setTile s t v).out = s.out := rfl
@[simp] theorem setTile_pending {t : Tid} {v : TileState} : (setTile s t v).pending = s.pending := rfl

/-! ## modTile -/

@[simp] theorem modTile_regs {t : Tid} {f : TileState → TileState} : (modTile s t f).regs = s.regs := rfl
@[simp] theorem modTile_dies {t : Tid} {f : TileState → TileState} : (modTile s t f).dies = s.dies := rfl
@[simp] theorem modTile_ports {t : Tid} {f : TileState → TileState} : (modTile s t f).ports = s.ports := rfl
@[simp] theorem modTile_fields {t : Tid} {f : TileState → TileState} : (modTile s t f).fields = s.fields := rfl
@[simp] theorem modTile_bciFields {t : Tid} {f : TileState → TileState} : (modTile s t f).bciFields = s.bciFields := rfl
@[simp] theorem modTile_recorded {t : Tid} {f : TileState → TileState} : (modTile s t f).recorded = s.recorded := rfl
@[simp] theorem modTile_ctrl {t : Tid} {f : TileState → TileState} : (modTile s t f).ctrl = s.ctrl := rfl
@[simp] theorem modTile_serving {t : Tid} {f : TileState → TileState} : (modTile s t f).serving = s.serving := rfl
@[simp] theorem modTile_loader {t : Tid} {f : TileState → TileState} : (modTile s t f).loader = s.loader := rfl
@[simp] theorem modTile_store {t : Tid} {f : TileState → TileState} : (modTile s t f).store = s.store := rfl
@[simp] theorem modTile_report {t : Tid} {f : TileState → TileState} : (modTile s t f).report = s.report := rfl
@[simp] theorem modTile_log {t : Tid} {f : TileState → TileState} : (modTile s t f).log = s.log := rfl
@[simp] theorem modTile_time {t : Tid} {f : TileState → TileState} : (modTile s t f).time = s.time := rfl
@[simp] theorem modTile_pins {t : Tid} {f : TileState → TileState} : (modTile s t f).pins = s.pins := rfl
@[simp] theorem modTile_plant {t : Tid} {f : TileState → TileState} : (modTile s t f).plant = s.plant := rfl
@[simp] theorem modTile_plane {t : Tid} {f : TileState → TileState} : (modTile s t f).plane = s.plane := rfl
@[simp] theorem modTile_sessions {t : Tid} {f : TileState → TileState} : (modTile s t f).sessions = s.sessions := rfl
@[simp] theorem modTile_out {t : Tid} {f : TileState → TileState} : (modTile s t f).out = s.out := rfl
@[simp] theorem modTile_pending {t : Tid} {f : TileState → TileState} : (modTile s t f).pending = s.pending := rfl

/-! ## setDie -/

@[simp] theorem setDie_regs {d : Nat} {v : DieState} : (setDie s d v).regs = s.regs := rfl
@[simp] theorem setDie_tiles {d : Nat} {v : DieState} : (setDie s d v).tiles = s.tiles := rfl
@[simp] theorem setDie_ports {d : Nat} {v : DieState} : (setDie s d v).ports = s.ports := rfl
@[simp] theorem setDie_fields {d : Nat} {v : DieState} : (setDie s d v).fields = s.fields := rfl
@[simp] theorem setDie_bciFields {d : Nat} {v : DieState} : (setDie s d v).bciFields = s.bciFields := rfl
@[simp] theorem setDie_recorded {d : Nat} {v : DieState} : (setDie s d v).recorded = s.recorded := rfl
@[simp] theorem setDie_ctrl {d : Nat} {v : DieState} : (setDie s d v).ctrl = s.ctrl := rfl
@[simp] theorem setDie_serving {d : Nat} {v : DieState} : (setDie s d v).serving = s.serving := rfl
@[simp] theorem setDie_loader {d : Nat} {v : DieState} : (setDie s d v).loader = s.loader := rfl
@[simp] theorem setDie_store {d : Nat} {v : DieState} : (setDie s d v).store = s.store := rfl
@[simp] theorem setDie_report {d : Nat} {v : DieState} : (setDie s d v).report = s.report := rfl
@[simp] theorem setDie_log {d : Nat} {v : DieState} : (setDie s d v).log = s.log := rfl
@[simp] theorem setDie_time {d : Nat} {v : DieState} : (setDie s d v).time = s.time := rfl
@[simp] theorem setDie_pins {d : Nat} {v : DieState} : (setDie s d v).pins = s.pins := rfl
@[simp] theorem setDie_plant {d : Nat} {v : DieState} : (setDie s d v).plant = s.plant := rfl
@[simp] theorem setDie_plane {d : Nat} {v : DieState} : (setDie s d v).plane = s.plane := rfl
@[simp] theorem setDie_sessions {d : Nat} {v : DieState} : (setDie s d v).sessions = s.sessions := rfl
@[simp] theorem setDie_out {d : Nat} {v : DieState} : (setDie s d v).out = s.out := rfl
@[simp] theorem setDie_pending {d : Nat} {v : DieState} : (setDie s d v).pending = s.pending := rfl

/-! ## modDie -/

@[simp] theorem modDie_regs {d : Nat} {f : DieState → DieState} : (modDie s d f).regs = s.regs := rfl
@[simp] theorem modDie_tiles {d : Nat} {f : DieState → DieState} : (modDie s d f).tiles = s.tiles := rfl
@[simp] theorem modDie_ports {d : Nat} {f : DieState → DieState} : (modDie s d f).ports = s.ports := rfl
@[simp] theorem modDie_fields {d : Nat} {f : DieState → DieState} : (modDie s d f).fields = s.fields := rfl
@[simp] theorem modDie_bciFields {d : Nat} {f : DieState → DieState} : (modDie s d f).bciFields = s.bciFields := rfl
@[simp] theorem modDie_recorded {d : Nat} {f : DieState → DieState} : (modDie s d f).recorded = s.recorded := rfl
@[simp] theorem modDie_ctrl {d : Nat} {f : DieState → DieState} : (modDie s d f).ctrl = s.ctrl := rfl
@[simp] theorem modDie_serving {d : Nat} {f : DieState → DieState} : (modDie s d f).serving = s.serving := rfl
@[simp] theorem modDie_loader {d : Nat} {f : DieState → DieState} : (modDie s d f).loader = s.loader := rfl
@[simp] theorem modDie_store {d : Nat} {f : DieState → DieState} : (modDie s d f).store = s.store := rfl
@[simp] theorem modDie_report {d : Nat} {f : DieState → DieState} : (modDie s d f).report = s.report := rfl
@[simp] theorem modDie_log {d : Nat} {f : DieState → DieState} : (modDie s d f).log = s.log := rfl
@[simp] theorem modDie_time {d : Nat} {f : DieState → DieState} : (modDie s d f).time = s.time := rfl
@[simp] theorem modDie_pins {d : Nat} {f : DieState → DieState} : (modDie s d f).pins = s.pins := rfl
@[simp] theorem modDie_plant {d : Nat} {f : DieState → DieState} : (modDie s d f).plant = s.plant := rfl
@[simp] theorem modDie_plane {d : Nat} {f : DieState → DieState} : (modDie s d f).plane = s.plane := rfl
@[simp] theorem modDie_sessions {d : Nat} {f : DieState → DieState} : (modDie s d f).sessions = s.sessions := rfl
@[simp] theorem modDie_out {d : Nat} {f : DieState → DieState} : (modDie s d f).out = s.out := rfl
@[simp] theorem modDie_pending {d : Nat} {f : DieState → DieState} : (modDie s d f).pending = s.pending := rfl

/-! ## setPort -/

@[simp] theorem setPort_regs {p : Nat} {v : PortState} : (setPort s p v).regs = s.regs := rfl
@[simp] theorem setPort_tiles {p : Nat} {v : PortState} : (setPort s p v).tiles = s.tiles := rfl
@[simp] theorem setPort_dies {p : Nat} {v : PortState} : (setPort s p v).dies = s.dies := rfl
@[simp] theorem setPort_fields {p : Nat} {v : PortState} : (setPort s p v).fields = s.fields := rfl
@[simp] theorem setPort_bciFields {p : Nat} {v : PortState} : (setPort s p v).bciFields = s.bciFields := rfl
@[simp] theorem setPort_recorded {p : Nat} {v : PortState} : (setPort s p v).recorded = s.recorded := rfl
@[simp] theorem setPort_ctrl {p : Nat} {v : PortState} : (setPort s p v).ctrl = s.ctrl := rfl
@[simp] theorem setPort_serving {p : Nat} {v : PortState} : (setPort s p v).serving = s.serving := rfl
@[simp] theorem setPort_loader {p : Nat} {v : PortState} : (setPort s p v).loader = s.loader := rfl
@[simp] theorem setPort_store {p : Nat} {v : PortState} : (setPort s p v).store = s.store := rfl
@[simp] theorem setPort_report {p : Nat} {v : PortState} : (setPort s p v).report = s.report := rfl
@[simp] theorem setPort_log {p : Nat} {v : PortState} : (setPort s p v).log = s.log := rfl
@[simp] theorem setPort_time {p : Nat} {v : PortState} : (setPort s p v).time = s.time := rfl
@[simp] theorem setPort_pins {p : Nat} {v : PortState} : (setPort s p v).pins = s.pins := rfl
@[simp] theorem setPort_plant {p : Nat} {v : PortState} : (setPort s p v).plant = s.plant := rfl
@[simp] theorem setPort_plane {p : Nat} {v : PortState} : (setPort s p v).plane = s.plane := rfl
@[simp] theorem setPort_sessions {p : Nat} {v : PortState} : (setPort s p v).sessions = s.sessions := rfl
@[simp] theorem setPort_out {p : Nat} {v : PortState} : (setPort s p v).out = s.out := rfl
@[simp] theorem setPort_pending {p : Nat} {v : PortState} : (setPort s p v).pending = s.pending := rfl

/-! ## modPort -/

@[simp] theorem modPort_regs {p : Nat} {f : PortState → PortState} : (modPort s p f).regs = s.regs := rfl
@[simp] theorem modPort_tiles {p : Nat} {f : PortState → PortState} : (modPort s p f).tiles = s.tiles := rfl
@[simp] theorem modPort_dies {p : Nat} {f : PortState → PortState} : (modPort s p f).dies = s.dies := rfl
@[simp] theorem modPort_fields {p : Nat} {f : PortState → PortState} : (modPort s p f).fields = s.fields := rfl
@[simp] theorem modPort_bciFields {p : Nat} {f : PortState → PortState} : (modPort s p f).bciFields = s.bciFields := rfl
@[simp] theorem modPort_recorded {p : Nat} {f : PortState → PortState} : (modPort s p f).recorded = s.recorded := rfl
@[simp] theorem modPort_ctrl {p : Nat} {f : PortState → PortState} : (modPort s p f).ctrl = s.ctrl := rfl
@[simp] theorem modPort_serving {p : Nat} {f : PortState → PortState} : (modPort s p f).serving = s.serving := rfl
@[simp] theorem modPort_loader {p : Nat} {f : PortState → PortState} : (modPort s p f).loader = s.loader := rfl
@[simp] theorem modPort_store {p : Nat} {f : PortState → PortState} : (modPort s p f).store = s.store := rfl
@[simp] theorem modPort_report {p : Nat} {f : PortState → PortState} : (modPort s p f).report = s.report := rfl
@[simp] theorem modPort_log {p : Nat} {f : PortState → PortState} : (modPort s p f).log = s.log := rfl
@[simp] theorem modPort_time {p : Nat} {f : PortState → PortState} : (modPort s p f).time = s.time := rfl
@[simp] theorem modPort_pins {p : Nat} {f : PortState → PortState} : (modPort s p f).pins = s.pins := rfl
@[simp] theorem modPort_plant {p : Nat} {f : PortState → PortState} : (modPort s p f).plant = s.plant := rfl
@[simp] theorem modPort_plane {p : Nat} {f : PortState → PortState} : (modPort s p f).plane = s.plane := rfl
@[simp] theorem modPort_sessions {p : Nat} {f : PortState → PortState} : (modPort s p f).sessions = s.sessions := rfl
@[simp] theorem modPort_out {p : Nat} {f : PortState → PortState} : (modPort s p f).out = s.out := rfl
@[simp] theorem modPort_pending {p : Nat} {f : PortState → PortState} : (modPort s p f).pending = s.pending := rfl

/-! ## modServing -/

@[simp] theorem modServing_regs {f : Serving → Serving} : (modServing s f).regs = s.regs := rfl
@[simp] theorem modServing_tiles {f : Serving → Serving} : (modServing s f).tiles = s.tiles := rfl
@[simp] theorem modServing_dies {f : Serving → Serving} : (modServing s f).dies = s.dies := rfl
@[simp] theorem modServing_ports {f : Serving → Serving} : (modServing s f).ports = s.ports := rfl
@[simp] theorem modServing_fields {f : Serving → Serving} : (modServing s f).fields = s.fields := rfl
@[simp] theorem modServing_bciFields {f : Serving → Serving} : (modServing s f).bciFields = s.bciFields := rfl
@[simp] theorem modServing_recorded {f : Serving → Serving} : (modServing s f).recorded = s.recorded := rfl
@[simp] theorem modServing_ctrl {f : Serving → Serving} : (modServing s f).ctrl = s.ctrl := rfl
@[simp] theorem modServing_loader {f : Serving → Serving} : (modServing s f).loader = s.loader := rfl
@[simp] theorem modServing_store {f : Serving → Serving} : (modServing s f).store = s.store := rfl
@[simp] theorem modServing_report {f : Serving → Serving} : (modServing s f).report = s.report := rfl
@[simp] theorem modServing_log {f : Serving → Serving} : (modServing s f).log = s.log := rfl
@[simp] theorem modServing_time {f : Serving → Serving} : (modServing s f).time = s.time := rfl
@[simp] theorem modServing_pins {f : Serving → Serving} : (modServing s f).pins = s.pins := rfl
@[simp] theorem modServing_plant {f : Serving → Serving} : (modServing s f).plant = s.plant := rfl
@[simp] theorem modServing_plane {f : Serving → Serving} : (modServing s f).plane = s.plane := rfl
@[simp] theorem modServing_sessions {f : Serving → Serving} : (modServing s f).sessions = s.sessions := rfl
@[simp] theorem modServing_out {f : Serving → Serving} : (modServing s f).out = s.out := rfl
@[simp] theorem modServing_pending {f : Serving → Serving} : (modServing s f).pending = s.pending := rfl

/-! ## modStore -/

@[simp] theorem modStore_regs {f : Store → Store} : (modStore s f).regs = s.regs := rfl
@[simp] theorem modStore_tiles {f : Store → Store} : (modStore s f).tiles = s.tiles := rfl
@[simp] theorem modStore_dies {f : Store → Store} : (modStore s f).dies = s.dies := rfl
@[simp] theorem modStore_ports {f : Store → Store} : (modStore s f).ports = s.ports := rfl
@[simp] theorem modStore_fields {f : Store → Store} : (modStore s f).fields = s.fields := rfl
@[simp] theorem modStore_bciFields {f : Store → Store} : (modStore s f).bciFields = s.bciFields := rfl
@[simp] theorem modStore_recorded {f : Store → Store} : (modStore s f).recorded = s.recorded := rfl
@[simp] theorem modStore_ctrl {f : Store → Store} : (modStore s f).ctrl = s.ctrl := rfl
@[simp] theorem modStore_serving {f : Store → Store} : (modStore s f).serving = s.serving := rfl
@[simp] theorem modStore_loader {f : Store → Store} : (modStore s f).loader = s.loader := rfl
@[simp] theorem modStore_report {f : Store → Store} : (modStore s f).report = s.report := rfl
@[simp] theorem modStore_log {f : Store → Store} : (modStore s f).log = s.log := rfl
@[simp] theorem modStore_time {f : Store → Store} : (modStore s f).time = s.time := rfl
@[simp] theorem modStore_pins {f : Store → Store} : (modStore s f).pins = s.pins := rfl
@[simp] theorem modStore_plant {f : Store → Store} : (modStore s f).plant = s.plant := rfl
@[simp] theorem modStore_plane {f : Store → Store} : (modStore s f).plane = s.plane := rfl
@[simp] theorem modStore_sessions {f : Store → Store} : (modStore s f).sessions = s.sessions := rfl
@[simp] theorem modStore_out {f : Store → Store} : (modStore s f).out = s.out := rfl
@[simp] theorem modStore_pending {f : Store → Store} : (modStore s f).pending = s.pending := rfl

/-! ## modPlane -/

@[simp] theorem modPlane_regs {f : Plane → Plane} : (modPlane s f).regs = s.regs := rfl
@[simp] theorem modPlane_tiles {f : Plane → Plane} : (modPlane s f).tiles = s.tiles := rfl
@[simp] theorem modPlane_dies {f : Plane → Plane} : (modPlane s f).dies = s.dies := rfl
@[simp] theorem modPlane_ports {f : Plane → Plane} : (modPlane s f).ports = s.ports := rfl
@[simp] theorem modPlane_fields {f : Plane → Plane} : (modPlane s f).fields = s.fields := rfl
@[simp] theorem modPlane_bciFields {f : Plane → Plane} : (modPlane s f).bciFields = s.bciFields := rfl
@[simp] theorem modPlane_recorded {f : Plane → Plane} : (modPlane s f).recorded = s.recorded := rfl
@[simp] theorem modPlane_ctrl {f : Plane → Plane} : (modPlane s f).ctrl = s.ctrl := rfl
@[simp] theorem modPlane_serving {f : Plane → Plane} : (modPlane s f).serving = s.serving := rfl
@[simp] theorem modPlane_loader {f : Plane → Plane} : (modPlane s f).loader = s.loader := rfl
@[simp] theorem modPlane_store {f : Plane → Plane} : (modPlane s f).store = s.store := rfl
@[simp] theorem modPlane_report {f : Plane → Plane} : (modPlane s f).report = s.report := rfl
@[simp] theorem modPlane_log {f : Plane → Plane} : (modPlane s f).log = s.log := rfl
@[simp] theorem modPlane_time {f : Plane → Plane} : (modPlane s f).time = s.time := rfl
@[simp] theorem modPlane_pins {f : Plane → Plane} : (modPlane s f).pins = s.pins := rfl
@[simp] theorem modPlane_plant {f : Plane → Plane} : (modPlane s f).plant = s.plant := rfl
@[simp] theorem modPlane_sessions {f : Plane → Plane} : (modPlane s f).sessions = s.sessions := rfl
@[simp] theorem modPlane_out {f : Plane → Plane} : (modPlane s f).out = s.out := rfl
@[simp] theorem modPlane_pending {f : Plane → Plane} : (modPlane s f).pending = s.pending := rfl

/-! ## modPlant -/

@[simp] theorem modPlant_regs {f : Plant → Plant} : (modPlant s f).regs = s.regs := rfl
@[simp] theorem modPlant_tiles {f : Plant → Plant} : (modPlant s f).tiles = s.tiles := rfl
@[simp] theorem modPlant_dies {f : Plant → Plant} : (modPlant s f).dies = s.dies := rfl
@[simp] theorem modPlant_ports {f : Plant → Plant} : (modPlant s f).ports = s.ports := rfl
@[simp] theorem modPlant_fields {f : Plant → Plant} : (modPlant s f).fields = s.fields := rfl
@[simp] theorem modPlant_bciFields {f : Plant → Plant} : (modPlant s f).bciFields = s.bciFields := rfl
@[simp] theorem modPlant_recorded {f : Plant → Plant} : (modPlant s f).recorded = s.recorded := rfl
@[simp] theorem modPlant_ctrl {f : Plant → Plant} : (modPlant s f).ctrl = s.ctrl := rfl
@[simp] theorem modPlant_serving {f : Plant → Plant} : (modPlant s f).serving = s.serving := rfl
@[simp] theorem modPlant_loader {f : Plant → Plant} : (modPlant s f).loader = s.loader := rfl
@[simp] theorem modPlant_store {f : Plant → Plant} : (modPlant s f).store = s.store := rfl
@[simp] theorem modPlant_report {f : Plant → Plant} : (modPlant s f).report = s.report := rfl
@[simp] theorem modPlant_log {f : Plant → Plant} : (modPlant s f).log = s.log := rfl
@[simp] theorem modPlant_time {f : Plant → Plant} : (modPlant s f).time = s.time := rfl
@[simp] theorem modPlant_pins {f : Plant → Plant} : (modPlant s f).pins = s.pins := rfl
@[simp] theorem modPlant_plane {f : Plant → Plant} : (modPlant s f).plane = s.plane := rfl
@[simp] theorem modPlant_sessions {f : Plant → Plant} : (modPlant s f).sessions = s.sessions := rfl
@[simp] theorem modPlant_out {f : Plant → Plant} : (modPlant s f).out = s.out := rfl
@[simp] theorem modPlant_pending {f : Plant → Plant} : (modPlant s f).pending = s.pending := rfl

/-! ## modPins -/

@[simp] theorem modPins_regs {f : Pins → Pins} : (modPins s f).regs = s.regs := rfl
@[simp] theorem modPins_tiles {f : Pins → Pins} : (modPins s f).tiles = s.tiles := rfl
@[simp] theorem modPins_dies {f : Pins → Pins} : (modPins s f).dies = s.dies := rfl
@[simp] theorem modPins_ports {f : Pins → Pins} : (modPins s f).ports = s.ports := rfl
@[simp] theorem modPins_fields {f : Pins → Pins} : (modPins s f).fields = s.fields := rfl
@[simp] theorem modPins_bciFields {f : Pins → Pins} : (modPins s f).bciFields = s.bciFields := rfl
@[simp] theorem modPins_recorded {f : Pins → Pins} : (modPins s f).recorded = s.recorded := rfl
@[simp] theorem modPins_ctrl {f : Pins → Pins} : (modPins s f).ctrl = s.ctrl := rfl
@[simp] theorem modPins_serving {f : Pins → Pins} : (modPins s f).serving = s.serving := rfl
@[simp] theorem modPins_loader {f : Pins → Pins} : (modPins s f).loader = s.loader := rfl
@[simp] theorem modPins_store {f : Pins → Pins} : (modPins s f).store = s.store := rfl
@[simp] theorem modPins_report {f : Pins → Pins} : (modPins s f).report = s.report := rfl
@[simp] theorem modPins_log {f : Pins → Pins} : (modPins s f).log = s.log := rfl
@[simp] theorem modPins_time {f : Pins → Pins} : (modPins s f).time = s.time := rfl
@[simp] theorem modPins_plant {f : Pins → Pins} : (modPins s f).plant = s.plant := rfl
@[simp] theorem modPins_plane {f : Pins → Pins} : (modPins s f).plane = s.plane := rfl
@[simp] theorem modPins_sessions {f : Pins → Pins} : (modPins s f).sessions = s.sessions := rfl
@[simp] theorem modPins_out {f : Pins → Pins} : (modPins s f).out = s.out := rfl
@[simp] theorem modPins_pending {f : Pins → Pins} : (modPins s f).pending = s.pending := rfl

/-! ## modTime -/

@[simp] theorem modTime_regs {f : Timebase → Timebase} : (modTime s f).regs = s.regs := rfl
@[simp] theorem modTime_tiles {f : Timebase → Timebase} : (modTime s f).tiles = s.tiles := rfl
@[simp] theorem modTime_dies {f : Timebase → Timebase} : (modTime s f).dies = s.dies := rfl
@[simp] theorem modTime_ports {f : Timebase → Timebase} : (modTime s f).ports = s.ports := rfl
@[simp] theorem modTime_fields {f : Timebase → Timebase} : (modTime s f).fields = s.fields := rfl
@[simp] theorem modTime_bciFields {f : Timebase → Timebase} : (modTime s f).bciFields = s.bciFields := rfl
@[simp] theorem modTime_recorded {f : Timebase → Timebase} : (modTime s f).recorded = s.recorded := rfl
@[simp] theorem modTime_ctrl {f : Timebase → Timebase} : (modTime s f).ctrl = s.ctrl := rfl
@[simp] theorem modTime_serving {f : Timebase → Timebase} : (modTime s f).serving = s.serving := rfl
@[simp] theorem modTime_loader {f : Timebase → Timebase} : (modTime s f).loader = s.loader := rfl
@[simp] theorem modTime_store {f : Timebase → Timebase} : (modTime s f).store = s.store := rfl
@[simp] theorem modTime_report {f : Timebase → Timebase} : (modTime s f).report = s.report := rfl
@[simp] theorem modTime_log {f : Timebase → Timebase} : (modTime s f).log = s.log := rfl
@[simp] theorem modTime_pins {f : Timebase → Timebase} : (modTime s f).pins = s.pins := rfl
@[simp] theorem modTime_plant {f : Timebase → Timebase} : (modTime s f).plant = s.plant := rfl
@[simp] theorem modTime_plane {f : Timebase → Timebase} : (modTime s f).plane = s.plane := rfl
@[simp] theorem modTime_sessions {f : Timebase → Timebase} : (modTime s f).sessions = s.sessions := rfl
@[simp] theorem modTime_out {f : Timebase → Timebase} : (modTime s f).out = s.out := rfl
@[simp] theorem modTime_pending {f : Timebase → Timebase} : (modTime s f).pending = s.pending := rfl

/-! ## modLoader -/

@[simp] theorem modLoader_regs {f : Loader → Loader} : (modLoader s f).regs = s.regs := rfl
@[simp] theorem modLoader_tiles {f : Loader → Loader} : (modLoader s f).tiles = s.tiles := rfl
@[simp] theorem modLoader_dies {f : Loader → Loader} : (modLoader s f).dies = s.dies := rfl
@[simp] theorem modLoader_ports {f : Loader → Loader} : (modLoader s f).ports = s.ports := rfl
@[simp] theorem modLoader_fields {f : Loader → Loader} : (modLoader s f).fields = s.fields := rfl
@[simp] theorem modLoader_bciFields {f : Loader → Loader} : (modLoader s f).bciFields = s.bciFields := rfl
@[simp] theorem modLoader_recorded {f : Loader → Loader} : (modLoader s f).recorded = s.recorded := rfl
@[simp] theorem modLoader_ctrl {f : Loader → Loader} : (modLoader s f).ctrl = s.ctrl := rfl
@[simp] theorem modLoader_serving {f : Loader → Loader} : (modLoader s f).serving = s.serving := rfl
@[simp] theorem modLoader_store {f : Loader → Loader} : (modLoader s f).store = s.store := rfl
@[simp] theorem modLoader_report {f : Loader → Loader} : (modLoader s f).report = s.report := rfl
@[simp] theorem modLoader_log {f : Loader → Loader} : (modLoader s f).log = s.log := rfl
@[simp] theorem modLoader_time {f : Loader → Loader} : (modLoader s f).time = s.time := rfl
@[simp] theorem modLoader_pins {f : Loader → Loader} : (modLoader s f).pins = s.pins := rfl
@[simp] theorem modLoader_plant {f : Loader → Loader} : (modLoader s f).plant = s.plant := rfl
@[simp] theorem modLoader_plane {f : Loader → Loader} : (modLoader s f).plane = s.plane := rfl
@[simp] theorem modLoader_sessions {f : Loader → Loader} : (modLoader s f).sessions = s.sessions := rfl
@[simp] theorem modLoader_out {f : Loader → Loader} : (modLoader s f).out = s.out := rfl
@[simp] theorem modLoader_pending {f : Loader → Loader} : (modLoader s f).pending = s.pending := rfl

/-! ## setCtx -/

@[simp] theorem setCtx_regs {c : Nat} {v : Option Context} : (setCtx s c v).regs = s.regs := rfl
@[simp] theorem setCtx_tiles {c : Nat} {v : Option Context} : (setCtx s c v).tiles = s.tiles := rfl
@[simp] theorem setCtx_dies {c : Nat} {v : Option Context} : (setCtx s c v).dies = s.dies := rfl
@[simp] theorem setCtx_ports {c : Nat} {v : Option Context} : (setCtx s c v).ports = s.ports := rfl
@[simp] theorem setCtx_fields {c : Nat} {v : Option Context} : (setCtx s c v).fields = s.fields := rfl
@[simp] theorem setCtx_bciFields {c : Nat} {v : Option Context} : (setCtx s c v).bciFields = s.bciFields := rfl
@[simp] theorem setCtx_recorded {c : Nat} {v : Option Context} : (setCtx s c v).recorded = s.recorded := rfl
@[simp] theorem setCtx_ctrl {c : Nat} {v : Option Context} : (setCtx s c v).ctrl = s.ctrl := rfl
@[simp] theorem setCtx_serving {c : Nat} {v : Option Context} : (setCtx s c v).serving = s.serving := rfl
@[simp] theorem setCtx_store {c : Nat} {v : Option Context} : (setCtx s c v).store = s.store := rfl
@[simp] theorem setCtx_report {c : Nat} {v : Option Context} : (setCtx s c v).report = s.report := rfl
@[simp] theorem setCtx_log {c : Nat} {v : Option Context} : (setCtx s c v).log = s.log := rfl
@[simp] theorem setCtx_time {c : Nat} {v : Option Context} : (setCtx s c v).time = s.time := rfl
@[simp] theorem setCtx_pins {c : Nat} {v : Option Context} : (setCtx s c v).pins = s.pins := rfl
@[simp] theorem setCtx_plant {c : Nat} {v : Option Context} : (setCtx s c v).plant = s.plant := rfl
@[simp] theorem setCtx_plane {c : Nat} {v : Option Context} : (setCtx s c v).plane = s.plane := rfl
@[simp] theorem setCtx_sessions {c : Nat} {v : Option Context} : (setCtx s c v).sessions = s.sessions := rfl
@[simp] theorem setCtx_out {c : Nat} {v : Option Context} : (setCtx s c v).out = s.out := rfl
@[simp] theorem setCtx_pending {c : Nat} {v : Option Context} : (setCtx s c v).pending = s.pending := rfl

/-! ## modCtx -/

@[simp] theorem modCtx_regs {c : Nat} {f : Context → Context} : (modCtx s c f).regs = s.regs := rfl
@[simp] theorem modCtx_tiles {c : Nat} {f : Context → Context} : (modCtx s c f).tiles = s.tiles := rfl
@[simp] theorem modCtx_dies {c : Nat} {f : Context → Context} : (modCtx s c f).dies = s.dies := rfl
@[simp] theorem modCtx_ports {c : Nat} {f : Context → Context} : (modCtx s c f).ports = s.ports := rfl
@[simp] theorem modCtx_fields {c : Nat} {f : Context → Context} : (modCtx s c f).fields = s.fields := rfl
@[simp] theorem modCtx_bciFields {c : Nat} {f : Context → Context} : (modCtx s c f).bciFields = s.bciFields := rfl
@[simp] theorem modCtx_recorded {c : Nat} {f : Context → Context} : (modCtx s c f).recorded = s.recorded := rfl
@[simp] theorem modCtx_ctrl {c : Nat} {f : Context → Context} : (modCtx s c f).ctrl = s.ctrl := rfl
@[simp] theorem modCtx_serving {c : Nat} {f : Context → Context} : (modCtx s c f).serving = s.serving := rfl
@[simp] theorem modCtx_store {c : Nat} {f : Context → Context} : (modCtx s c f).store = s.store := rfl
@[simp] theorem modCtx_report {c : Nat} {f : Context → Context} : (modCtx s c f).report = s.report := rfl
@[simp] theorem modCtx_log {c : Nat} {f : Context → Context} : (modCtx s c f).log = s.log := rfl
@[simp] theorem modCtx_time {c : Nat} {f : Context → Context} : (modCtx s c f).time = s.time := rfl
@[simp] theorem modCtx_pins {c : Nat} {f : Context → Context} : (modCtx s c f).pins = s.pins := rfl
@[simp] theorem modCtx_plant {c : Nat} {f : Context → Context} : (modCtx s c f).plant = s.plant := rfl
@[simp] theorem modCtx_plane {c : Nat} {f : Context → Context} : (modCtx s c f).plane = s.plane := rfl
@[simp] theorem modCtx_sessions {c : Nat} {f : Context → Context} : (modCtx s c f).sessions = s.sessions := rfl
@[simp] theorem modCtx_out {c : Nat} {f : Context → Context} : (modCtx s c f).out = s.out := rfl
@[simp] theorem modCtx_pending {c : Nat} {f : Context → Context} : (modCtx s c f).pending = s.pending := rfl

/-! ## send -/

@[simp] theorem send_regs {o : Out} : (send s o).regs = s.regs := rfl
@[simp] theorem send_tiles {o : Out} : (send s o).tiles = s.tiles := rfl
@[simp] theorem send_dies {o : Out} : (send s o).dies = s.dies := rfl
@[simp] theorem send_ports {o : Out} : (send s o).ports = s.ports := rfl
@[simp] theorem send_fields {o : Out} : (send s o).fields = s.fields := rfl
@[simp] theorem send_bciFields {o : Out} : (send s o).bciFields = s.bciFields := rfl
@[simp] theorem send_recorded {o : Out} : (send s o).recorded = s.recorded := rfl
@[simp] theorem send_ctrl {o : Out} : (send s o).ctrl = s.ctrl := rfl
@[simp] theorem send_serving {o : Out} : (send s o).serving = s.serving := rfl
@[simp] theorem send_loader {o : Out} : (send s o).loader = s.loader := rfl
@[simp] theorem send_store {o : Out} : (send s o).store = s.store := rfl
@[simp] theorem send_report {o : Out} : (send s o).report = s.report := rfl
@[simp] theorem send_log {o : Out} : (send s o).log = s.log := rfl
@[simp] theorem send_time {o : Out} : (send s o).time = s.time := rfl
@[simp] theorem send_pins {o : Out} : (send s o).pins = s.pins := rfl
@[simp] theorem send_plant {o : Out} : (send s o).plant = s.plant := rfl
@[simp] theorem send_plane {o : Out} : (send s o).plane = s.plane := rfl
@[simp] theorem send_sessions {o : Out} : (send s o).sessions = s.sessions := rfl
@[simp] theorem send_pending {o : Out} : (send s o).pending = s.pending := rfl

/-! ## post -/

@[simp] theorem post_regs {m : CtrlMsg} : (post s m).regs = s.regs := rfl
@[simp] theorem post_tiles {m : CtrlMsg} : (post s m).tiles = s.tiles := rfl
@[simp] theorem post_dies {m : CtrlMsg} : (post s m).dies = s.dies := rfl
@[simp] theorem post_ports {m : CtrlMsg} : (post s m).ports = s.ports := rfl
@[simp] theorem post_fields {m : CtrlMsg} : (post s m).fields = s.fields := rfl
@[simp] theorem post_bciFields {m : CtrlMsg} : (post s m).bciFields = s.bciFields := rfl
@[simp] theorem post_recorded {m : CtrlMsg} : (post s m).recorded = s.recorded := rfl
@[simp] theorem post_serving {m : CtrlMsg} : (post s m).serving = s.serving := rfl
@[simp] theorem post_loader {m : CtrlMsg} : (post s m).loader = s.loader := rfl
@[simp] theorem post_store {m : CtrlMsg} : (post s m).store = s.store := rfl
@[simp] theorem post_report {m : CtrlMsg} : (post s m).report = s.report := rfl
@[simp] theorem post_log {m : CtrlMsg} : (post s m).log = s.log := rfl
@[simp] theorem post_time {m : CtrlMsg} : (post s m).time = s.time := rfl
@[simp] theorem post_pins {m : CtrlMsg} : (post s m).pins = s.pins := rfl
@[simp] theorem post_plant {m : CtrlMsg} : (post s m).plant = s.plant := rfl
@[simp] theorem post_plane {m : CtrlMsg} : (post s m).plane = s.plane := rfl
@[simp] theorem post_sessions {m : CtrlMsg} : (post s m).sessions = s.sessions := rfl
@[simp] theorem post_out {m : CtrlMsg} : (post s m).out = s.out := rfl
@[simp] theorem post_pending {m : CtrlMsg} : (post s m).pending = s.pending := rfl

/-! ## bumpFree -/

@[simp] theorem bumpFree_regs : (bumpFree s).regs = s.regs := rfl
@[simp] theorem bumpFree_tiles : (bumpFree s).tiles = s.tiles := rfl
@[simp] theorem bumpFree_dies : (bumpFree s).dies = s.dies := rfl
@[simp] theorem bumpFree_ports : (bumpFree s).ports = s.ports := rfl
@[simp] theorem bumpFree_fields : (bumpFree s).fields = s.fields := rfl
@[simp] theorem bumpFree_bciFields : (bumpFree s).bciFields = s.bciFields := rfl
@[simp] theorem bumpFree_recorded : (bumpFree s).recorded = s.recorded := rfl
@[simp] theorem bumpFree_ctrl : (bumpFree s).ctrl = s.ctrl := rfl
@[simp] theorem bumpFree_serving : (bumpFree s).serving = s.serving := rfl
@[simp] theorem bumpFree_loader : (bumpFree s).loader = s.loader := rfl
@[simp] theorem bumpFree_store : (bumpFree s).store = s.store := rfl
@[simp] theorem bumpFree_report : (bumpFree s).report = s.report := rfl
@[simp] theorem bumpFree_log : (bumpFree s).log = s.log := rfl
@[simp] theorem bumpFree_time : (bumpFree s).time = s.time := rfl
@[simp] theorem bumpFree_pins : (bumpFree s).pins = s.pins := rfl
@[simp] theorem bumpFree_plant : (bumpFree s).plant = s.plant := rfl
@[simp] theorem bumpFree_sessions : (bumpFree s).sessions = s.sessions := rfl
@[simp] theorem bumpFree_out : (bumpFree s).out = s.out := rfl
@[simp] theorem bumpFree_pending : (bumpFree s).pending = s.pending := rfl

/-! ## rset -/

@[simp] theorem rset_tiles {d t : Nat} {f : Fld} {v : Nat} : (rset s d t f v).tiles = s.tiles := rfl
@[simp] theorem rset_dies {d t : Nat} {f : Fld} {v : Nat} : (rset s d t f v).dies = s.dies := rfl
@[simp] theorem rset_ports {d t : Nat} {f : Fld} {v : Nat} : (rset s d t f v).ports = s.ports := rfl
@[simp] theorem rset_fields {d t : Nat} {f : Fld} {v : Nat} : (rset s d t f v).fields = s.fields := rfl
@[simp] theorem rset_bciFields {d t : Nat} {f : Fld} {v : Nat} : (rset s d t f v).bciFields = s.bciFields := rfl
@[simp] theorem rset_recorded {d t : Nat} {f : Fld} {v : Nat} : (rset s d t f v).recorded = s.recorded := rfl
@[simp] theorem rset_ctrl {d t : Nat} {f : Fld} {v : Nat} : (rset s d t f v).ctrl = s.ctrl := rfl
@[simp] theorem rset_serving {d t : Nat} {f : Fld} {v : Nat} : (rset s d t f v).serving = s.serving := rfl
@[simp] theorem rset_loader {d t : Nat} {f : Fld} {v : Nat} : (rset s d t f v).loader = s.loader := rfl
@[simp] theorem rset_store {d t : Nat} {f : Fld} {v : Nat} : (rset s d t f v).store = s.store := rfl
@[simp] theorem rset_report {d t : Nat} {f : Fld} {v : Nat} : (rset s d t f v).report = s.report := rfl
@[simp] theorem rset_log {d t : Nat} {f : Fld} {v : Nat} : (rset s d t f v).log = s.log := rfl
@[simp] theorem rset_time {d t : Nat} {f : Fld} {v : Nat} : (rset s d t f v).time = s.time := rfl
@[simp] theorem rset_pins {d t : Nat} {f : Fld} {v : Nat} : (rset s d t f v).pins = s.pins := rfl
@[simp] theorem rset_plant {d t : Nat} {f : Fld} {v : Nat} : (rset s d t f v).plant = s.plant := rfl
@[simp] theorem rset_plane {d t : Nat} {f : Fld} {v : Nat} : (rset s d t f v).plane = s.plane := rfl
@[simp] theorem rset_sessions {d t : Nat} {f : Fld} {v : Nat} : (rset s d t f v).sessions = s.sessions := rfl
@[simp] theorem rset_out {d t : Nat} {f : Fld} {v : Nat} : (rset s d t f v).out = s.out := rfl
@[simp] theorem rset_pending {d t : Nat} {f : Fld} {v : Nat} : (rset s d t f v).pending = s.pending := rfl

/-! ## rinc -/

@[simp] theorem rinc_tiles {d t : Nat} {f : Fld} {n : Nat} : (rinc s d t f n).tiles = s.tiles := rfl
@[simp] theorem rinc_dies {d t : Nat} {f : Fld} {n : Nat} : (rinc s d t f n).dies = s.dies := rfl
@[simp] theorem rinc_ports {d t : Nat} {f : Fld} {n : Nat} : (rinc s d t f n).ports = s.ports := rfl
@[simp] theorem rinc_fields {d t : Nat} {f : Fld} {n : Nat} : (rinc s d t f n).fields = s.fields := rfl
@[simp] theorem rinc_bciFields {d t : Nat} {f : Fld} {n : Nat} : (rinc s d t f n).bciFields = s.bciFields := rfl
@[simp] theorem rinc_recorded {d t : Nat} {f : Fld} {n : Nat} : (rinc s d t f n).recorded = s.recorded := rfl
@[simp] theorem rinc_ctrl {d t : Nat} {f : Fld} {n : Nat} : (rinc s d t f n).ctrl = s.ctrl := rfl
@[simp] theorem rinc_serving {d t : Nat} {f : Fld} {n : Nat} : (rinc s d t f n).serving = s.serving := rfl
@[simp] theorem rinc_loader {d t : Nat} {f : Fld} {n : Nat} : (rinc s d t f n).loader = s.loader := rfl
@[simp] theorem rinc_store {d t : Nat} {f : Fld} {n : Nat} : (rinc s d t f n).store = s.store := rfl
@[simp] theorem rinc_report {d t : Nat} {f : Fld} {n : Nat} : (rinc s d t f n).report = s.report := rfl
@[simp] theorem rinc_log {d t : Nat} {f : Fld} {n : Nat} : (rinc s d t f n).log = s.log := rfl
@[simp] theorem rinc_time {d t : Nat} {f : Fld} {n : Nat} : (rinc s d t f n).time = s.time := rfl
@[simp] theorem rinc_pins {d t : Nat} {f : Fld} {n : Nat} : (rinc s d t f n).pins = s.pins := rfl
@[simp] theorem rinc_plant {d t : Nat} {f : Fld} {n : Nat} : (rinc s d t f n).plant = s.plant := rfl
@[simp] theorem rinc_plane {d t : Nat} {f : Fld} {n : Nat} : (rinc s d t f n).plane = s.plane := rfl
@[simp] theorem rinc_sessions {d t : Nat} {f : Fld} {n : Nat} : (rinc s d t f n).sessions = s.sessions := rfl
@[simp] theorem rinc_out {d t : Nat} {f : Fld} {n : Nat} : (rinc s d t f n).out = s.out := rfl
@[simp] theorem rinc_pending {d t : Nat} {f : Fld} {n : Nat} : (rinc s d t f n).pending = s.pending := rfl

/-! ## rmax -/

@[simp] theorem rmax_tiles {d t : Nat} {f : Fld} {n : Nat} : (rmax s d t f n).tiles = s.tiles := rfl
@[simp] theorem rmax_dies {d t : Nat} {f : Fld} {n : Nat} : (rmax s d t f n).dies = s.dies := rfl
@[simp] theorem rmax_ports {d t : Nat} {f : Fld} {n : Nat} : (rmax s d t f n).ports = s.ports := rfl
@[simp] theorem rmax_fields {d t : Nat} {f : Fld} {n : Nat} : (rmax s d t f n).fields = s.fields := rfl
@[simp] theorem rmax_bciFields {d t : Nat} {f : Fld} {n : Nat} : (rmax s d t f n).bciFields = s.bciFields := rfl
@[simp] theorem rmax_recorded {d t : Nat} {f : Fld} {n : Nat} : (rmax s d t f n).recorded = s.recorded := rfl
@[simp] theorem rmax_ctrl {d t : Nat} {f : Fld} {n : Nat} : (rmax s d t f n).ctrl = s.ctrl := rfl
@[simp] theorem rmax_serving {d t : Nat} {f : Fld} {n : Nat} : (rmax s d t f n).serving = s.serving := rfl
@[simp] theorem rmax_loader {d t : Nat} {f : Fld} {n : Nat} : (rmax s d t f n).loader = s.loader := rfl
@[simp] theorem rmax_store {d t : Nat} {f : Fld} {n : Nat} : (rmax s d t f n).store = s.store := rfl
@[simp] theorem rmax_report {d t : Nat} {f : Fld} {n : Nat} : (rmax s d t f n).report = s.report := rfl
@[simp] theorem rmax_log {d t : Nat} {f : Fld} {n : Nat} : (rmax s d t f n).log = s.log := rfl
@[simp] theorem rmax_time {d t : Nat} {f : Fld} {n : Nat} : (rmax s d t f n).time = s.time := rfl
@[simp] theorem rmax_pins {d t : Nat} {f : Fld} {n : Nat} : (rmax s d t f n).pins = s.pins := rfl
@[simp] theorem rmax_plant {d t : Nat} {f : Fld} {n : Nat} : (rmax s d t f n).plant = s.plant := rfl
@[simp] theorem rmax_plane {d t : Nat} {f : Fld} {n : Nat} : (rmax s d t f n).plane = s.plane := rfl
@[simp] theorem rmax_sessions {d t : Nat} {f : Fld} {n : Nat} : (rmax s d t f n).sessions = s.sessions := rfl
@[simp] theorem rmax_out {d t : Nat} {f : Fld} {n : Nat} : (rmax s d t f n).out = s.out := rfl
@[simp] theorem rmax_pending {d t : Nat} {f : Fld} {n : Nat} : (rmax s d t f n).pending = s.pending := rfl

/-! ## tset -/

@[simp] theorem tset_tiles {t : Tid} {f : Fld} {v : Nat} : (tset s t f v).tiles = s.tiles := rfl
@[simp] theorem tset_dies {t : Tid} {f : Fld} {v : Nat} : (tset s t f v).dies = s.dies := rfl
@[simp] theorem tset_ports {t : Tid} {f : Fld} {v : Nat} : (tset s t f v).ports = s.ports := rfl
@[simp] theorem tset_fields {t : Tid} {f : Fld} {v : Nat} : (tset s t f v).fields = s.fields := rfl
@[simp] theorem tset_bciFields {t : Tid} {f : Fld} {v : Nat} : (tset s t f v).bciFields = s.bciFields := rfl
@[simp] theorem tset_recorded {t : Tid} {f : Fld} {v : Nat} : (tset s t f v).recorded = s.recorded := rfl
@[simp] theorem tset_ctrl {t : Tid} {f : Fld} {v : Nat} : (tset s t f v).ctrl = s.ctrl := rfl
@[simp] theorem tset_serving {t : Tid} {f : Fld} {v : Nat} : (tset s t f v).serving = s.serving := rfl
@[simp] theorem tset_loader {t : Tid} {f : Fld} {v : Nat} : (tset s t f v).loader = s.loader := rfl
@[simp] theorem tset_store {t : Tid} {f : Fld} {v : Nat} : (tset s t f v).store = s.store := rfl
@[simp] theorem tset_report {t : Tid} {f : Fld} {v : Nat} : (tset s t f v).report = s.report := rfl
@[simp] theorem tset_log {t : Tid} {f : Fld} {v : Nat} : (tset s t f v).log = s.log := rfl
@[simp] theorem tset_time {t : Tid} {f : Fld} {v : Nat} : (tset s t f v).time = s.time := rfl
@[simp] theorem tset_pins {t : Tid} {f : Fld} {v : Nat} : (tset s t f v).pins = s.pins := rfl
@[simp] theorem tset_plant {t : Tid} {f : Fld} {v : Nat} : (tset s t f v).plant = s.plant := rfl
@[simp] theorem tset_plane {t : Tid} {f : Fld} {v : Nat} : (tset s t f v).plane = s.plane := rfl
@[simp] theorem tset_sessions {t : Tid} {f : Fld} {v : Nat} : (tset s t f v).sessions = s.sessions := rfl
@[simp] theorem tset_out {t : Tid} {f : Fld} {v : Nat} : (tset s t f v).out = s.out := rfl
@[simp] theorem tset_pending {t : Tid} {f : Fld} {v : Nat} : (tset s t f v).pending = s.pending := rfl

/-! ## tinc -/

@[simp] theorem tinc_tiles {t : Tid} {f : Fld} {n : Nat} : (tinc s t f n).tiles = s.tiles := rfl
@[simp] theorem tinc_dies {t : Tid} {f : Fld} {n : Nat} : (tinc s t f n).dies = s.dies := rfl
@[simp] theorem tinc_ports {t : Tid} {f : Fld} {n : Nat} : (tinc s t f n).ports = s.ports := rfl
@[simp] theorem tinc_fields {t : Tid} {f : Fld} {n : Nat} : (tinc s t f n).fields = s.fields := rfl
@[simp] theorem tinc_bciFields {t : Tid} {f : Fld} {n : Nat} : (tinc s t f n).bciFields = s.bciFields := rfl
@[simp] theorem tinc_recorded {t : Tid} {f : Fld} {n : Nat} : (tinc s t f n).recorded = s.recorded := rfl
@[simp] theorem tinc_ctrl {t : Tid} {f : Fld} {n : Nat} : (tinc s t f n).ctrl = s.ctrl := rfl
@[simp] theorem tinc_serving {t : Tid} {f : Fld} {n : Nat} : (tinc s t f n).serving = s.serving := rfl
@[simp] theorem tinc_loader {t : Tid} {f : Fld} {n : Nat} : (tinc s t f n).loader = s.loader := rfl
@[simp] theorem tinc_store {t : Tid} {f : Fld} {n : Nat} : (tinc s t f n).store = s.store := rfl
@[simp] theorem tinc_report {t : Tid} {f : Fld} {n : Nat} : (tinc s t f n).report = s.report := rfl
@[simp] theorem tinc_log {t : Tid} {f : Fld} {n : Nat} : (tinc s t f n).log = s.log := rfl
@[simp] theorem tinc_time {t : Tid} {f : Fld} {n : Nat} : (tinc s t f n).time = s.time := rfl
@[simp] theorem tinc_pins {t : Tid} {f : Fld} {n : Nat} : (tinc s t f n).pins = s.pins := rfl
@[simp] theorem tinc_plant {t : Tid} {f : Fld} {n : Nat} : (tinc s t f n).plant = s.plant := rfl
@[simp] theorem tinc_plane {t : Tid} {f : Fld} {n : Nat} : (tinc s t f n).plane = s.plane := rfl
@[simp] theorem tinc_sessions {t : Tid} {f : Fld} {n : Nat} : (tinc s t f n).sessions = s.sessions := rfl
@[simp] theorem tinc_out {t : Tid} {f : Fld} {n : Nat} : (tinc s t f n).out = s.out := rfl
@[simp] theorem tinc_pending {t : Tid} {f : Fld} {n : Nat} : (tinc s t f n).pending = s.pending := rfl

/-! ## dset -/

@[simp] theorem dset_tiles {d : Nat} {f : Fld} {v : Nat} : (dset s d f v).tiles = s.tiles := rfl
@[simp] theorem dset_dies {d : Nat} {f : Fld} {v : Nat} : (dset s d f v).dies = s.dies := rfl
@[simp] theorem dset_ports {d : Nat} {f : Fld} {v : Nat} : (dset s d f v).ports = s.ports := rfl
@[simp] theorem dset_fields {d : Nat} {f : Fld} {v : Nat} : (dset s d f v).fields = s.fields := rfl
@[simp] theorem dset_bciFields {d : Nat} {f : Fld} {v : Nat} : (dset s d f v).bciFields = s.bciFields := rfl
@[simp] theorem dset_recorded {d : Nat} {f : Fld} {v : Nat} : (dset s d f v).recorded = s.recorded := rfl
@[simp] theorem dset_ctrl {d : Nat} {f : Fld} {v : Nat} : (dset s d f v).ctrl = s.ctrl := rfl
@[simp] theorem dset_serving {d : Nat} {f : Fld} {v : Nat} : (dset s d f v).serving = s.serving := rfl
@[simp] theorem dset_loader {d : Nat} {f : Fld} {v : Nat} : (dset s d f v).loader = s.loader := rfl
@[simp] theorem dset_store {d : Nat} {f : Fld} {v : Nat} : (dset s d f v).store = s.store := rfl
@[simp] theorem dset_report {d : Nat} {f : Fld} {v : Nat} : (dset s d f v).report = s.report := rfl
@[simp] theorem dset_log {d : Nat} {f : Fld} {v : Nat} : (dset s d f v).log = s.log := rfl
@[simp] theorem dset_time {d : Nat} {f : Fld} {v : Nat} : (dset s d f v).time = s.time := rfl
@[simp] theorem dset_pins {d : Nat} {f : Fld} {v : Nat} : (dset s d f v).pins = s.pins := rfl
@[simp] theorem dset_plant {d : Nat} {f : Fld} {v : Nat} : (dset s d f v).plant = s.plant := rfl
@[simp] theorem dset_plane {d : Nat} {f : Fld} {v : Nat} : (dset s d f v).plane = s.plane := rfl
@[simp] theorem dset_sessions {d : Nat} {f : Fld} {v : Nat} : (dset s d f v).sessions = s.sessions := rfl
@[simp] theorem dset_out {d : Nat} {f : Fld} {v : Nat} : (dset s d f v).out = s.out := rfl
@[simp] theorem dset_pending {d : Nat} {f : Fld} {v : Nat} : (dset s d f v).pending = s.pending := rfl

/-! ## dinc -/

@[simp] theorem dinc_tiles {d : Nat} {f : Fld} {n : Nat} : (dinc s d f n).tiles = s.tiles := rfl
@[simp] theorem dinc_dies {d : Nat} {f : Fld} {n : Nat} : (dinc s d f n).dies = s.dies := rfl
@[simp] theorem dinc_ports {d : Nat} {f : Fld} {n : Nat} : (dinc s d f n).ports = s.ports := rfl
@[simp] theorem dinc_fields {d : Nat} {f : Fld} {n : Nat} : (dinc s d f n).fields = s.fields := rfl
@[simp] theorem dinc_bciFields {d : Nat} {f : Fld} {n : Nat} : (dinc s d f n).bciFields = s.bciFields := rfl
@[simp] theorem dinc_recorded {d : Nat} {f : Fld} {n : Nat} : (dinc s d f n).recorded = s.recorded := rfl
@[simp] theorem dinc_ctrl {d : Nat} {f : Fld} {n : Nat} : (dinc s d f n).ctrl = s.ctrl := rfl
@[simp] theorem dinc_serving {d : Nat} {f : Fld} {n : Nat} : (dinc s d f n).serving = s.serving := rfl
@[simp] theorem dinc_loader {d : Nat} {f : Fld} {n : Nat} : (dinc s d f n).loader = s.loader := rfl
@[simp] theorem dinc_store {d : Nat} {f : Fld} {n : Nat} : (dinc s d f n).store = s.store := rfl
@[simp] theorem dinc_report {d : Nat} {f : Fld} {n : Nat} : (dinc s d f n).report = s.report := rfl
@[simp] theorem dinc_log {d : Nat} {f : Fld} {n : Nat} : (dinc s d f n).log = s.log := rfl
@[simp] theorem dinc_time {d : Nat} {f : Fld} {n : Nat} : (dinc s d f n).time = s.time := rfl
@[simp] theorem dinc_pins {d : Nat} {f : Fld} {n : Nat} : (dinc s d f n).pins = s.pins := rfl
@[simp] theorem dinc_plant {d : Nat} {f : Fld} {n : Nat} : (dinc s d f n).plant = s.plant := rfl
@[simp] theorem dinc_plane {d : Nat} {f : Fld} {n : Nat} : (dinc s d f n).plane = s.plane := rfl
@[simp] theorem dinc_sessions {d : Nat} {f : Fld} {n : Nat} : (dinc s d f n).sessions = s.sessions := rfl
@[simp] theorem dinc_out {d : Nat} {f : Fld} {n : Nat} : (dinc s d f n).out = s.out := rfl
@[simp] theorem dinc_pending {d : Nat} {f : Fld} {n : Nat} : (dinc s d f n).pending = s.pending := rfl

/-! ## pset -/

@[simp] theorem pset_tiles {f : Fld} {v : Nat} : (pset s f v).tiles = s.tiles := rfl
@[simp] theorem pset_dies {f : Fld} {v : Nat} : (pset s f v).dies = s.dies := rfl
@[simp] theorem pset_ports {f : Fld} {v : Nat} : (pset s f v).ports = s.ports := rfl
@[simp] theorem pset_fields {f : Fld} {v : Nat} : (pset s f v).fields = s.fields := rfl
@[simp] theorem pset_bciFields {f : Fld} {v : Nat} : (pset s f v).bciFields = s.bciFields := rfl
@[simp] theorem pset_recorded {f : Fld} {v : Nat} : (pset s f v).recorded = s.recorded := rfl
@[simp] theorem pset_ctrl {f : Fld} {v : Nat} : (pset s f v).ctrl = s.ctrl := rfl
@[simp] theorem pset_serving {f : Fld} {v : Nat} : (pset s f v).serving = s.serving := rfl
@[simp] theorem pset_loader {f : Fld} {v : Nat} : (pset s f v).loader = s.loader := rfl
@[simp] theorem pset_store {f : Fld} {v : Nat} : (pset s f v).store = s.store := rfl
@[simp] theorem pset_report {f : Fld} {v : Nat} : (pset s f v).report = s.report := rfl
@[simp] theorem pset_log {f : Fld} {v : Nat} : (pset s f v).log = s.log := rfl
@[simp] theorem pset_time {f : Fld} {v : Nat} : (pset s f v).time = s.time := rfl
@[simp] theorem pset_pins {f : Fld} {v : Nat} : (pset s f v).pins = s.pins := rfl
@[simp] theorem pset_plant {f : Fld} {v : Nat} : (pset s f v).plant = s.plant := rfl
@[simp] theorem pset_plane {f : Fld} {v : Nat} : (pset s f v).plane = s.plane := rfl
@[simp] theorem pset_sessions {f : Fld} {v : Nat} : (pset s f v).sessions = s.sessions := rfl
@[simp] theorem pset_out {f : Fld} {v : Nat} : (pset s f v).out = s.out := rfl
@[simp] theorem pset_pending {f : Fld} {v : Nat} : (pset s f v).pending = s.pending := rfl

/-! ## pinc -/

@[simp] theorem pinc_tiles {f : Fld} {n : Nat} : (pinc s f n).tiles = s.tiles := rfl
@[simp] theorem pinc_dies {f : Fld} {n : Nat} : (pinc s f n).dies = s.dies := rfl
@[simp] theorem pinc_ports {f : Fld} {n : Nat} : (pinc s f n).ports = s.ports := rfl
@[simp] theorem pinc_fields {f : Fld} {n : Nat} : (pinc s f n).fields = s.fields := rfl
@[simp] theorem pinc_bciFields {f : Fld} {n : Nat} : (pinc s f n).bciFields = s.bciFields := rfl
@[simp] theorem pinc_recorded {f : Fld} {n : Nat} : (pinc s f n).recorded = s.recorded := rfl
@[simp] theorem pinc_ctrl {f : Fld} {n : Nat} : (pinc s f n).ctrl = s.ctrl := rfl
@[simp] theorem pinc_serving {f : Fld} {n : Nat} : (pinc s f n).serving = s.serving := rfl
@[simp] theorem pinc_loader {f : Fld} {n : Nat} : (pinc s f n).loader = s.loader := rfl
@[simp] theorem pinc_store {f : Fld} {n : Nat} : (pinc s f n).store = s.store := rfl
@[simp] theorem pinc_report {f : Fld} {n : Nat} : (pinc s f n).report = s.report := rfl
@[simp] theorem pinc_log {f : Fld} {n : Nat} : (pinc s f n).log = s.log := rfl
@[simp] theorem pinc_time {f : Fld} {n : Nat} : (pinc s f n).time = s.time := rfl
@[simp] theorem pinc_pins {f : Fld} {n : Nat} : (pinc s f n).pins = s.pins := rfl
@[simp] theorem pinc_plant {f : Fld} {n : Nat} : (pinc s f n).plant = s.plant := rfl
@[simp] theorem pinc_plane {f : Fld} {n : Nat} : (pinc s f n).plane = s.plane := rfl
@[simp] theorem pinc_sessions {f : Fld} {n : Nat} : (pinc s f n).sessions = s.sessions := rfl
@[simp] theorem pinc_out {f : Fld} {n : Nat} : (pinc s f n).out = s.out := rfl
@[simp] theorem pinc_pending {f : Fld} {n : Nat} : (pinc s f n).pending = s.pending := rfl

/-! ## portSet -/

@[simp] theorem portSet_tiles {p : Nat} {f : Fld} {v : Nat} : (portSet s p f v).tiles = s.tiles := rfl
@[simp] theorem portSet_dies {p : Nat} {f : Fld} {v : Nat} : (portSet s p f v).dies = s.dies := rfl
@[simp] theorem portSet_ports {p : Nat} {f : Fld} {v : Nat} : (portSet s p f v).ports = s.ports := rfl
@[simp] theorem portSet_fields {p : Nat} {f : Fld} {v : Nat} : (portSet s p f v).fields = s.fields := rfl
@[simp] theorem portSet_bciFields {p : Nat} {f : Fld} {v : Nat} : (portSet s p f v).bciFields = s.bciFields := rfl
@[simp] theorem portSet_recorded {p : Nat} {f : Fld} {v : Nat} : (portSet s p f v).recorded = s.recorded := rfl
@[simp] theorem portSet_ctrl {p : Nat} {f : Fld} {v : Nat} : (portSet s p f v).ctrl = s.ctrl := rfl
@[simp] theorem portSet_serving {p : Nat} {f : Fld} {v : Nat} : (portSet s p f v).serving = s.serving := rfl
@[simp] theorem portSet_loader {p : Nat} {f : Fld} {v : Nat} : (portSet s p f v).loader = s.loader := rfl
@[simp] theorem portSet_store {p : Nat} {f : Fld} {v : Nat} : (portSet s p f v).store = s.store := rfl
@[simp] theorem portSet_report {p : Nat} {f : Fld} {v : Nat} : (portSet s p f v).report = s.report := rfl
@[simp] theorem portSet_log {p : Nat} {f : Fld} {v : Nat} : (portSet s p f v).log = s.log := rfl
@[simp] theorem portSet_time {p : Nat} {f : Fld} {v : Nat} : (portSet s p f v).time = s.time := rfl
@[simp] theorem portSet_pins {p : Nat} {f : Fld} {v : Nat} : (portSet s p f v).pins = s.pins := rfl
@[simp] theorem portSet_plant {p : Nat} {f : Fld} {v : Nat} : (portSet s p f v).plant = s.plant := rfl
@[simp] theorem portSet_plane {p : Nat} {f : Fld} {v : Nat} : (portSet s p f v).plane = s.plane := rfl
@[simp] theorem portSet_sessions {p : Nat} {f : Fld} {v : Nat} : (portSet s p f v).sessions = s.sessions := rfl
@[simp] theorem portSet_out {p : Nat} {f : Fld} {v : Nat} : (portSet s p f v).out = s.out := rfl
@[simp] theorem portSet_pending {p : Nat} {f : Fld} {v : Nat} : (portSet s p f v).pending = s.pending := rfl

/-! ## portInc -/

@[simp] theorem portInc_tiles {p : Nat} {f : Fld} {n : Nat} : (portInc s p f n).tiles = s.tiles := rfl
@[simp] theorem portInc_dies {p : Nat} {f : Fld} {n : Nat} : (portInc s p f n).dies = s.dies := rfl
@[simp] theorem portInc_ports {p : Nat} {f : Fld} {n : Nat} : (portInc s p f n).ports = s.ports := rfl
@[simp] theorem portInc_fields {p : Nat} {f : Fld} {n : Nat} : (portInc s p f n).fields = s.fields := rfl
@[simp] theorem portInc_bciFields {p : Nat} {f : Fld} {n : Nat} : (portInc s p f n).bciFields = s.bciFields := rfl
@[simp] theorem portInc_recorded {p : Nat} {f : Fld} {n : Nat} : (portInc s p f n).recorded = s.recorded := rfl
@[simp] theorem portInc_ctrl {p : Nat} {f : Fld} {n : Nat} : (portInc s p f n).ctrl = s.ctrl := rfl
@[simp] theorem portInc_serving {p : Nat} {f : Fld} {n : Nat} : (portInc s p f n).serving = s.serving := rfl
@[simp] theorem portInc_loader {p : Nat} {f : Fld} {n : Nat} : (portInc s p f n).loader = s.loader := rfl
@[simp] theorem portInc_store {p : Nat} {f : Fld} {n : Nat} : (portInc s p f n).store = s.store := rfl
@[simp] theorem portInc_report {p : Nat} {f : Fld} {n : Nat} : (portInc s p f n).report = s.report := rfl
@[simp] theorem portInc_log {p : Nat} {f : Fld} {n : Nat} : (portInc s p f n).log = s.log := rfl
@[simp] theorem portInc_time {p : Nat} {f : Fld} {n : Nat} : (portInc s p f n).time = s.time := rfl
@[simp] theorem portInc_pins {p : Nat} {f : Fld} {n : Nat} : (portInc s p f n).pins = s.pins := rfl
@[simp] theorem portInc_plant {p : Nat} {f : Fld} {n : Nat} : (portInc s p f n).plant = s.plant := rfl
@[simp] theorem portInc_plane {p : Nat} {f : Fld} {n : Nat} : (portInc s p f n).plane = s.plane := rfl
@[simp] theorem portInc_sessions {p : Nat} {f : Fld} {n : Nat} : (portInc s p f n).sessions = s.sessions := rfl
@[simp] theorem portInc_out {p : Nat} {f : Fld} {n : Nat} : (portInc s p f n).out = s.out := rfl
@[simp] theorem portInc_pending {p : Nat} {f : Fld} {n : Nat} : (portInc s p f n).pending = s.pending := rfl

/-! ## ctrSet -/

@[simp] theorem ctrSet_tiles {t : Tid} {n : Nat} {v : Word} : (ctrSet s t n v).tiles = s.tiles := rfl
@[simp] theorem ctrSet_dies {t : Tid} {n : Nat} {v : Word} : (ctrSet s t n v).dies = s.dies := rfl
@[simp] theorem ctrSet_ports {t : Tid} {n : Nat} {v : Word} : (ctrSet s t n v).ports = s.ports := rfl
@[simp] theorem ctrSet_fields {t : Tid} {n : Nat} {v : Word} : (ctrSet s t n v).fields = s.fields := rfl
@[simp] theorem ctrSet_bciFields {t : Tid} {n : Nat} {v : Word} : (ctrSet s t n v).bciFields = s.bciFields := rfl
@[simp] theorem ctrSet_recorded {t : Tid} {n : Nat} {v : Word} : (ctrSet s t n v).recorded = s.recorded := rfl
@[simp] theorem ctrSet_ctrl {t : Tid} {n : Nat} {v : Word} : (ctrSet s t n v).ctrl = s.ctrl := rfl
@[simp] theorem ctrSet_serving {t : Tid} {n : Nat} {v : Word} : (ctrSet s t n v).serving = s.serving := rfl
@[simp] theorem ctrSet_loader {t : Tid} {n : Nat} {v : Word} : (ctrSet s t n v).loader = s.loader := rfl
@[simp] theorem ctrSet_store {t : Tid} {n : Nat} {v : Word} : (ctrSet s t n v).store = s.store := rfl
@[simp] theorem ctrSet_report {t : Tid} {n : Nat} {v : Word} : (ctrSet s t n v).report = s.report := rfl
@[simp] theorem ctrSet_log {t : Tid} {n : Nat} {v : Word} : (ctrSet s t n v).log = s.log := rfl
@[simp] theorem ctrSet_time {t : Tid} {n : Nat} {v : Word} : (ctrSet s t n v).time = s.time := rfl
@[simp] theorem ctrSet_pins {t : Tid} {n : Nat} {v : Word} : (ctrSet s t n v).pins = s.pins := rfl
@[simp] theorem ctrSet_plant {t : Tid} {n : Nat} {v : Word} : (ctrSet s t n v).plant = s.plant := rfl
@[simp] theorem ctrSet_plane {t : Tid} {n : Nat} {v : Word} : (ctrSet s t n v).plane = s.plane := rfl
@[simp] theorem ctrSet_sessions {t : Tid} {n : Nat} {v : Word} : (ctrSet s t n v).sessions = s.sessions := rfl
@[simp] theorem ctrSet_out {t : Tid} {n : Nat} {v : Word} : (ctrSet s t n v).out = s.out := rfl
@[simp] theorem ctrSet_pending {t : Tid} {n : Nat} {v : Word} : (ctrSet s t n v).pending = s.pending := rfl

/-! ## ctrInc -/

@[simp] theorem ctrInc_tiles {t : Tid} {n : Nat} {v : Word} : (ctrInc s t n v).tiles = s.tiles := rfl
@[simp] theorem ctrInc_dies {t : Tid} {n : Nat} {v : Word} : (ctrInc s t n v).dies = s.dies := rfl
@[simp] theorem ctrInc_ports {t : Tid} {n : Nat} {v : Word} : (ctrInc s t n v).ports = s.ports := rfl
@[simp] theorem ctrInc_fields {t : Tid} {n : Nat} {v : Word} : (ctrInc s t n v).fields = s.fields := rfl
@[simp] theorem ctrInc_bciFields {t : Tid} {n : Nat} {v : Word} : (ctrInc s t n v).bciFields = s.bciFields := rfl
@[simp] theorem ctrInc_recorded {t : Tid} {n : Nat} {v : Word} : (ctrInc s t n v).recorded = s.recorded := rfl
@[simp] theorem ctrInc_ctrl {t : Tid} {n : Nat} {v : Word} : (ctrInc s t n v).ctrl = s.ctrl := rfl
@[simp] theorem ctrInc_serving {t : Tid} {n : Nat} {v : Word} : (ctrInc s t n v).serving = s.serving := rfl
@[simp] theorem ctrInc_loader {t : Tid} {n : Nat} {v : Word} : (ctrInc s t n v).loader = s.loader := rfl
@[simp] theorem ctrInc_store {t : Tid} {n : Nat} {v : Word} : (ctrInc s t n v).store = s.store := rfl
@[simp] theorem ctrInc_report {t : Tid} {n : Nat} {v : Word} : (ctrInc s t n v).report = s.report := rfl
@[simp] theorem ctrInc_log {t : Tid} {n : Nat} {v : Word} : (ctrInc s t n v).log = s.log := rfl
@[simp] theorem ctrInc_time {t : Tid} {n : Nat} {v : Word} : (ctrInc s t n v).time = s.time := rfl
@[simp] theorem ctrInc_pins {t : Tid} {n : Nat} {v : Word} : (ctrInc s t n v).pins = s.pins := rfl
@[simp] theorem ctrInc_plant {t : Tid} {n : Nat} {v : Word} : (ctrInc s t n v).plant = s.plant := rfl
@[simp] theorem ctrInc_plane {t : Tid} {n : Nat} {v : Word} : (ctrInc s t n v).plane = s.plane := rfl
@[simp] theorem ctrInc_sessions {t : Tid} {n : Nat} {v : Word} : (ctrInc s t n v).sessions = s.sessions := rfl
@[simp] theorem ctrInc_out {t : Tid} {n : Nat} {v : Word} : (ctrInc s t n v).out = s.out := rfl
@[simp] theorem ctrInc_pending {t : Tid} {n : Nat} {v : Word} : (ctrInc s t n v).pending = s.pending := rfl

/-! ## Tiles, dies, ports and fields of the parts that an update leaves -/

@[simp] theorem dieOf_setTile {k : Nat} {t : Tid} {v : TileState} : dieOf (setTile s t v) k = dieOf s k := rfl
@[simp] theorem portOf_setTile {k : Nat} {t : Tid} {v : TileState} : portOf (setTile s t v) k = portOf s k := rfl
@[simp] theorem ctxOf_setTile {k : Nat} {t : Tid} {v : TileState} : ctxOf (setTile s t v) k = ctxOf s k := rfl
@[simp] theorem rget_setTile {j k : Nat} {g : Fld} {t : Tid} {v : TileState} : rget (setTile s t v) j k g = rget s j k g := rfl
@[simp] theorem fieldOf_setTile {k : Nat} {t : Tid} {v : TileState} : fieldOf (setTile s t v) k = fieldOf s k := rfl
@[simp] theorem dieOf_modTile {k : Nat} {t : Tid} {f : TileState → TileState} : dieOf (modTile s t f) k = dieOf s k := rfl
@[simp] theorem portOf_modTile {k : Nat} {t : Tid} {f : TileState → TileState} : portOf (modTile s t f) k = portOf s k := rfl
@[simp] theorem ctxOf_modTile {k : Nat} {t : Tid} {f : TileState → TileState} : ctxOf (modTile s t f) k = ctxOf s k := rfl
@[simp] theorem rget_modTile {j k : Nat} {g : Fld} {t : Tid} {f : TileState → TileState} : rget (modTile s t f) j k g = rget s j k g := rfl
@[simp] theorem fieldOf_modTile {k : Nat} {t : Tid} {f : TileState → TileState} : fieldOf (modTile s t f) k = fieldOf s k := rfl
@[simp] theorem tileOf_setDie {k : Tid} {d : Nat} {v : DieState} : tileOf (setDie s d v) k = tileOf s k := rfl
@[simp] theorem portOf_setDie {k : Nat} {d : Nat} {v : DieState} : portOf (setDie s d v) k = portOf s k := rfl
@[simp] theorem ctxOf_setDie {k : Nat} {d : Nat} {v : DieState} : ctxOf (setDie s d v) k = ctxOf s k := rfl
@[simp] theorem rget_setDie {j k : Nat} {g : Fld} {d : Nat} {v : DieState} : rget (setDie s d v) j k g = rget s j k g := rfl
@[simp] theorem fieldOf_setDie {k : Nat} {d : Nat} {v : DieState} : fieldOf (setDie s d v) k = fieldOf s k := rfl
@[simp] theorem tileOf_modDie {k : Tid} {d : Nat} {f : DieState → DieState} : tileOf (modDie s d f) k = tileOf s k := rfl
@[simp] theorem portOf_modDie {k : Nat} {d : Nat} {f : DieState → DieState} : portOf (modDie s d f) k = portOf s k := rfl
@[simp] theorem ctxOf_modDie {k : Nat} {d : Nat} {f : DieState → DieState} : ctxOf (modDie s d f) k = ctxOf s k := rfl
@[simp] theorem rget_modDie {j k : Nat} {g : Fld} {d : Nat} {f : DieState → DieState} : rget (modDie s d f) j k g = rget s j k g := rfl
@[simp] theorem fieldOf_modDie {k : Nat} {d : Nat} {f : DieState → DieState} : fieldOf (modDie s d f) k = fieldOf s k := rfl
@[simp] theorem tileOf_setPort {k : Tid} {p : Nat} {v : PortState} : tileOf (setPort s p v) k = tileOf s k := rfl
@[simp] theorem dieOf_setPort {k : Nat} {p : Nat} {v : PortState} : dieOf (setPort s p v) k = dieOf s k := rfl
@[simp] theorem ctxOf_setPort {k : Nat} {p : Nat} {v : PortState} : ctxOf (setPort s p v) k = ctxOf s k := rfl
@[simp] theorem rget_setPort {j k : Nat} {g : Fld} {p : Nat} {v : PortState} : rget (setPort s p v) j k g = rget s j k g := rfl
@[simp] theorem fieldOf_setPort {k : Nat} {p : Nat} {v : PortState} : fieldOf (setPort s p v) k = fieldOf s k := rfl
@[simp] theorem tileOf_modPort {k : Tid} {p : Nat} {f : PortState → PortState} : tileOf (modPort s p f) k = tileOf s k := rfl
@[simp] theorem dieOf_modPort {k : Nat} {p : Nat} {f : PortState → PortState} : dieOf (modPort s p f) k = dieOf s k := rfl
@[simp] theorem ctxOf_modPort {k : Nat} {p : Nat} {f : PortState → PortState} : ctxOf (modPort s p f) k = ctxOf s k := rfl
@[simp] theorem rget_modPort {j k : Nat} {g : Fld} {p : Nat} {f : PortState → PortState} : rget (modPort s p f) j k g = rget s j k g := rfl
@[simp] theorem fieldOf_modPort {k : Nat} {p : Nat} {f : PortState → PortState} : fieldOf (modPort s p f) k = fieldOf s k := rfl
@[simp] theorem tileOf_modServing {k : Tid} {f : Serving → Serving} : tileOf (modServing s f) k = tileOf s k := rfl
@[simp] theorem dieOf_modServing {k : Nat} {f : Serving → Serving} : dieOf (modServing s f) k = dieOf s k := rfl
@[simp] theorem portOf_modServing {k : Nat} {f : Serving → Serving} : portOf (modServing s f) k = portOf s k := rfl
@[simp] theorem ctxOf_modServing {k : Nat} {f : Serving → Serving} : ctxOf (modServing s f) k = ctxOf s k := rfl
@[simp] theorem rget_modServing {j k : Nat} {g : Fld} {f : Serving → Serving} : rget (modServing s f) j k g = rget s j k g := rfl
@[simp] theorem fieldOf_modServing {k : Nat} {f : Serving → Serving} : fieldOf (modServing s f) k = fieldOf s k := rfl
@[simp] theorem tileOf_modStore {k : Tid} {f : Store → Store} : tileOf (modStore s f) k = tileOf s k := rfl
@[simp] theorem dieOf_modStore {k : Nat} {f : Store → Store} : dieOf (modStore s f) k = dieOf s k := rfl
@[simp] theorem portOf_modStore {k : Nat} {f : Store → Store} : portOf (modStore s f) k = portOf s k := rfl
@[simp] theorem ctxOf_modStore {k : Nat} {f : Store → Store} : ctxOf (modStore s f) k = ctxOf s k := rfl
@[simp] theorem rget_modStore {j k : Nat} {g : Fld} {f : Store → Store} : rget (modStore s f) j k g = rget s j k g := rfl
@[simp] theorem fieldOf_modStore {k : Nat} {f : Store → Store} : fieldOf (modStore s f) k = fieldOf s k := rfl
@[simp] theorem tileOf_modPlane {k : Tid} {f : Plane → Plane} : tileOf (modPlane s f) k = tileOf s k := rfl
@[simp] theorem dieOf_modPlane {k : Nat} {f : Plane → Plane} : dieOf (modPlane s f) k = dieOf s k := rfl
@[simp] theorem portOf_modPlane {k : Nat} {f : Plane → Plane} : portOf (modPlane s f) k = portOf s k := rfl
@[simp] theorem ctxOf_modPlane {k : Nat} {f : Plane → Plane} : ctxOf (modPlane s f) k = ctxOf s k := rfl
@[simp] theorem rget_modPlane {j k : Nat} {g : Fld} {f : Plane → Plane} : rget (modPlane s f) j k g = rget s j k g := rfl
@[simp] theorem fieldOf_modPlane {k : Nat} {f : Plane → Plane} : fieldOf (modPlane s f) k = fieldOf s k := rfl
@[simp] theorem tileOf_modPlant {k : Tid} {f : Plant → Plant} : tileOf (modPlant s f) k = tileOf s k := rfl
@[simp] theorem dieOf_modPlant {k : Nat} {f : Plant → Plant} : dieOf (modPlant s f) k = dieOf s k := rfl
@[simp] theorem portOf_modPlant {k : Nat} {f : Plant → Plant} : portOf (modPlant s f) k = portOf s k := rfl
@[simp] theorem ctxOf_modPlant {k : Nat} {f : Plant → Plant} : ctxOf (modPlant s f) k = ctxOf s k := rfl
@[simp] theorem rget_modPlant {j k : Nat} {g : Fld} {f : Plant → Plant} : rget (modPlant s f) j k g = rget s j k g := rfl
@[simp] theorem fieldOf_modPlant {k : Nat} {f : Plant → Plant} : fieldOf (modPlant s f) k = fieldOf s k := rfl
@[simp] theorem tileOf_modPins {k : Tid} {f : Pins → Pins} : tileOf (modPins s f) k = tileOf s k := rfl
@[simp] theorem dieOf_modPins {k : Nat} {f : Pins → Pins} : dieOf (modPins s f) k = dieOf s k := rfl
@[simp] theorem portOf_modPins {k : Nat} {f : Pins → Pins} : portOf (modPins s f) k = portOf s k := rfl
@[simp] theorem ctxOf_modPins {k : Nat} {f : Pins → Pins} : ctxOf (modPins s f) k = ctxOf s k := rfl
@[simp] theorem rget_modPins {j k : Nat} {g : Fld} {f : Pins → Pins} : rget (modPins s f) j k g = rget s j k g := rfl
@[simp] theorem fieldOf_modPins {k : Nat} {f : Pins → Pins} : fieldOf (modPins s f) k = fieldOf s k := rfl
@[simp] theorem tileOf_modTime {k : Tid} {f : Timebase → Timebase} : tileOf (modTime s f) k = tileOf s k := rfl
@[simp] theorem dieOf_modTime {k : Nat} {f : Timebase → Timebase} : dieOf (modTime s f) k = dieOf s k := rfl
@[simp] theorem portOf_modTime {k : Nat} {f : Timebase → Timebase} : portOf (modTime s f) k = portOf s k := rfl
@[simp] theorem ctxOf_modTime {k : Nat} {f : Timebase → Timebase} : ctxOf (modTime s f) k = ctxOf s k := rfl
@[simp] theorem rget_modTime {j k : Nat} {g : Fld} {f : Timebase → Timebase} : rget (modTime s f) j k g = rget s j k g := rfl
@[simp] theorem fieldOf_modTime {k : Nat} {f : Timebase → Timebase} : fieldOf (modTime s f) k = fieldOf s k := rfl
@[simp] theorem tileOf_modLoader {k : Tid} {f : Loader → Loader} : tileOf (modLoader s f) k = tileOf s k := rfl
@[simp] theorem dieOf_modLoader {k : Nat} {f : Loader → Loader} : dieOf (modLoader s f) k = dieOf s k := rfl
@[simp] theorem portOf_modLoader {k : Nat} {f : Loader → Loader} : portOf (modLoader s f) k = portOf s k := rfl
@[simp] theorem rget_modLoader {j k : Nat} {g : Fld} {f : Loader → Loader} : rget (modLoader s f) j k g = rget s j k g := rfl
@[simp] theorem fieldOf_modLoader {k : Nat} {f : Loader → Loader} : fieldOf (modLoader s f) k = fieldOf s k := rfl
@[simp] theorem tileOf_setCtx {k : Tid} {c : Nat} {v : Option Context} : tileOf (setCtx s c v) k = tileOf s k := rfl
@[simp] theorem dieOf_setCtx {k : Nat} {c : Nat} {v : Option Context} : dieOf (setCtx s c v) k = dieOf s k := rfl
@[simp] theorem portOf_setCtx {k : Nat} {c : Nat} {v : Option Context} : portOf (setCtx s c v) k = portOf s k := rfl
@[simp] theorem rget_setCtx {j k : Nat} {g : Fld} {c : Nat} {v : Option Context} : rget (setCtx s c v) j k g = rget s j k g := rfl
@[simp] theorem fieldOf_setCtx {k : Nat} {c : Nat} {v : Option Context} : fieldOf (setCtx s c v) k = fieldOf s k := rfl
@[simp] theorem tileOf_modCtx {k : Tid} {c : Nat} {f : Context → Context} : tileOf (modCtx s c f) k = tileOf s k := rfl
@[simp] theorem dieOf_modCtx {k : Nat} {c : Nat} {f : Context → Context} : dieOf (modCtx s c f) k = dieOf s k := rfl
@[simp] theorem portOf_modCtx {k : Nat} {c : Nat} {f : Context → Context} : portOf (modCtx s c f) k = portOf s k := rfl
@[simp] theorem rget_modCtx {j k : Nat} {g : Fld} {c : Nat} {f : Context → Context} : rget (modCtx s c f) j k g = rget s j k g := rfl
@[simp] theorem fieldOf_modCtx {k : Nat} {c : Nat} {f : Context → Context} : fieldOf (modCtx s c f) k = fieldOf s k := rfl
@[simp] theorem tileOf_send {k : Tid} {o : Out} : tileOf (send s o) k = tileOf s k := rfl
@[simp] theorem dieOf_send {k : Nat} {o : Out} : dieOf (send s o) k = dieOf s k := rfl
@[simp] theorem portOf_send {k : Nat} {o : Out} : portOf (send s o) k = portOf s k := rfl
@[simp] theorem ctxOf_send {k : Nat} {o : Out} : ctxOf (send s o) k = ctxOf s k := rfl
@[simp] theorem rget_send {j k : Nat} {g : Fld} {o : Out} : rget (send s o) j k g = rget s j k g := rfl
@[simp] theorem fieldOf_send {k : Nat} {o : Out} : fieldOf (send s o) k = fieldOf s k := rfl
@[simp] theorem tileOf_post {k : Tid} {m : CtrlMsg} : tileOf (post s m) k = tileOf s k := rfl
@[simp] theorem dieOf_post {k : Nat} {m : CtrlMsg} : dieOf (post s m) k = dieOf s k := rfl
@[simp] theorem portOf_post {k : Nat} {m : CtrlMsg} : portOf (post s m) k = portOf s k := rfl
@[simp] theorem ctxOf_post {k : Nat} {m : CtrlMsg} : ctxOf (post s m) k = ctxOf s k := rfl
@[simp] theorem rget_post {j k : Nat} {g : Fld} {m : CtrlMsg} : rget (post s m) j k g = rget s j k g := rfl
@[simp] theorem fieldOf_post {k : Nat} {m : CtrlMsg} : fieldOf (post s m) k = fieldOf s k := rfl
@[simp] theorem tileOf_bumpFree {k : Tid} : tileOf (bumpFree s) k = tileOf s k := rfl
@[simp] theorem dieOf_bumpFree {k : Nat} : dieOf (bumpFree s) k = dieOf s k := rfl
@[simp] theorem portOf_bumpFree {k : Nat} : portOf (bumpFree s) k = portOf s k := rfl
@[simp] theorem ctxOf_bumpFree {k : Nat} : ctxOf (bumpFree s) k = ctxOf s k := rfl
@[simp] theorem rget_bumpFree {j k : Nat} {g : Fld} : rget (bumpFree s) j k g = rget s j k g := rfl
@[simp] theorem fieldOf_bumpFree {k : Nat} : fieldOf (bumpFree s) k = fieldOf s k := rfl
@[simp] theorem tileOf_rset {k : Tid} {d t : Nat} {f : Fld} {v : Nat} : tileOf (rset s d t f v) k = tileOf s k := rfl
@[simp] theorem dieOf_rset {k : Nat} {d t : Nat} {f : Fld} {v : Nat} : dieOf (rset s d t f v) k = dieOf s k := rfl
@[simp] theorem portOf_rset {k : Nat} {d t : Nat} {f : Fld} {v : Nat} : portOf (rset s d t f v) k = portOf s k := rfl
@[simp] theorem ctxOf_rset {k : Nat} {d t : Nat} {f : Fld} {v : Nat} : ctxOf (rset s d t f v) k = ctxOf s k := rfl
@[simp] theorem fieldOf_rset {k : Nat} {d t : Nat} {f : Fld} {v : Nat} : fieldOf (rset s d t f v) k = fieldOf s k := rfl
@[simp] theorem tileOf_rinc {k : Tid} {d t : Nat} {f : Fld} {n : Nat} : tileOf (rinc s d t f n) k = tileOf s k := rfl
@[simp] theorem dieOf_rinc {k : Nat} {d t : Nat} {f : Fld} {n : Nat} : dieOf (rinc s d t f n) k = dieOf s k := rfl
@[simp] theorem portOf_rinc {k : Nat} {d t : Nat} {f : Fld} {n : Nat} : portOf (rinc s d t f n) k = portOf s k := rfl
@[simp] theorem ctxOf_rinc {k : Nat} {d t : Nat} {f : Fld} {n : Nat} : ctxOf (rinc s d t f n) k = ctxOf s k := rfl
@[simp] theorem fieldOf_rinc {k : Nat} {d t : Nat} {f : Fld} {n : Nat} : fieldOf (rinc s d t f n) k = fieldOf s k := rfl
@[simp] theorem tileOf_rmax {k : Tid} {d t : Nat} {f : Fld} {n : Nat} : tileOf (rmax s d t f n) k = tileOf s k := rfl
@[simp] theorem dieOf_rmax {k : Nat} {d t : Nat} {f : Fld} {n : Nat} : dieOf (rmax s d t f n) k = dieOf s k := rfl
@[simp] theorem portOf_rmax {k : Nat} {d t : Nat} {f : Fld} {n : Nat} : portOf (rmax s d t f n) k = portOf s k := rfl
@[simp] theorem ctxOf_rmax {k : Nat} {d t : Nat} {f : Fld} {n : Nat} : ctxOf (rmax s d t f n) k = ctxOf s k := rfl
@[simp] theorem fieldOf_rmax {k : Nat} {d t : Nat} {f : Fld} {n : Nat} : fieldOf (rmax s d t f n) k = fieldOf s k := rfl
@[simp] theorem tileOf_tset {k : Tid} {t : Tid} {f : Fld} {v : Nat} : tileOf (tset s t f v) k = tileOf s k := rfl
@[simp] theorem dieOf_tset {k : Nat} {t : Tid} {f : Fld} {v : Nat} : dieOf (tset s t f v) k = dieOf s k := rfl
@[simp] theorem portOf_tset {k : Nat} {t : Tid} {f : Fld} {v : Nat} : portOf (tset s t f v) k = portOf s k := rfl
@[simp] theorem ctxOf_tset {k : Nat} {t : Tid} {f : Fld} {v : Nat} : ctxOf (tset s t f v) k = ctxOf s k := rfl
@[simp] theorem fieldOf_tset {k : Nat} {t : Tid} {f : Fld} {v : Nat} : fieldOf (tset s t f v) k = fieldOf s k := rfl
@[simp] theorem tileOf_tinc {k : Tid} {t : Tid} {f : Fld} {n : Nat} : tileOf (tinc s t f n) k = tileOf s k := rfl
@[simp] theorem dieOf_tinc {k : Nat} {t : Tid} {f : Fld} {n : Nat} : dieOf (tinc s t f n) k = dieOf s k := rfl
@[simp] theorem portOf_tinc {k : Nat} {t : Tid} {f : Fld} {n : Nat} : portOf (tinc s t f n) k = portOf s k := rfl
@[simp] theorem ctxOf_tinc {k : Nat} {t : Tid} {f : Fld} {n : Nat} : ctxOf (tinc s t f n) k = ctxOf s k := rfl
@[simp] theorem fieldOf_tinc {k : Nat} {t : Tid} {f : Fld} {n : Nat} : fieldOf (tinc s t f n) k = fieldOf s k := rfl
@[simp] theorem tileOf_dset {k : Tid} {d : Nat} {f : Fld} {v : Nat} : tileOf (dset s d f v) k = tileOf s k := rfl
@[simp] theorem dieOf_dset {k : Nat} {d : Nat} {f : Fld} {v : Nat} : dieOf (dset s d f v) k = dieOf s k := rfl
@[simp] theorem portOf_dset {k : Nat} {d : Nat} {f : Fld} {v : Nat} : portOf (dset s d f v) k = portOf s k := rfl
@[simp] theorem ctxOf_dset {k : Nat} {d : Nat} {f : Fld} {v : Nat} : ctxOf (dset s d f v) k = ctxOf s k := rfl
@[simp] theorem fieldOf_dset {k : Nat} {d : Nat} {f : Fld} {v : Nat} : fieldOf (dset s d f v) k = fieldOf s k := rfl
@[simp] theorem tileOf_dinc {k : Tid} {d : Nat} {f : Fld} {n : Nat} : tileOf (dinc s d f n) k = tileOf s k := rfl
@[simp] theorem dieOf_dinc {k : Nat} {d : Nat} {f : Fld} {n : Nat} : dieOf (dinc s d f n) k = dieOf s k := rfl
@[simp] theorem portOf_dinc {k : Nat} {d : Nat} {f : Fld} {n : Nat} : portOf (dinc s d f n) k = portOf s k := rfl
@[simp] theorem ctxOf_dinc {k : Nat} {d : Nat} {f : Fld} {n : Nat} : ctxOf (dinc s d f n) k = ctxOf s k := rfl
@[simp] theorem fieldOf_dinc {k : Nat} {d : Nat} {f : Fld} {n : Nat} : fieldOf (dinc s d f n) k = fieldOf s k := rfl
@[simp] theorem tileOf_pset {k : Tid} {f : Fld} {v : Nat} : tileOf (pset s f v) k = tileOf s k := rfl
@[simp] theorem dieOf_pset {k : Nat} {f : Fld} {v : Nat} : dieOf (pset s f v) k = dieOf s k := rfl
@[simp] theorem portOf_pset {k : Nat} {f : Fld} {v : Nat} : portOf (pset s f v) k = portOf s k := rfl
@[simp] theorem ctxOf_pset {k : Nat} {f : Fld} {v : Nat} : ctxOf (pset s f v) k = ctxOf s k := rfl
@[simp] theorem fieldOf_pset {k : Nat} {f : Fld} {v : Nat} : fieldOf (pset s f v) k = fieldOf s k := rfl
@[simp] theorem tileOf_pinc {k : Tid} {f : Fld} {n : Nat} : tileOf (pinc s f n) k = tileOf s k := rfl
@[simp] theorem dieOf_pinc {k : Nat} {f : Fld} {n : Nat} : dieOf (pinc s f n) k = dieOf s k := rfl
@[simp] theorem portOf_pinc {k : Nat} {f : Fld} {n : Nat} : portOf (pinc s f n) k = portOf s k := rfl
@[simp] theorem ctxOf_pinc {k : Nat} {f : Fld} {n : Nat} : ctxOf (pinc s f n) k = ctxOf s k := rfl
@[simp] theorem fieldOf_pinc {k : Nat} {f : Fld} {n : Nat} : fieldOf (pinc s f n) k = fieldOf s k := rfl
@[simp] theorem tileOf_portSet {k : Tid} {p : Nat} {f : Fld} {v : Nat} : tileOf (portSet s p f v) k = tileOf s k := rfl
@[simp] theorem dieOf_portSet {k : Nat} {p : Nat} {f : Fld} {v : Nat} : dieOf (portSet s p f v) k = dieOf s k := rfl
@[simp] theorem portOf_portSet {k : Nat} {p : Nat} {f : Fld} {v : Nat} : portOf (portSet s p f v) k = portOf s k := rfl
@[simp] theorem ctxOf_portSet {k : Nat} {p : Nat} {f : Fld} {v : Nat} : ctxOf (portSet s p f v) k = ctxOf s k := rfl
@[simp] theorem fieldOf_portSet {k : Nat} {p : Nat} {f : Fld} {v : Nat} : fieldOf (portSet s p f v) k = fieldOf s k := rfl
@[simp] theorem tileOf_portInc {k : Tid} {p : Nat} {f : Fld} {n : Nat} : tileOf (portInc s p f n) k = tileOf s k := rfl
@[simp] theorem dieOf_portInc {k : Nat} {p : Nat} {f : Fld} {n : Nat} : dieOf (portInc s p f n) k = dieOf s k := rfl
@[simp] theorem portOf_portInc {k : Nat} {p : Nat} {f : Fld} {n : Nat} : portOf (portInc s p f n) k = portOf s k := rfl
@[simp] theorem ctxOf_portInc {k : Nat} {p : Nat} {f : Fld} {n : Nat} : ctxOf (portInc s p f n) k = ctxOf s k := rfl
@[simp] theorem fieldOf_portInc {k : Nat} {p : Nat} {f : Fld} {n : Nat} : fieldOf (portInc s p f n) k = fieldOf s k := rfl
@[simp] theorem tileOf_ctrSet {k : Tid} {t : Tid} {n : Nat} {v : Word} : tileOf (ctrSet s t n v) k = tileOf s k := rfl
@[simp] theorem dieOf_ctrSet {k : Nat} {t : Tid} {n : Nat} {v : Word} : dieOf (ctrSet s t n v) k = dieOf s k := rfl
@[simp] theorem portOf_ctrSet {k : Nat} {t : Tid} {n : Nat} {v : Word} : portOf (ctrSet s t n v) k = portOf s k := rfl
@[simp] theorem ctxOf_ctrSet {k : Nat} {t : Tid} {n : Nat} {v : Word} : ctxOf (ctrSet s t n v) k = ctxOf s k := rfl
@[simp] theorem fieldOf_ctrSet {k : Nat} {t : Tid} {n : Nat} {v : Word} : fieldOf (ctrSet s t n v) k = fieldOf s k := rfl
@[simp] theorem tileOf_ctrInc {k : Tid} {t : Tid} {n : Nat} {v : Word} : tileOf (ctrInc s t n v) k = tileOf s k := rfl
@[simp] theorem dieOf_ctrInc {k : Nat} {t : Tid} {n : Nat} {v : Word} : dieOf (ctrInc s t n v) k = dieOf s k := rfl
@[simp] theorem portOf_ctrInc {k : Nat} {t : Tid} {n : Nat} {v : Word} : portOf (ctrInc s t n v) k = portOf s k := rfl
@[simp] theorem ctxOf_ctrInc {k : Nat} {t : Tid} {n : Nat} {v : Word} : ctxOf (ctrInc s t n v) k = ctxOf s k := rfl
@[simp] theorem fieldOf_ctrInc {k : Nat} {t : Tid} {n : Nat} {v : Word} : fieldOf (ctrInc s t n v) k = fieldOf s k := rfl

/-! ## Reads after writes -/

theorem tileOf_setTile_self (h : kwf (fun _ => TileState.reset) s.tiles = true) {t : Tid} {v : TileState} :
    tileOf (setTile s t v) t = v := kget_kset_self h

theorem tkey_inj {t u : Tid} (h : tkey t = tkey u) : t = u := by
  obtain ⟨d, i⟩ := t
  obtain ⟨e, j⟩ := u
  have h1 : d.val * 24 + i.val = e.val * 24 + j.val := h
  have : d.val = e.val ∧ i.val = j.val := by omega
  simp only [Tid.mk.injEq]
  exact ⟨Fin.ext this.1, Fin.ext this.2⟩

theorem tileOf_setTile_ne {t u : Tid} {v : TileState} (h : u ≠ t) : tileOf (setTile s t v) u = tileOf s u :=
  kget_kset_ne fun e => h (tkey_inj e)

theorem tileOf_modTile_self (h : kwf (fun _ => TileState.reset) s.tiles = true) {t : Tid} {f : TileState → TileState} :
    tileOf (modTile s t f) t = f (tileOf s t) := tileOf_setTile_self h

theorem tileOf_modTile_ne {t u : Tid} {f : TileState → TileState} (h : u ≠ t) :
    tileOf (modTile s t f) u = tileOf s u := tileOf_setTile_ne h

theorem dieOf_modDie_self (h : kwf (fun _ => DieState.reset) s.dies = true) {d : Nat} {f : DieState → DieState} :
    dieOf (modDie s d f) d = f (dieOf s d) := kget_kset_self h

theorem dieOf_modDie_ne {d e : Nat} {f : DieState → DieState} (h : e ≠ d) : dieOf (modDie s d f) e = dieOf s e :=
  kget_kset_ne h

theorem portOf_modPort_self (h : kwf (fun _ => PortState.reset) s.ports = true) {p : Nat} {f : PortState → PortState} :
    portOf (modPort s p f) p = f (portOf s p) := kget_kset_self h

theorem portOf_modPort_ne {p q : Nat} {f : PortState → PortState} (h : q ≠ p) : portOf (modPort s p f) q = portOf s q :=
  kget_kset_ne h

theorem rget_rset_self (h : kwf regDefault s.regs = true) {d t : Nat} {f : Fld} {v : Nat} :
    rget (rset s d t f v) d t f = v % 2 ^ f.w := kget_kset_self h

theorem rget_rset_ne {d t e u : Nat} {f g : Fld} {v : Nat} (h : fkey e u g ≠ fkey d t f) :
    rget (rset s d t f v) e u g = rget s e u g := kget_kset_ne h

theorem pget_pset_self (h : kwf regDefault s.regs = true) {f : Fld} {v : Nat} : pget (pset s f v) f = v % 2 ^ f.w :=
  rget_rset_self h

theorem tget_tset_self (h : kwf regDefault s.regs = true) {t : Tid} {f : Fld} {v : Nat} :
    tget (tset s t f v) t f = v % 2 ^ f.w := rget_rset_self h

theorem dget_dset_self (h : kwf regDefault s.regs = true) {d : Nat} {f : Fld} {v : Nat} :
    dget (dset s d f v) d f = v % 2 ^ f.w := rget_rset_self h

/-- A write of one field of a die or tile leaves every other field of it. -/
theorem rget_rset_fld {d t : Nat} {f g : Fld} {v : Nat}
    (h : (g.blk * 65536 + g.off) * 32 + g.lo ≠ (f.blk * 65536 + f.off) * 32 + f.lo) :
    rget (rset s d t f v) d t g = rget s d t g := by
  have hne : fkey d t g ≠ fkey d t f := by
    intro e
    simp only [fkey] at e
    omega
  exact rget_rset_ne (s := s) (d := d) (t := t) (e := d) (u := t) (f := f) (g := g) (v := v) hne

theorem pget_pset_ne {f g : Fld} {v : Nat}
    (h : (g.blk * 65536 + g.off) * 32 + g.lo ≠ (f.blk * 65536 + f.off) * 32 + f.lo) :
    pget (pset s f v) g = pget s g := rget_rset_fld h

theorem tget_tset_ne {t : Tid} {f g : Fld} {v : Nat}
    (h : (g.blk * 65536 + g.off) * 32 + g.lo ≠ (f.blk * 65536 + f.off) * 32 + f.lo) :
    tget (tset s t f v) t g = tget s t g := rget_rset_fld h

theorem dget_dset_ne {d : Nat} {f g : Fld} {v : Nat}
    (h : (g.blk * 65536 + g.off) * 32 + g.lo ≠ (f.blk * 65536 + f.off) * 32 + f.lo) :
    dget (dset s d f v) d g = dget s d g := rget_rset_fld h

theorem portGet_portSet_ne {p : Nat} {f g : Fld} {v : Nat}
    (h : (g.blk * 65536 + g.off) * 32 + g.lo ≠ (f.blk * 65536 + f.off) * 32 + f.lo) :
    portGet (portSet s p f v) p g = portGet s p g := rget_rset_fld h

theorem portGet_portSet_self (h : kwf regDefault s.regs = true) {p : Nat} {f : Fld} {v : Nat} :
    portGet (portSet s p f v) p f = v % 2 ^ f.w := rget_rset_self h

/-! ## The log -/

@[simp] theorem logRec_tiles {e : LogRec} : (logRec s e).tiles = s.tiles := by
  unfold logRec
  dsimp only
  split <;> split <;> rfl

@[simp] theorem logPut_tiles {c v : Nat} {r : LogSrc} {a b e : Nat} : (logPut s c v r a b e).tiles = s.tiles := logRec_tiles

@[simp] theorem logRec_dies {e : LogRec} : (logRec s e).dies = s.dies := by
  unfold logRec
  dsimp only
  split <;> split <;> rfl

@[simp] theorem logPut_dies {c v : Nat} {r : LogSrc} {a b e : Nat} : (logPut s c v r a b e).dies = s.dies := logRec_dies

@[simp] theorem logRec_ports {e : LogRec} : (logRec s e).ports = s.ports := by
  unfold logRec
  dsimp only
  split <;> split <;> rfl

@[simp] theorem logPut_ports {c v : Nat} {r : LogSrc} {a b e : Nat} : (logPut s c v r a b e).ports = s.ports := logRec_ports

@[simp] theorem logRec_fields {e : LogRec} : (logRec s e).fields = s.fields := by
  unfold logRec
  dsimp only
  split <;> split <;> rfl

@[simp] theorem logPut_fields {c v : Nat} {r : LogSrc} {a b e : Nat} : (logPut s c v r a b e).fields = s.fields := logRec_fields

@[simp] theorem logRec_bciFields {e : LogRec} : (logRec s e).bciFields = s.bciFields := by
  unfold logRec
  dsimp only
  split <;> split <;> rfl

@[simp] theorem logPut_bciFields {c v : Nat} {r : LogSrc} {a b e : Nat} : (logPut s c v r a b e).bciFields = s.bciFields := logRec_bciFields

@[simp] theorem logRec_recorded {e : LogRec} : (logRec s e).recorded = s.recorded := by
  unfold logRec
  dsimp only
  split <;> split <;> rfl

@[simp] theorem logPut_recorded {c v : Nat} {r : LogSrc} {a b e : Nat} : (logPut s c v r a b e).recorded = s.recorded := logRec_recorded

@[simp] theorem logRec_ctrl {e : LogRec} : (logRec s e).ctrl = s.ctrl := by
  unfold logRec
  dsimp only
  split <;> split <;> rfl

@[simp] theorem logPut_ctrl {c v : Nat} {r : LogSrc} {a b e : Nat} : (logPut s c v r a b e).ctrl = s.ctrl := logRec_ctrl

@[simp] theorem logRec_serving {e : LogRec} : (logRec s e).serving = s.serving := by
  unfold logRec
  dsimp only
  split <;> split <;> rfl

@[simp] theorem logPut_serving {c v : Nat} {r : LogSrc} {a b e : Nat} : (logPut s c v r a b e).serving = s.serving := logRec_serving

@[simp] theorem logRec_loader {e : LogRec} : (logRec s e).loader = s.loader := by
  unfold logRec
  dsimp only
  split <;> split <;> rfl

@[simp] theorem logPut_loader {c v : Nat} {r : LogSrc} {a b e : Nat} : (logPut s c v r a b e).loader = s.loader := logRec_loader

@[simp] theorem logRec_store {e : LogRec} : (logRec s e).store = s.store := by
  unfold logRec
  dsimp only
  split <;> split <;> rfl

@[simp] theorem logPut_store {c v : Nat} {r : LogSrc} {a b e : Nat} : (logPut s c v r a b e).store = s.store := logRec_store

@[simp] theorem logRec_report {e : LogRec} : (logRec s e).report = s.report := by
  unfold logRec
  dsimp only
  split <;> split <;> rfl

@[simp] theorem logPut_report {c v : Nat} {r : LogSrc} {a b e : Nat} : (logPut s c v r a b e).report = s.report := logRec_report

@[simp] theorem logRec_time {e : LogRec} : (logRec s e).time = s.time := by
  unfold logRec
  dsimp only
  split <;> split <;> rfl

@[simp] theorem logPut_time {c v : Nat} {r : LogSrc} {a b e : Nat} : (logPut s c v r a b e).time = s.time := logRec_time

@[simp] theorem logRec_plant {e : LogRec} : (logRec s e).plant = s.plant := by
  unfold logRec
  dsimp only
  split <;> split <;> rfl

@[simp] theorem logPut_plant {c v : Nat} {r : LogSrc} {a b e : Nat} : (logPut s c v r a b e).plant = s.plant := logRec_plant

@[simp] theorem logRec_plane {e : LogRec} : (logRec s e).plane = s.plane := by
  unfold logRec
  dsimp only
  split <;> split <;> rfl

@[simp] theorem logPut_plane {c v : Nat} {r : LogSrc} {a b e : Nat} : (logPut s c v r a b e).plane = s.plane := logRec_plane

@[simp] theorem logRec_sessions {e : LogRec} : (logRec s e).sessions = s.sessions := by
  unfold logRec
  dsimp only
  split <;> split <;> rfl

@[simp] theorem logPut_sessions {c v : Nat} {r : LogSrc} {a b e : Nat} : (logPut s c v r a b e).sessions = s.sessions := logRec_sessions

@[simp] theorem logRec_out {e : LogRec} : (logRec s e).out = s.out := by
  unfold logRec
  dsimp only
  split <;> split <;> rfl

@[simp] theorem logPut_out {c v : Nat} {r : LogSrc} {a b e : Nat} : (logPut s c v r a b e).out = s.out := logRec_out

@[simp] theorem logRec_pending {e : LogRec} : (logRec s e).pending = s.pending := by
  unfold logRec
  dsimp only
  split <;> split <;> rfl

@[simp] theorem logPut_pending {c v : Nat} {r : LogSrc} {a b e : Nat} : (logPut s c v r a b e).pending = s.pending := logRec_pending

/-- An entry becomes the last of the log; with the ring full the oldest one goes (R456). -/
theorem logRec_log {e : LogRec} : (logRec s e).log =
    (if logCap ≤ s.log.length then s.log.drop 1 else s.log) ++ [⟨BitVec.ofNat 32 (pget s R.LOG_HEAD_SEQNO), e⟩] := by
  unfold logRec
  dsimp only
  split <;> split <;> (try simp_all) <;> omega

end Sys2Proof.Machine
end

