-- ==== Sys2Proof/Laws/Keep.lean ====
section
/-! SUPPORT. What every effect keeps: the canonical forms, the identity block (R463), the certificate and the
device key (R467, R468), the queue of waiting commands, what has been sent, and the log but for what its ring
pushes out (R456). One lemma for each operation of Machine/Ops.lean
here, and one for each effect in the files beside this one. -/
namespace Sys2Proof.Machine

/-- `s` is canonical and has the identity and the queue of `s0`. -/
structure Keep (s0 s : State) : Prop where
  canon  : Canonical s
  serial : s.store.moduleSerial = s0.store.moduleSerial
  cert   : s.store.certificate = s0.store.certificate
  key    : s.store.deviceKey = s0.store.deviceKey
  queue  : s.pending = s0.pending
  out    : ∃ l, s.out = s0.out ++ l
  log    : ∃ l, s.log = ringKeep (s0.log ++ l)

theorem ringKeep_of_le {l : List LogEnt} (h : l.length ≤ logCap) : ringKeep l = l := by
  unfold ringKeep
  rw [Nat.sub_eq_zero_of_le h]
  rfl

theorem ringKeep_length {l : List LogEnt} : (ringKeep l).length ≤ logCap := by
  unfold ringKeep
  rw [List.length_drop]
  omega

/-- Entries after a ring's are entries after all that the ring has taken. -/
theorem ringKeep_append {l m : List LogEnt} : ringKeep (ringKeep l ++ m) = ringKeep (l ++ m) := by
  unfold ringKeep
  generalize logCap = n
  rw [List.length_append, List.length_append, List.length_drop]
  rcases Nat.le_total l.length n with h | h
  · rw [Nat.sub_eq_zero_of_le h]
    simp
  · have e1 : l.length - (l.length - n) + m.length - n = m.length := by omega
    have e2 : l.length + m.length - n = l.length - n + m.length := by omega
    rw [e1, e2, ← List.drop_drop,
      List.drop_append_of_le_length (l₁ := l) (i := l.length - n) (by omega)]

theorem Keep.refl {s : State} (h : Canonical s) : Keep s s :=
  ⟨h, rfl, rfl, rfl, rfl, ⟨[], by simp⟩, ⟨[], by simp [ringKeep_of_le h.log]⟩⟩

theorem Keep.trans {s0 s1 s2 : State} (a : Keep s0 s1) (b : Keep s1 s2) : Keep s0 s2 := by
  obtain ⟨l, hl⟩ := a.out
  obtain ⟨m, hm⟩ := b.out
  obtain ⟨x, hx⟩ := a.log
  obtain ⟨y, hy⟩ := b.log
  exact ⟨b.canon, b.serial.trans a.serial, b.cert.trans a.cert, b.key.trans a.key, b.queue.trans a.queue,
    ⟨l ++ m, by rw [hm, hl, List.append_assoc]⟩, ⟨x ++ y, by rw [hy, hx, ringKeep_append, List.append_assoc]⟩⟩

theorem TileMem.reset : TileMem TileState.reset := ⟨rfl, rfl, rfl, rfl, rfl, rfl, rfl, rfl, rfl, rfl, rfl, rfl⟩

theorem Canonical.reset : Canonical State.reset :=
  ⟨rfl, rfl, rfl, rfl, rfl, fun _ => TileMem.reset, fun _ => rfl, Nat.zero_le _⟩

variable {s0 s : State}

/-! ## Structure of effects -/

theorem keep_ite {c : Prop} [Decidable c] {a b : State} (ha : c → Keep s0 a) (hb : ¬c → Keep s0 b) :
    Keep s0 (if c then a else b) := by
  split
  · next h => exact ha h
  · next h => exact hb h

theorem keep_forEach {α : Type} {l : List α} {f : State → α → State} (h : Keep s0 s)
    (hf : ∀ s a, Keep s0 s → Keep s0 (f s a)) : Keep s0 (forEach l s f) := by
  unfold forEach
  induction l generalizing s with
  | nil => exact h
  | cons x r ih => exact ih (hf s x h)

theorem keep_foldl {α : Type} {l : List α} {f : State → α → State} (h : Keep s0 s)
    (hf : ∀ s a, Keep s0 s → Keep s0 (f s a)) : Keep s0 (l.foldl f s) := keep_forEach h hf

theorem keep_snd {α : Type} {p : α × State} {a : α} {t : State} (e : p = (a, t)) (h : Keep s0 p.2) : Keep s0 t := by
  subst e; exact h

theorem keep_fst {α : Type} {p : State × α} {a : α} {t : State} (e : p = (t, a)) (h : Keep s0 p.1) : Keep s0 t := by
  subst e; exact h

theorem keep_iteSnd {α : Type} {c : Prop} [Decidable c] {a b : α × State} (ha : Keep s0 a.2) (hb : Keep s0 b.2) :
    Keep s0 (if c then a else b).2 := by
  split
  · exact ha
  · exact hb

theorem keep_trd {α β : Type} {p : α × β × State} {a : α} {b : β} {t : State} (e : p = (a, b, t))
    (h : Keep s0 p.2.2) : Keep s0 t := by
  subst e; exact h

theorem keep_opt {o : Option State} {t : State} (e : o = some t) (h : ∀ z, o = some z → Keep s0 z) : Keep s0 t :=
  h t e

theorem keep_optSnd {α : Type} {o : Option (α × State)} {a : α} {t : State} (e : o = some (a, t))
    (h : ∀ z, o = some z → Keep s0 z.2) : Keep s0 t := h _ e

theorem foldl_inv {α β : Type} {P : β → Prop} {l : List α} {f : β → α → β} {b : β} (h : P b)
    (hf : ∀ b a, P b → P (f b a)) : P (l.foldl f b) := by
  induction l generalizing b with
  | nil => exact h
  | cons x r ih => exact ih (hf b x h)

theorem foldl_wf {α : Type} {l : List α} {f : List Host.Cell → α → List Host.Cell} {m : List Host.Cell}
    (h : Memory.wf m = true) (hf : ∀ m a, Memory.wf m = true → Memory.wf (f m a) = true) :
    Memory.wf (l.foldl f m) = true := foldl_inv (P := fun m => Memory.wf m = true) h hf

theorem foldl_kwf {α β : Type} [DecidableEq α] {d : Nat → α} {l : List β}
    {f : List (Nat × α) → β → List (Nat × α)} {m : List (Nat × α)} (h : kwf d m = true)
    (hf : ∀ m a, kwf d m = true → kwf d (f m a) = true) : kwf d (l.foldl f m) = true :=
  foldl_inv (P := fun m => kwf d m = true) h hf

theorem keep_foldSnd {α β : Type} {l : List α} {f : β × State → α → β × State} {b : β} (h : Keep s0 s)
    (hf : ∀ a x, Keep s0 a.2 → Keep s0 (f a x).2) : Keep s0 (l.foldl f (b, s)).2 :=
  foldl_inv (P := fun a : β × State => Keep s0 a.2) h hf

theorem tileMem_foldl {α : Type} {l : List α} {f : TileState → α → TileState} {ts : TileState} (h : TileMem ts)
    (hf : ∀ ts a, TileMem ts → TileMem (f ts a)) : TileMem (l.foldl f ts) := by
  induction l generalizing ts with
  | nil => exact h
  | cons x r ih => exact ih (hf ts x h)

/-! ## Tiles, dies and ports -/

theorem tileOf_mem (h : Canonical s) (t : Tid) : TileMem (tileOf s t) := h.tileMem (tkey t)

theorem keep_setTile {t : Tid} {v : TileState} (h : Keep s0 s) (hv : TileMem v) : Keep s0 (setTile s t v) := by
  obtain ⟨hc, h1, h2, h3, h4, h5, h6⟩ := h
  refine ⟨⟨hc.regs, kwf_kset hc.tiles, hc.dies, hc.ports, hc.fields, fun k => ?_, hc.stack, hc.log⟩, h1, h2, h3, h4, h5, h6⟩
  by_cases he : k = tkey t
  · subst he
    show TileMem (kget blankTile (kset blankTile s.tiles (tkey t) v) (tkey t))
    rw [kget_kset_self hc.tiles]; exact hv
  · show TileMem (kget blankTile (kset blankTile s.tiles (tkey t) v) k)
    rw [kget_kset_ne he]; exact hc.tileMem k

theorem keep_modTile {t : Tid} {f : TileState → TileState} (h : Keep s0 s) (hf : ∀ ts, TileMem ts → TileMem (f ts)) :
    Keep s0 (modTile s t f) := keep_setTile h (hf _ (h.canon.tileMem _))

theorem keep_setDie {d : Nat} {v : DieState} (h : Keep s0 s) (hv : Memory.wf v.mem = true) : Keep s0 (setDie s d v) := by
  obtain ⟨hc, h1, h2, h3, h4, h5, h6⟩ := h
  refine ⟨⟨hc.regs, hc.tiles, kwf_kset hc.dies, hc.ports, hc.fields, hc.tileMem, fun k => ?_, hc.log⟩, h1, h2, h3, h4, h5, h6⟩
  by_cases he : k = d
  · subst he
    show Memory.wf (kget blankDie (kset blankDie s.dies k v) k).mem = true
    rw [kget_kset_self hc.dies]; exact hv
  · show Memory.wf (kget blankDie (kset blankDie s.dies d v) k).mem = true
    rw [kget_kset_ne he]; exact hc.stack k

theorem keep_modDie {d : Nat} {f : DieState → DieState} (h : Keep s0 s)
    (hf : ∀ x, Memory.wf x.mem = true → Memory.wf (f x).mem = true) : Keep s0 (modDie s d f) :=
  keep_setDie h (hf _ (h.canon.stack _))

theorem keep_setPort {p : Nat} {v : PortState} (h : Keep s0 s) : Keep s0 (setPort s p v) :=
  ⟨⟨h.canon.regs, h.canon.tiles, h.canon.dies, kwf_kset h.canon.ports, h.canon.fields, h.canon.tileMem, h.canon.stack,
    h.canon.log⟩, h.serial, h.cert, h.key, h.queue, h.out, h.log⟩

theorem keep_modPort {p : Nat} {f : PortState → PortState} (h : Keep s0 s) : Keep s0 (modPort s p f) := keep_setPort h

/-! ## The other parts of the state -/

/-- An update of parts that `Keep` does not speak of. -/
theorem keep_of {t : State} (h : Keep s0 s) (hr : t.regs = s.regs) (ht : t.tiles = s.tiles) (hd : t.dies = s.dies)
    (hp : t.ports = s.ports) (hf : t.fields = s.fields) (hs : t.store = s.store) (hq : t.pending = s.pending)
    (ho : t.out = s.out) (hl : t.log = s.log) : Keep s0 t :=
  ⟨⟨hr ▸ h.canon.regs, ht ▸ h.canon.tiles, hd ▸ h.canon.dies, hp ▸ h.canon.ports, hf ▸ h.canon.fields,
    ht ▸ h.canon.tileMem, hd ▸ h.canon.stack, hl ▸ h.canon.log⟩, hs ▸ h.serial, hs ▸ h.cert, hs ▸ h.key,
    hq ▸ h.queue, ho ▸ h.out, hl ▸ h.log⟩

theorem keep_modServing {f : Serving → Serving} (h : Keep s0 s) : Keep s0 (modServing s f) :=
  keep_of h rfl rfl rfl rfl rfl rfl rfl rfl rfl
theorem keep_modPlane {f : Plane → Plane} (h : Keep s0 s) : Keep s0 (modPlane s f) :=
  keep_of h rfl rfl rfl rfl rfl rfl rfl rfl rfl
theorem keep_modPlant {f : Plant → Plant} (h : Keep s0 s) : Keep s0 (modPlant s f) :=
  keep_of h rfl rfl rfl rfl rfl rfl rfl rfl rfl
theorem keep_modPins {f : Pins → Pins} (h : Keep s0 s) : Keep s0 (modPins s f) :=
  keep_of h rfl rfl rfl rfl rfl rfl rfl rfl rfl
theorem keep_modTime {f : Timebase → Timebase} (h : Keep s0 s) : Keep s0 (modTime s f) :=
  keep_of h rfl rfl rfl rfl rfl rfl rfl rfl rfl
theorem keep_modLoader {f : Loader → Loader} (h : Keep s0 s) : Keep s0 (modLoader s f) :=
  keep_of h rfl rfl rfl rfl rfl rfl rfl rfl rfl
theorem keep_send {o : Out} (h : Keep s0 s) : Keep s0 (send s o) := by
  obtain ⟨l, hl⟩ := h.out
  exact ⟨⟨h.canon.regs, h.canon.tiles, h.canon.dies, h.canon.ports, h.canon.fields, h.canon.tileMem, h.canon.stack,
    h.canon.log⟩, h.serial, h.cert, h.key, h.queue, ⟨l ++ [o], by simp [send, hl]⟩, h.log⟩
theorem keep_post {m : CtrlMsg} (h : Keep s0 s) : Keep s0 (post s m) := keep_of h rfl rfl rfl rfl rfl rfl rfl rfl rfl

theorem keep_modStore {f : Store → Store} (h : Keep s0 s)
    (hf : ∀ r, (f r).moduleSerial = r.moduleSerial ∧ (f r).certificate = r.certificate ∧ (f r).deviceKey = r.deviceKey) :
    Keep s0 (modStore s f) :=
  ⟨⟨h.canon.regs, h.canon.tiles, h.canon.dies, h.canon.ports, h.canon.fields, h.canon.tileMem, h.canon.stack,
    h.canon.log⟩, (hf _).1.trans h.serial, (hf _).2.1.trans h.cert, (hf _).2.2.trans h.key, h.queue, h.out, h.log⟩

/-! ## Registers -/

theorem keep_rset {d t : Nat} {f : Fld} {v : Nat} (h : Keep s0 s) : Keep s0 (rset s d t f v) :=
  ⟨⟨kwf_kset h.canon.regs, h.canon.tiles, h.canon.dies, h.canon.ports, h.canon.fields, h.canon.tileMem, h.canon.stack,
    h.canon.log⟩, h.serial, h.cert, h.key, h.queue, h.out, h.log⟩

theorem keep_regsFilter {p : Nat × Nat → Bool} (h : Keep s0 s) : Keep s0 { s with regs := s.regs.filter p } :=
  ⟨⟨kwf_filter _ h.canon.regs, h.canon.tiles, h.canon.dies, h.canon.ports, h.canon.fields, h.canon.tileMem, h.canon.stack,
    h.canon.log⟩, h.serial, h.cert, h.key, h.queue, h.out, h.log⟩

theorem keep_fieldsSet {id v : Nat} (h : Keep s0 s) : Keep s0 { s with fields := kset fieldDefault s.fields id v } :=
  ⟨⟨h.canon.regs, h.canon.tiles, h.canon.dies, h.canon.ports, kwf_kset h.canon.fields, h.canon.tileMem, h.canon.stack,
    h.canon.log⟩, h.serial, h.cert, h.key, h.queue, h.out, h.log⟩

theorem keep_fieldsTo {v w : List (Nat × Nat)} {r : List (Nat × Nat)} (h : Keep s0 s) (hv : kwf fieldDefault v = true) :
    Keep s0 { s with fields := v, bciFields := w, recorded := r } :=
  ⟨⟨h.canon.regs, h.canon.tiles, h.canon.dies, h.canon.ports, hv, h.canon.tileMem, h.canon.stack,
    h.canon.log⟩, h.serial, h.cert, h.key, h.queue, h.out, h.log⟩

theorem keep_rinc {d t : Nat} {f : Fld} {n : Nat} (h : Keep s0 s) : Keep s0 (rinc s d t f n) := keep_rset h
theorem keep_rmax {d t : Nat} {f : Fld} {n : Nat} (h : Keep s0 s) : Keep s0 (rmax s d t f n) := keep_rset h
theorem keep_tset {t : Tid} {f : Fld} {v : Nat} (h : Keep s0 s) : Keep s0 (tset s t f v) := keep_rset h
theorem keep_tinc {t : Tid} {f : Fld} {n : Nat} (h : Keep s0 s) : Keep s0 (tinc s t f n) := keep_rset h
theorem keep_dset {d : Nat} {f : Fld} {v : Nat} (h : Keep s0 s) : Keep s0 (dset s d f v) := keep_rset h
theorem keep_dinc {d : Nat} {f : Fld} {n : Nat} (h : Keep s0 s) : Keep s0 (dinc s d f n) := keep_rset h
theorem keep_pset {f : Fld} {v : Nat} (h : Keep s0 s) : Keep s0 (pset s f v) := keep_rset h
theorem keep_pinc {f : Fld} {n : Nat} (h : Keep s0 s) : Keep s0 (pinc s f n) := keep_rset h
theorem keep_portSet {p : Nat} {f : Fld} {v : Nat} (h : Keep s0 s) : Keep s0 (portSet s p f v) := keep_rset h
theorem keep_portInc {p : Nat} {f : Fld} {n : Nat} (h : Keep s0 s) : Keep s0 (portInc s p f n) := keep_rset h
theorem keep_ctrSet {t : Tid} {n : Nat} {v : Word} (h : Keep s0 s) : Keep s0 (ctrSet s t n v) := keep_rset h
theorem keep_ctrInc {t : Tid} {n : Nat} {v : Word} (h : Keep s0 s) : Keep s0 (ctrInc s t n v) := keep_rset h

theorem keep_setCtx {c : Nat} {v : Option Context} (h : Keep s0 s) : Keep s0 (setCtx s c v) := keep_modLoader h
theorem keep_modCtx {c : Nat} {f : Context → Context} (h : Keep s0 s) : Keep s0 (modCtx s c f) := keep_setCtx h
theorem keep_bumpFree (h : Keep s0 s) : Keep s0 (bumpFree s) := keep_modPlane h

/-! ## Log and repair map -/

/-- A log of at most a ring's entries, with one more. -/
theorem logRec_ring {e : LogRec} (h : s.log.length ≤ logCap) :
    (logRec s e).log = ringKeep (s.log ++ [⟨BitVec.ofNat 32 (pget s R.LOG_HEAD_SEQNO), e⟩]) := by
  rw [logRec_log]
  unfold ringKeep
  rw [List.length_append, List.length_singleton]
  by_cases hc : logCap ≤ s.log.length
  · rw [if_pos hc, show s.log.length + 1 - logCap = 1 by omega, List.drop_append_of_le_length]
    have : 0 < logCap := by decide
    omega
  · rw [if_neg hc, Nat.sub_eq_zero_of_le (by omega)]
    rfl

/-- A log entry changes the register fields, the log and a pin. -/
theorem logRec_parts {e : LogRec} : ∃ r l p, logRec s e = { s with regs := r, log := l, pins := p } := by
  unfold logRec
  dsimp only
  split
  · split <;> exact ⟨_, _, _, rfl⟩
  · split <;> exact ⟨_, _, s.pins, rfl⟩

theorem kwf_pset {f : Fld} {v : Nat} (h : kwf regDefault s.regs = true) : kwf regDefault (pset s f v).regs = true :=
  kwf_kset h

theorem kwf_iteRegs {c : Prop} [Decidable c] {a b : State} (ha : kwf regDefault a.regs = true)
    (hb : kwf regDefault b.regs = true) : kwf regDefault (if c then a else b).regs = true := by
  split
  · exact ha
  · exact hb

theorem logRec_regs_kwf {e : LogRec} (h : kwf regDefault s.regs = true) : kwf regDefault (logRec s e).regs = true := by
  have h1 := kwf_pset (f := R.LOG_HEAD_SEQNO) (v := pget s R.LOG_HEAD_SEQNO + 1) h
  unfold logRec
  extract_lets n s1 s2 s3
  have h2 : kwf regDefault s2.regs = true := kwf_iteRegs (kwf_pset h1) h1
  have h3 : kwf regDefault s3.regs = true := h2
  have h4 := kwf_pset (f := R.LOG_STAT_ALERT) (v := 1) h3
  exact kwf_iteRegs h4 h3

theorem keep_logRec {e : LogRec} (h : Keep s0 s) : Keep s0 (logRec s e) := by
  have hk := logRec_regs_kwf (e := e) h.canon.regs
  have hl := logRec_ring (e := e) h.canon.log
  obtain ⟨r, l, p, hp⟩ := @logRec_parts s e
  obtain ⟨m, hm⟩ := h.log
  rw [hp] at hk hl ⊢
  refine ⟨⟨hk, h.canon.tiles, h.canon.dies, h.canon.ports, h.canon.fields, h.canon.tileMem, h.canon.stack, ?_⟩,
    h.serial, h.cert, h.key, h.queue, h.out, ?_⟩
  · show l.length ≤ logCap
    have hl' : l = _ := hl
    rw [hl']
    exact ringKeep_length
  · refine ⟨m ++ [⟨BitVec.ofNat 32 (pget s R.LOG_HEAD_SEQNO), e⟩], ?_⟩
    have hl' : l = _ := hl
    show l = _
    rw [hl', hm, ringKeep_append, List.append_assoc]

theorem keep_logPut {c v : Nat} {src : LogSrc} {a b e : Nat} (h : Keep s0 s) : Keep s0 (logPut s c v src a b e) :=
  keep_logRec h

theorem rmWrite_same (r : Store) (l : List RmEntry) :
    (rmWrite r l).moduleSerial = r.moduleSerial ∧ (rmWrite r l).certificate = r.certificate
      ∧ (rmWrite r l).deviceKey = r.deviceKey := by
  unfold rmWrite
  dsimp only
  split <;> exact ⟨rfl, rfl, rfl⟩

theorem keep_rmAdd {a b c e : Nat} (h : Keep s0 s) : Keep s0 (rmAdd s a b c e) := by
  unfold rmAdd
  apply keep_ite <;> intro _
  · exact keep_logPut (keep_modStore h fun _ => ⟨rfl, rfl, rfl⟩)
  · exact keep_modStore h fun _ => rmWrite_same _ _

theorem keep_rmDrop {p : RmEntry → Bool} (h : Keep s0 s) : Keep s0 (rmDrop s p) :=
  keep_ite (fun _ => keep_modStore h fun _ => rmWrite_same _ _) (fun _ => h)

end Sys2Proof.Machine
end

