-- ==== Sys2Proof/Laws/KeepTile.lean ====
section
/-! SUPPORT. One lemma for each operation of the memory system, the cache walkers, the ends of sequences, Gecko, the stacks and the queue engines: what it keeps (Laws/Keep.lean). A
hypothesis `h_f` is asked for each effect that the operation is given. -/
namespace Sys2Proof.Machine

variable {s0 s : State}

/-! ## Machine/Operands.lean -/

theorem keep_sregSet {ts : TileState} {r : BitVec 5} {v : DWord} (hk : TileMem ts) :
    TileMem (sregSet ts r v) := by
  unfold sregSet
  try dsimp only
  repeat' with_reducible first
    | assumption
    | apply kwf_kset
    | exact fun _ h => ⟨h.1, h.2, h.3, h.4, h.5, h.6, h.7, h.8, h.9, h.10, h.11, h.12⟩
    | (apply keep_ite <;> intro _)
    | intro _
    | dsimp only
    | split
    | (refine ⟨?_, ?_, ?_, ?_, ?_, ?_, ?_, ?_, ?_, ?_, ?_, ?_⟩ <;> try dsimp only)
    | apply TileMem.sdata
    | apply TileMem.buf
    | apply TileMem.side
    | apply TileMem.vreg0
    | apply TileMem.vreg1
    | apply TileMem.sregs
    | apply TileMem.store
    | apply TileMem.queues
    | apply TileMem.groups
    | apply TileMem.acc
    | apply TileMem.regions
    | apply TileMem.crossings

theorem keep_predSet {ts : TileState} {p : Nat} {v : Bool} (hk : TileMem ts) :
    TileMem (predSet ts p v) := by
  unfold predSet
  try dsimp only
  repeat' with_reducible first
    | assumption
    | exact fun _ h => ⟨h.1, h.2, h.3, h.4, h.5, h.6, h.7, h.8, h.9, h.10, h.11, h.12⟩
    | (apply keep_ite <;> intro _)
    | intro _
    | dsimp only
    | split
    | (refine ⟨?_, ?_, ?_, ?_, ?_, ?_, ?_, ?_, ?_, ?_, ?_, ?_⟩ <;> try dsimp only)
    | apply TileMem.sdata
    | apply TileMem.buf
    | apply TileMem.side
    | apply TileMem.vreg0
    | apply TileMem.vreg1
    | apply TileMem.sregs
    | apply TileMem.store
    | apply TileMem.queues
    | apply TileMem.groups
    | apply TileMem.acc
    | apply TileMem.regions
    | apply TileMem.crossings

theorem keep_setQueue {ts : TileState} {q : Nat} {l : List QCmd} (hk : TileMem ts) :
    TileMem (setQueue ts q l) := by
  unfold setQueue
  try dsimp only
  repeat' with_reducible first
    | assumption
    | apply kwf_kset
    | exact fun _ h => ⟨h.1, h.2, h.3, h.4, h.5, h.6, h.7, h.8, h.9, h.10, h.11, h.12⟩
    | (apply keep_ite <;> intro _)
    | intro _
    | dsimp only
    | split
    | (refine ⟨?_, ?_, ?_, ?_, ?_, ?_, ?_, ?_, ?_, ?_, ?_, ?_⟩ <;> try dsimp only)
    | apply TileMem.sdata
    | apply TileMem.buf
    | apply TileMem.side
    | apply TileMem.vreg0
    | apply TileMem.vreg1
    | apply TileMem.sregs
    | apply TileMem.store
    | apply TileMem.queues
    | apply TileMem.groups
    | apply TileMem.acc
    | apply TileMem.regions
    | apply TileMem.crossings

/-! ## Machine/Flags.lean -/

theorem keep_raise {t : Tid} {f : Fld} (hk : Keep s0 s) :
    Keep s0 (raise s t f) := by
  unfold raise
  try dsimp only
  repeat' with_reducible first
    | assumption
    | apply keep_tset
    | (apply keep_ite <;> intro _)
    | intro _
    | dsimp only
    | split

theorem keep_setFaultInfo {t : Tid} {counter : Nat} {kind : Nat} {slot : Nat} (hk : Keep s0 s) :
    Keep s0 (setFaultInfo s t counter kind slot) := by
  unfold setFaultInfo
  try dsimp only
  repeat' with_reducible first
    | assumption
    | apply keep_tset
    | (apply keep_ite <;> intro _)
    | intro _
    | dsimp only
    | split

theorem keep_flagIf {t : Tid} {f : Fld} {n : Nat} (hk : Keep s0 s) :
    Keep s0 (flagIf s t f n) := by
  unfold flagIf
  try dsimp only
  repeat' with_reducible first
    | assumption
    | apply keep_tset
    | (apply keep_ite <;> intro _)
    | intro _
    | dsimp only
    | split

theorem keep_noteNum {t : Tid} {e : NumEv} (hk : Keep s0 s) :
    Keep s0 (noteNum s t e) := by
  unfold noteNum
  try dsimp only
  repeat' with_reducible first
    | assumption
    | apply keep_flagIf
    | apply keep_tinc
    | (apply keep_ite <;> intro _)
    | intro _
    | dsimp only
    | split

/-! ## Machine/Memory.lean -/

theorem keep_setFrame {d : Nat} {f : Nat} {r : Option FrameRec} (hk : Keep s0 s) :
    Keep s0 (setFrame s d f r) := by
  unfold setFrame
  try dsimp only
  repeat' with_reducible first
    | assumption
    | apply keep_modDie
    | apply kwf_kset
    | exact fun _ h => h
    | (apply keep_ite <;> intro _)
    | intro _
    | dsimp only
    | exact keep_of ‹Keep _ _› rfl rfl rfl rfl rfl rfl rfl rfl rfl
    | split

theorem keep_takeFrame {d : Nat} {r : FrameRec} (hk : Keep s0 s) :
    ∀ z, takeFrame s d r = some z → Keep s0 z.2 := by
  intro z hz
  unfold takeFrame at hz
  split at hz
  · cases hz
  · cases hz; exact keep_setFrame (keep_modDie hk fun _ h => h)

theorem keep_setL2 {d : Nat} {vpn : Nat} {e : DWord} (hk : Keep s0 s) :
    Keep s0 (setL2 s d vpn e) := by
  unfold setL2
  try dsimp only
  repeat' with_reducible first
    | assumption
    | apply keep_modDie
    | apply kwf_kset
    | exact fun _ h => h
    | (apply keep_ite <;> intro _)
    | intro _
    | dsimp only
    | exact keep_of ‹Keep _ _› rfl rfl rfl rfl rfl rfl rfl rfl rfl
    | split

theorem keep_tlbPut {ts : TileState} {vpn : Nat} {pte : DWord} (hk : TileMem ts) :
    TileMem (tlbPut ts vpn pte) := by
  unfold tlbPut
  try dsimp only
  repeat' with_reducible first
    | assumption
    | apply kwf_kset
    | exact fun _ h => ⟨h.1, h.2, h.3, h.4, h.5, h.6, h.7, h.8, h.9, h.10, h.11, h.12⟩
    | (apply keep_ite <;> intro _)
    | intro _
    | dsimp only
    | split
    | (refine ⟨?_, ?_, ?_, ?_, ?_, ?_, ?_, ?_, ?_, ?_, ?_, ?_⟩ <;> try dsimp only)
    | apply TileMem.sdata
    | apply TileMem.buf
    | apply TileMem.side
    | apply TileMem.vreg0
    | apply TileMem.vreg1
    | apply TileMem.sregs
    | apply TileMem.store
    | apply TileMem.queues
    | apply TileMem.groups
    | apply TileMem.acc
    | apply TileMem.regions
    | apply TileMem.crossings

theorem keep_tlbDrop {ts : TileState} {vpn : Nat} (hk : TileMem ts) :
    TileMem (tlbDrop ts vpn) := by
  unfold tlbDrop
  try dsimp only
  repeat' with_reducible first
    | assumption
    | apply keep_foldl
    | apply kwf_kset
    | refine foldl_kwf ?_ fun _ _ h => kwf_kset h
    | apply tileMem_foldl
    | exact fun _ h => ⟨h.1, h.2, h.3, h.4, h.5, h.6, h.7, h.8, h.9, h.10, h.11, h.12⟩
    | (apply keep_ite <;> intro _)
    | intro _
    | dsimp only
    | split
    | (refine ⟨?_, ?_, ?_, ?_, ?_, ?_, ?_, ?_, ?_, ?_, ?_, ?_⟩ <;> try dsimp only)
    | apply TileMem.sdata
    | apply TileMem.buf
    | apply TileMem.side
    | apply TileMem.vreg0
    | apply TileMem.vreg1
    | apply TileMem.sregs
    | apply TileMem.store
    | apply TileMem.queues
    | apply TileMem.groups
    | apply TileMem.acc
    | apply TileMem.regions
    | apply TileMem.crossings

theorem keep_walkCachePut {ts : TileState} {i : Nat} {e : DWord} (hk : TileMem ts) :
    TileMem (walkCachePut ts i e) := by
  unfold walkCachePut
  try dsimp only
  repeat' with_reducible first
    | assumption
    | exact fun _ h => ⟨h.1, h.2, h.3, h.4, h.5, h.6, h.7, h.8, h.9, h.10, h.11, h.12⟩
    | (apply keep_ite <;> intro _)
    | intro _
    | dsimp only
    | split
    | (refine ⟨?_, ?_, ?_, ?_, ?_, ?_, ?_, ?_, ?_, ?_, ?_, ?_⟩ <;> try dsimp only)
    | apply TileMem.sdata
    | apply TileMem.buf
    | apply TileMem.side
    | apply TileMem.vreg0
    | apply TileMem.vreg1
    | apply TileMem.sregs
    | apply TileMem.store
    | apply TileMem.queues
    | apply TileMem.groups
    | apply TileMem.acc
    | apply TileMem.regions
    | apply TileMem.crossings

theorem keep_walk {t : Tid} {vpn : Nat} (hk : Keep s0 s) : Keep s0 (walk s t vpn).2 := by
  unfold walk
  extract_lets d s1
  have h1 : Keep s0 s1 := keep_tinc hk
  clear_value s1
  split
  · exact h1
  · refine keep_iteSnd h1 ?_
    have h2 := keep_modTile (t := t) h1 fun ts hts => keep_walkCachePut (ts := ts) (i := vpn / 65536) (e := ‹DWord›) hts
    refine keep_iteSnd h2 (keep_modTile h2 fun ts hts => tileMem_foldl hts fun ts i hts => ?_)
    dsimp only
    split
    · exact keep_tlbPut hts
    · exact hts

theorem keep_translate {t : Tid} {vpn : Nat} {write : Bool} {req : Nat} (hk : Keep s0 s) :
    Keep s0 (translate s t vpn write req).2 := by
  unfold translate
  try dsimp only
  repeat' with_reducible first
    | assumption
    | apply keep_walk
    | refine keep_snd (by assumption) ?_
    | (apply keep_ite <;> intro _)
    | intro _
    | dsimp only
    | exact keep_of ‹Keep _ _› rfl rfl rfl rfl rfl rfl rfl rfl rfl
    | split

theorem keep_transFault {t : Tid} {kind : Nat} {req : Nat} {va : Nat} (hk : Keep s0 s) :
    Keep s0 (transFault s t kind req va) := by
  unfold transFault
  try dsimp only
  repeat' with_reducible first
    | assumption
    | apply keep_raise
    | apply keep_logPut
    | apply keep_tset
    | (apply keep_ite <;> intro _)
    | intro _
    | dsimp only
    | split

theorem keep_countPause {t : Tid} {kind : Nat} (hk : Keep s0 s) :
    Keep s0 (countPause s t kind) := by
  unfold countPause
  try dsimp only
  repeat' with_reducible first
    | assumption
    | apply keep_tinc
    | (apply keep_ite <;> intro _)
    | intro _
    | dsimp only
    | split

theorem keep_bufWrite {ts : TileState} {a : Nat} {bs : List Byte} (hk : TileMem ts) :
    TileMem (bufWrite ts a bs) := by
  unfold bufWrite
  try dsimp only
  repeat' with_reducible first
    | assumption
    | apply mstore_wf
    | apply kwf_filter
    | exact fun _ h => ⟨h.1, h.2, h.3, h.4, h.5, h.6, h.7, h.8, h.9, h.10, h.11, h.12⟩
    | (apply keep_ite <;> intro _)
    | intro _
    | dsimp only
    | split
    | (refine ⟨?_, ?_, ?_, ?_, ?_, ?_, ?_, ?_, ?_, ?_, ?_, ?_⟩ <;> try dsimp only)
    | apply TileMem.sdata
    | apply TileMem.buf
    | apply TileMem.side
    | apply TileMem.vreg0
    | apply TileMem.vreg1
    | apply TileMem.sregs
    | apply TileMem.store
    | apply TileMem.queues
    | apply TileMem.groups
    | apply TileMem.acc
    | apply TileMem.regions
    | apply TileMem.crossings

theorem keep_stackWrite {d : Nat} {f : Nat} {off : Nat} {bs : List Byte} (hk : Keep s0 s) :
    Keep s0 (stackWrite s d f off bs) := by
  unfold stackWrite
  try dsimp only
  repeat' with_reducible first
    | assumption
    | apply keep_modDie
    | apply mstore_wf
    | exact fun _ h => h
    | (apply keep_ite <;> intro _)
    | intro _
    | dsimp only
    | exact keep_of ‹Keep _ _› rfl rfl rfl rfl rfl rfl rfl rfl rfl
    | split

theorem keep_setWalker {d : Nat} {n : Nat} {w : Option WRec} (hk : Keep s0 s) :
    Keep s0 (setWalker s d n w) := by
  unfold setWalker
  try dsimp only
  repeat' with_reducible first
    | assumption
    | apply keep_modDie
    | apply kwf_kset
    | exact fun _ h => h
    | (apply keep_ite <;> intro _)
    | intro _
    | dsimp only
    | exact keep_of ‹Keep _ _› rfl rfl rfl rfl rfl rfl rfl rfl rfl
    | split

theorem keep_setPool {p : Nat} {i : Nat} {v : Option Pool} (hk : Keep s0 s) :
    Keep s0 (setPool s p i v) := by
  unfold setPool
  try dsimp only
  repeat' with_reducible first
    | assumption
    | apply keep_modPort
    | apply kwf_kset
    | (apply keep_ite <;> intro _)
    | intro _
    | dsimp only
    | exact keep_of ‹Keep _ _› rfl rfl rfl rfl rfl rfl rfl rfl rfl
    | split

theorem keep_closeQp {p : Nat} {i : Nat} (hk : Keep s0 s) :
    Keep s0 (closeQp s p i) := by
  unfold closeQp
  try dsimp only
  repeat' with_reducible first
    | assumption
    | apply keep_modPort
    | (apply keep_ite <;> intro _)
    | intro _
    | dsimp only
    | exact keep_of ‹Keep _ _› rfl rfl rfl rfl rfl rfl rfl rfl rfl
    | split

theorem keep_poolCheck {p : Nat} {i : Nat} (hk : Keep s0 s) :
    Keep s0 (poolCheck s p i) := by
  unfold poolCheck
  try dsimp only
  repeat' with_reducible first
    | assumption
    | apply keep_logPut
    | apply keep_closeQp
    | apply keep_setPool
    | (apply keep_ite <;> intro _)
    | intro _
    | dsimp only
    | exact keep_of ‹Keep _ _› rfl rfl rfl rfl rfl rfl rfl rfl rfl
    | split

theorem keep_releaseRemote {p : Nat} {index : Nat} (hk : Keep s0 s) :
    Keep s0 (releaseRemote s p index) := by
  unfold releaseRemote
  try dsimp only
  repeat' with_reducible first
    | assumption
    | apply keep_poolCheck
    | apply keep_setPool
    | apply keep_modPort
    | apply kwf_kset
    | (apply keep_ite <;> intro _)
    | intro _
    | dsimp only
    | exact keep_of ‹Keep _ _› rfl rfl rfl rfl rfl rfl rfl rfl rfl
    | split

theorem keep_dropRemotePage {d : Nat} {vpn : Nat} (hk : Keep s0 s) :
    Keep s0 (dropRemotePage s d vpn) := by
  unfold dropRemotePage
  try dsimp only
  repeat' with_reducible first
    | assumption
    | apply keep_releaseRemote
    | apply keep_setL2
    | (apply keep_ite <;> intro _)
    | intro _
    | dsimp only
    | exact keep_of ‹Keep _ _› rfl rfl rfl rfl rfl rfl rfl rfl rfl
    | split

theorem keep_queueReturn {d : Nat} {r : RetFrame} (hk : Keep s0 s) :
    Keep s0 (queueReturn s d r) := by
  unfold queueReturn
  try dsimp only
  repeat' with_reducible first
    | assumption
    | apply keep_modDie
    | exact fun _ h => h
    | (apply keep_ite <;> intro _)
    | intro _
    | dsimp only
    | exact keep_of ‹Keep _ _› rfl rfl rfl rfl rfl rfl rfl rfl rfl
    | split

theorem keep_orphanTransfers {d : Nat} {p : Nat → Bool} (hk : Keep s0 s) :
    Keep s0 (orphanTransfers s d p) := by
  unfold orphanTransfers
  try dsimp only
  repeat' with_reducible first
    | assumption
    | apply keep_modDie
    | apply kwf_filter
    | exact fun _ h => h
    | (apply keep_ite <;> intro _)
    | intro _
    | dsimp only
    | exact keep_of ‹Keep _ _› rfl rfl rfl rfl rfl rfl rfl rfl rfl
    | split

theorem keep_unmapPage {d : Nat} {rho : Nat} {n : Nat} {p : KvPlan} {e : Nat × DWord} (hk : Keep s0 s) :
    Keep s0 (unmapPage s d rho n p e) := by
  unfold unmapPage
  try dsimp only
  repeat' with_reducible first
    | assumption
    | apply keep_dropRemotePage
    | apply keep_queueReturn
    | apply keep_setL2
    | (apply keep_ite <;> intro _)
    | intro _
    | dsimp only
    | split

theorem keep_freeRange {d : Nat} {rho : Nat} {n : Nat} {p : KvPlan} (hk : Keep s0 s) :
    Keep s0 (freeRange s d rho n p) := by
  unfold freeRange
  try dsimp only
  repeat' with_reducible first
    | assumption
    | apply keep_modDie
    | apply keep_unmapPage
    | apply keep_setWalker
    | apply keep_orphanTransfers
    | apply keep_forEach
    | apply kwf_filter
    | exact fun _ h => h
    | (apply keep_ite <;> intro _)
    | intro _
    | dsimp only
    | exact keep_of ‹Keep _ _› rfl rfl rfl rfl rfl rfl rfl rfl rfl
    | split

theorem keep_setBitmaps {d : Nat} {slot : Nat} {b : Nat × Nat} (hk : Keep s0 s) :
    Keep s0 (setBitmaps s d slot b) := by
  unfold setBitmaps
  try dsimp only
  repeat' with_reducible first
    | assumption
    | apply keep_modDie
    | apply kwf_kset
    | exact fun _ h => h
    | (apply keep_ite <;> intro _)
    | intro _
    | dsimp only
    | exact keep_of ‹Keep _ _› rfl rfl rfl rfl rfl rfl rfl rfl rfl
    | split

theorem keep_takeStateFrame {d : Nat} {c : Nat} {kind : Nat} (hk : Keep s0 s) :
    Keep s0 (takeStateFrame s d c kind) := by
  unfold takeStateFrame
  try dsimp only
  repeat' with_reducible first
    | assumption
    | apply keep_takeFrame
    | refine keep_optSnd (by assumption) ?_
    | (apply keep_ite <;> intro _)
    | intro _
    | dsimp only
    | exact keep_of ‹Keep _ _› rfl rfl rfl rfl rfl rfl rfl rfl rfl
    | split

theorem keep_dropCredits {d : Nat} {n : Nat} {slot : Nat} (hk : Keep s0 s) :
    Keep s0 (dropCredits s d n slot) := by
  unfold dropCredits
  try dsimp only
  repeat' with_reducible first
    | assumption
    | apply keep_modDie
    | exact fun _ h => h
    | (apply keep_ite <;> intro _)
    | intro _
    | dsimp only
    | exact keep_of ‹Keep _ _› rfl rfl rfl rfl rfl rfl rfl rfl rfl
    | split

theorem keep_freeSlot {c : Context} {slot : Nat} (hk : Keep s0 s) :
    Keep s0 (freeSlot s c slot) := by
  unfold freeSlot
  try dsimp only
  repeat' with_reducible first
    | assumption
    | apply keep_setBitmaps
    | apply keep_setWalker
    | apply keep_freeRange
    | apply keep_dropCredits
    | apply keep_forEach
    | (apply keep_ite <;> intro _)
    | intro _
    | dsimp only
    | split

/-! ## Machine/Net.lean -/

theorem keep_latchFields {p : Nat} {ids : List Nat} (hk : Keep s0 s) :
    Keep s0 (latchFields s p ids) := by
  unfold latchFields
  try dsimp only
  repeat' with_reducible first
    | assumption
    | apply keep_modPort
    | apply kwf_kset
    | (apply keep_ite <;> intro _)
    | intro _
    | dsimp only
    | exact keep_of ‹Keep _ _› rfl rfl rfl rfl rfl rfl rfl rfl rfl
    | split

theorem keep_sendOn {p : Nat} {prio : Nat} {o : Out} (hk : Keep s0 s) :
    Keep s0 (sendOn s p prio o) := by
  unfold sendOn
  try dsimp only
  repeat' with_reducible first
    | assumption
    | apply keep_send
    | apply keep_modPort
    | (apply keep_ite <;> intro _)
    | intro _
    | dsimp only
    | exact keep_of ‹Keep _ _› rfl rfl rfl rfl rfl rfl rfl rfl rfl
    | split

theorem keep_sendNet {p : Fin 2} {kind : Nat} {arg : Nat} (hk : Keep s0 s) :
    Keep s0 (sendNet s p kind arg) := by
  unfold sendNet
  try dsimp only
  repeat' with_reducible first
    | assumption
    | apply keep_sendOn
    | apply keep_send
    | (apply keep_ite <;> intro _)
    | intro _
    | dsimp only
    | split

theorem keep_resolveHop {p : Nat} {hop : BitVec 128} (hk : Keep s0 s) :
    Keep s0 (resolveHop s p hop) := by
  unfold resolveHop
  try dsimp only
  repeat' with_reducible first
    | assumption
    | apply keep_sendNet
    | apply keep_modPort
    | (apply keep_ite <;> intro _)
    | intro _
    | dsimp only
    | exact keep_of ‹Keep _ _› rfl rfl rfl rfl rfl rfl rfl rfl rfl
    | split

theorem keep_sendLink {l : Link} {o : Out} (hk : Keep s0 s) :
    Keep s0 (sendLink s l o) := by
  unfold sendLink
  try dsimp only
  repeat' with_reducible first
    | assumption
    | apply keep_resolveHop
    | apply keep_sendOn
    | (apply keep_ite <;> intro _)
    | intro _
    | dsimp only
    | split

theorem keep_releasePaused {p : Nat} {prio : Nat} (hk : Keep s0 s) :
    Keep s0 (releasePaused s p prio) := by
  unfold releasePaused
  try dsimp only
  repeat' with_reducible first
    | assumption
    | apply keep_send
    | apply keep_modPort
    | apply keep_forEach
    | apply kwf_filter
    | (apply keep_ite <;> intro _)
    | intro _
    | dsimp only
    | exact keep_of ‹Keep _ _› rfl rfl rfl rfl rfl rfl rfl rfl rfl
    | split

theorem keep_rdmaBegin {p : Nat} {verb : RdmaVerb} {use : RdmaUse} {server : BitVec 128} {qpn : Word} (hk : Keep s0 s) :
    Keep s0 (rdmaBegin s p verb use server qpn) := by
  unfold rdmaBegin
  try dsimp only
  repeat' with_reducible first
    | assumption
    | apply keep_sendLink
    | (apply keep_ite <;> intro _)
    | intro _
    | dsimp only
    | exact keep_of ‹Keep _ _› rfl rfl rfl rfl rfl rfl rfl rfl rfl
    | split

/-! ## Machine/Numerics.lean -/

/-! ## Machine/Walker.lean -/

theorem keep_rangeWrite {d : Nat} {rho : Nat} {rn : Nat} {off : Nat} {bs : List Byte} (hk : Keep s0 s) :
    Keep s0 (rangeWrite s d rho rn off bs) := by
  unfold rangeWrite
  try dsimp only
  repeat' with_reducible first
    | assumption
    | apply keep_stackWrite
    | (apply keep_ite <;> intro _)
    | intro _
    | dsimp only
    | split

theorem keep_writeKey {d : Nat} {rho : Nat} {rn : Nat} {p : KvPlan} {pos : Nat} {h : Nat} {key : List Half} (hk : Keep s0 s) :
    Keep s0 (writeKey s d rho rn p pos h key) := by
  unfold writeKey
  try dsimp only
  repeat' with_reducible first
    | assumption
    | apply keep_rangeWrite
    | (apply keep_ite <;> intro _)
    | intro _
    | dsimp only
    | split

theorem keep_writeTail {d : Nat} {rho : Nat} {rn : Nat} {p : KvPlan} {pos : Nat} {h : Nat} {value : List Half} (hk : Keep s0 s) :
    Keep s0 (writeTail s d rho rn p pos h value) := by
  unfold writeTail
  try dsimp only
  repeat' with_reducible first
    | assumption
    | apply keep_rangeWrite
    | (apply keep_ite <;> intro _)
    | intro _
    | dsimp only
    | split

theorem keep_quantValueBlock {d : Nat} {rho : Nat} {rn : Nat} {p : KvPlan} {h : Nat} {blk : Nat} {limit : Nat} (hk : Keep s0 s) :
    Keep s0 (quantValueBlock s d rho rn p h blk limit) := by
  unfold quantValueBlock
  try dsimp only
  repeat' with_reducible first
    | assumption
    | apply keep_rangeWrite
    | apply keep_forEach
    | (apply keep_ite <;> intro _)
    | intro _
    | dsimp only
    | split

theorem keep_sendPageRead {p : Nat} {d : Nat} {vpn : Nat} {index : Nat} (hk : Keep s0 s) :
    Keep s0 (sendPageRead s p d vpn index) := by
  unfold sendPageRead
  try dsimp only
  repeat' with_reducible first
    | assumption
    | apply keep_rdmaBegin
    | (apply keep_ite <;> intro _)
    | intro _
    | dsimp only
    | exact keep_of ‹Keep _ _› rfl rfl rfl rfl rfl rfl rfl rfl rfl
    | split

theorem keep_startPageIn {d : Nat} {vpn : Nat} (hk : Keep s0 s) :
    Keep s0 (startPageIn s d vpn) := by
  unfold startPageIn
  try dsimp only
  repeat' with_reducible first
    | assumption
    | apply keep_takeFrame
    | apply keep_modDie
    | apply keep_sendPageRead
    | refine keep_optSnd (by assumption) ?_
    | exact fun _ h => h
    | (apply keep_ite <;> intro _)
    | intro _
    | dsimp only
    | exact keep_of ‹Keep _ _› rfl rfl rfl rfl rfl rfl rfl rfl rfl
    | split

theorem keep_setLen {d : Nat} {rn : Nat} {len : Nat} {w : WRec} (hk : Keep s0 s) :
    Keep s0 (setLen s d rn len w) := by
  unfold setLen
  try dsimp only
  repeat' with_reducible first
    | assumption
    | apply keep_setWalker
    | apply keep_dinc
    | (apply keep_ite <;> intro _)
    | intro _
    | dsimp only
    | exact keep_of ‹Keep _ _› rfl rfl rfl rfl rfl rfl rfl rfl rfl
    | split

theorem keep_quantLast {d : Nat} {rho : Nat} {rn : Nat} {p : KvPlan} {len : Nat} (hk : Keep s0 s) :
    Keep s0 (quantLast s d rho rn p len) := by
  unfold quantLast
  try dsimp only
  repeat' with_reducible first
    | assumption
    | apply keep_quantValueBlock
    | apply keep_forEach
    | (apply keep_ite <;> intro _)
    | intro _
    | dsimp only
    | split

theorem keep_kvSetLen {d : Nat} {rho : Nat} {rn : Nat} {p : KvPlan} {len : Nat} (hk : Keep s0 s) :
    Keep s0 (kvSetLen s d rho rn p len) := by
  unfold kvSetLen
  try dsimp only
  repeat' with_reducible first
    | assumption
    | apply keep_quantLast
    | apply keep_setLen
    | (apply keep_ite <;> intro _)
    | intro _
    | dsimp only
    | exact keep_of ‹Keep _ _› rfl rfl rfl rfl rfl rfl rfl rfl rfl
    | split

theorem keep_settleRange {d : Nat} {rho : Nat} {rn : Nat} {p : KvPlan} (hk : Keep s0 s) :
    Keep s0 (settleRange s d rho rn p) := by
  unfold settleRange
  try dsimp only
  repeat' with_reducible first
    | assumption
    | apply keep_modDie
    | apply keep_quantLast
    | apply keep_startPageIn
    | apply keep_forEach
    | apply kwf_filter
    | exact fun _ h => h
    | (apply keep_ite <;> intro _)
    | intro _
    | dsimp only
    | exact keep_of ‹Keep _ _› rfl rfl rfl rfl rfl rfl rfl rfl rfl
    | split

theorem keep_settleDie {d : Nat} (hk : Keep s0 s) :
    Keep s0 (settleDie s d) := by
  unfold settleDie
  try dsimp only
  repeat' with_reducible first
    | assumption
    | apply keep_settleRange
    | apply keep_forEach
    | (apply keep_ite <;> intro _)
    | intro _
    | dsimp only
    | exact keep_of ‹Keep _ _› rfl rfl rfl rfl rfl rfl rfl rfl rfl
    | split

theorem keep_schedSetLen {d : Nat} {rho : Nat} {rn : Nat} {p : KvPlan} {len : Nat} (hk : Keep s0 s) :
    Keep s0 (schedSetLen s d rho rn p len) := by
  unfold schedSetLen
  try dsimp only
  repeat' with_reducible first
    | assumption
    | apply keep_settleRange
    | apply keep_setLen
    | (apply keep_ite <;> intro _)
    | intro _
    | dsimp only
    | exact keep_of ‹Keep _ _› rfl rfl rfl rfl rfl rfl rfl rfl rfl
    | split

theorem keep_slotSetLen {c : Context} {slot : Nat} {len : Nat} (hk : Keep s0 s) :
    Keep s0 (slotSetLen s c slot len) := by
  unfold slotSetLen
  try dsimp only
  repeat' with_reducible first
    | assumption
    | apply keep_schedSetLen
    | apply keep_forEach
    | (apply keep_ite <;> intro _)
    | intro _
    | dsimp only
    | split

/-! ## Machine/Crypto.lean -/

/-! ## Machine/Image.lean -/

/-! ## Machine/Bci.lean -/

/-! ## Machine/Life.lean -/

theorem keep_setTenant {t : Nat} {v : Option Tenant} (hk : Keep s0 s) :
    Keep s0 (setTenant s t v) := by
  unfold setTenant
  try dsimp only
  repeat' with_reducible first
    | assumption
    | apply keep_modServing
    | apply kwf_kset
    | (apply keep_ite <;> intro _)
    | intro _
    | dsimp only
    | exact keep_of ‹Keep _ _› rfl rfl rfl rfl rfl rfl rfl rfl rfl
    | split

theorem keep_sendServe {x : Session} {tenant : Nat} {req : DWord} {m : ServeMsg} (hk : Keep s0 s) :
    Keep s0 (sendServe s x tenant req m) := by
  unfold sendServe
  try dsimp only
  repeat' with_reducible first
    | assumption
    | apply keep_send
    | apply keep_sendLink
    | apply keep_setTenant
    | (apply keep_ite <;> intro _)
    | intro _
    | dsimp only
    | exact keep_of ‹Keep _ _› rfl rfl rfl rfl rfl rfl rfl rfl rfl
    | split

theorem keep_modThis {q : Seq} {f : Seq → Seq} (hk : Keep s0 s) :
    Keep s0 (modThis s q f) := by
  unfold modThis
  try dsimp only
  repeat' with_reducible first
    | assumption
    | apply keep_modServing
    | (apply keep_ite <;> intro _)
    | intro _
    | dsimp only
    | exact keep_of ‹Keep _ _› rfl rfl rfl rfl rfl rfl rfl rfl rfl
    | split

theorem keep_markParked {d : Nat} {slot : Nat} {b : Bool} (hk : Keep s0 s) :
    Keep s0 (markParked s d slot b) := by
  unfold markParked
  try dsimp only
  repeat' with_reducible first
    | assumption
    | apply keep_modDie
    | exact fun _ h => h
    | (apply keep_ite <;> intro _)
    | intro _
    | dsimp only
    | exact keep_of ‹Keep _ _› rfl rfl rfl rfl rfl rfl rfl rfl rfl
    | split

theorem keep_unpark {d : Nat} {slot : Nat} {outcome : Nat} (hk : Keep s0 s) :
    Keep s0 (unpark s d slot outcome) := by
  unfold unpark
  try dsimp only
  repeat' with_reducible first
    | assumption
    | apply keep_modDie
    | apply keep_logPut
    | apply keep_markParked
    | apply kwf_filter
    | exact fun _ h => h
    | (apply keep_ite <;> intro _)
    | intro _
    | dsimp only
    | exact keep_of ‹Keep _ _› rfl rfl rfl rfl rfl rfl rfl rfl rfl
    | split

theorem keep_unparkAll {slot : Nat} {outcome : Nat} (hk : Keep s0 s) :
    Keep s0 (unparkAll s slot outcome) := by
  unfold unparkAll
  try dsimp only
  repeat' with_reducible first
    | assumption
    | apply keep_unpark
    | apply keep_forEach
    | (apply keep_ite <;> intro _)
    | intro _
    | dsimp only
    | split

theorem keep_dropGrants {slot : Nat} (hk : Keep s0 s) :
    Keep s0 (dropGrants s slot) := by
  unfold dropGrants
  try dsimp only
  repeat' with_reducible first
    | assumption
    | apply keep_modDie
    | apply keep_forEach
    | apply kwf_filter
    | exact fun _ h => h
    | (apply keep_ite <;> intro _)
    | intro _
    | dsimp only
    | exact keep_of ‹Keep _ _› rfl rfl rfl rfl rfl rfl rfl rfl rfl
    | split

theorem keep_answerCancel {x : Session} {tenant : Nat} {req : DWord} {result : Nat} (hk : Keep s0 s) :
    Keep s0 (answerCancel s x tenant req result) := by
  unfold answerCancel
  try dsimp only
  repeat' with_reducible first
    | assumption
    | apply keep_sendServe
    | apply keep_pinc
    | (apply keep_ite <;> intro _)
    | intro _
    | dsimp only
    | exact keep_of ‹Keep _ _› rfl rfl rfl rfl rfl rfl rfl rfl rfl
    | split

theorem keep_purgeSeq {q : Seq} (hk : Keep s0 s) :
    Keep s0 (purgeSeq s q) := by
  unfold purgeSeq
  try dsimp only
  repeat' with_reducible first
    | assumption
    | apply keep_modServing
    | apply kwf_filter
    | (apply keep_ite <;> intro _)
    | intro _
    | dsimp only
    | exact keep_of ‹Keep _ _› rfl rfl rfl rfl rfl rfl rfl rfl rfl
    | split

theorem keep_releaseSeq {q : Seq} (hk : Keep s0 s) :
    Keep s0 (releaseSeq s q) := by
  unfold releaseSeq
  try dsimp only
  repeat' with_reducible first
    | assumption
    | apply keep_purgeSeq
    | apply keep_freeSlot
    | apply keep_modThis
    | apply keep_dropGrants
    | (apply keep_ite <;> intro _)
    | intro _
    | dsimp only
    | exact keep_of ‹Keep _ _› rfl rfl rfl rfl rfl rfl rfl rfl rfl
    | split

theorem keep_setLane {l : Nat} {v : Option Lane} (hk : Keep s0 s) :
    Keep s0 (setLane s l v) := by
  unfold setLane
  try dsimp only
  repeat' with_reducible first
    | assumption
    | apply keep_modServing
    | apply kwf_kset
    | (apply keep_ite <;> intro _)
    | intro _
    | dsimp only
    | exact keep_of ‹Keep _ _› rfl rfl rfl rfl rfl rfl rfl rfl rfl
    | split

theorem keep_modLane {l : Nat} {f : Lane → Lane} (hk : Keep s0 s) :
    Keep s0 (modLane s l f) := by
  unfold modLane
  try dsimp only
  repeat' with_reducible first
    | assumption
    | apply keep_setLane
    | (apply keep_ite <;> intro _)
    | intro _
    | dsimp only
    | split

theorem keep_beginLane {l : Nat} (hk : Keep s0 s) :
    Keep s0 (beginLane s l) := by
  unfold beginLane
  try dsimp only
  repeat' with_reducible first
    | assumption
    | apply keep_modLane
    | apply keep_pinc
    | (apply keep_ite <;> intro _)
    | intro _
    | dsimp only
    | exact keep_of ‹Keep _ _› rfl rfl rfl rfl rfl rfl rfl rfl rfl
    | split

theorem keep_joinLane {l : Nat} {slot : Nat} (hk : Keep s0 s) :
    Keep s0 (joinLane s l slot) := by
  unfold joinLane
  try dsimp only
  repeat' with_reducible first
    | assumption
    | apply keep_beginLane
    | apply keep_modLane
    | (apply keep_ite <;> intro _)
    | intro _
    | dsimp only
    | exact keep_of ‹Keep _ _› rfl rfl rfl rfl rfl rfl rfl rfl rfl
    | split

theorem keep_requeue {l : Nat} {again : Bool} {f : List Nat → List Nat} (hk : Keep s0 s) :
    Keep s0 (requeue s l again f) := by
  unfold requeue
  try dsimp only
  repeat' with_reducible first
    | assumption
    | apply keep_beginLane
    | apply keep_modLane
    | (apply keep_ite <;> intro _)
    | intro _
    | dsimp only
    | exact keep_of ‹Keep _ _› rfl rfl rfl rfl rfl rfl rfl rfl rfl
    | split

theorem keep_dropSeat {slot : Nat} (hk : Keep s0 s) :
    Keep s0 (dropSeat s slot) := by
  unfold dropSeat
  try dsimp only
  repeat' with_reducible first
    | assumption
    | apply keep_requeue
    | apply keep_forEach
    | apply kwf_filter
    | (apply keep_ite <;> intro _)
    | intro _
    | dsimp only
    | split

theorem keep_endSeq {q0 : Seq} {reason : Nat} {code : Nat} (hk : Keep s0 s) :
    Keep s0 (endSeq s q0 reason code) := by
  unfold endSeq
  try dsimp only
  repeat' with_reducible first
    | assumption
    | apply keep_sendServe
    | apply keep_logPut
    | apply keep_modThis
    | apply keep_dropSeat
    | apply keep_unparkAll
    | apply keep_answerCancel
    | apply keep_dropGrants
    | apply keep_releaseSeq
    | apply keep_pinc
    | apply keep_forEach
    | (apply keep_ite <;> intro _)
    | intro _
    | dsimp only
    | exact keep_of ‹Keep _ _› rfl rfl rfl rfl rfl rfl rfl rfl rfl
    | split

theorem keep_planeState {new : Nat} {cause : Nat} (hk : Keep s0 s) :
    Keep s0 (planeState s new cause) := by
  unfold planeState
  try dsimp only
  repeat' with_reducible first
    | assumption
    | apply keep_logPut
    | apply keep_pset
    | (apply keep_ite <;> intro _)
    | intro _
    | dsimp only
    | split

theorem keep_leaveDoze {cause : Nat} (hk : Keep s0 s) :
    Keep s0 (leaveDoze s cause) := by
  unfold leaveDoze
  try dsimp only
  repeat' with_reducible first
    | assumption
    | apply keep_planeState
    | apply keep_modPlane
    | (apply keep_ite <;> intro _)
    | intro _
    | dsimp only
    | exact keep_of ‹Keep _ _› rfl rfl rfl rfl rfl rfl rfl rfl rfl
    | split

theorem keep_wakeAuto (hk : Keep s0 s) :
    Keep s0 (wakeAuto s) := by
  unfold wakeAuto
  try dsimp only
  repeat' with_reducible first
    | assumption
    | apply keep_leaveDoze
    | (apply keep_ite <;> intro _)
    | intro _
    | dsimp only
    | split

theorem keep_markReady {q : Seq} (hk : Keep s0 s) :
    Keep s0 (markReady s q) := by
  unfold markReady
  try dsimp only
  repeat' with_reducible first
    | assumption
    | apply keep_wakeAuto
    | apply keep_modThis
    | apply keep_modServing
    | (apply keep_ite <;> intro _)
    | intro _
    | dsimp only
    | exact keep_of ‹Keep _ _› rfl rfl rfl rfl rfl rfl rfl rfl rfl
    | split

theorem keep_giveStep {q : Seq} {st : SeqStep} (hk : Keep s0 s) :
    Keep s0 (giveStep s q st) := by
  unfold giveStep
  try dsimp only
  repeat' with_reducible first
    | assumption
    | apply keep_modThis
    | apply keep_markReady
    | (apply keep_ite <;> intro _)
    | intro _
    | dsimp only
    | exact keep_of ‹Keep _ _› rfl rfl rfl rfl rfl rfl rfl rfl rfl
    | split

theorem keep_firstChunk {q : Seq} (hk : Keep s0 s) :
    Keep s0 (firstChunk s q) := by
  unfold firstChunk
  try dsimp only
  repeat' with_reducible first
    | assumption
    | apply keep_giveStep
    | (apply keep_ite <;> intro _)
    | intro _
    | dsimp only
    | exact keep_of ‹Keep _ _› rfl rfl rfl rfl rfl rfl rfl rfl rfl
    | split

theorem keep_drained {q : Seq} (hk : Keep s0 s) :
    Keep s0 (drained s q) := by
  unfold drained
  try dsimp only
  repeat' with_reducible first
    | assumption
    | apply keep_endSeq
    | apply keep_purgeSeq
    | apply keep_slotSetLen
    | apply keep_firstChunk
    | apply keep_modThis
    | apply keep_releaseSeq
    | (apply keep_ite <;> intro _)
    | intro _
    | dsimp only
    | exact keep_of ‹Keep _ _› rfl rfl rfl rfl rfl rfl rfl rfl rfl
    | split

theorem keep_setCtxState {c : Nat} {v : Nat} (hk : Keep s0 s) :
    Keep s0 (setCtxState s c v) := by
  unfold setCtxState
  try dsimp only
  repeat' with_reducible first
    | assumption
    | apply keep_pset
    | (apply keep_ite <;> intro _)
    | intro _
    | dsimp only
    | split

theorem keep_dropGroups {c : Nat} (hk : Keep s0 s) :
    Keep s0 (dropGroups s c) := by
  unfold dropGroups
  try dsimp only
  repeat' with_reducible first
    | assumption
    | apply keep_drained
    | apply keep_modServing
    | apply keep_forEach
    | apply kwf_filter
    | (apply keep_ite <;> intro _)
    | intro _
    | dsimp only
    | exact keep_of ‹Keep _ _› rfl rfl rfl rfl rfl rfl rfl rfl rfl
    | split

theorem keep_stopContext {c : Nat} {code : Nat} (hk : Keep s0 s) :
    Keep s0 (stopContext s c code) := by
  unfold stopContext
  try dsimp only
  repeat' with_reducible first
    | assumption
    | apply keep_endSeq
    | apply keep_dropGroups
    | apply keep_setCtxState
    | apply keep_modCtx
    | apply keep_forEach
    | apply kwf_filter
    | (apply keep_ite <;> intro _)
    | intro _
    | dsimp only
    | exact keep_of ‹Keep _ _› rfl rfl rfl rfl rfl rfl rfl rfl rfl
    | split

theorem keep_haltTile {t : Tid} {pc : Nat} {code : Nat} (hk : Keep s0 s) :
    Keep s0 (haltTile s t pc code) := by
  unfold haltTile
  try dsimp only
  repeat' with_reducible first
    | assumption
    | apply keep_tset
    | apply keep_stopContext
    | apply keep_modTile
    | apply keep_post
    | exact fun _ h => ⟨h.1, h.2, h.3, h.4, h.5, h.6, h.7, h.8, h.9, h.10, h.11, h.12⟩
    | (apply keep_ite <;> intro _)
    | intro _
    | dsimp only
    | exact keep_of ‹Keep _ _› rfl rfl rfl rfl rfl rfl rfl rfl rfl
    | split
    | (refine ⟨?_, ?_, ?_, ?_, ?_, ?_, ?_, ?_, ?_, ?_, ?_, ?_⟩ <;> try dsimp only)
    | apply TileMem.sdata
    | apply TileMem.buf
    | apply TileMem.side
    | apply TileMem.vreg0
    | apply TileMem.vreg1
    | apply TileMem.sregs
    | apply TileMem.store
    | apply TileMem.queues
    | apply TileMem.groups
    | apply TileMem.acc
    | apply TileMem.regions
    | apply TileMem.crossings

/-! ## Machine/Gecko.lean -/

theorem keep_illegalInstr {t : Tid} {w : GWord} (hk : Keep s0 s) :
    Keep s0 (illegalInstr s t w) := by
  unfold illegalInstr
  try dsimp only
  repeat' with_reducible first
    | assumption
    | apply keep_raise
    | apply keep_logPut
    | apply keep_haltTile
    | (apply keep_ite <;> intro _)
    | intro _
    | dsimp only
    | split

theorem keep_advance {ts : TileState} {n : Nat} (hk : TileMem ts) :
    TileMem (advance ts n) := by
  unfold advance
  try dsimp only
  repeat' with_reducible first
    | assumption
    | exact fun _ h => ⟨h.1, h.2, h.3, h.4, h.5, h.6, h.7, h.8, h.9, h.10, h.11, h.12⟩
    | (apply keep_ite <;> intro _)
    | intro _
    | dsimp only
    | split
    | (refine ⟨?_, ?_, ?_, ?_, ?_, ?_, ?_, ?_, ?_, ?_, ?_, ?_⟩ <;> try dsimp only)
    | apply TileMem.sdata
    | apply TileMem.buf
    | apply TileMem.side
    | apply TileMem.vreg0
    | apply TileMem.vreg1
    | apply TileMem.sregs
    | apply TileMem.store
    | apply TileMem.queues
    | apply TileMem.groups
    | apply TileMem.acc
    | apply TileMem.regions
    | apply TileMem.crossings

theorem keep_jump {ts : TileState} {target : BitVec 17} {n : Nat} (hk : TileMem ts) :
    TileMem (jump ts target n) := by
  unfold jump
  try dsimp only
  repeat' with_reducible first
    | assumption
    | exact fun _ h => ⟨h.1, h.2, h.3, h.4, h.5, h.6, h.7, h.8, h.9, h.10, h.11, h.12⟩
    | (apply keep_ite <;> intro _)
    | intro _
    | dsimp only
    | split
    | (refine ⟨?_, ?_, ?_, ?_, ?_, ?_, ?_, ?_, ?_, ?_, ?_, ?_⟩ <;> try dsimp only)
    | apply TileMem.sdata
    | apply TileMem.buf
    | apply TileMem.side
    | apply TileMem.vreg0
    | apply TileMem.vreg1
    | apply TileMem.sregs
    | apply TileMem.store
    | apply TileMem.queues
    | apply TileMem.groups
    | apply TileMem.acc
    | apply TileMem.regions
    | apply TileMem.crossings

theorem keep_geckoExec {op : Nat} {t : Tid} {w : GWord} {body : State → State} (h_body : ∀ s1, Keep s0 s1 → Keep s0 (body s1)) (hk : Keep s0 s) :
    Keep s0 (geckoExec op s t w body) := by
  unfold geckoExec
  try dsimp only
  repeat' with_reducible first
    | assumption
    | apply keep_illegalInstr
    | apply keep_modTile
    | apply keep_advance
    | apply h_body
    | exact fun _ h => ⟨h.1, h.2, h.3, h.4, h.5, h.6, h.7, h.8, h.9, h.10, h.11, h.12⟩
    | (apply keep_ite <;> intro _)
    | intro _
    | dsimp only
    | split
    | (refine ⟨?_, ?_, ?_, ?_, ?_, ?_, ?_, ?_, ?_, ?_, ?_, ?_⟩ <;> try dsimp only)
    | apply TileMem.sdata
    | apply TileMem.buf
    | apply TileMem.side
    | apply TileMem.vreg0
    | apply TileMem.vreg1
    | apply TileMem.sregs
    | apply TileMem.store
    | apply TileMem.queues
    | apply TileMem.groups
    | apply TileMem.acc
    | apply TileMem.regions
    | apply TileMem.crossings

theorem keep_writeReg {t : Tid} {r : BitVec 5} {v : DWord} {waves : Nat} (hk : Keep s0 s) :
    Keep s0 (writeReg s t r v waves) := by
  unfold writeReg
  try dsimp only
  repeat' with_reducible first
    | assumption
    | apply keep_sregSet
    | apply keep_modTile
    | apply keep_advance
    | exact fun _ h => ⟨h.1, h.2, h.3, h.4, h.5, h.6, h.7, h.8, h.9, h.10, h.11, h.12⟩
    | (apply keep_ite <;> intro _)
    | intro _
    | dsimp only
    | split
    | (refine ⟨?_, ?_, ?_, ?_, ?_, ?_, ?_, ?_, ?_, ?_, ?_, ?_⟩ <;> try dsimp only)
    | apply TileMem.sdata
    | apply TileMem.buf
    | apply TileMem.side
    | apply TileMem.vreg0
    | apply TileMem.vreg1
    | apply TileMem.sregs
    | apply TileMem.store
    | apply TileMem.queues
    | apply TileMem.groups
    | apply TileMem.acc
    | apply TileMem.regions
    | apply TileMem.crossings

theorem keep_nopEff {t : Tid} {w : GWord} (hk : Keep s0 s) :
    Keep s0 (nopEff t w s) := by
  unfold nopEff
  try dsimp only
  repeat' with_reducible first
    | assumption
    | apply keep_modTile
    | apply keep_geckoExec
    | apply keep_advance
    | exact fun _ h => ⟨h.1, h.2, h.3, h.4, h.5, h.6, h.7, h.8, h.9, h.10, h.11, h.12⟩
    | (apply keep_ite <;> intro _)
    | intro _
    | dsimp only
    | split
    | (refine ⟨?_, ?_, ?_, ?_, ?_, ?_, ?_, ?_, ?_, ?_, ?_, ?_⟩ <;> try dsimp only)
    | apply TileMem.sdata
    | apply TileMem.buf
    | apply TileMem.side
    | apply TileMem.vreg0
    | apply TileMem.vreg1
    | apply TileMem.sregs
    | apply TileMem.store
    | apply TileMem.queues
    | apply TileMem.groups
    | apply TileMem.acc
    | apply TileMem.regions
    | apply TileMem.crossings

theorem keep_aluEff {t : Tid} {w : GWord} (hk : Keep s0 s) :
    Keep s0 (aluEff t w s) := by
  unfold aluEff
  try dsimp only
  repeat' with_reducible first
    | assumption
    | apply keep_geckoExec
    | apply keep_writeReg
    | (apply keep_ite <;> intro _)
    | intro _
    | dsimp only
    | split

theorem keep_aluiEff {t : Tid} {w : GWord} (hk : Keep s0 s) :
    Keep s0 (aluiEff t w s) := by
  unfold aluiEff
  try dsimp only
  repeat' with_reducible first
    | assumption
    | apply keep_geckoExec
    | apply keep_writeReg
    | (apply keep_ite <;> intro _)
    | intro _
    | dsimp only
    | split

theorem keep_movhiEff {t : Tid} {w : GWord} (hk : Keep s0 s) :
    Keep s0 (movhiEff t w s) := by
  unfold movhiEff
  try dsimp only
  repeat' with_reducible first
    | assumption
    | apply keep_geckoExec
    | apply keep_writeReg
    | (apply keep_ite <;> intro _)
    | intro _
    | dsimp only
    | split

theorem keep_cmpEff {t : Tid} {w : GWord} (hk : Keep s0 s) :
    Keep s0 (cmpEff t w s) := by
  unfold cmpEff
  try dsimp only
  repeat' with_reducible first
    | assumption
    | apply keep_predSet
    | apply keep_geckoExec
    | apply keep_modTile
    | apply keep_advance
    | exact fun _ h => ⟨h.1, h.2, h.3, h.4, h.5, h.6, h.7, h.8, h.9, h.10, h.11, h.12⟩
    | (apply keep_ite <;> intro _)
    | intro _
    | dsimp only
    | split
    | (refine ⟨?_, ?_, ?_, ?_, ?_, ?_, ?_, ?_, ?_, ?_, ?_, ?_⟩ <;> try dsimp only)
    | apply TileMem.sdata
    | apply TileMem.buf
    | apply TileMem.side
    | apply TileMem.vreg0
    | apply TileMem.vreg1
    | apply TileMem.sregs
    | apply TileMem.store
    | apply TileMem.queues
    | apply TileMem.groups
    | apply TileMem.acc
    | apply TileMem.regions
    | apply TileMem.crossings

theorem keep_cmpiEff {t : Tid} {w : GWord} (hk : Keep s0 s) :
    Keep s0 (cmpiEff t w s) := by
  unfold cmpiEff
  try dsimp only
  repeat' with_reducible first
    | assumption
    | apply keep_predSet
    | apply keep_geckoExec
    | apply keep_modTile
    | apply keep_advance
    | exact fun _ h => ⟨h.1, h.2, h.3, h.4, h.5, h.6, h.7, h.8, h.9, h.10, h.11, h.12⟩
    | (apply keep_ite <;> intro _)
    | intro _
    | dsimp only
    | split
    | (refine ⟨?_, ?_, ?_, ?_, ?_, ?_, ?_, ?_, ?_, ?_, ?_, ?_⟩ <;> try dsimp only)
    | apply TileMem.sdata
    | apply TileMem.buf
    | apply TileMem.side
    | apply TileMem.vreg0
    | apply TileMem.vreg1
    | apply TileMem.sregs
    | apply TileMem.store
    | apply TileMem.queues
    | apply TileMem.groups
    | apply TileMem.acc
    | apply TileMem.regions
    | apply TileMem.crossings

theorem keep_plogEff {t : Tid} {w : GWord} (hk : Keep s0 s) :
    Keep s0 (plogEff t w s) := by
  unfold plogEff
  try dsimp only
  repeat' with_reducible first
    | assumption
    | apply keep_predSet
    | apply keep_geckoExec
    | apply keep_modTile
    | apply keep_advance
    | exact fun _ h => ⟨h.1, h.2, h.3, h.4, h.5, h.6, h.7, h.8, h.9, h.10, h.11, h.12⟩
    | (apply keep_ite <;> intro _)
    | intro _
    | dsimp only
    | split
    | (refine ⟨?_, ?_, ?_, ?_, ?_, ?_, ?_, ?_, ?_, ?_, ?_, ?_⟩ <;> try dsimp only)
    | apply TileMem.sdata
    | apply TileMem.buf
    | apply TileMem.side
    | apply TileMem.vreg0
    | apply TileMem.vreg1
    | apply TileMem.sregs
    | apply TileMem.store
    | apply TileMem.queues
    | apply TileMem.groups
    | apply TileMem.acc
    | apply TileMem.regions
    | apply TileMem.crossings

theorem keep_loadEff {op : Nat} {n : Nat} {t : Tid} {w : GWord} (hk : Keep s0 s) :
    Keep s0 (loadEff op n t w s) := by
  unfold loadEff
  try dsimp only
  repeat' with_reducible first
    | assumption
    | apply keep_geckoExec
    | apply keep_writeReg
    | apply keep_illegalInstr
    | (apply keep_ite <;> intro _)
    | intro _
    | dsimp only
    | split

theorem keep_storeEff {op : Nat} {n : Nat} {t : Tid} {w : GWord} (hk : Keep s0 s) :
    Keep s0 (storeEff op n t w s) := by
  unfold storeEff
  try dsimp only
  repeat' with_reducible first
    | assumption
    | apply keep_geckoExec
    | apply keep_illegalInstr
    | apply keep_modTile
    | apply keep_advance
    | apply mwrite_wf
    | exact fun _ h => ⟨h.1, h.2, h.3, h.4, h.5, h.6, h.7, h.8, h.9, h.10, h.11, h.12⟩
    | (apply keep_ite <;> intro _)
    | intro _
    | dsimp only
    | exact keep_of ‹Keep _ _› rfl rfl rfl rfl rfl rfl rfl rfl rfl
    | split
    | (refine ⟨?_, ?_, ?_, ?_, ?_, ?_, ?_, ?_, ?_, ?_, ?_, ?_⟩ <;> try dsimp only)
    | apply TileMem.sdata
    | apply TileMem.buf
    | apply TileMem.side
    | apply TileMem.vreg0
    | apply TileMem.vreg1
    | apply TileMem.sregs
    | apply TileMem.store
    | apply TileMem.queues
    | apply TileMem.groups
    | apply TileMem.acc
    | apply TileMem.regions
    | apply TileMem.crossings

theorem keep_brEff {t : Tid} {w : GWord} (hk : Keep s0 s) :
    Keep s0 (brEff t w s) := by
  unfold brEff
  try dsimp only
  repeat' with_reducible first
    | assumption
    | apply keep_modTile
    | apply keep_geckoExec
    | apply keep_jump
    | exact fun _ h => ⟨h.1, h.2, h.3, h.4, h.5, h.6, h.7, h.8, h.9, h.10, h.11, h.12⟩
    | (apply keep_ite <;> intro _)
    | intro _
    | dsimp only
    | split
    | (refine ⟨?_, ?_, ?_, ?_, ?_, ?_, ?_, ?_, ?_, ?_, ?_, ?_⟩ <;> try dsimp only)
    | apply TileMem.sdata
    | apply TileMem.buf
    | apply TileMem.side
    | apply TileMem.vreg0
    | apply TileMem.vreg1
    | apply TileMem.sregs
    | apply TileMem.store
    | apply TileMem.queues
    | apply TileMem.groups
    | apply TileMem.acc
    | apply TileMem.regions
    | apply TileMem.crossings

theorem keep_jalEff {t : Tid} {w : GWord} (hk : Keep s0 s) :
    Keep s0 (jalEff t w s) := by
  unfold jalEff
  try dsimp only
  repeat' with_reducible first
    | assumption
    | apply keep_geckoExec
    | apply keep_jump
    | apply keep_modTile
    | apply keep_sregSet
    | exact fun _ h => ⟨h.1, h.2, h.3, h.4, h.5, h.6, h.7, h.8, h.9, h.10, h.11, h.12⟩
    | (apply keep_ite <;> intro _)
    | intro _
    | dsimp only
    | split
    | (refine ⟨?_, ?_, ?_, ?_, ?_, ?_, ?_, ?_, ?_, ?_, ?_, ?_⟩ <;> try dsimp only)
    | apply TileMem.sdata
    | apply TileMem.buf
    | apply TileMem.side
    | apply TileMem.vreg0
    | apply TileMem.vreg1
    | apply TileMem.sregs
    | apply TileMem.store
    | apply TileMem.queues
    | apply TileMem.groups
    | apply TileMem.acc
    | apply TileMem.regions
    | apply TileMem.crossings

theorem keep_jrEff {t : Tid} {w : GWord} (hk : Keep s0 s) :
    Keep s0 (jrEff t w s) := by
  unfold jrEff
  try dsimp only
  repeat' with_reducible first
    | assumption
    | apply keep_geckoExec
    | apply keep_jump
    | apply keep_illegalInstr
    | apply keep_modTile
    | exact fun _ h => ⟨h.1, h.2, h.3, h.4, h.5, h.6, h.7, h.8, h.9, h.10, h.11, h.12⟩
    | (apply keep_ite <;> intro _)
    | intro _
    | dsimp only
    | split
    | (refine ⟨?_, ?_, ?_, ?_, ?_, ?_, ?_, ?_, ?_, ?_, ?_, ?_⟩ <;> try dsimp only)
    | apply TileMem.sdata
    | apply TileMem.buf
    | apply TileMem.side
    | apply TileMem.vreg0
    | apply TileMem.vreg1
    | apply TileMem.sregs
    | apply TileMem.store
    | apply TileMem.queues
    | apply TileMem.groups
    | apply TileMem.acc
    | apply TileMem.regions
    | apply TileMem.crossings

theorem keep_loopEff {t : Tid} {w : GWord} (hk : Keep s0 s) :
    Keep s0 (loopEff t w s) := by
  unfold loopEff
  try dsimp only
  repeat' with_reducible first
    | assumption
    | apply keep_geckoExec
    | apply keep_jump
    | apply keep_modTile
    | apply keep_advance
    | apply keep_sregSet
    | exact fun _ h => ⟨h.1, h.2, h.3, h.4, h.5, h.6, h.7, h.8, h.9, h.10, h.11, h.12⟩
    | (apply keep_ite <;> intro _)
    | intro _
    | dsimp only
    | split
    | (refine ⟨?_, ?_, ?_, ?_, ?_, ?_, ?_, ?_, ?_, ?_, ?_, ?_⟩ <;> try dsimp only)
    | apply TileMem.sdata
    | apply TileMem.buf
    | apply TileMem.side
    | apply TileMem.vreg0
    | apply TileMem.vreg1
    | apply TileMem.sregs
    | apply TileMem.store
    | apply TileMem.queues
    | apply TileMem.groups
    | apply TileMem.acc
    | apply TileMem.regions
    | apply TileMem.crossings

theorem keep_csetEff {t : Tid} {w : GWord} (hk : Keep s0 s) :
    Keep s0 (csetEff t w s) := by
  unfold csetEff
  try dsimp only
  repeat' with_reducible first
    | assumption
    | apply keep_geckoExec
    | apply keep_ctrSet
    | apply keep_modTile
    | apply keep_advance
    | exact fun _ h => ⟨h.1, h.2, h.3, h.4, h.5, h.6, h.7, h.8, h.9, h.10, h.11, h.12⟩
    | (apply keep_ite <;> intro _)
    | intro _
    | dsimp only
    | split
    | (refine ⟨?_, ?_, ?_, ?_, ?_, ?_, ?_, ?_, ?_, ?_, ?_, ?_⟩ <;> try dsimp only)
    | apply TileMem.sdata
    | apply TileMem.buf
    | apply TileMem.side
    | apply TileMem.vreg0
    | apply TileMem.vreg1
    | apply TileMem.sregs
    | apply TileMem.store
    | apply TileMem.queues
    | apply TileMem.groups
    | apply TileMem.acc
    | apply TileMem.regions
    | apply TileMem.crossings

theorem keep_cincEff {t : Tid} {w : GWord} (hk : Keep s0 s) :
    Keep s0 (cincEff t w s) := by
  unfold cincEff
  try dsimp only
  repeat' with_reducible first
    | assumption
    | apply keep_geckoExec
    | apply keep_modTile
    | apply keep_ctrInc
    | apply keep_advance
    | exact fun _ h => ⟨h.1, h.2, h.3, h.4, h.5, h.6, h.7, h.8, h.9, h.10, h.11, h.12⟩
    | (apply keep_ite <;> intro _)
    | intro _
    | dsimp only
    | split
    | (refine ⟨?_, ?_, ?_, ?_, ?_, ?_, ?_, ?_, ?_, ?_, ?_, ?_⟩ <;> try dsimp only)
    | apply TileMem.sdata
    | apply TileMem.buf
    | apply TileMem.side
    | apply TileMem.vreg0
    | apply TileMem.vreg1
    | apply TileMem.sregs
    | apply TileMem.store
    | apply TileMem.queues
    | apply TileMem.groups
    | apply TileMem.acc
    | apply TileMem.regions
    | apply TileMem.crossings

theorem keep_crdEff {t : Tid} {w : GWord} (hk : Keep s0 s) :
    Keep s0 (crdEff t w s) := by
  unfold crdEff
  try dsimp only
  repeat' with_reducible first
    | assumption
    | apply keep_geckoExec
    | apply keep_writeReg
    | (apply keep_ite <;> intro _)
    | intro _
    | dsimp only
    | split

theorem keep_enterWait {t : Tid} {kind : WaitKind} {counter : Nat} {target : Word} {slot : Nat} (hk : Keep s0 s) :
    Keep s0 (enterWait s t kind counter target slot) := by
  unfold enterWait
  try dsimp only
  repeat' with_reducible first
    | assumption
    | apply keep_modTile
    | exact fun _ h => ⟨h.1, h.2, h.3, h.4, h.5, h.6, h.7, h.8, h.9, h.10, h.11, h.12⟩
    | (apply keep_ite <;> intro _)
    | intro _
    | dsimp only
    | exact keep_of ‹Keep _ _› rfl rfl rfl rfl rfl rfl rfl rfl rfl
    | split
    | (refine ⟨?_, ?_, ?_, ?_, ?_, ?_, ?_, ?_, ?_, ?_, ?_, ?_⟩ <;> try dsimp only)
    | apply TileMem.sdata
    | apply TileMem.buf
    | apply TileMem.side
    | apply TileMem.vreg0
    | apply TileMem.vreg1
    | apply TileMem.sregs
    | apply TileMem.store
    | apply TileMem.queues
    | apply TileMem.groups
    | apply TileMem.acc
    | apply TileMem.regions
    | apply TileMem.crossings

theorem keep_waitEff {t : Tid} {w : GWord} (hk : Keep s0 s) :
    Keep s0 (waitEff t w s) := by
  unfold waitEff
  try dsimp only
  repeat' with_reducible first
    | assumption
    | apply keep_enterWait
    | apply keep_geckoExec
    | apply keep_modTile
    | apply keep_advance
    | exact fun _ h => ⟨h.1, h.2, h.3, h.4, h.5, h.6, h.7, h.8, h.9, h.10, h.11, h.12⟩
    | (apply keep_ite <;> intro _)
    | intro _
    | dsimp only
    | split
    | (refine ⟨?_, ?_, ?_, ?_, ?_, ?_, ?_, ?_, ?_, ?_, ?_, ?_⟩ <;> try dsimp only)
    | apply TileMem.sdata
    | apply TileMem.buf
    | apply TileMem.side
    | apply TileMem.vreg0
    | apply TileMem.vreg1
    | apply TileMem.sregs
    | apply TileMem.store
    | apply TileMem.queues
    | apply TileMem.groups
    | apply TileMem.acc
    | apply TileMem.regions
    | apply TileMem.crossings

theorem keep_waitReleaseEff {t : Tid} (hk : Keep s0 s) :
    Keep s0 (waitReleaseEff t s) := by
  unfold waitReleaseEff
  try dsimp only
  repeat' with_reducible first
    | assumption
    | apply keep_modTile
    | apply keep_advance
    | exact fun _ h => ⟨h.1, h.2, h.3, h.4, h.5, h.6, h.7, h.8, h.9, h.10, h.11, h.12⟩
    | (apply keep_ite <;> intro _)
    | intro _
    | dsimp only
    | exact keep_of ‹Keep _ _› rfl rfl rfl rfl rfl rfl rfl rfl rfl
    | split
    | (refine ⟨?_, ?_, ?_, ?_, ?_, ?_, ?_, ?_, ?_, ?_, ?_, ?_⟩ <;> try dsimp only)
    | apply TileMem.sdata
    | apply TileMem.buf
    | apply TileMem.side
    | apply TileMem.vreg0
    | apply TileMem.vreg1
    | apply TileMem.sregs
    | apply TileMem.store
    | apply TileMem.queues
    | apply TileMem.groups
    | apply TileMem.acc
    | apply TileMem.regions
    | apply TileMem.crossings

theorem keep_slotTake {ts : TileState} {slot : Nat} {rd : Bool} (hk : TileMem ts) :
    TileMem (slotTake ts slot rd) := by
  unfold slotTake
  try dsimp only
  repeat' with_reducible first
    | assumption
    | apply mwrite_wf
    | exact fun _ h => ⟨h.1, h.2, h.3, h.4, h.5, h.6, h.7, h.8, h.9, h.10, h.11, h.12⟩
    | (apply keep_ite <;> intro _)
    | intro _
    | dsimp only
    | split
    | (refine ⟨?_, ?_, ?_, ?_, ?_, ?_, ?_, ?_, ?_, ?_, ?_, ?_⟩ <;> try dsimp only)
    | apply TileMem.sdata
    | apply TileMem.buf
    | apply TileMem.side
    | apply TileMem.vreg0
    | apply TileMem.vreg1
    | apply TileMem.sregs
    | apply TileMem.store
    | apply TileMem.queues
    | apply TileMem.groups
    | apply TileMem.acc
    | apply TileMem.regions
    | apply TileMem.crossings

theorem keep_slotWaitEff {op : Nat} {rd : Bool} {t : Tid} {w : GWord} (hk : Keep s0 s) :
    Keep s0 (slotWaitEff op rd t w s) := by
  unfold slotWaitEff
  try dsimp only
  repeat' with_reducible first
    | assumption
    | apply keep_enterWait
    | apply keep_geckoExec
    | apply keep_slotTake
    | apply keep_modTile
    | apply keep_advance
    | exact fun _ h => ⟨h.1, h.2, h.3, h.4, h.5, h.6, h.7, h.8, h.9, h.10, h.11, h.12⟩
    | (apply keep_ite <;> intro _)
    | intro _
    | dsimp only
    | split
    | (refine ⟨?_, ?_, ?_, ?_, ?_, ?_, ?_, ?_, ?_, ?_, ?_, ?_⟩ <;> try dsimp only)
    | apply TileMem.sdata
    | apply TileMem.buf
    | apply TileMem.side
    | apply TileMem.vreg0
    | apply TileMem.vreg1
    | apply TileMem.sregs
    | apply TileMem.store
    | apply TileMem.queues
    | apply TileMem.groups
    | apply TileMem.acc
    | apply TileMem.regions
    | apply TileMem.crossings

theorem keep_slotWaitReleaseEff {t : Tid} (hk : Keep s0 s) :
    Keep s0 (slotWaitReleaseEff t s) := by
  unfold slotWaitReleaseEff
  try dsimp only
  repeat' with_reducible first
    | assumption
    | apply keep_slotTake
    | apply keep_modTile
    | apply keep_advance
    | exact fun _ h => ⟨h.1, h.2, h.3, h.4, h.5, h.6, h.7, h.8, h.9, h.10, h.11, h.12⟩
    | (apply keep_ite <;> intro _)
    | intro _
    | dsimp only
    | exact keep_of ‹Keep _ _› rfl rfl rfl rfl rfl rfl rfl rfl rfl
    | split
    | (refine ⟨?_, ?_, ?_, ?_, ?_, ?_, ?_, ?_, ?_, ?_, ?_, ?_⟩ <;> try dsimp only)
    | apply TileMem.sdata
    | apply TileMem.buf
    | apply TileMem.side
    | apply TileMem.vreg0
    | apply TileMem.vreg1
    | apply TileMem.sregs
    | apply TileMem.store
    | apply TileMem.queues
    | apply TileMem.groups
    | apply TileMem.acc
    | apply TileMem.regions
    | apply TileMem.crossings

theorem keep_csigEff {t : Tid} {w : GWord} (hk : Keep s0 s) :
    Keep s0 (csigEff t w s) := by
  unfold csigEff
  try dsimp only
  repeat' with_reducible first
    | assumption
    | apply keep_geckoExec
    | apply keep_illegalInstr
    | apply keep_modTile
    | apply keep_ctrInc
    | apply keep_advance
    | apply keep_post
    | exact fun _ h => ⟨h.1, h.2, h.3, h.4, h.5, h.6, h.7, h.8, h.9, h.10, h.11, h.12⟩
    | (apply keep_ite <;> intro _)
    | intro _
    | dsimp only
    | exact keep_of ‹Keep _ _› rfl rfl rfl rfl rfl rfl rfl rfl rfl
    | split
    | (refine ⟨?_, ?_, ?_, ?_, ?_, ?_, ?_, ?_, ?_, ?_, ?_, ?_⟩ <;> try dsimp only)
    | apply TileMem.sdata
    | apply TileMem.buf
    | apply TileMem.side
    | apply TileMem.vreg0
    | apply TileMem.vreg1
    | apply TileMem.sregs
    | apply TileMem.store
    | apply TileMem.queues
    | apply TileMem.groups
    | apply TileMem.acc
    | apply TileMem.regions
    | apply TileMem.crossings

theorem keep_issueCmd {t : Tid} {q : Nat} {d : Desc} (hk : Keep s0 s) :
    Keep s0 (issueCmd s t q d) := by
  unfold issueCmd
  try dsimp only
  repeat' with_reducible first
    | assumption
    | apply keep_modTile
    | apply keep_setQueue
    | apply keep_advance
    | exact fun _ h => ⟨h.1, h.2, h.3, h.4, h.5, h.6, h.7, h.8, h.9, h.10, h.11, h.12⟩
    | (apply keep_ite <;> intro _)
    | intro _
    | dsimp only
    | exact keep_of ‹Keep _ _› rfl rfl rfl rfl rfl rfl rfl rfl rfl
    | split
    | exact kwf_nil
    | exact memory_nil
    | (refine ⟨?_, ?_, ?_, ?_, ?_, ?_, ?_, ?_, ?_, ?_, ?_, ?_⟩ <;> try dsimp only)
    | apply TileMem.sdata
    | apply TileMem.buf
    | apply TileMem.side
    | apply TileMem.vreg0
    | apply TileMem.vreg1
    | apply TileMem.sregs
    | apply TileMem.store
    | apply TileMem.queues
    | apply TileMem.groups
    | apply TileMem.acc
    | apply TileMem.regions
    | apply TileMem.crossings

theorem keep_issueEff {t : Tid} {w : GWord} (hk : Keep s0 s) :
    Keep s0 (issueEff t w s) := by
  unfold issueEff
  try dsimp only
  repeat' with_reducible first
    | assumption
    | apply keep_issueCmd
    | apply keep_geckoExec
    | apply keep_illegalInstr
    | (apply keep_ite <;> intro _)
    | intro _
    | dsimp only
    | split

theorem keep_issuesEff {t : Tid} {w : GWord} (hk : Keep s0 s) :
    Keep s0 (issuesEff t w s) := by
  unfold issuesEff
  try dsimp only
  repeat' with_reducible first
    | assumption
    | apply keep_issueCmd
    | apply keep_geckoExec
    | (apply keep_ite <;> intro _)
    | intro _
    | dsimp only
    | split

theorem keep_queueEntryFreedEff {t : Tid} (hk : Keep s0 s) :
    Keep s0 (queueEntryFreedEff t s) := by
  unfold queueEntryFreedEff
  try dsimp only
  repeat' with_reducible first
    | assumption
    | apply keep_modTile
    | apply keep_setQueue
    | apply keep_advance
    | exact fun _ h => ⟨h.1, h.2, h.3, h.4, h.5, h.6, h.7, h.8, h.9, h.10, h.11, h.12⟩
    | (apply keep_ite <;> intro _)
    | intro _
    | dsimp only
    | exact keep_of ‹Keep _ _› rfl rfl rfl rfl rfl rfl rfl rfl rfl
    | split
    | (refine ⟨?_, ?_, ?_, ?_, ?_, ?_, ?_, ?_, ?_, ?_, ?_, ?_⟩ <;> try dsimp only)
    | apply TileMem.sdata
    | apply TileMem.buf
    | apply TileMem.side
    | apply TileMem.vreg0
    | apply TileMem.vreg1
    | apply TileMem.sregs
    | apply TileMem.store
    | apply TileMem.queues
    | apply TileMem.groups
    | apply TileMem.acc
    | apply TileMem.regions
    | apply TileMem.crossings

theorem keep_stdEff {t : Tid} {w : GWord} (hk : Keep s0 s) :
    Keep s0 (stdEff t w s) := by
  unfold stdEff
  try dsimp only
  repeat' with_reducible first
    | assumption
    | apply keep_geckoExec
    | apply keep_illegalInstr
    | apply keep_modTile
    | apply keep_advance
    | apply kwf_kset
    | exact fun _ h => ⟨h.1, h.2, h.3, h.4, h.5, h.6, h.7, h.8, h.9, h.10, h.11, h.12⟩
    | (apply keep_ite <;> intro _)
    | intro _
    | dsimp only
    | exact keep_of ‹Keep _ _› rfl rfl rfl rfl rfl rfl rfl rfl rfl
    | split
    | (refine ⟨?_, ?_, ?_, ?_, ?_, ?_, ?_, ?_, ?_, ?_, ?_, ?_⟩ <;> try dsimp only)
    | apply TileMem.sdata
    | apply TileMem.buf
    | apply TileMem.side
    | apply TileMem.vreg0
    | apply TileMem.vreg1
    | apply TileMem.sregs
    | apply TileMem.store
    | apply TileMem.queues
    | apply TileMem.groups
    | apply TileMem.acc
    | apply TileMem.regions
    | apply TileMem.crossings

theorem keep_sysrEff {t : Tid} {w : GWord} (hk : Keep s0 s) :
    Keep s0 (sysrEff t w s) := by
  unfold sysrEff
  try dsimp only
  repeat' with_reducible first
    | assumption
    | apply keep_geckoExec
    | apply keep_writeReg
    | (apply keep_ite <;> intro _)
    | intro _
    | dsimp only
    | split

theorem keep_gdoneEff {t : Tid} {w : GWord} (hk : Keep s0 s) :
    Keep s0 (gdoneEff t w s) := by
  unfold gdoneEff
  try dsimp only
  repeat' with_reducible first
    | assumption
    | apply keep_geckoExec
    | apply keep_modTile
    | apply keep_advance
    | exact fun _ h => ⟨h.1, h.2, h.3, h.4, h.5, h.6, h.7, h.8, h.9, h.10, h.11, h.12⟩
    | (apply keep_ite <;> intro _)
    | intro _
    | dsimp only
    | exact keep_of ‹Keep _ _› rfl rfl rfl rfl rfl rfl rfl rfl rfl
    | split
    | (refine ⟨?_, ?_, ?_, ?_, ?_, ?_, ?_, ?_, ?_, ?_, ?_, ?_⟩ <;> try dsimp only)
    | apply TileMem.sdata
    | apply TileMem.buf
    | apply TileMem.side
    | apply TileMem.vreg0
    | apply TileMem.vreg1
    | apply TileMem.sregs
    | apply TileMem.store
    | apply TileMem.queues
    | apply TileMem.groups
    | apply TileMem.acc
    | apply TileMem.regions
    | apply TileMem.crossings

theorem keep_haltEff {t : Tid} {w : GWord} (hk : Keep s0 s) :
    Keep s0 (haltEff t w s) := by
  unfold haltEff
  try dsimp only
  repeat' with_reducible first
    | assumption
    | apply keep_modTile
    | apply keep_geckoExec
    | exact fun _ h => ⟨h.1, h.2, h.3, h.4, h.5, h.6, h.7, h.8, h.9, h.10, h.11, h.12⟩
    | (apply keep_ite <;> intro _)
    | intro _
    | dsimp only
    | exact keep_of ‹Keep _ _› rfl rfl rfl rfl rfl rfl rfl rfl rfl
    | split
    | (refine ⟨?_, ?_, ?_, ?_, ?_, ?_, ?_, ?_, ?_, ?_, ?_, ?_⟩ <;> try dsimp only)
    | apply TileMem.sdata
    | apply TileMem.buf
    | apply TileMem.side
    | apply TileMem.vreg0
    | apply TileMem.vreg1
    | apply TileMem.sregs
    | apply TileMem.store
    | apply TileMem.queues
    | apply TileMem.groups
    | apply TileMem.acc
    | apply TileMem.regions
    | apply TileMem.crossings

theorem keep_syncFaultEff {t : Tid} (hk : Keep s0 s) :
    Keep s0 (syncFaultEff t s) := by
  unfold syncFaultEff
  try dsimp only
  repeat' with_reducible first
    | assumption
    | apply keep_raise
    | apply keep_logPut
    | apply keep_haltTile
    | apply keep_setFaultInfo
    | (apply keep_ite <;> intro _)
    | intro _
    | dsimp only
    | exact keep_of ‹Keep _ _› rfl rfl rfl rfl rfl rfl rfl rfl rfl
    | split

/-! ## Machine/Stack.lean -/

theorem keep_invalidateAll {d : Nat} {vpn : Nat} (hk : Keep s0 s) :
    Keep s0 (invalidateAll s d vpn) := by
  unfold invalidateAll
  try dsimp only
  repeat' with_reducible first
    | assumption
    | apply keep_post
    | apply keep_forEach
    | (apply keep_ite <;> intro _)
    | intro _
    | dsimp only
    | split

theorem keep_modGroup {id : Nat} {f : WGroup → WGroup} (hk : Keep s0 s) :
    Keep s0 (modGroup s id f) := by
  unfold modGroup
  try dsimp only
  repeat' with_reducible first
    | assumption
    | apply keep_modServing
    | (apply keep_ite <;> intro _)
    | intro _
    | dsimp only
    | exact keep_of ‹Keep _ _› rfl rfl rfl rfl rfl rfl rfl rfl rfl
    | split

theorem keep_doomSeq {q : Seq} {code : Nat} (hk : Keep s0 s) :
    Keep s0 (doomSeq s q code) := by
  unfold doomSeq
  try dsimp only
  repeat' with_reducible first
    | assumption
    | apply keep_endSeq
    | apply keep_modThis
    | (apply keep_ite <;> intro _)
    | intro _
    | dsimp only
    | exact keep_of ‹Keep _ _› rfl rfl rfl rfl rfl rfl rfl rfl rfl
    | split

theorem keep_doomSlot {slot : Nat} {code : Nat} (hk : Keep s0 s) :
    Keep s0 (doomSlot s slot code) := by
  unfold doomSlot
  try dsimp only
  repeat' with_reducible first
    | assumption
    | apply keep_doomSeq
    | (apply keep_ite <;> intro _)
    | intro _
    | dsimp only
    | exact keep_of ‹Keep _ _› rfl rfl rfl rfl rfl rfl rfl rfl rfl
    | split

theorem keep_doomGroup {g : WGroup} {code : Nat} (hk : Keep s0 s) :
    Keep s0 (doomGroup s g code) := by
  unfold doomGroup
  try dsimp only
  repeat' with_reducible first
    | assumption
    | apply keep_doomSlot
    | apply keep_forEach
    | (apply keep_ite <;> intro _)
    | intro _
    | dsimp only
    | split

theorem keep_addBits {x : Context} {slot : Nat} {rep : List Nat} {pres : List Nat} (hk : Keep s0 s) :
    Keep s0 (addBits s x slot rep pres) := by
  unfold addBits
  try dsimp only
  repeat' with_reducible first
    | assumption
    | apply keep_setBitmaps
    | apply keep_forEach
    | (apply keep_ite <;> intro _)
    | intro _
    | dsimp only
    | exact keep_of ‹Keep _ _› rfl rfl rfl rfl rfl rfl rfl rfl rfl
    | split

theorem keep_clearPresence {x : Context} {slot : Nat} (hk : Keep s0 s) :
    Keep s0 (clearPresence s x slot) := by
  unfold clearPresence
  try dsimp only
  repeat' with_reducible first
    | assumption
    | apply keep_setBitmaps
    | apply keep_forEach
    | (apply keep_ite <;> intro _)
    | intro _
    | dsimp only
    | split

theorem keep_startRefetch {d : Nat} {vpn : Nat} {version : Bool} (hk : Keep s0 s) :
    Keep s0 (startRefetch s d vpn version) := by
  unfold startRefetch
  try dsimp only
  repeat' with_reducible first
    | assumption
    | apply keep_logPut
    | apply keep_modCtx
    | apply keep_pinc
    | (apply keep_ite <;> intro _)
    | intro _
    | dsimp only
    | exact keep_of ‹Keep _ _› rfl rfl rfl rfl rfl rfl rfl rfl rfl
    | split

theorem keep_spareIn {d : Nat} {col : Nat} {ch : Nat} {spare : Nat} (hk : Keep s0 s) :
    Keep s0 (spareIn s d col ch spare) := by
  unfold spareIn
  try dsimp only
  repeat' with_reducible first
    | assumption
    | apply keep_rmAdd
    | apply keep_dset
    | (apply keep_ite <;> intro _)
    | intro _
    | dsimp only
    | split

theorem keep_takeSpare {d : Nat} {col : Nat} {ch : Nat} {hard : Nat} (hk : Keep s0 s) :
    Keep s0 (takeSpare s d col ch hard) := by
  unfold takeSpare
  try dsimp only
  repeat' with_reducible first
    | assumption
    | apply keep_dset
    | apply keep_logPut
    | (apply keep_ite <;> intro _)
    | intro _
    | dsimp only
    | split

theorem keep_relocate {d : Nat} {f : Nat} {r : FrameRec} (hk : Keep s0 s) :
    Keep s0 (relocate s d f r).2 := by
  unfold relocate
  try dsimp only
  repeat' with_reducible first
    | assumption
    | apply keep_takeFrame
    | apply keep_modDie
    | apply keep_setFrame
    | apply keep_queueReturn
    | apply keep_setL2
    | refine keep_optSnd (by assumption) ?_
    | apply clearFrame_wf
    | exact fun _ h => h
    | (apply keep_ite <;> intro _)
    | intro _
    | dsimp only
    | exact keep_of ‹Keep _ _› rfl rfl rfl rfl rfl rfl rfl rfl rfl
    | split

theorem keep_trimGrants {d : Nat} (hk : Keep s0 s) :
    Keep s0 (trimGrants s d) := by
  unfold trimGrants
  try dsimp only
  repeat' with_reducible first
    | assumption
    | apply keep_modDie
    | exact fun _ h => h
    | (apply keep_ite <;> intro _)
    | intro _
    | dsimp only
    | exact keep_of ‹Keep _ _› rfl rfl rfl rfl rfl rfl rfl rfl rfl
    | split

theorem keep_retireChannel {d col ch : Nat} (hk : Keep s0 s) : Keep s0 (retireChannel s d col ch) := by
  unfold retireChannel
  extract_lets held weights caches states f s1 s2 s3
  have h3 : Keep s0 s3 := keep_rmAdd (keep_dset (keep_dset hk))
  clear_value s3
  split
  rename_i moved s5 e
  have h5 : Keep s0 s5 := by
    refine keep_snd e (keep_foldSnd h3 fun a x ha => ?_)
    dsimp only
    apply keep_ite <;> intro _
    · exact keep_startRefetch (keep_relocate ha)
    · exact keep_relocate ha
  dsimp only
  have h6 : ∀ f : State → Nat × FrameRec → State, (∀ s e, Keep s0 s → Keep s0 (f s e)) → ∀ c v src a b g,
      Keep s0 (trimGrants (forEach caches (logPut s5 c v src a b g) f) d) :=
    fun f hf _ _ _ _ _ _ => keep_trimGrants (keep_forEach (keep_logPut h5) hf)
  have h7 := h6 _ fun s e h => keep_doomSlot (slot := e.2.slot) (code := 0x0813) h
  split
  · exact h7 _ _ _ _ _ _
  · split
    · exact keep_stopContext (h7 _ _ _ _ _ _)
    · exact h7 _ _ _ _ _ _

theorem keep_startSoftSwap {d : Nat} {col : Nat} {ch : Nat} (hk : Keep s0 s) :
    Keep s0 (startSoftSwap s d col ch) := by
  unfold startSoftSwap
  try dsimp only
  repeat' with_reducible first
    | assumption
    | apply keep_modDie
    | apply keep_retireChannel
    | apply keep_takeSpare
    | apply keep_dset
    | exact fun _ h => h
    | (apply keep_ite <;> intro _)
    | intro _
    | dsimp only
    | exact keep_of ‹Keep _ _› rfl rfl rfl rfl rfl rfl rfl rfl rfl
    | split

theorem keep_stkCorrected {d : Nat} {col : Nat} {frame : Nat} (hk : Keep s0 s) :
    Keep s0 (stkCorrected s d col frame) := by
  unfold stkCorrected
  try dsimp only
  repeat' with_reducible first
    | assumption
    | apply keep_modDie
    | apply keep_startSoftSwap
    | apply keep_dinc
    | apply kwf_kset
    | exact fun _ h => h
    | (apply keep_ite <;> intro _)
    | intro _
    | dsimp only
    | exact keep_of ‹Keep _ _› rfl rfl rfl rfl rfl rfl rfl rfl rfl
    | split

theorem keep_stkUncorrRead {d : Nat} {col : Nat} {frame : Nat} {line : Nat} {reader : Nat} (hk : Keep s0 s) :
    Keep s0 (stkUncorrRead s d col frame line reader) := by
  unfold stkUncorrRead
  try dsimp only
  repeat' with_reducible first
    | assumption
    | apply keep_modDie
    | apply keep_dset
    | apply keep_dinc
    | apply keep_modGroup
    | exact fun _ h => h
    | (apply keep_ite <;> intro _)
    | intro _
    | dsimp only
    | exact keep_of ‹Keep _ _› rfl rfl rfl rfl rfl rfl rfl rfl rfl
    | split

theorem keep_actUncorr {d : Nat} {col : Nat} {frame : Nat} {line : Nat} (hk : Keep s0 s) :
    Keep s0 (actUncorr s d col frame line) := by
  unfold actUncorr
  try dsimp only
  repeat' with_reducible first
    | assumption
    | apply keep_doomSlot
    | apply keep_logPut
    | apply keep_rmAdd
    | apply keep_doomGroup
    | apply keep_modDie
    | apply keep_startRefetch
    | apply kwf_filter
    | apply clearFrame_wf
    | exact fun _ h => h
    | (apply keep_ite <;> intro _)
    | intro _
    | dsimp only
    | exact keep_of ‹Keep _ _› rfl rfl rfl rfl rfl rfl rfl rfl rfl
    | split

theorem keep_stackUncorrEff {d : Fin 56} {col : Fin 24} {frame : BitVec 16} {line : Byte} (hk : Keep s0 s) :
    Keep s0 (stackUncorrEff d col frame line s) := by
  unfold stackUncorrEff
  try dsimp only
  repeat' with_reducible first
    | assumption
    | apply keep_stkUncorrRead
    | apply keep_actUncorr
    | (apply keep_ite <;> intro _)
    | intro _
    | dsimp only
    | split

theorem keep_softSwapEff {d : Fin 56} (hk : Keep s0 s) :
    Keep s0 (softSwapEff d s) := by
  unfold softSwapEff
  try dsimp only
  repeat' with_reducible first
    | assumption
    | apply keep_modDie
    | apply keep_spareIn
    | apply keep_dset
    | apply kwf_kset
    | exact fun _ h => h
    | (apply keep_ite <;> intro _)
    | intro _
    | dsimp only
    | exact keep_of ‹Keep _ _› rfl rfl rfl rfl rfl rfl rfl rfl rfl
    | split

theorem keep_patrolEff {d : Fin 56} {errs : List MemErr} {complete : Bool} (hk : Keep s0 s) :
    Keep s0 (patrolEff d errs complete s) := by
  unfold patrolEff
  try dsimp only
  repeat' with_reducible first
    | assumption
    | apply keep_modDie
    | apply keep_stkUncorrRead
    | apply keep_actUncorr
    | apply keep_stkCorrected
    | apply keep_forEach
    | exact fun _ h => h
    | (apply keep_ite <;> intro _)
    | intro _
    | dsimp only
    | exact keep_of ‹Keep _ _› rfl rfl rfl rfl rfl rfl rfl rfl rfl
    | split

/-! ## Machine/Engine.lean -/

theorem keep_cmdFault {t : Tid} {q : Nat} {c : QCmd} {reason : Nat} {word : Nat} (hk : Keep s0 s) :
    Keep s0 (cmdFault s t q c reason word) := by
  unfold cmdFault
  try dsimp only
  repeat' with_reducible first
    | assumption
    | apply keep_raise
    | apply keep_logPut
    | apply keep_haltTile
    | (apply keep_ite <;> intro _)
    | intro _
    | dsimp only
    | split

theorem keep_takeHead {t : Tid} {q : Nat} {rest : List QCmd} (hk : Keep s0 s) :
    Keep s0 (takeHead s t q rest) := by
  unfold takeHead
  try dsimp only
  repeat' with_reducible first
    | assumption
    | apply keep_modTile
    | apply keep_setQueue
    | exact fun _ h => ⟨h.1, h.2, h.3, h.4, h.5, h.6, h.7, h.8, h.9, h.10, h.11, h.12⟩
    | (apply keep_ite <;> intro _)
    | intro _
    | dsimp only
    | split
    | (refine ⟨?_, ?_, ?_, ?_, ?_, ?_, ?_, ?_, ?_, ?_, ?_, ?_⟩ <;> try dsimp only)
    | apply TileMem.sdata
    | apply TileMem.buf
    | apply TileMem.side
    | apply TileMem.vreg0
    | apply TileMem.vreg1
    | apply TileMem.sregs
    | apply TileMem.store
    | apply TileMem.queues
    | apply TileMem.groups
    | apply TileMem.acc
    | apply TileMem.regions
    | apply TileMem.crossings

theorem keep_startCmd {op : Nat} {q : Nat} {t : Tid} {body : QCmd → State → State} (h_body : ∀ s1 a0, Keep s0 s1 → Keep s0 (body a0 s1)) (hk : Keep s0 s) :
    Keep s0 (startCmd op q s t body) := by
  unfold startCmd
  try dsimp only
  repeat' with_reducible first
    | assumption
    | apply keep_cmdFault
    | apply keep_takeHead
    | apply h_body
    | (apply keep_ite <;> intro _)
    | intro _
    | dsimp only
    | exact keep_of ‹Keep _ _› rfl rfl rfl rfl rfl rfl rfl rfl rfl
    | split

theorem keep_checked {t : Tid} {q : Nat} {c : QCmd} {l : List Check} {ok : State → State} (h_ok : ∀ s1, Keep s0 s1 → Keep s0 (ok s1)) (hk : Keep s0 s) :
    Keep s0 (checked s t q c l ok) := by
  unfold checked
  try dsimp only
  repeat' with_reducible first
    | assumption
    | apply keep_cmdFault
    | apply h_ok
    | (apply keep_ite <;> intro _)
    | intro _
    | dsimp only
    | exact keep_of ‹Keep _ _› rfl rfl rfl rfl rfl rfl rfl rfl rfl
    | split

theorem keep_launch {t : Tid} {q : Nat} {c : QCmd} {amount : Nat} (hk : Keep s0 s) :
    Keep s0 (launch s t q c amount) := by
  unfold launch
  try dsimp only
  repeat' with_reducible first
    | assumption
    | apply keep_modTile
    | exact fun _ h => ⟨h.1, h.2, h.3, h.4, h.5, h.6, h.7, h.8, h.9, h.10, h.11, h.12⟩
    | (apply keep_ite <;> intro _)
    | intro _
    | dsimp only
    | exact keep_of ‹Keep _ _› rfl rfl rfl rfl rfl rfl rfl rfl rfl
    | split
    | exact kwf_nil
    | exact memory_nil
    | (refine ⟨?_, ?_, ?_, ?_, ?_, ?_, ?_, ?_, ?_, ?_, ?_, ?_⟩ <;> try dsimp only)
    | apply TileMem.sdata
    | apply TileMem.buf
    | apply TileMem.side
    | apply TileMem.vreg0
    | apply TileMem.vreg1
    | apply TileMem.sregs
    | apply TileMem.store
    | apply TileMem.queues
    | apply TileMem.groups
    | apply TileMem.acc
    | apply TileMem.regions
    | apply TileMem.crossings

theorem keep_holdPlace {t : Tid} {q : Nat} {c : QCmd} {met : List (Nat × Nat)} (hk : Keep s0 s) :
    Keep s0 (holdPlace s t q c met) := by
  unfold holdPlace
  try dsimp only
  repeat' with_reducible first
    | assumption
    | apply keep_modTile
    | apply keep_setQueue
    | exact fun _ h => ⟨h.1, h.2, h.3, h.4, h.5, h.6, h.7, h.8, h.9, h.10, h.11, h.12⟩
    | (apply keep_ite <;> intro _)
    | intro _
    | dsimp only
    | exact keep_of ‹Keep _ _› rfl rfl rfl rfl rfl rfl rfl rfl rfl
    | split
    | (refine ⟨?_, ?_, ?_, ?_, ?_, ?_, ?_, ?_, ?_, ?_, ?_, ?_⟩ <;> try dsimp only)
    | apply TileMem.sdata
    | apply TileMem.buf
    | apply TileMem.side
    | apply TileMem.vreg0
    | apply TileMem.vreg1
    | apply TileMem.sregs
    | apply TileMem.store
    | apply TileMem.queues
    | apply TileMem.groups
    | apply TileMem.acc
    | apply TileMem.regions
    | apply TileMem.crossings

theorem keep_postDone {t : Tid} {f : InFlight} (hk : Keep s0 s) :
    Keep s0 (postDone s t f) := by
  unfold postDone
  try dsimp only
  repeat' with_reducible first
    | assumption
    | apply keep_ctrInc
    | apply keep_forEach
    | (apply keep_ite <;> intro _)
    | intro _
    | dsimp only
    | split

theorem keep_commandCompleteEff {t : Tid} {i : Nat} (hk : Keep s0 s) :
    Keep s0 (commandCompleteEff t i s) := by
  unfold commandCompleteEff
  try dsimp only
  repeat' with_reducible first
    | assumption
    | apply keep_modTile
    | apply keep_postDone
    | exact fun _ h => ⟨h.1, h.2, h.3, h.4, h.5, h.6, h.7, h.8, h.9, h.10, h.11, h.12⟩
    | (apply keep_ite <;> intro _)
    | intro _
    | dsimp only
    | exact keep_of ‹Keep _ _› rfl rfl rfl rfl rfl rfl rfl rfl rfl
    | split
    | (refine ⟨?_, ?_, ?_, ?_, ?_, ?_, ?_, ?_, ?_, ?_, ?_, ?_⟩ <;> try dsimp only)
    | apply TileMem.sdata
    | apply TileMem.buf
    | apply TileMem.side
    | apply TileMem.vreg0
    | apply TileMem.vreg1
    | apply TileMem.sregs
    | apply TileMem.store
    | apply TileMem.queues
    | apply TileMem.groups
    | apply TileMem.acc
    | apply TileMem.regions
    | apply TileMem.crossings

theorem keep_bufCorrected {t : Tid} {line : Nat} {word : Nat} (hk : Keep s0 s) :
    Keep s0 (bufCorrected s t line word) := by
  unfold bufCorrected
  try dsimp only
  repeat' with_reducible first
    | assumption
    | apply keep_modTile
    | apply keep_tinc
    | exact fun _ h => ⟨h.1, h.2, h.3, h.4, h.5, h.6, h.7, h.8, h.9, h.10, h.11, h.12⟩
    | (apply keep_ite <;> intro _)
    | intro _
    | dsimp only
    | exact keep_of ‹Keep _ _› rfl rfl rfl rfl rfl rfl rfl rfl rfl
    | split
    | (refine ⟨?_, ?_, ?_, ?_, ?_, ?_, ?_, ?_, ?_, ?_, ?_, ?_⟩ <;> try dsimp only)
    | apply TileMem.sdata
    | apply TileMem.buf
    | apply TileMem.side
    | apply TileMem.vreg0
    | apply TileMem.vreg1
    | apply TileMem.sregs
    | apply TileMem.store
    | apply TileMem.queues
    | apply TileMem.groups
    | apply TileMem.acc
    | apply TileMem.regions
    | apply TileMem.crossings

theorem keep_wantSlice {ts : TileState} {k : SliceId} (hk : TileMem ts) :
    TileMem (wantSlice ts k) := by
  unfold wantSlice
  try dsimp only
  repeat' with_reducible first
    | assumption
    | exact fun _ h => ⟨h.1, h.2, h.3, h.4, h.5, h.6, h.7, h.8, h.9, h.10, h.11, h.12⟩
    | (apply keep_ite <;> intro _)
    | intro _
    | dsimp only
    | split
    | (refine ⟨?_, ?_, ?_, ?_, ?_, ?_, ?_, ?_, ?_, ?_, ?_, ?_⟩ <;> try dsimp only)
    | apply TileMem.sdata
    | apply TileMem.buf
    | apply TileMem.side
    | apply TileMem.vreg0
    | apply TileMem.vreg1
    | apply TileMem.sregs
    | apply TileMem.store
    | apply TileMem.queues
    | apply TileMem.groups
    | apply TileMem.acc
    | apply TileMem.regions
    | apply TileMem.crossings

theorem keep_flagWord {t : Tid} {line : Nat} {word : Nat} (hk : Keep s0 s) :
    Keep s0 (flagWord s t line word) := by
  unfold flagWord
  try dsimp only
  repeat' with_reducible first
    | assumption
    | apply keep_wantSlice
    | apply keep_raise
    | apply keep_tset
    | apply keep_modTile
    | apply keep_post
    | apply kwf_filter
    | exact fun _ h => ⟨h.1, h.2, h.3, h.4, h.5, h.6, h.7, h.8, h.9, h.10, h.11, h.12⟩
    | (apply keep_ite <;> intro _)
    | intro _
    | dsimp only
    | exact keep_of ‹Keep _ _› rfl rfl rfl rfl rfl rfl rfl rfl rfl
    | split
    | (refine ⟨?_, ?_, ?_, ?_, ?_, ?_, ?_, ?_, ?_, ?_, ?_, ?_⟩ <;> try dsimp only)
    | apply TileMem.sdata
    | apply TileMem.buf
    | apply TileMem.side
    | apply TileMem.vreg0
    | apply TileMem.vreg1
    | apply TileMem.sregs
    | apply TileMem.store
    | apply TileMem.queues
    | apply TileMem.groups
    | apply TileMem.acc
    | apply TileMem.regions
    | apply TileMem.crossings

theorem keep_bufUncorrectable {t : Tid} {line : Nat} {word : Nat} (hk : Keep s0 s) :
    Keep s0 (bufUncorrectable s t line word) := by
  unfold bufUncorrectable
  try dsimp only
  repeat' with_reducible first
    | assumption
    | apply keep_bumpFree
    | apply keep_modTile
    | apply keep_flagWord
    | apply mstore_wf
    | apply kwf_filter
    | exact fun _ h => ⟨h.1, h.2, h.3, h.4, h.5, h.6, h.7, h.8, h.9, h.10, h.11, h.12⟩
    | (apply keep_ite <;> intro _)
    | intro _
    | dsimp only
    | exact keep_of ‹Keep _ _› rfl rfl rfl rfl rfl rfl rfl rfl rfl
    | split
    | (refine ⟨?_, ?_, ?_, ?_, ?_, ?_, ?_, ?_, ?_, ?_, ?_, ?_⟩ <;> try dsimp only)
    | apply TileMem.sdata
    | apply TileMem.buf
    | apply TileMem.side
    | apply TileMem.vreg0
    | apply TileMem.vreg1
    | apply TileMem.sregs
    | apply TileMem.store
    | apply TileMem.queues
    | apply TileMem.groups
    | apply TileMem.acc
    | apply TileMem.regions
    | apply TileMem.crossings

theorem keep_applyErr {t : Tid} {y0 : MemErr} (hk : Keep s0 s) :
    Keep s0 (applyErr s t y0) := by
  unfold applyErr
  try dsimp only
  repeat' with_reducible first
    | assumption
    | apply keep_stkUncorrRead
    | apply keep_stackWrite
    | apply keep_bumpFree
    | apply keep_stkCorrected
    | apply keep_bufUncorrectable
    | apply keep_bufCorrected
    | (apply keep_ite <;> intro _)
    | intro _
    | dsimp only
    | split

theorem keep_applyErrs {t : Tid} {errs : List MemErr} (hk : Keep s0 s) :
    Keep s0 (applyErrs s t errs) := by
  unfold applyErrs
  try dsimp only
  repeat' with_reducible first
    | assumption
    | apply keep_applyErr
    | apply keep_forEach
    | (apply keep_ite <;> intro _)
    | intro _
    | dsimp only
    | split

theorem keep_bufReads {t : Tid} {spans : List Span} {errs : List MemErr} (hk : Keep s0 s) :
    Keep s0 (bufReads s t spans errs) := by
  unfold bufReads
  try dsimp only
  repeat' with_reducible first
    | assumption
    | apply keep_applyErrs
    | apply keep_flagWord
    | apply keep_forEach
    | apply kwf_filter
    | (apply keep_ite <;> intro _)
    | intro _
    | dsimp only
    | exact keep_of ‹Keep _ _› rfl rfl rfl rfl rfl rfl rfl rfl rfl
    | split

theorem keep_transAll {t : Tid} {write : Bool} {req : Nat} {l : List Nat} (hk : Keep s0 s) :
    Keep s0 (transAll t write req l s).2 := by
  induction l generalizing s with
  | nil => exact hk
  | cons va r ih =>
    unfold transAll
    split
    · next e => exact ih (keep_snd e (keep_translate hk))
    · next e =>
      have h := keep_snd e (keep_translate hk)
      split
      · exact h
      · split
        · exact ih (keep_transFault h)
        · split
          · exact ih h
          · exact h

theorem keep_pauseFor {t : Tid} {met : List (Nat × Nat)} {waits : List (Nat × Nat)} (hk : Keep s0 s) :
    Keep s0 (pauseFor s t met waits) := by
  unfold pauseFor
  try dsimp only
  repeat' with_reducible first
    | assumption
    | apply keep_countPause
    | apply keep_startPageIn
    | apply keep_forEach
    | (apply keep_ite <;> intro _)
    | intro _
    | dsimp only
    | split

theorem keep_cmdTransFault {t : Tid} {q : Nat} {c : QCmd} {req : Nat} {word : Nat} {f : Nat × Nat} (hk : Keep s0 s) :
    Keep s0 (cmdTransFault s t q c req word f) := by
  unfold cmdTransFault
  try dsimp only
  repeat' with_reducible first
    | assumption
    | apply keep_cmdFault
    | apply keep_transFault
    | (apply keep_ite <;> intro _)
    | intro _
    | dsimp only
    | split

end Sys2Proof.Machine
end

