-- ==== Sys2Proof/Laws/KeepEngine.lean ====
section
/-! SUPPORT. One lemma for each operation of the engines, pacing, the crossings and storms: what it keeps (Laws/Keep.lean). A
hypothesis `h_f` is asked for each effect that the operation is given. -/
namespace Sys2Proof.Machine

variable {s0 s : State}

/-! ## Machine/Mesh.lean -/

theorem keep_setCrossing {t : Tid} {d : Dir} {c : Crossing} (hk : Keep s0 s) :
    Keep s0 (setCrossing s t d c) := by
  unfold setCrossing
  try dsimp only
  repeat' with_reducible first
    | assumption
    | apply keep_modTile
    | apply kwf_kset
    | exact fun _ h => ⟨h.1, h.2, h.3, h.4, h.5, h.6, h.7, h.8, h.9, h.10, h.11, h.12⟩
    | (apply keep_ite <;> intro _)
    | intro _
    | dsimp only
    | exact keep_of ‹Keep _ _› rfl rfl rfl rfl rfl rfl rfl rfl rfl
    | split
    | (refine ⟨?_, ?_, ?_, ?_, ?_, ?_, ?_, ?_, ?_, ?_, ?_, ?_⟩ <;> try dsimp only)
    | apply TileMem.sdata
    | apply TileMem.buf
    | apply TileMem.side
    | apply TileMem.vreg0
    | apply TileMem.vreg1
    | apply TileMem.sregs
    | apply TileMem.store
    | apply TileMem.queues
    | apply TileMem.groups
    | apply TileMem.acc
    | apply TileMem.regions
    | apply TileMem.crossings

theorem keep_commitLine {t : Tid} {p : Packet} (hk : Keep s0 s) :
    Keep s0 (commitLine s t p) := by
  unfold commitLine
  try dsimp only
  repeat' with_reducible first
    | assumption
    | apply keep_modTile
    | apply keep_bufWrite
    | exact fun _ h => ⟨h.1, h.2, h.3, h.4, h.5, h.6, h.7, h.8, h.9, h.10, h.11, h.12⟩
    | (apply keep_ite <;> intro _)
    | intro _
    | dsimp only
    | exact keep_of ‹Keep _ _› rfl rfl rfl rfl rfl rfl rfl rfl rfl
    | split
    | (refine ⟨?_, ?_, ?_, ?_, ?_, ?_, ?_, ?_, ?_, ?_, ?_, ?_⟩ <;> try dsimp only)
    | apply TileMem.sdata
    | apply TileMem.buf
    | apply TileMem.side
    | apply TileMem.vreg0
    | apply TileMem.vreg1
    | apply TileMem.sregs
    | apply TileMem.store
    | apply TileMem.queues
    | apply TileMem.groups
    | apply TileMem.acc
    | apply TileMem.regions
    | apply TileMem.crossings

theorem keep_stageOut {t : Tid} {port : Nat} {d : Dir} {p : Packet} (hk : Keep s0 s) :
    Keep s0 (stageOut s t port d p) := by
  unfold stageOut
  try dsimp only
  repeat' with_reducible first
    | assumption
    | apply keep_modTile
    | exact fun _ h => ⟨h.1, h.2, h.3, h.4, h.5, h.6, h.7, h.8, h.9, h.10, h.11, h.12⟩
    | (apply keep_ite <;> intro _)
    | intro _
    | dsimp only
    | exact keep_of ‹Keep _ _› rfl rfl rfl rfl rfl rfl rfl rfl rfl
    | split
    | (refine ⟨?_, ?_, ?_, ?_, ?_, ?_, ?_, ?_, ?_, ?_, ?_, ?_⟩ <;> try dsimp only)
    | apply TileMem.sdata
    | apply TileMem.buf
    | apply TileMem.side
    | apply TileMem.vreg0
    | apply TileMem.vreg1
    | apply TileMem.sregs
    | apply TileMem.store
    | apply TileMem.queues
    | apply TileMem.groups
    | apply TileMem.acc
    | apply TileMem.regions
    | apply TileMem.crossings

theorem keep_routeLine {t : Tid} {port : Nat} {p : Packet} (hk : Keep s0 s) :
    Keep s0 (routeLine s t port p) := by
  unfold routeLine
  try dsimp only
  repeat' with_reducible first
    | assumption
    | apply keep_stageOut
    | apply keep_commitLine
    | apply keep_forEach
    | (apply keep_ite <;> intro _)
    | intro _
    | dsimp only
    | exact keep_of ‹Keep _ _› rfl rfl rfl rfl rfl rfl rfl rfl rfl
    | split

theorem keep_dropLines {ts : List Tid} (hk : Keep s0 s) :
    Keep s0 (dropLines s ts) := by
  unfold dropLines
  try dsimp only
  repeat' with_reducible first
    | assumption
    | apply keep_modTile
    | apply keep_forEach
    | apply kwf_kset
    | apply kwf_filter
    | refine foldl_kwf ?_ fun _ _ h => kwf_kset h
    | exact fun _ h => ⟨h.1, h.2, h.3, h.4, h.5, h.6, h.7, h.8, h.9, h.10, h.11, h.12⟩
    | (apply keep_ite <;> intro _)
    | intro _
    | dsimp only
    | exact keep_of ‹Keep _ _› rfl rfl rfl rfl rfl rfl rfl rfl rfl
    | split
    | exact kwf_nil
    | exact memory_nil
    | (refine ⟨?_, ?_, ?_, ?_, ?_, ?_, ?_, ?_, ?_, ?_, ?_, ?_⟩ <;> try dsimp only)
    | apply TileMem.sdata
    | apply TileMem.buf
    | apply TileMem.side
    | apply TileMem.vreg0
    | apply TileMem.vreg1
    | apply TileMem.sregs
    | apply TileMem.store
    | apply TileMem.queues
    | apply TileMem.groups
    | apply TileMem.acc
    | apply TileMem.regions
    | apply TileMem.crossings

/-! ## Machine/Matrix.lean -/

theorem keep_setGrp {ts : TileState} {g : Nat} {v : Grp} (hk : TileMem ts) :
    TileMem (setGrp ts g v) := by
  unfold setGrp
  try dsimp only
  repeat' with_reducible first
    | assumption
    | apply kwf_kset
    | exact fun _ h => ⟨h.1, h.2, h.3, h.4, h.5, h.6, h.7, h.8, h.9, h.10, h.11, h.12⟩
    | (apply keep_ite <;> intro _)
    | intro _
    | dsimp only
    | split
    | (refine ⟨?_, ?_, ?_, ?_, ?_, ?_, ?_, ?_, ?_, ?_, ?_, ?_⟩ <;> try dsimp only)
    | apply TileMem.sdata
    | apply TileMem.buf
    | apply TileMem.side
    | apply TileMem.vreg0
    | apply TileMem.vreg1
    | apply TileMem.sregs
    | apply TileMem.store
    | apply TileMem.queues
    | apply TileMem.groups
    | apply TileMem.acc
    | apply TileMem.regions
    | apply TileMem.crossings

theorem keep_accClear {ts : TileState} {g : Nat} (hk : TileMem ts) :
    TileMem (accClear ts g) := by
  unfold accClear
  try dsimp only
  repeat' with_reducible first
    | assumption
    | apply kwf_filter
    | exact fun _ h => ⟨h.1, h.2, h.3, h.4, h.5, h.6, h.7, h.8, h.9, h.10, h.11, h.12⟩
    | (apply keep_ite <;> intro _)
    | intro _
    | dsimp only
    | split
    | (refine ⟨?_, ?_, ?_, ?_, ?_, ?_, ?_, ?_, ?_, ?_, ?_, ?_⟩ <;> try dsimp only)
    | apply TileMem.sdata
    | apply TileMem.buf
    | apply TileMem.side
    | apply TileMem.vreg0
    | apply TileMem.vreg1
    | apply TileMem.sregs
    | apply TileMem.store
    | apply TileMem.queues
    | apply TileMem.groups
    | apply TileMem.acc
    | apply TileMem.regions
    | apply TileMem.crossings

theorem keep_mxDone {t : Tid} {c : QCmd} (hk : Keep s0 s) :
    Keep s0 (mxDone s t c) := by
  unfold mxDone
  try dsimp only
  repeat' with_reducible first
    | assumption
    | apply keep_launch
    | (apply keep_ite <;> intro _)
    | intro _
    | dsimp only
    | split

theorem keep_mxSeedEff {t : Tid} {errs : List MemErr} (hk : Keep s0 s) :
    Keep s0 (mxSeedEff t errs s) := by
  unfold mxSeedEff
  try dsimp only
  repeat' with_reducible first
    | assumption
    | apply keep_bufReads
    | apply keep_checked
    | apply keep_modTile
    | apply keep_mxDone
    | apply keep_startCmd
    | exact fun _ h => ⟨h.1, h.2, h.3, h.4, h.5, h.6, h.7, h.8, h.9, h.10, h.11, h.12⟩
    | (apply keep_ite <;> intro _)
    | intro _
    | dsimp only
    | exact keep_of ‹Keep _ _› rfl rfl rfl rfl rfl rfl rfl rfl rfl
    | split
    | exact kwf_nil
    | exact memory_nil
    | (refine ⟨?_, ?_, ?_, ?_, ?_, ?_, ?_, ?_, ?_, ?_, ?_, ?_⟩ <;> try dsimp only)
    | apply TileMem.sdata
    | apply TileMem.buf
    | apply TileMem.side
    | apply TileMem.vreg0
    | apply TileMem.vreg1
    | apply TileMem.sregs
    | apply TileMem.store
    | apply TileMem.queues
    | apply TileMem.groups
    | apply TileMem.acc
    | apply TileMem.regions
    | apply TileMem.crossings

theorem keep_mxOpenEff {t : Tid} {errs : List MemErr} (hk : Keep s0 s) :
    Keep s0 (mxOpenEff t errs s) := by
  unfold mxOpenEff
  try dsimp only
  repeat' with_reducible first
    | assumption
    | apply keep_noteNum
    | apply keep_bufReads
    | apply keep_accClear
    | apply keep_checked
    | apply keep_modTile
    | apply keep_mxDone
    | apply keep_startCmd
    | apply keep_setGrp
    | apply kwf_kset
    | refine foldl_kwf ?_ fun _ _ h => kwf_kset h
    | exact fun _ h => ⟨h.1, h.2, h.3, h.4, h.5, h.6, h.7, h.8, h.9, h.10, h.11, h.12⟩
    | (apply keep_ite <;> intro _)
    | intro _
    | dsimp only
    | exact keep_of ‹Keep _ _› rfl rfl rfl rfl rfl rfl rfl rfl rfl
    | split
    | exact kwf_nil
    | exact memory_nil
    | (refine ⟨?_, ?_, ?_, ?_, ?_, ?_, ?_, ?_, ?_, ?_, ?_, ?_⟩ <;> try dsimp only)
    | apply TileMem.sdata
    | apply TileMem.buf
    | apply TileMem.side
    | apply TileMem.vreg0
    | apply TileMem.vreg1
    | apply TileMem.sregs
    | apply TileMem.store
    | apply TileMem.queues
    | apply TileMem.groups
    | apply TileMem.acc
    | apply TileMem.regions
    | apply TileMem.crossings

theorem keep_runStream {t : Tid} {d : Desc} (hk : Keep s0 s) :
    Keep s0 (runStream s t d) := by
  unfold runStream
  try dsimp only
  repeat' with_reducible first
    | assumption
    | apply keep_setGrp
    | apply keep_modTile
    | apply keep_noteNum
    | apply kwf_kset
    | apply kwf_filter
    | refine foldl_kwf ?_ fun _ _ h => kwf_kset h
    | exact fun _ h => ⟨h.1, h.2, h.3, h.4, h.5, h.6, h.7, h.8, h.9, h.10, h.11, h.12⟩
    | (apply keep_ite <;> intro _)
    | intro _
    | dsimp only
    | exact keep_of ‹Keep _ _› rfl rfl rfl rfl rfl rfl rfl rfl rfl
    | split
    | exact kwf_nil
    | exact memory_nil
    | (refine ⟨?_, ?_, ?_, ?_, ?_, ?_, ?_, ?_, ?_, ?_, ?_, ?_⟩ <;> try dsimp only)
    | apply TileMem.sdata
    | apply TileMem.buf
    | apply TileMem.side
    | apply TileMem.vreg0
    | apply TileMem.vreg1
    | apply TileMem.sregs
    | apply TileMem.store
    | apply TileMem.queues
    | apply TileMem.groups
    | apply TileMem.acc
    | apply TileMem.regions
    | apply TileMem.crossings

theorem keep_dropHeld {t : Tid} (hk : Keep s0 s) :
    Keep s0 (dropHeld s t) := by
  unfold dropHeld
  try dsimp only
  repeat' with_reducible first
    | assumption
    | apply keep_modTile
    | apply kwf_filter
    | exact fun _ h => ⟨h.1, h.2, h.3, h.4, h.5, h.6, h.7, h.8, h.9, h.10, h.11, h.12⟩
    | (apply keep_ite <;> intro _)
    | intro _
    | dsimp only
    | exact keep_of ‹Keep _ _› rfl rfl rfl rfl rfl rfl rfl rfl rfl
    | split
    | (refine ⟨?_, ?_, ?_, ?_, ?_, ?_, ?_, ?_, ?_, ?_, ?_, ?_⟩ <;> try dsimp only)
    | apply TileMem.sdata
    | apply TileMem.buf
    | apply TileMem.side
    | apply TileMem.vreg0
    | apply TileMem.vreg1
    | apply TileMem.sregs
    | apply TileMem.store
    | apply TileMem.queues
    | apply TileMem.groups
    | apply TileMem.acc
    | apply TileMem.regions
    | apply TileMem.crossings

theorem keep_pauseStream {t : Tid} {c : QCmd} {o : StreamOps} {waits : List (Nat × Nat)} (hk : Keep s0 s) :
    Keep s0 (pauseStream s t c o waits) := by
  unfold pauseStream
  try dsimp only
  repeat' with_reducible first
    | assumption
    | apply keep_modTile
    | exact fun _ h => ⟨h.1, h.2, h.3, h.4, h.5, h.6, h.7, h.8, h.9, h.10, h.11, h.12⟩
    | (apply keep_ite <;> intro _)
    | intro _
    | dsimp only
    | exact keep_of ‹Keep _ _› rfl rfl rfl rfl rfl rfl rfl rfl rfl
    | split
    | exact kwf_nil
    | exact memory_nil
    | (refine ⟨?_, ?_, ?_, ?_, ?_, ?_, ?_, ?_, ?_, ?_, ?_, ?_⟩ <;> try dsimp only)
    | apply TileMem.sdata
    | apply TileMem.buf
    | apply TileMem.side
    | apply TileMem.vreg0
    | apply TileMem.vreg1
    | apply TileMem.sregs
    | apply TileMem.store
    | apply TileMem.queues
    | apply TileMem.groups
    | apply TileMem.acc
    | apply TileMem.regions
    | apply TileMem.crossings

theorem keep_streamOn {t : Tid} {c : QCmd} {errs : List MemErr} (hk : Keep s0 s) :
    Keep s0 (streamOn s t c errs) := by
  unfold streamOn
  try dsimp only
  repeat' with_reducible first
    | assumption
    | apply keep_runStream
    | apply keep_holdPlace
    | apply keep_pauseFor
    | apply keep_cmdTransFault
    | apply keep_bufReads
    | apply keep_bumpFree
    | apply keep_modTile
    | apply keep_pauseStream
    | apply keep_mxDone
    | apply keep_transAll
    | refine keep_snd (by assumption) ?_
    | exact fun _ h => ⟨h.1, h.2, h.3, h.4, h.5, h.6, h.7, h.8, h.9, h.10, h.11, h.12⟩
    | (apply keep_ite <;> intro _)
    | intro _
    | dsimp only
    | exact keep_of ‹Keep _ _› rfl rfl rfl rfl rfl rfl rfl rfl rfl
    | split
    | exact kwf_nil
    | exact memory_nil
    | (refine ⟨?_, ?_, ?_, ?_, ?_, ?_, ?_, ?_, ?_, ?_, ?_, ?_⟩ <;> try dsimp only)
    | apply TileMem.sdata
    | apply TileMem.buf
    | apply TileMem.side
    | apply TileMem.vreg0
    | apply TileMem.vreg1
    | apply TileMem.sregs
    | apply TileMem.store
    | apply TileMem.queues
    | apply TileMem.groups
    | apply TileMem.acc
    | apply TileMem.regions
    | apply TileMem.crossings

theorem keep_mxStreamEff {t : Tid} {errs : List MemErr} (hk : Keep s0 s) :
    Keep s0 (mxStreamEff t errs s) := by
  unfold mxStreamEff
  try dsimp only
  repeat' with_reducible first
    | assumption
    | apply keep_checked
    | apply keep_streamOn
    | apply keep_mxDone
    | apply keep_startCmd
    | apply keep_dropHeld
    | (apply keep_ite <;> intro _)
    | intro _
    | dsimp only
    | exact keep_of ‹Keep _ _› rfl rfl rfl rfl rfl rfl rfl rfl rfl
    | split

theorem keep_setVregFile {ts : TileState} {core : Nat} {m : List Host.Cell} (hk : TileMem ts)
    (hm : Memory.wf m = true) : TileMem (setVregFile ts core m) := by
  unfold setVregFile
  split
  · exact ⟨hk.1, hk.2, hk.3, hm, hk.5, hk.6, hk.7, hk.8, hk.9, hk.10, hk.11, hk.12⟩
  · exact ⟨hk.1, hk.2, hk.3, hk.4, hm, hk.6, hk.7, hk.8, hk.9, hk.10, hk.11, hk.12⟩

theorem vregFile_wf {ts : TileState} {core : Nat} (hk : TileMem ts) : Memory.wf (vregFile ts core) = true := by
  unfold vregFile
  split
  · exact hk.vreg0
  · exact hk.vreg1

theorem keep_sampleDrain {t : Tid} {o : DrainOps} {g : Grp} {rows : List (Nat × Nat × DrainRow)} (hk : Keep s0 s) :
    Keep s0 (sampleDrain s t o g rows) := by
  unfold sampleDrain
  try dsimp only
  repeat' with_reducible first
    | assumption
    | apply keep_tset
    | apply keep_modTile
    | exact fun _ h => ⟨h.1, h.2, h.3, h.4, h.5, h.6, h.7, h.8, h.9, h.10, h.11, h.12⟩
    | (apply keep_ite <;> intro _)
    | intro _
    | dsimp only
    | exact keep_of ‹Keep _ _› rfl rfl rfl rfl rfl rfl rfl rfl rfl
    | split
    | exact kwf_nil
    | exact memory_nil
    | (refine ⟨?_, ?_, ?_, ?_, ?_, ?_, ?_, ?_, ?_, ?_, ?_, ?_⟩ <;> try dsimp only)
    | apply TileMem.sdata
    | apply TileMem.buf
    | apply TileMem.side
    | apply TileMem.vreg0
    | apply TileMem.vreg1
    | apply TileMem.sregs
    | apply TileMem.store
    | apply TileMem.queues
    | apply TileMem.groups
    | apply TileMem.acc
    | apply TileMem.regions
    | apply TileMem.crossings

theorem keep_closeGroup {ts : TileState} {g : Nat} (hk : TileMem ts) :
    TileMem (closeGroup ts g) := by
  unfold closeGroup
  try dsimp only
  repeat' with_reducible first
    | assumption
    | apply keep_setGrp
    | apply keep_accClear
    | exact fun _ h => ⟨h.1, h.2, h.3, h.4, h.5, h.6, h.7, h.8, h.9, h.10, h.11, h.12⟩
    | (apply keep_ite <;> intro _)
    | intro _
    | dsimp only
    | split
    | (refine ⟨?_, ?_, ?_, ?_, ?_, ?_, ?_, ?_, ?_, ?_, ?_, ?_⟩ <;> try dsimp only)
    | apply TileMem.sdata
    | apply TileMem.buf
    | apply TileMem.side
    | apply TileMem.vreg0
    | apply TileMem.vreg1
    | apply TileMem.sregs
    | apply TileMem.store
    | apply TileMem.queues
    | apply TileMem.groups
    | apply TileMem.acc
    | apply TileMem.regions
    | apply TileMem.crossings

theorem keep_drainWrite {ts : TileState} {o : DrainOps} {bytes : List Byte} {recs : List Byte} {draws : List (Nat × BitVec 24)} (hk : TileMem ts) :
    TileMem (drainWrite ts o bytes recs draws) := by
  unfold drainWrite
  try dsimp only
  repeat' with_reducible first
    | assumption
    | apply keep_setVregFile
    | apply keep_bufWrite
    | apply vregFile_wf
    | apply mstore_wf
    | apply kwf_kset
    | refine foldl_kwf ?_ fun _ _ h => kwf_kset h
    | exact fun _ h => ⟨h.1, h.2, h.3, h.4, h.5, h.6, h.7, h.8, h.9, h.10, h.11, h.12⟩
    | (apply keep_ite <;> intro _)
    | intro _
    | dsimp only
    | split
    | (refine ⟨?_, ?_, ?_, ?_, ?_, ?_, ?_, ?_, ?_, ?_, ?_, ?_⟩ <;> try dsimp only)
    | apply TileMem.sdata
    | apply TileMem.buf
    | apply TileMem.side
    | apply TileMem.vreg0
    | apply TileMem.vreg1
    | apply TileMem.sregs
    | apply TileMem.store
    | apply TileMem.queues
    | apply TileMem.groups
    | apply TileMem.acc
    | apply TileMem.regions
    | apply TileMem.crossings

theorem keep_mxDrainEff {t : Tid} (hk : Keep s0 s) :
    Keep s0 (mxDrainEff t s) := by
  unfold mxDrainEff
  try dsimp only
  repeat' with_reducible first
    | assumption
    | apply keep_noteNum
    | apply keep_checked
    | apply keep_modTile
    | apply keep_mxDone
    | apply keep_startCmd
    | apply keep_sampleDrain
    | apply keep_closeGroup
    | apply keep_drainWrite
    | exact fun _ h => ⟨h.1, h.2, h.3, h.4, h.5, h.6, h.7, h.8, h.9, h.10, h.11, h.12⟩
    | (apply keep_ite <;> intro _)
    | intro _
    | dsimp only
    | exact keep_of ‹Keep _ _› rfl rfl rfl rfl rfl rfl rfl rfl rfl
    | split
    | exact kwf_nil
    | exact memory_nil
    | (refine ⟨?_, ?_, ?_, ?_, ?_, ?_, ?_, ?_, ?_, ?_, ?_, ?_⟩ <;> try dsimp only)
    | apply TileMem.sdata
    | apply TileMem.buf
    | apply TileMem.side
    | apply TileMem.vreg0
    | apply TileMem.vreg1
    | apply TileMem.sregs
    | apply TileMem.store
    | apply TileMem.queues
    | apply TileMem.groups
    | apply TileMem.acc
    | apply TileMem.regions
    | apply TileMem.crossings

/-! ## Machine/Vector.lean -/

theorem keep_vstore {ts : TileState} {core : Nat} {r : VRef} {off : Nat} {bs : List Byte} (hk : TileMem ts) :
    TileMem (vstore ts core r off bs) := by
  unfold vstore
  try dsimp only
  repeat' with_reducible first
    | assumption
    | apply keep_setVregFile
    | apply keep_bufWrite
    | apply vregFile_wf
    | apply mstore_wf
    | exact fun _ h => ⟨h.1, h.2, h.3, h.4, h.5, h.6, h.7, h.8, h.9, h.10, h.11, h.12⟩
    | (apply keep_ite <;> intro _)
    | intro _
    | dsimp only
    | split
    | (refine ⟨?_, ?_, ?_, ?_, ?_, ?_, ?_, ?_, ?_, ?_, ?_, ?_⟩ <;> try dsimp only)
    | apply TileMem.sdata
    | apply TileMem.buf
    | apply TileMem.side
    | apply TileMem.vreg0
    | apply TileMem.vreg1
    | apply TileMem.sregs
    | apply TileMem.store
    | apply TileMem.queues
    | apply TileMem.groups
    | apply TileMem.acc
    | apply TileMem.regions
    | apply TileMem.crossings

theorem keep_vfinish {t : Tid} {core : Nat} {d : VRef} {off : Nat} {ev : NumEv} {rs : List VRes} (hk : Keep s0 s) :
    Keep s0 (vfinish s t core d off ev rs) := by
  unfold vfinish
  try dsimp only
  repeat' with_reducible first
    | assumption
    | apply keep_noteNum
    | apply keep_vstore
    | apply keep_modTile
    | exact fun _ h => ⟨h.1, h.2, h.3, h.4, h.5, h.6, h.7, h.8, h.9, h.10, h.11, h.12⟩
    | (apply keep_ite <;> intro _)
    | intro _
    | dsimp only
    | exact keep_of ‹Keep _ _› rfl rfl rfl rfl rfl rfl rfl rfl rfl
    | split
    | (refine ⟨?_, ?_, ?_, ?_, ?_, ?_, ?_, ?_, ?_, ?_, ?_, ?_⟩ <;> try dsimp only)
    | apply TileMem.sdata
    | apply TileMem.buf
    | apply TileMem.side
    | apply TileMem.vreg0
    | apply TileMem.vreg1
    | apply TileMem.sregs
    | apply TileMem.store
    | apply TileMem.queues
    | apply TileMem.groups
    | apply TileMem.acc
    | apply TileMem.regions
    | apply TileMem.crossings

theorem keep_nvDone {t : Tid} {core : Nat} {c : QCmd} (hk : Keep s0 s) :
    Keep s0 (nvDone s t core c) := by
  unfold nvDone
  try dsimp only
  repeat' with_reducible first
    | assumption
    | apply keep_launch
    | (apply keep_ite <;> intro _)
    | intro _
    | dsimp only
    | split

theorem keep_nvMapEff {t : Tid} {core : Fin 2} {errs : List MemErr} (hk : Keep s0 s) :
    Keep s0 (nvMapEff t core errs s) := by
  unfold nvMapEff
  try dsimp only
  repeat' with_reducible first
    | assumption
    | apply keep_checked
    | apply keep_vfinish
    | apply keep_startCmd
    | apply keep_bufReads
    | apply keep_nvDone
    | (apply keep_ite <;> intro _)
    | intro _
    | dsimp only
    | exact keep_of ‹Keep _ _› rfl rfl rfl rfl rfl rfl rfl rfl rfl
    | split

theorem keep_nvRedEff {t : Tid} {core : Fin 2} {errs : List MemErr} (hk : Keep s0 s) :
    Keep s0 (nvRedEff t core errs s) := by
  unfold nvRedEff
  try dsimp only
  repeat' with_reducible first
    | assumption
    | apply keep_vstore
    | apply keep_checked
    | apply keep_vfinish
    | apply keep_startCmd
    | apply keep_bufReads
    | apply keep_modTile
    | apply keep_noteNum
    | apply keep_nvDone
    | exact fun _ h => ⟨h.1, h.2, h.3, h.4, h.5, h.6, h.7, h.8, h.9, h.10, h.11, h.12⟩
    | (apply keep_ite <;> intro _)
    | intro _
    | dsimp only
    | exact keep_of ‹Keep _ _› rfl rfl rfl rfl rfl rfl rfl rfl rfl
    | split
    | (refine ⟨?_, ?_, ?_, ?_, ?_, ?_, ?_, ?_, ?_, ?_, ?_, ?_⟩ <;> try dsimp only)
    | apply TileMem.sdata
    | apply TileMem.buf
    | apply TileMem.side
    | apply TileMem.vreg0
    | apply TileMem.vreg1
    | apply TileMem.sregs
    | apply TileMem.store
    | apply TileMem.queues
    | apply TileMem.groups
    | apply TileMem.acc
    | apply TileMem.regions
    | apply TileMem.crossings

theorem keep_nvNormEff {t : Tid} {core : Fin 2} {errs : List MemErr} (hk : Keep s0 s) :
    Keep s0 (nvNormEff t core errs s) := by
  unfold nvNormEff
  try dsimp only
  repeat' with_reducible first
    | assumption
    | apply keep_checked
    | apply keep_vfinish
    | apply keep_startCmd
    | apply keep_bufReads
    | apply keep_nvDone
    | (apply keep_ite <;> intro _)
    | intro _
    | dsimp only
    | exact keep_of ‹Keep _ _› rfl rfl rfl rfl rfl rfl rfl rfl rfl
    | split

theorem keep_nvRopeEff {t : Tid} {core : Fin 2} {errs : List MemErr} (hk : Keep s0 s) :
    Keep s0 (nvRopeEff t core errs s) := by
  unfold nvRopeEff
  try dsimp only
  repeat' with_reducible first
    | assumption
    | apply keep_bufReads
    | apply keep_checked
    | apply keep_vfinish
    | apply keep_startCmd
    | apply keep_nvDone
    | (apply keep_ite <;> intro _)
    | intro _
    | dsimp only
    | split

theorem keep_nvSmaxEff {t : Tid} {core : Fin 2} {errs : List MemErr} (hk : Keep s0 s) :
    Keep s0 (nvSmaxEff t core errs s) := by
  unfold nvSmaxEff
  try dsimp only
  repeat' with_reducible first
    | assumption
    | apply keep_checked
    | apply keep_vfinish
    | apply keep_startCmd
    | apply keep_bufReads
    | apply keep_noteNum
    | apply keep_nvDone
    | apply keep_forEach
    | (apply keep_ite <;> intro _)
    | intro _
    | dsimp only
    | exact keep_of ‹Keep _ _› rfl rfl rfl rfl rfl rfl rfl rfl rfl
    | split

/-! ## Machine/Quant.lean -/

theorem keep_quantQ8Out {t : Tid} {o : QuantOps} {blocks : List (List Rat)} (hk : Keep s0 s) :
    Keep s0 (quantQ8Out s t o blocks) := by
  unfold quantQ8Out
  try dsimp only
  repeat' with_reducible first
    | assumption
    | apply keep_modTile
    | apply keep_tinc
    | apply keep_bufWrite
    | exact fun _ h => ⟨h.1, h.2, h.3, h.4, h.5, h.6, h.7, h.8, h.9, h.10, h.11, h.12⟩
    | (apply keep_ite <;> intro _)
    | intro _
    | dsimp only
    | split
    | (refine ⟨?_, ?_, ?_, ?_, ?_, ?_, ?_, ?_, ?_, ?_, ?_, ?_⟩ <;> try dsimp only)
    | apply TileMem.sdata
    | apply TileMem.buf
    | apply TileMem.side
    | apply TileMem.vreg0
    | apply TileMem.vreg1
    | apply TileMem.sregs
    | apply TileMem.store
    | apply TileMem.queues
    | apply TileMem.groups
    | apply TileMem.acc
    | apply TileMem.regions
    | apply TileMem.crossings

theorem keep_writeEntries {ts : TileState} {base : Nat} {bs : List BlockOut} (hk : TileMem ts) :
    TileMem (writeEntries ts base bs) := by
  unfold writeEntries
  try dsimp only
  repeat' with_reducible first
    | assumption
    | apply mstore_wf
    | exact fun _ h => ⟨h.1, h.2, h.3, h.4, h.5, h.6, h.7, h.8, h.9, h.10, h.11, h.12⟩
    | (apply keep_ite <;> intro _)
    | intro _
    | dsimp only
    | split
    | (refine ⟨?_, ?_, ?_, ?_, ?_, ?_, ?_, ?_, ?_, ?_, ?_, ?_⟩ <;> try dsimp only)
    | apply TileMem.sdata
    | apply TileMem.buf
    | apply TileMem.side
    | apply TileMem.vreg0
    | apply TileMem.vreg1
    | apply TileMem.sregs
    | apply TileMem.store
    | apply TileMem.queues
    | apply TileMem.groups
    | apply TileMem.acc
    | apply TileMem.regions
    | apply TileMem.crossings

theorem keep_tincIf {t : Tid} {f : Fld} {n : Nat} (hk : Keep s0 s) :
    Keep s0 (tincIf s t f n) := by
  unfold tincIf
  try dsimp only
  repeat' with_reducible first
    | assumption
    | apply keep_tinc
    | (apply keep_ite <;> intro _)
    | intro _
    | dsimp only
    | split

theorem keep_quantQ4Out {t : Tid} {o : QuantOps} {blocks : List (List Rat)} (hk : Keep s0 s) :
    Keep s0 (quantQ4Out s t o blocks) := by
  unfold quantQ4Out
  extract_lets q bs n s1 ct total counted s2 s3 s4 s5 s6 s7
  have h1 : Keep s0 s1 := by
    refine keep_modTile hk fun ts h => ?_
    refine keep_writeEntries (tileMem_foldl (keep_bufWrite (keep_bufWrite (keep_bufWrite h))) fun ts b h => ?_)
    split
    · exact keep_bufWrite (keep_bufWrite h)
    · exact h
  clear_value s1
  have h7 : Keep s0 s7 :=
    keep_tincIf (keep_tincIf (keep_tincIf (keep_tincIf (keep_tincIf (keep_tincIf h1)))))
  clear_value s7
  exact keep_modTile h7 fun _ h => ⟨h.1, h.2, h.3, h.4, h.5, h.6, h.7, h.8, h.9, h.10, h.11, h.12⟩

theorem keep_nvQuantEff {t : Tid} {core : Fin 2} {errs : List MemErr} (hk : Keep s0 s) :
    Keep s0 (nvQuantEff t core errs s) := by
  unfold nvQuantEff
  try dsimp only
  repeat' with_reducible first
    | assumption
    | apply keep_writeEntries
    | apply keep_noteNum
    | apply keep_bufReads
    | apply keep_quantQ8Out
    | apply keep_checked
    | apply keep_modTile
    | apply keep_startCmd
    | apply keep_quantQ4Out
    | apply keep_nvDone
    | exact fun _ h => ⟨h.1, h.2, h.3, h.4, h.5, h.6, h.7, h.8, h.9, h.10, h.11, h.12⟩
    | (apply keep_ite <;> intro _)
    | intro _
    | dsimp only
    | exact keep_of ‹Keep _ _› rfl rfl rfl rfl rfl rfl rfl rfl rfl
    | split
    | exact kwf_nil
    | exact memory_nil
    | (refine ⟨?_, ?_, ?_, ?_, ?_, ?_, ?_, ?_, ?_, ?_, ?_, ?_⟩ <;> try dsimp only)
    | apply TileMem.sdata
    | apply TileMem.buf
    | apply TileMem.side
    | apply TileMem.vreg0
    | apply TileMem.vreg1
    | apply TileMem.sregs
    | apply TileMem.store
    | apply TileMem.queues
    | apply TileMem.groups
    | apply TileMem.acc
    | apply TileMem.regions
    | apply TileMem.crossings

/-! ## Machine/Tadpole.lean -/

theorem keep_setRegion {ts : TileState} {r : Nat} {g : GridRegion} (hk : TileMem ts) :
    TileMem (setRegion ts r g) := by
  unfold setRegion
  try dsimp only
  repeat' with_reducible first
    | assumption
    | apply kwf_kset
    | exact fun _ h => ⟨h.1, h.2, h.3, h.4, h.5, h.6, h.7, h.8, h.9, h.10, h.11, h.12⟩
    | (apply keep_ite <;> intro _)
    | intro _
    | dsimp only
    | split
    | (refine ⟨?_, ?_, ?_, ?_, ?_, ?_, ?_, ?_, ?_, ?_, ?_, ?_⟩ <;> try dsimp only)
    | apply TileMem.sdata
    | apply TileMem.buf
    | apply TileMem.side
    | apply TileMem.vreg0
    | apply TileMem.vreg1
    | apply TileMem.sregs
    | apply TileMem.store
    | apply TileMem.queues
    | apply TileMem.groups
    | apply TileMem.acc
    | apply TileMem.regions
    | apply TileMem.crossings

theorem keep_loadCores {ts : TileState} {g : GridRegion} {image : List Byte} (hk : TileMem ts) :
    TileMem (loadCores ts g image) := by
  unfold loadCores
  try dsimp only
  repeat' with_reducible first
    | assumption
    | apply keep_foldl
    | apply mstore_wf
    | apply tileMem_foldl
    | exact fun _ h => ⟨h.1, h.2, h.3, h.4, h.5, h.6, h.7, h.8, h.9, h.10, h.11, h.12⟩
    | (apply keep_ite <;> intro _)
    | intro _
    | dsimp only
    | split
    | (refine ⟨?_, ?_, ?_, ?_, ?_, ?_, ?_, ?_, ?_, ?_, ?_, ?_⟩ <;> try dsimp only)
    | apply TileMem.sdata
    | apply TileMem.buf
    | apply TileMem.side
    | apply TileMem.vreg0
    | apply TileMem.vreg1
    | apply TileMem.sregs
    | apply TileMem.store
    | apply TileMem.queues
    | apply TileMem.groups
    | apply TileMem.acc
    | apply TileMem.regions
    | apply TileMem.crossings

theorem keep_orient {ts : TileState} {waves : DWord} (hk : TileMem ts) :
    TileMem (orient ts waves) := by
  unfold orient
  try dsimp only
  repeat' with_reducible first
    | assumption
    | exact fun _ h => ⟨h.1, h.2, h.3, h.4, h.5, h.6, h.7, h.8, h.9, h.10, h.11, h.12⟩
    | (apply keep_ite <;> intro _)
    | intro _
    | dsimp only
    | split
    | (refine ⟨?_, ?_, ?_, ?_, ?_, ?_, ?_, ?_, ?_, ?_, ?_, ?_⟩ <;> try dsimp only)
    | apply TileMem.sdata
    | apply TileMem.buf
    | apply TileMem.side
    | apply TileMem.vreg0
    | apply TileMem.vreg1
    | apply TileMem.sregs
    | apply TileMem.store
    | apply TileMem.queues
    | apply TileMem.groups
    | apply TileMem.acc
    | apply TileMem.regions
    | apply TileMem.crossings

theorem keep_tgCfgEff {t : Tid} {errs : List MemErr} (hk : Keep s0 s) :
    Keep s0 (tgCfgEff t errs s) := by
  unfold tgCfgEff
  try dsimp only
  repeat' with_reducible first
    | assumption
    | apply keep_bufReads
    | apply keep_orient
    | apply keep_loadCores
    | apply keep_checked
    | apply keep_launch
    | apply keep_modTile
    | apply keep_setRegion
    | apply keep_startCmd
    | exact fun _ h => ⟨h.1, h.2, h.3, h.4, h.5, h.6, h.7, h.8, h.9, h.10, h.11, h.12⟩
    | (apply keep_ite <;> intro _)
    | intro _
    | dsimp only
    | exact keep_of ‹Keep _ _› rfl rfl rfl rfl rfl rfl rfl rfl rfl
    | split
    | (refine ⟨?_, ?_, ?_, ?_, ?_, ?_, ?_, ?_, ?_, ?_, ?_, ?_⟩ <;> try dsimp only)
    | apply TileMem.sdata
    | apply TileMem.buf
    | apply TileMem.side
    | apply TileMem.vreg0
    | apply TileMem.vreg1
    | apply TileMem.sregs
    | apply TileMem.store
    | apply TileMem.queues
    | apply TileMem.groups
    | apply TileMem.acc
    | apply TileMem.regions
    | apply TileMem.crossings

theorem keep_tgRunEff {t : Tid} {errs : List MemErr} (hk : Keep s0 s) :
    Keep s0 (tgRunEff t errs s) := by
  unfold tgRunEff
  try dsimp only
  repeat' with_reducible first
    | assumption
    | apply keep_bufReads
    | apply keep_bufWrite
    | apply keep_checked
    | apply keep_launch
    | apply keep_bumpFree
    | apply keep_modTile
    | apply keep_startCmd
    | exact fun _ h => ⟨h.1, h.2, h.3, h.4, h.5, h.6, h.7, h.8, h.9, h.10, h.11, h.12⟩
    | (apply keep_ite <;> intro _)
    | intro _
    | dsimp only
    | exact keep_of ‹Keep _ _› rfl rfl rfl rfl rfl rfl rfl rfl rfl
    | split
    | (refine ⟨?_, ?_, ?_, ?_, ?_, ?_, ?_, ?_, ?_, ?_, ?_, ?_⟩ <;> try dsimp only)
    | apply TileMem.sdata
    | apply TileMem.buf
    | apply TileMem.side
    | apply TileMem.vreg0
    | apply TileMem.vreg1
    | apply TileMem.sregs
    | apply TileMem.store
    | apply TileMem.queues
    | apply TileMem.groups
    | apply TileMem.acc
    | apply TileMem.regions
    | apply TileMem.crossings

theorem keep_tgFreeEff {t : Tid} (hk : Keep s0 s) :
    Keep s0 (tgFreeEff t s) := by
  unfold tgFreeEff
  try dsimp only
  repeat' with_reducible first
    | assumption
    | apply keep_checked
    | apply keep_launch
    | apply keep_modTile
    | apply keep_setRegion
    | apply keep_startCmd
    | exact fun _ h => ⟨h.1, h.2, h.3, h.4, h.5, h.6, h.7, h.8, h.9, h.10, h.11, h.12⟩
    | (apply keep_ite <;> intro _)
    | intro _
    | dsimp only
    | split
    | (refine ⟨?_, ?_, ?_, ?_, ?_, ?_, ?_, ?_, ?_, ?_, ?_, ?_⟩ <;> try dsimp only)
    | apply TileMem.sdata
    | apply TileMem.buf
    | apply TileMem.side
    | apply TileMem.vreg0
    | apply TileMem.vreg1
    | apply TileMem.sregs
    | apply TileMem.store
    | apply TileMem.queues
    | apply TileMem.groups
    | apply TileMem.acc
    | apply TileMem.regions
    | apply TileMem.crossings

/-! ## Machine/Dma.lean -/

theorem keep_locWrite {d : Nat} {bs : List Byte} {y0 : Loc} (hk : Keep s0 s) :
    Keep s0 (locWrite s d bs y0) := by
  unfold locWrite
  try dsimp only
  repeat' with_reducible first
    | assumption
    | apply keep_stackWrite
    | apply keep_modTile
    | apply keep_bufWrite
    | exact fun _ h => ⟨h.1, h.2, h.3, h.4, h.5, h.6, h.7, h.8, h.9, h.10, h.11, h.12⟩
    | (apply keep_ite <;> intro _)
    | intro _
    | dsimp only
    | split
    | (refine ⟨?_, ?_, ?_, ?_, ?_, ?_, ?_, ?_, ?_, ?_, ?_, ?_⟩ <;> try dsimp only)
    | apply TileMem.sdata
    | apply TileMem.buf
    | apply TileMem.side
    | apply TileMem.vreg0
    | apply TileMem.vreg1
    | apply TileMem.sregs
    | apply TileMem.store
    | apply TileMem.queues
    | apply TileMem.groups
    | apply TileMem.acc
    | apply TileMem.regions
    | apply TileMem.crossings

theorem keep_copyLines {t : Tid} {serial : Nat} {d : Desc} {lines : List Nat} (hk : Keep s0 s) :
    Keep s0 (copyLines s t serial d lines) := by
  unfold copyLines
  try dsimp only
  repeat' with_reducible first
    | assumption
    | apply keep_locWrite
    | apply keep_routeLine
    | apply keep_forEach
    | (apply keep_ite <;> intro _)
    | intro _
    | dsimp only
    | exact keep_of ‹Keep _ _› rfl rfl rfl rfl rfl rfl rfl rfl rfl
    | split

theorem keep_launchMove {t : Tid} {c : QCmd} (hk : Keep s0 s) :
    Keep s0 (launchMove s t c) := by
  unfold launchMove
  try dsimp only
  repeat' with_reducible first
    | assumption
    | apply keep_modTile
    | exact fun _ h => ⟨h.1, h.2, h.3, h.4, h.5, h.6, h.7, h.8, h.9, h.10, h.11, h.12⟩
    | (apply keep_ite <;> intro _)
    | intro _
    | dsimp only
    | exact keep_of ‹Keep _ _› rfl rfl rfl rfl rfl rfl rfl rfl rfl
    | split
    | (refine ⟨?_, ?_, ?_, ?_, ?_, ?_, ?_, ?_, ?_, ?_, ?_, ?_⟩ <;> try dsimp only)
    | apply TileMem.sdata
    | apply TileMem.buf
    | apply TileMem.side
    | apply TileMem.vreg0
    | apply TileMem.vreg1
    | apply TileMem.sregs
    | apply TileMem.store
    | apply TileMem.queues
    | apply TileMem.groups
    | apply TileMem.acc
    | apply TileMem.regions
    | apply TileMem.crossings

theorem keep_dmaMoveEff {t : Tid} {errs : List MemErr} (hk : Keep s0 s) :
    Keep s0 (dmaMoveEff t errs s) := by
  unfold dmaMoveEff
  try dsimp only
  repeat' with_reducible first
    | assumption
    | apply keep_holdPlace
    | apply keep_pauseFor
    | apply keep_cmdTransFault
    | apply keep_bufReads
    | apply keep_checked
    | apply keep_bumpFree
    | apply keep_startCmd
    | apply keep_transAll
    | apply keep_copyLines
    | apply keep_launchMove
    | refine keep_snd (by assumption) ?_
    | (apply keep_ite <;> intro _)
    | intro _
    | dsimp only
    | exact keep_of ‹Keep _ _› rfl rfl rfl rfl rfl rfl rfl rfl rfl
    | split

theorem keep_dmaFillEff {t : Tid} (hk : Keep s0 s) :
    Keep s0 (dmaFillEff t s) := by
  unfold dmaFillEff
  try dsimp only
  repeat' with_reducible first
    | assumption
    | apply keep_bufWrite
    | apply keep_checked
    | apply keep_launch
    | apply keep_modTile
    | apply keep_startCmd
    | exact fun _ h => ⟨h.1, h.2, h.3, h.4, h.5, h.6, h.7, h.8, h.9, h.10, h.11, h.12⟩
    | (apply keep_ite <;> intro _)
    | intro _
    | dsimp only
    | split
    | (refine ⟨?_, ?_, ?_, ?_, ?_, ?_, ?_, ?_, ?_, ?_, ?_, ?_⟩ <;> try dsimp only)
    | apply TileMem.sdata
    | apply TileMem.buf
    | apply TileMem.side
    | apply TileMem.vreg0
    | apply TileMem.vreg1
    | apply TileMem.sregs
    | apply TileMem.store
    | apply TileMem.queues
    | apply TileMem.groups
    | apply TileMem.acc
    | apply TileMem.regions
    | apply TileMem.crossings

theorem keep_dmaCopyEff {t : Tid} {errs : List MemErr} (hk : Keep s0 s) :
    Keep s0 (dmaCopyEff t errs s) := by
  unfold dmaCopyEff
  try dsimp only
  repeat' with_reducible first
    | assumption
    | apply keep_bufReads
    | apply keep_checked
    | apply keep_launch
    | apply keep_modTile
    | apply keep_startCmd
    | apply keep_bufWrite
    | exact fun _ h => ⟨h.1, h.2, h.3, h.4, h.5, h.6, h.7, h.8, h.9, h.10, h.11, h.12⟩
    | (apply keep_ite <;> intro _)
    | intro _
    | dsimp only
    | split
    | (refine ⟨?_, ?_, ?_, ?_, ?_, ?_, ?_, ?_, ?_, ?_, ?_, ?_⟩ <;> try dsimp only)
    | apply TileMem.sdata
    | apply TileMem.buf
    | apply TileMem.side
    | apply TileMem.vreg0
    | apply TileMem.vreg1
    | apply TileMem.sregs
    | apply TileMem.store
    | apply TileMem.queues
    | apply TileMem.groups
    | apply TileMem.acc
    | apply TileMem.regions
    | apply TileMem.crossings

/-! ## Machine/KvCmd.lean -/

theorem keep_releaseWindow {d : Nat} {rho : Nat} {n : Nat} {p : KvPlan} {pos : Nat} (hk : Keep s0 s) :
    Keep s0 (releaseWindow s d rho n p pos) := by
  unfold releaseWindow
  try dsimp only
  repeat' with_reducible first
    | assumption
    | apply keep_unmapPage
    | apply keep_setWalker
    | apply keep_forEach
    | apply kwf_filter
    | (apply keep_ite <;> intro _)
    | intro _
    | dsimp only
    | exact keep_of ‹Keep _ _› rfl rfl rfl rfl rfl rfl rfl rfl rfl
    | split

theorem keep_mapPage {d : Nat} {c : Nat} {slot : Nat} {layer : Nat} {n : Nat} {rho : Nat} {p : KvPlan} {vpn : Nat} (hk : Keep s0 s) :
    Keep s0 (mapPage s d c slot layer n rho p vpn) := by
  unfold mapPage
  try dsimp only
  repeat' with_reducible first
    | assumption
    | apply keep_takeFrame
    | apply keep_setWalker
    | apply keep_setL2
    | refine keep_optSnd (by assumption) ?_
    | (apply keep_ite <;> intro _)
    | intro _
    | dsimp only
    | exact keep_of ‹Keep _ _› rfl rfl rfl rfl rfl rfl rfl rfl rfl
    | split

theorem keep_takePositions {d c slot layer n rho : Nat} {p : KvPlan} {heads : List Nat} {pos fuel done : Nat}
    (hk : Keep s0 s) : Keep s0 (takePositions d c slot layer n rho p heads pos fuel done s).2 := by
  induction fuel generalizing done s with
  | zero => exact hk
  | succ k ih =>
    unfold takePositions
    split
    · exact hk
    · extract_lets pages
      split
      split
      · exact hk
      · exact ih (keep_forEach hk fun s v h => keep_mapPage h)

theorem keep_storeKv {t : Tid} {a : KvAt} {o : AppendOps} {stored : Nat} (hk : Keep s0 s) :
    Keep s0 (storeKv s t a o stored) := by
  unfold storeKv
  try dsimp only
  repeat' with_reducible first
    | assumption
    | apply keep_noteNum
    | apply keep_writeTail
    | apply keep_writeKey
    | apply keep_quantValueBlock
    | apply keep_forEach
    | (apply keep_ite <;> intro _)
    | intro _
    | dsimp only
    | exact keep_of ‹Keep _ _› rfl rfl rfl rfl rfl rfl rfl rfl rfl
    | split

theorem keep_closeRange {d : Nat} {a : KvAt} {o : AppendOps} {stored : Nat} (hk : Keep s0 s) :
    Keep s0 (closeRange s d a o stored) := by
  unfold closeRange
  try dsimp only
  repeat' with_reducible first
    | assumption
    | apply keep_setWalker
    | apply keep_quantValueBlock
    | apply keep_forEach
    | (apply keep_ite <;> intro _)
    | intro _
    | dsimp only
    | exact keep_of ‹Keep _ _› rfl rfl rfl rfl rfl rfl rfl rfl rfl
    | split

theorem keep_reportNoPage {t : Tid} {o : AppendOps} {stored : Nat} (hk : Keep s0 s) :
    Keep s0 (reportNoPage s t o stored) := by
  unfold reportNoPage
  try dsimp only
  repeat' with_reducible first
    | assumption
    | apply keep_logPut
    | apply keep_dinc
    | apply keep_modGroup
    | (apply keep_ite <;> intro _)
    | intro _
    | dsimp only
    | exact keep_of ‹Keep _ _› rfl rfl rfl rfl rfl rfl rfl rfl rfl
    | split

theorem keep_appendCut {d : Nat} {a : KvAt} {w : WRec} {pos : Nat} (hk : Keep s0 s) :
    Keep s0 (appendCut s d a w pos) := by
  unfold appendCut
  try dsimp only
  repeat' with_reducible first
    | assumption
    | apply keep_releaseWindow
    | apply keep_kvSetLen
    | (apply keep_ite <;> intro _)
    | intro _
    | dsimp only
    | split

theorem keep_walkerAccess {t : Tid} {c : QCmd} {addrs : List Nat} {ok : State → State} (h_ok : ∀ s1, Keep s0 s1 → Keep s0 (ok s1)) (hk : Keep s0 s) :
    Keep s0 (walkerAccess s t c addrs ok) := by
  unfold walkerAccess
  try dsimp only
  repeat' with_reducible first
    | assumption
    | apply keep_holdPlace
    | apply keep_pauseFor
    | apply keep_cmdTransFault
    | apply keep_transAll
    | refine keep_snd (by assumption) ?_
    | apply h_ok
    | (apply keep_ite <;> intro _)
    | intro _
    | dsimp only
    | exact keep_of ‹Keep _ _› rfl rfl rfl rfl rfl rfl rfl rfl rfl
    | split

theorem keep_kvAppendEff {t : Tid} {errs : List MemErr} (hk : Keep s0 s) :
    Keep s0 (kvAppendEff t errs s) := by
  unfold kvAppendEff
  try dsimp only
  repeat' with_reducible first
    | assumption
    | apply keep_reportNoPage
    | apply keep_checked
    | apply keep_startCmd
    | apply keep_holdPlace
    | apply keep_storeKv
    | apply keep_launch
    | apply keep_appendCut
    | apply keep_closeRange
    | apply keep_bufReads
    | apply keep_walkerAccess
    | apply keep_takePositions
    | apply keep_modTile
    | apply keep_transAll
    | apply keep_bufWrite
    | refine keep_snd (by assumption) ?_
    | apply kwf_filter
    | exact fun _ h => ⟨h.1, h.2, h.3, h.4, h.5, h.6, h.7, h.8, h.9, h.10, h.11, h.12⟩
    | (apply keep_ite <;> intro _)
    | intro _
    | dsimp only
    | exact keep_of ‹Keep _ _› rfl rfl rfl rfl rfl rfl rfl rfl rfl
    | split
    | (refine ⟨?_, ?_, ?_, ?_, ?_, ?_, ?_, ?_, ?_, ?_, ?_, ?_⟩ <;> try dsimp only)
    | apply TileMem.sdata
    | apply TileMem.buf
    | apply TileMem.side
    | apply TileMem.vreg0
    | apply TileMem.vreg1
    | apply TileMem.sregs
    | apply TileMem.store
    | apply TileMem.queues
    | apply TileMem.groups
    | apply TileMem.acc
    | apply TileMem.regions
    | apply TileMem.crossings

theorem keep_kvSetlenEff {t : Tid} (hk : Keep s0 s) :
    Keep s0 (kvSetlenEff t s) := by
  unfold kvSetlenEff
  try dsimp only
  repeat' with_reducible first
    | assumption
    | apply keep_walkerAccess
    | apply keep_kvSetLen
    | apply keep_checked
    | apply keep_launch
    | apply keep_startCmd
    | apply kwf_filter
    | (apply keep_ite <;> intro _)
    | intro _
    | dsimp only
    | exact keep_of ‹Keep _ _› rfl rfl rfl rfl rfl rfl rfl rfl rfl
    | split

theorem keep_kvFreeEff {t : Tid} (hk : Keep s0 s) :
    Keep s0 (kvFreeEff t s) := by
  unfold kvFreeEff
  try dsimp only
  repeat' with_reducible first
    | assumption
    | apply keep_holdPlace
    | apply keep_checked
    | apply keep_launch
    | apply keep_freeRange
    | apply keep_startCmd
    | (apply keep_ite <;> intro _)
    | intro _
    | dsimp only
    | exact keep_of ‹Keep _ _› rfl rfl rfl rfl rfl rfl rfl rfl rfl
    | split

/-! ## Machine/Pace.lean -/

theorem keep_setStep {t : Tid} {n : Nat} (hk : Keep s0 s) :
    Keep s0 (setStep s t n) := by
  unfold setStep
  try dsimp only
  repeat' with_reducible first
    | assumption
    | apply keep_tset
    | apply keep_ctrInc
    | (apply keep_ite <;> intro _)
    | intro _
    | dsimp only
    | split

theorem keep_enforceCaps {t : Tid} (hk : Keep s0 s) :
    Keep s0 (enforceCaps s t) := by
  unfold enforceCaps
  try dsimp only
  repeat' with_reducible first
    | assumption
    | apply keep_setStep
    | apply keep_raise
    | apply keep_modTile
    | apply keep_post
    | exact fun _ h => ⟨h.1, h.2, h.3, h.4, h.5, h.6, h.7, h.8, h.9, h.10, h.11, h.12⟩
    | (apply keep_ite <;> intro _)
    | intro _
    | dsimp only
    | exact keep_of ‹Keep _ _› rfl rfl rfl rfl rfl rfl rfl rfl rfl
    | split
    | (refine ⟨?_, ?_, ?_, ?_, ?_, ?_, ?_, ?_, ?_, ?_, ?_, ?_⟩ <;> try dsimp only)
    | apply TileMem.sdata
    | apply TileMem.buf
    | apply TileMem.side
    | apply TileMem.vreg0
    | apply TileMem.vreg1
    | apply TileMem.sregs
    | apply TileMem.store
    | apply TileMem.queues
    | apply TileMem.groups
    | apply TileMem.acc
    | apply TileMem.regions
    | apply TileMem.crossings

theorem keep_withCaps {t : Tid} {f : Caps → Caps} (hk : Keep s0 s) :
    Keep s0 (withCaps s t f) := by
  unfold withCaps
  try dsimp only
  repeat' with_reducible first
    | assumption
    | apply keep_enforceCaps
    | apply keep_modTile
    | exact fun _ h => ⟨h.1, h.2, h.3, h.4, h.5, h.6, h.7, h.8, h.9, h.10, h.11, h.12⟩
    | (apply keep_ite <;> intro _)
    | intro _
    | dsimp only
    | exact keep_of ‹Keep _ _› rfl rfl rfl rfl rfl rfl rfl rfl rfl
    | split
    | (refine ⟨?_, ?_, ?_, ?_, ?_, ?_, ?_, ?_, ?_, ?_, ?_, ?_⟩ <;> try dsimp only)
    | apply TileMem.sdata
    | apply TileMem.buf
    | apply TileMem.side
    | apply TileMem.vreg0
    | apply TileMem.vreg1
    | apply TileMem.sregs
    | apply TileMem.store
    | apply TileMem.queues
    | apply TileMem.groups
    | apply TileMem.acc
    | apply TileMem.regions
    | apply TileMem.crossings

theorem keep_paceStepChangeEff {t : Tid} (hk : Keep s0 s) :
    Keep s0 (paceStepChangeEff t s) := by
  unfold paceStepChangeEff
  try dsimp only
  repeat' with_reducible first
    | assumption
    | apply keep_raise
    | apply keep_modTile
    | apply keep_setStep
    | exact fun _ h => ⟨h.1, h.2, h.3, h.4, h.5, h.6, h.7, h.8, h.9, h.10, h.11, h.12⟩
    | (apply keep_ite <;> intro _)
    | intro _
    | dsimp only
    | exact keep_of ‹Keep _ _› rfl rfl rfl rfl rfl rfl rfl rfl rfl
    | split
    | (refine ⟨?_, ?_, ?_, ?_, ?_, ?_, ?_, ?_, ?_, ?_, ?_, ?_⟩ <;> try dsimp only)
    | apply TileMem.sdata
    | apply TileMem.buf
    | apply TileMem.side
    | apply TileMem.vreg0
    | apply TileMem.vreg1
    | apply TileMem.sregs
    | apply TileMem.store
    | apply TileMem.queues
    | apply TileMem.groups
    | apply TileMem.acc
    | apply TileMem.regions
    | apply TileMem.crossings

theorem keep_mittenSettledEff {t : Tid} (hk : Keep s0 s) :
    Keep s0 (mittenSettledEff t s) := by
  unfold mittenSettledEff
  try dsimp only
  repeat' with_reducible first
    | assumption
    | apply keep_modTile
    | exact fun _ h => ⟨h.1, h.2, h.3, h.4, h.5, h.6, h.7, h.8, h.9, h.10, h.11, h.12⟩
    | (apply keep_ite <;> intro _)
    | intro _
    | dsimp only
    | exact keep_of ‹Keep _ _› rfl rfl rfl rfl rfl rfl rfl rfl rfl
    | split
    | (refine ⟨?_, ?_, ?_, ?_, ?_, ?_, ?_, ?_, ?_, ?_, ?_, ?_⟩ <;> try dsimp only)
    | apply TileMem.sdata
    | apply TileMem.buf
    | apply TileMem.side
    | apply TileMem.vreg0
    | apply TileMem.vreg1
    | apply TileMem.sregs
    | apply TileMem.store
    | apply TileMem.queues
    | apply TileMem.groups
    | apply TileMem.acc
    | apply TileMem.regions
    | apply TileMem.crossings

theorem keep_stretchBeginEff {t : Tid} {droopMv : Nat} (hk : Keep s0 s) :
    Keep s0 (stretchBeginEff t droopMv s) := by
  unfold stretchBeginEff
  try dsimp only
  repeat' with_reducible first
    | assumption
    | apply keep_modTile
    | apply keep_tinc
    | exact fun _ h => ⟨h.1, h.2, h.3, h.4, h.5, h.6, h.7, h.8, h.9, h.10, h.11, h.12⟩
    | (apply keep_ite <;> intro _)
    | intro _
    | dsimp only
    | exact keep_of ‹Keep _ _› rfl rfl rfl rfl rfl rfl rfl rfl rfl
    | split
    | (refine ⟨?_, ?_, ?_, ?_, ?_, ?_, ?_, ?_, ?_, ?_, ?_, ?_⟩ <;> try dsimp only)
    | apply TileMem.sdata
    | apply TileMem.buf
    | apply TileMem.side
    | apply TileMem.vreg0
    | apply TileMem.vreg1
    | apply TileMem.sregs
    | apply TileMem.store
    | apply TileMem.queues
    | apply TileMem.groups
    | apply TileMem.acc
    | apply TileMem.regions
    | apply TileMem.crossings

theorem keep_stretchEndEff {t : Tid} {waves : Nat} (hk : Keep s0 s) :
    Keep s0 (stretchEndEff t waves s) := by
  unfold stretchEndEff
  try dsimp only
  repeat' with_reducible first
    | assumption
    | apply keep_modTile
    | apply keep_tinc
    | apply keep_post
    | exact fun _ h => ⟨h.1, h.2, h.3, h.4, h.5, h.6, h.7, h.8, h.9, h.10, h.11, h.12⟩
    | (apply keep_ite <;> intro _)
    | intro _
    | dsimp only
    | exact keep_of ‹Keep _ _› rfl rfl rfl rfl rfl rfl rfl rfl rfl
    | split
    | (refine ⟨?_, ?_, ?_, ?_, ?_, ?_, ?_, ?_, ?_, ?_, ?_, ?_⟩ <;> try dsimp only)
    | apply TileMem.sdata
    | apply TileMem.buf
    | apply TileMem.side
    | apply TileMem.vreg0
    | apply TileMem.vreg1
    | apply TileMem.sregs
    | apply TileMem.store
    | apply TileMem.queues
    | apply TileMem.groups
    | apply TileMem.acc
    | apply TileMem.regions
    | apply TileMem.crossings

theorem keep_governorTrimEff {t : Tid} {rate : BitVec 12} (hk : Keep s0 s) :
    Keep s0 (governorTrimEff t rate s) := by
  unfold governorTrimEff
  try dsimp only
  repeat' with_reducible first
    | assumption
    | apply keep_modTile
    | exact fun _ h => ⟨h.1, h.2, h.3, h.4, h.5, h.6, h.7, h.8, h.9, h.10, h.11, h.12⟩
    | (apply keep_ite <;> intro _)
    | intro _
    | dsimp only
    | exact keep_of ‹Keep _ _› rfl rfl rfl rfl rfl rfl rfl rfl rfl
    | split
    | (refine ⟨?_, ?_, ?_, ?_, ?_, ?_, ?_, ?_, ?_, ?_, ?_, ?_⟩ <;> try dsimp only)
    | apply TileMem.sdata
    | apply TileMem.buf
    | apply TileMem.side
    | apply TileMem.vreg0
    | apply TileMem.vreg1
    | apply TileMem.sregs
    | apply TileMem.store
    | apply TileMem.queues
    | apply TileMem.groups
    | apply TileMem.acc
    | apply TileMem.regions
    | apply TileMem.crossings

/-! ## Machine/Crossing.lean -/

theorem keep_beginSkid {p : Tid} (hk : Keep s0 s) :
    Keep s0 (beginSkid s p) := by
  unfold beginSkid
  try dsimp only
  repeat' with_reducible first
    | assumption
    | apply keep_modDie
    | apply keep_tinc
    | apply keep_ctrInc
    | apply kwf_kset
    | exact fun _ h => h
    | (apply keep_ite <;> intro _)
    | intro _
    | dsimp only
    | exact keep_of ‹Keep _ _› rfl rfl rfl rfl rfl rfl rfl rfl rfl
    | split

theorem keep_addStall {p : Tid} {since : Nat} (hk : Keep s0 s) :
    Keep s0 (addStall s p since) := by
  unfold addStall
  try dsimp only
  repeat' with_reducible first
    | assumption
    | apply keep_modTile
    | apply keep_tinc
    | exact fun _ h => ⟨h.1, h.2, h.3, h.4, h.5, h.6, h.7, h.8, h.9, h.10, h.11, h.12⟩
    | (apply keep_ite <;> intro _)
    | intro _
    | dsimp only
    | exact keep_of ‹Keep _ _› rfl rfl rfl rfl rfl rfl rfl rfl rfl
    | split
    | (refine ⟨?_, ?_, ?_, ?_, ?_, ?_, ?_, ?_, ?_, ?_, ?_, ?_⟩ <;> try dsimp only)
    | apply TileMem.sdata
    | apply TileMem.buf
    | apply TileMem.side
    | apply TileMem.vreg0
    | apply TileMem.vreg1
    | apply TileMem.sregs
    | apply TileMem.store
    | apply TileMem.queues
    | apply TileMem.groups
    | apply TileMem.acc
    | apply TileMem.regions
    | apply TileMem.crossings

theorem keep_endSkid {p : Tid} (hk : Keep s0 s) :
    Keep s0 (endSkid s p) := by
  unfold endSkid
  try dsimp only
  repeat' with_reducible first
    | assumption
    | apply keep_post
    | (apply keep_ite <;> intro _)
    | intro _
    | dsimp only
    | split

theorem keep_waitLoop {n : Tid} {i : Dir} {c : Crossing} (hk : Keep s0 s) :
    Keep s0 (waitLoop s n i c) := by
  unfold waitLoop
  try dsimp only
  repeat' with_reducible first
    | assumption
    | apply keep_modTile
    | apply keep_setCrossing
    | apply keep_dinc
    | apply kwf_kset
    | exact fun _ h => ⟨h.1, h.2, h.3, h.4, h.5, h.6, h.7, h.8, h.9, h.10, h.11, h.12⟩
    | (apply keep_ite <;> intro _)
    | intro _
    | dsimp only
    | exact keep_of ‹Keep _ _› rfl rfl rfl rfl rfl rfl rfl rfl rfl
    | split
    | (refine ⟨?_, ?_, ?_, ?_, ?_, ?_, ?_, ?_, ?_, ?_, ?_, ?_⟩ <;> try dsimp only)
    | apply TileMem.sdata
    | apply TileMem.buf
    | apply TileMem.side
    | apply TileMem.vreg0
    | apply TileMem.vreg1
    | apply TileMem.sregs
    | apply TileMem.store
    | apply TileMem.queues
    | apply TileMem.groups
    | apply TileMem.acc
    | apply TileMem.regions
    | apply TileMem.crossings

theorem keep_edgeSend {t : Tid} {d : Dir} {way : List Nat} (hk : Keep s0 s) :
    Keep s0 (edgeSend t d way s) := by
  unfold edgeSend
  try dsimp only
  repeat' with_reducible first
    | assumption
    | apply keep_waitLoop
    | apply keep_modTile
    | apply keep_setCrossing
    | apply keep_dinc
    | apply kwf_kset
    | exact fun _ h => ⟨h.1, h.2, h.3, h.4, h.5, h.6, h.7, h.8, h.9, h.10, h.11, h.12⟩
    | (apply keep_ite <;> intro _)
    | intro _
    | dsimp only
    | exact keep_of ‹Keep _ _› rfl rfl rfl rfl rfl rfl rfl rfl rfl
    | split
    | (refine ⟨?_, ?_, ?_, ?_, ?_, ?_, ?_, ?_, ?_, ?_, ?_, ?_⟩ <;> try dsimp only)
    | apply TileMem.sdata
    | apply TileMem.buf
    | apply TileMem.side
    | apply TileMem.vreg0
    | apply TileMem.vreg1
    | apply TileMem.sregs
    | apply TileMem.store
    | apply TileMem.queues
    | apply TileMem.groups
    | apply TileMem.acc
    | apply TileMem.regions
    | apply TileMem.crossings

theorem keep_lineSendEff {t : Tid} {d : Dir} {edge : List Nat} (hk : Keep s0 s) :
    Keep s0 (lineSendEff t d edge s) := by
  unfold lineSendEff
  try dsimp only
  repeat' with_reducible first
    | assumption
    | apply keep_beginSkid
    | apply keep_waitLoop
    | apply keep_edgeSend
    | apply keep_endSkid
    | apply keep_modTile
    | apply keep_setCrossing
    | apply keep_dinc
    | apply kwf_kset
    | exact fun _ h => ⟨h.1, h.2, h.3, h.4, h.5, h.6, h.7, h.8, h.9, h.10, h.11, h.12⟩
    | (apply keep_ite <;> intro _)
    | intro _
    | dsimp only
    | exact keep_of ‹Keep _ _› rfl rfl rfl rfl rfl rfl rfl rfl rfl
    | split
    | (refine ⟨?_, ?_, ?_, ?_, ?_, ?_, ?_, ?_, ?_, ?_, ?_, ?_⟩ <;> try dsimp only)
    | apply TileMem.sdata
    | apply TileMem.buf
    | apply TileMem.side
    | apply TileMem.vreg0
    | apply TileMem.vreg1
    | apply TileMem.sregs
    | apply TileMem.store
    | apply TileMem.queues
    | apply TileMem.groups
    | apply TileMem.acc
    | apply TileMem.regions
    | apply TileMem.crossings

theorem keep_lineArriveEff {t : Tid} {d : Dir} {edge : List Nat} (hk : Keep s0 s) :
    Keep s0 (lineArriveEff t d s) := by
  unfold lineArriveEff
  try dsimp only
  repeat' with_reducible first
    | assumption
    | apply keep_rmax
    | apply keep_setCrossing
    | (apply keep_ite <;> intro _)
    | intro _
    | dsimp only
    | exact keep_of ‹Keep _ _› rfl rfl rfl rfl rfl rfl rfl rfl rfl
    | split

theorem keep_creditReturnEff {t : Tid} {d : Dir} (hk : Keep s0 s) :
    Keep s0 (creditReturnEff t d s) := by
  unfold creditReturnEff
  try dsimp only
  repeat' with_reducible first
    | assumption
    | apply keep_endSkid
    | apply keep_routeLine
    | apply keep_addStall
    | apply keep_setCrossing
    | (apply keep_ite <;> intro _)
    | intro _
    | dsimp only
    | exact keep_of ‹Keep _ _› rfl rfl rfl rfl rfl rfl rfl rfl rfl
    | split

theorem keep_releaseLooped {t : Tid} {d : Dir} (hk : Keep s0 s) :
    Keep s0 (releaseLooped s t d) := by
  unfold releaseLooped
  try dsimp only
  repeat' with_reducible first
    | assumption
    | apply keep_setCrossing
    | (apply keep_ite <;> intro _)
    | intro _
    | dsimp only
    | exact keep_of ‹Keep _ _› rfl rfl rfl rfl rfl rfl rfl rfl rfl
    | split

theorem keep_skidRateEff {d : Fin 56} (hk : Keep s0 s) :
    Keep s0 (skidRateEff d s) := by
  unfold skidRateEff
  try dsimp only
  repeat' with_reducible first
    | assumption
    | apply keep_modDie
    | apply keep_logPut
    | exact fun _ h => h
    | (apply keep_ite <;> intro _)
    | intro _
    | dsimp only
    | exact keep_of ‹Keep _ _› rfl rfl rfl rfl rfl rfl rfl rfl rfl
    | split

/-! ## Machine/Storm.lean -/

theorem keep_clearStorm {d : Fin 56} (hk : Keep s0 s) :
    Keep s0 (clearStorm s d) := by
  unfold clearStorm
  try dsimp only
  repeat' with_reducible first
    | assumption
    | apply keep_logPut
    | apply keep_modTile
    | apply keep_dset
    | apply keep_forEach
    | exact fun _ h => ⟨h.1, h.2, h.3, h.4, h.5, h.6, h.7, h.8, h.9, h.10, h.11, h.12⟩
    | (apply keep_ite <;> intro _)
    | intro _
    | dsimp only
    | exact keep_of ‹Keep _ _› rfl rfl rfl rfl rfl rfl rfl rfl rfl
    | split
    | (refine ⟨?_, ?_, ?_, ?_, ?_, ?_, ?_, ?_, ?_, ?_, ?_, ?_⟩ <;> try dsimp only)
    | apply TileMem.sdata
    | apply TileMem.buf
    | apply TileMem.side
    | apply TileMem.vreg0
    | apply TileMem.vreg1
    | apply TileMem.sregs
    | apply TileMem.store
    | apply TileMem.queues
    | apply TileMem.groups
    | apply TileMem.acc
    | apply TileMem.regions
    | apply TileMem.crossings

theorem keep_leaveEpisode {t : Tid} (hk : Keep s0 s) :
    Keep s0 (leaveEpisode s t) := by
  unfold leaveEpisode
  try dsimp only
  repeat' with_reducible first
    | assumption
    | apply keep_clearStorm
    | apply keep_modTile
    | exact fun _ h => ⟨h.1, h.2, h.3, h.4, h.5, h.6, h.7, h.8, h.9, h.10, h.11, h.12⟩
    | (apply keep_ite <;> intro _)
    | intro _
    | dsimp only
    | exact keep_of ‹Keep _ _› rfl rfl rfl rfl rfl rfl rfl rfl rfl
    | split
    | (refine ⟨?_, ?_, ?_, ?_, ?_, ?_, ?_, ?_, ?_, ?_, ?_, ?_⟩ <;> try dsimp only)
    | apply TileMem.sdata
    | apply TileMem.buf
    | apply TileMem.side
    | apply TileMem.vreg0
    | apply TileMem.vreg1
    | apply TileMem.sregs
    | apply TileMem.store
    | apply TileMem.queues
    | apply TileMem.groups
    | apply TileMem.acc
    | apply TileMem.regions
    | apply TileMem.crossings

theorem keep_freshWindow {t : Tid} (hk : Keep s0 s) :
    Keep s0 (freshWindow s t) := by
  unfold freshWindow
  try dsimp only
  repeat' with_reducible first
    | assumption
    | apply keep_modTile
    | exact fun _ h => ⟨h.1, h.2, h.3, h.4, h.5, h.6, h.7, h.8, h.9, h.10, h.11, h.12⟩
    | (apply keep_ite <;> intro _)
    | intro _
    | dsimp only
    | exact keep_of ‹Keep _ _› rfl rfl rfl rfl rfl rfl rfl rfl rfl
    | split
    | (refine ⟨?_, ?_, ?_, ?_, ?_, ?_, ?_, ?_, ?_, ?_, ?_, ?_⟩ <;> try dsimp only)
    | apply TileMem.sdata
    | apply TileMem.buf
    | apply TileMem.side
    | apply TileMem.vreg0
    | apply TileMem.vreg1
    | apply TileMem.sregs
    | apply TileMem.store
    | apply TileMem.queues
    | apply TileMem.groups
    | apply TileMem.acc
    | apply TileMem.regions
    | apply TileMem.crossings

theorem keep_stormWindow {t : Tid} {fraction : Nat} (hk : Keep s0 s) :
    Keep s0 (stormWindow s t fraction) := by
  unfold stormWindow
  try dsimp only
  repeat' with_reducible first
    | assumption
    | apply keep_modDie
    | apply keep_logPut
    | apply keep_modTile
    | apply keep_dset
    | apply keep_dinc
    | apply keep_forEach
    | exact fun _ h => ⟨h.1, h.2, h.3, h.4, h.5, h.6, h.7, h.8, h.9, h.10, h.11, h.12⟩
    | exact fun _ h => h
    | (apply keep_ite <;> intro _)
    | intro _
    | dsimp only
    | exact keep_of ‹Keep _ _› rfl rfl rfl rfl rfl rfl rfl rfl rfl
    | split
    | (refine ⟨?_, ?_, ?_, ?_, ?_, ?_, ?_, ?_, ?_, ?_, ?_, ?_⟩ <;> try dsimp only)
    | apply TileMem.sdata
    | apply TileMem.buf
    | apply TileMem.side
    | apply TileMem.vreg0
    | apply TileMem.vreg1
    | apply TileMem.sregs
    | apply TileMem.store
    | apply TileMem.queues
    | apply TileMem.groups
    | apply TileMem.acc
    | apply TileMem.regions
    | apply TileMem.crossings

theorem keep_stormWindowEff {t : Tid} (hk : Keep s0 s) :
    Keep s0 (stormWindowEff t s) := by
  unfold stormWindowEff
  try dsimp only
  repeat' with_reducible first
    | assumption
    | apply keep_freshWindow
    | apply keep_clearStorm
    | apply keep_tset
    | apply keep_modTile
    | apply keep_stormWindow
    | apply keep_post
    | exact fun _ h => ⟨h.1, h.2, h.3, h.4, h.5, h.6, h.7, h.8, h.9, h.10, h.11, h.12⟩
    | (apply keep_ite <;> intro _)
    | intro _
    | dsimp only
    | exact keep_of ‹Keep _ _› rfl rfl rfl rfl rfl rfl rfl rfl rfl
    | split
    | (refine ⟨?_, ?_, ?_, ?_, ?_, ?_, ?_, ?_, ?_, ?_, ?_, ?_⟩ <;> try dsimp only)
    | apply TileMem.sdata
    | apply TileMem.buf
    | apply TileMem.side
    | apply TileMem.vreg0
    | apply TileMem.vreg1
    | apply TileMem.sregs
    | apply TileMem.store
    | apply TileMem.queues
    | apply TileMem.groups
    | apply TileMem.acc
    | apply TileMem.regions
    | apply TileMem.crossings

end Sys2Proof.Machine
end

