-- ==== Sys2Proof/Laws/Operands.lean ====
section
/-! SUPPORT. Laws of the operands of the sequencer: registers and predicates after a write (R118), what going on
and jumping leave, queues after a change, and little-endian bytes. -/
namespace Sys2Proof.Machine

variable {ts : TileState} {r q : BitVec 5} {v : DWord} {b : Bool}

/-! ## Scalar registers -/

/-- s0 reads 0 whatever was written to it. -/
@[simp] theorem sregGet_zero : sregGet ts 0 = 0 := rfl

theorem sregGet_sregSet_self (h : kwf zeroD ts.sregs = true) : sregGet (sregSet ts r v) r = if r = 0 then 0 else v := by
  unfold sregGet sregSet
  by_cases hr : r = 0
  · simp [hr]
  · simp only [hr, if_false]
    exact kget_kset_self h

theorem sregGet_sregSet_ne (h : q ≠ r) : sregGet (sregSet ts r v) q = sregGet ts q := by
  unfold sregGet sregSet
  by_cases hr : r = 0
  · simp [hr]
  · by_cases hq : q = 0
    · simp [hq]
    · simp only [hr, hq, if_false]
      exact kget_kset_ne fun e => h (BitVec.eq_of_toNat_eq e)

/-- A register write leaves the rest of the tile. -/
theorem sregSet_same : ∃ l, sregSet ts r v = { ts with sregs := l } := by
  unfold sregSet
  split
  · exact ⟨ts.sregs, rfl⟩
  · exact ⟨_, rfl⟩

@[simp] theorem sregSet_pc : (sregSet ts r v).pc = ts.pc := by obtain ⟨l, h⟩ := @sregSet_same ts r v; rw [h]
@[simp] theorem sregSet_waves : (sregSet ts r v).waves = ts.waves := by obtain ⟨l, h⟩ := @sregSet_same ts r v; rw [h]
@[simp] theorem sregSet_sdata : (sregSet ts r v).sdata = ts.sdata := by obtain ⟨l, h⟩ := @sregSet_same ts r v; rw [h]
@[simp] theorem sregSet_preds : (sregSet ts r v).preds = ts.preds := by obtain ⟨l, h⟩ := @sregSet_same ts r v; rw [h]

/-! ## Predicates -/

/-- p0 reads 1 whatever was written to it. -/
@[simp] theorem predGet_zero : predGet ts 0 = true := rfl

theorem bit_mask {p i : Nat} (hp : p ≤ 7) (hi : i ≤ 7) : (BitVec.ofNat 8 (2 ^ p)).getLsbD i = decide (p = i) := by
  have : ∀ a b : Fin 8, (BitVec.ofNat 8 (2 ^ a.val)).getLsbD b.val = decide (a.val = b.val) := by decide
  exact this ⟨p, by omega⟩ ⟨i, by omega⟩

theorem predGet_predSet_self {p : Nat} (h : p ≤ 7) : predGet (predSet ts p b) p = if p = 0 then true else b := by
  unfold predGet predSet
  by_cases hp : p = 0
  · simp [hp]
  · have hm := bit_mask h h
    have h8 : p < 8 := by omega
    generalize BitVec.ofNat 8 (2 ^ p) = m at hm ⊢
    cases b <;> simp_all

theorem predGet_predSet_ne {p i : Nat} (hp : p ≤ 7) (hi : i ≤ 7) (h : i ≠ p) :
    predGet (predSet ts p b) i = predGet ts i := by
  unfold predGet predSet
  by_cases h0 : p = 0
  · simp [h0]
  · have hm := bit_mask hp hi
    have hne : p ≠ i := fun e => h e.symm
    have h8 : i < 8 := by omega
    by_cases hi0 : i = 0
    · simp [hi0]
    · generalize BitVec.ofNat 8 (2 ^ p) = m at hm ⊢
      cases b <;> simp_all

@[simp] theorem predSet_pc {p : Nat} : (predSet ts p b).pc = ts.pc := by unfold predSet; split <;> rfl
@[simp] theorem predSet_sregs {p : Nat} : (predSet ts p b).sregs = ts.sregs := by unfold predSet; split <;> rfl
@[simp] theorem predSet_sdata {p : Nat} : (predSet ts p b).sdata = ts.sdata := by unfold predSet; split <;> rfl

/-! ## Going on and jumping -/

@[simp] theorem advance_pc {n : Nat} : (advance ts n).pc = ts.pc + 1 := rfl
@[simp] theorem advance_waves {n : Nat} : (advance ts n).waves = ts.waves + BitVec.ofNat 64 n := rfl
@[simp] theorem advance_sdata {n : Nat} : (advance ts n).sdata = ts.sdata := rfl
@[simp] theorem advance_store {n : Nat} : (advance ts n).store = ts.store := rfl
@[simp] theorem advance_queues {n : Nat} : (advance ts n).queues = ts.queues := rfl
@[simp] theorem advance_sregGet {n : Nat} : sregGet (advance ts n) r = sregGet ts r := rfl
@[simp] theorem advance_predGet {n p : Nat} : predGet (advance ts n) p = predGet ts p := rfl
@[simp] theorem jump_pc {n : Nat} {x : BitVec 17} : (jump ts x n).pc = x := rfl
@[simp] theorem jump_waves {n : Nat} {x : BitVec 17} : (jump ts x n).waves = ts.waves + BitVec.ofNat 64 n := rfl
@[simp] theorem jump_sregGet {n : Nat} {x : BitVec 17} : sregGet (jump ts x n) r = sregGet ts r := rfl

/-! ## One instruction -/

/-- An instruction that issues, is encoded as its row and has a true guard acts as its body says. -/
theorem geckoExec_runs {op : Nat} {s : State} {t : Tid} {w : GWord} {f : State → State} (hi : canIssue s t = true)
    (hl : geckoOps.contains op = true) (ho : w.op.toNat = op) (he : encodingOk (tileOf s t) w = true)
    (hg : guardOk (tileOf s t) w = true) : geckoExec op s t w f = f s := by
  unfold geckoExec
  rw [ho]
  rw [hl]
  simp [hi, he, hg]

/-- With a false guard it takes one wave and nothing else (R124). -/
theorem geckoExec_skips {op : Nat} {s : State} {t : Tid} {w : GWord} {f : State → State} (hi : canIssue s t = true)
    (hl : geckoOps.contains op = true) (ho : w.op.toNat = op) (he : encodingOk (tileOf s t) w = true)
    (hg : guardOk (tileOf s t) w = false) : geckoExec op s t w f = modTile s t (advance · 1) := by
  unfold geckoExec
  rw [ho]
  rw [hl]
  simp [hi, he, hg]

/-! ## Little-endian bytes (R10) -/

theorem leBytes_length {n v : Nat} : (leBytes n v).length = n := by
  induction n generalizing v with
  | zero => rfl
  | succ k ih => simp [leBytes, ih]

theorem leNat_leBytes {n v : Nat} : leNat (leBytes n v) = v % 256 ^ n := by
  induction n generalizing v with
  | zero => simp [leBytes, leNat, Nat.mod_one]
  | succ k ih =>
    have h : (BitVec.ofNat 8 (v % 256)).toNat = v % 256 := by simp
    rw [leBytes, leNat, ih, h, Nat.pow_succ, Nat.mul_comm (256 ^ k) 256, Nat.mod_mul]

end Sys2Proof.Machine
end

