-- ==== Sys2Proof/Laws/Engine.lean ====
section
/-! SUPPORT. What the work of an engine leaves: the queues and the commands in flight of every tile. A command that
passes its checks leaves its queue and joins the commands in flight (R41, R135). -/
namespace Sys2Proof.Machine

/-- A tile with the queues, the commands in flight and the run bits of `x`. -/
structure TileQ (x ts : TileState) : Prop where
  queues : ts.queues = x.queues
  inflight : ts.inflight = x.inflight
  running : ts.running = x.running
  qstop : ts.qstop = x.qstop

/-- Every tile of `s` has the queues, the commands in flight and the run bits that it has in `s0`. -/
structure Still (s0 s : State) : Prop where
  tiles : kwf blankTile s.tiles = true
  same : ∀ t, TileQ (tileOf s0 t) (tileOf s t)

theorem Still.refl {s : State} (h : kwf blankTile s.tiles = true) : Still s s := ⟨h, fun _ => ⟨rfl, rfl, rfl, rfl⟩⟩

variable {s0 s : State}

theorem still_ite {c : Prop} [Decidable c] {a b : State} (ha : c → Still s0 a) (hb : ¬c → Still s0 b) :
    Still s0 (if c then a else b) := by
  split
  · next h => exact ha h
  · next h => exact hb h

theorem still_forEach {α : Type} {l : List α} {f : State → α → State} (h : Still s0 s)
    (hf : ∀ s a, Still s0 s → Still s0 (f s a)) : Still s0 (forEach l s f) := by
  unfold forEach
  induction l generalizing s with
  | nil => exact h
  | cons x r ih => exact ih (hf s x h)

theorem still_foldl {α : Type} {l : List α} {f : State → α → State} (h : Still s0 s)
    (hf : ∀ s a, Still s0 s → Still s0 (f s a)) : Still s0 (l.foldl f s) := still_forEach h hf

theorem still_foldSnd {α β : Type} {l : List α} {f : β × State → α → β × State} {b : β} (h : Still s0 s)
    (hf : ∀ a x, Still s0 a.2 → Still s0 (f a x).2) : Still s0 (l.foldl f (b, s)).2 :=
  foldl_inv (P := fun a : β × State => Still s0 a.2) h hf

theorem still_snd {α : Type} {p : α × State} {a : α} {t : State} (e : p = (a, t)) (h : Still s0 p.2) : Still s0 t := by
  subst e; exact h

theorem still_fst {α : Type} {p : State × α} {a : α} {t : State} (e : p = (t, a)) (h : Still s0 p.1) : Still s0 t := by
  subst e; exact h

theorem still_opt {o : Option State} {t : State} (e : o = some t) (h : ∀ z, o = some z → Still s0 z) : Still s0 t :=
  h t e

theorem still_optSnd {α : Type} {o : Option (α × State)} {a : α} {t : State} (e : o = some (a, t))
    (h : ∀ z, o = some z → Still s0 z.2) : Still s0 t := h _ e

theorem tileQ_foldl {α : Type} {l : List α} {f : TileState → α → TileState} {ts x : TileState} (h : TileQ x ts)
    (hf : ∀ ts a, TileQ x ts → TileQ x (f ts a)) : TileQ x (l.foldl f ts) :=
  foldl_inv (P := fun ts => TileQ x ts) h hf

theorem still_of {t : State} (h : Still s0 s) (ht : t.tiles = s.tiles) : Still s0 t :=
  ⟨ht ▸ h.tiles, fun k => by
    have : tileOf t k = tileOf s k := by unfold tileOf; rw [ht]
    rw [this]; exact h.same k⟩

theorem still_setTile {t : Tid} {v : TileState} (h : Still s0 s)
    (hv : TileQ (tileOf s0 t) v) : Still s0 (setTile s t v) := by
  refine ⟨kwf_kset h.tiles, fun k => ?_⟩
  by_cases e : k = t
  · subst e; rw [tileOf_setTile_self h.tiles]; exact hv
  · rw [tileOf_setTile_ne e]; exact h.same k

theorem still_modTile {t : Tid} {f : TileState → TileState} (h : Still s0 s)
    (hf : ∀ x ts, TileQ x ts → TileQ x (f ts)) : Still s0 (modTile s t f) :=
  still_setTile h (hf _ _ (h.same t))

theorem still_setDie {d : Nat} {v : DieState} (h : Still s0 s) : Still s0 (setDie s d v) := still_of h rfl
theorem still_modDie {d : Nat} {f : DieState → DieState} (h : Still s0 s) : Still s0 (modDie s d f) := still_of h rfl
theorem still_setPort {p : Nat} {v : PortState} (h : Still s0 s) : Still s0 (setPort s p v) := still_of h rfl
theorem still_modPort {p : Nat} {f : PortState → PortState} (h : Still s0 s) : Still s0 (modPort s p f) := still_of h rfl
theorem still_modServing {f : Serving → Serving} (h : Still s0 s) : Still s0 (modServing s f) := still_of h rfl
theorem still_modPlane {f : Plane → Plane} (h : Still s0 s) : Still s0 (modPlane s f) := still_of h rfl
theorem still_modPlant {f : Plant → Plant} (h : Still s0 s) : Still s0 (modPlant s f) := still_of h rfl
theorem still_modPins {f : Pins → Pins} (h : Still s0 s) : Still s0 (modPins s f) := still_of h rfl
theorem still_modTime {f : Timebase → Timebase} (h : Still s0 s) : Still s0 (modTime s f) := still_of h rfl
theorem still_modLoader {f : Loader → Loader} (h : Still s0 s) : Still s0 (modLoader s f) := still_of h rfl
theorem still_modStore {f : Store → Store} (h : Still s0 s) : Still s0 (modStore s f) := still_of h rfl
theorem still_send {o : Out} (h : Still s0 s) : Still s0 (send s o) := still_of h rfl
theorem still_post {m : CtrlMsg} (h : Still s0 s) : Still s0 (post s m) := still_of h rfl
theorem still_setCtx {c : Nat} {v : Option Context} (h : Still s0 s) : Still s0 (setCtx s c v) := still_of h rfl
theorem still_modCtx {c : Nat} {f : Context → Context} (h : Still s0 s) : Still s0 (modCtx s c f) := still_of h rfl
theorem still_bumpFree (h : Still s0 s) : Still s0 (bumpFree s) := still_of h rfl
theorem still_rset {d t : Nat} {f : Fld} {v : Nat} (h : Still s0 s) : Still s0 (rset s d t f v) := still_of h rfl
theorem still_rinc {d t : Nat} {f : Fld} {n : Nat} (h : Still s0 s) : Still s0 (rinc s d t f n) := still_of h rfl
theorem still_rmax {d t : Nat} {f : Fld} {n : Nat} (h : Still s0 s) : Still s0 (rmax s d t f n) := still_of h rfl
theorem still_tset {t : Tid} {f : Fld} {v : Nat} (h : Still s0 s) : Still s0 (tset s t f v) := still_of h rfl
theorem still_tinc {t : Tid} {f : Fld} {n : Nat} (h : Still s0 s) : Still s0 (tinc s t f n) := still_of h rfl
theorem still_dset {d : Nat} {f : Fld} {v : Nat} (h : Still s0 s) : Still s0 (dset s d f v) := still_of h rfl
theorem still_dinc {d : Nat} {f : Fld} {n : Nat} (h : Still s0 s) : Still s0 (dinc s d f n) := still_of h rfl
theorem still_pset {f : Fld} {v : Nat} (h : Still s0 s) : Still s0 (pset s f v) := still_of h rfl
theorem still_pinc {f : Fld} {n : Nat} (h : Still s0 s) : Still s0 (pinc s f n) := still_of h rfl
theorem still_portSet {p : Nat} {f : Fld} {v : Nat} (h : Still s0 s) : Still s0 (portSet s p f v) := still_of h rfl
theorem still_portInc {p : Nat} {f : Fld} {n : Nat} (h : Still s0 s) : Still s0 (portInc s p f n) := still_of h rfl
theorem still_ctrSet {t : Tid} {n : Nat} {v : Word} (h : Still s0 s) : Still s0 (ctrSet s t n v) := still_of h rfl
theorem still_ctrInc {t : Tid} {n : Nat} {v : Word} (h : Still s0 s) : Still s0 (ctrInc s t n v) := still_of h rfl
theorem still_logRec {e : LogRec} (h : Still s0 s) : Still s0 (logRec s e) := still_of h logRec_tiles
theorem still_logPut {c v : Nat} {src : LogSrc} {a b e : Nat} (h : Still s0 s) : Still s0 (logPut s c v src a b e) := still_logRec h
theorem still_rmAdd {a b c e : Nat} (h : Still s0 s) : Still s0 (rmAdd s a b c e) := by
  unfold rmAdd
  apply still_ite <;> intro _
  · exact still_logPut (still_modStore h)
  · exact still_modStore h
theorem still_rmDrop {p : RmEntry → Bool} (h : Still s0 s) : Still s0 (rmDrop s p) :=
  still_ite (fun _ => still_modStore h) (fun _ => h)

theorem still_sregSet {ts : TileState} {x0 : TileState} {r : BitVec 5} {v : DWord} (hk : TileQ x0 ts) :
    TileQ x0 (sregSet ts r v) := by
  unfold sregSet
  try dsimp only
  repeat' with_reducible first
    | assumption
    | apply kwf_kset
    | exact fun _ _ h => ⟨h.1, h.2, h.3, h.4⟩
    | (apply still_ite <;> intro _)
    | intro _
    | dsimp only
    | split
    | apply TileQ.queues
    | apply TileQ.inflight
    | apply TileQ.running
    | apply TileQ.qstop
    | exact ⟨‹TileQ _ _›.queues, ‹TileQ _ _›.inflight, ‹TileQ _ _›.running, ‹TileQ _ _›.qstop⟩
    | (refine ⟨?_, ?_, ?_, ?_⟩ <;> try dsimp only)

theorem still_predSet {ts : TileState} {x0 : TileState} {p : Nat} {v : Bool} (hk : TileQ x0 ts) :
    TileQ x0 (predSet ts p v) := by
  unfold predSet
  try dsimp only
  repeat' with_reducible first
    | assumption
    | exact fun _ _ h => ⟨h.1, h.2, h.3, h.4⟩
    | (apply still_ite <;> intro _)
    | intro _
    | dsimp only
    | split
    | apply TileQ.queues
    | apply TileQ.inflight
    | apply TileQ.running
    | apply TileQ.qstop
    | exact ⟨‹TileQ _ _›.queues, ‹TileQ _ _›.inflight, ‹TileQ _ _›.running, ‹TileQ _ _›.qstop⟩
    | (refine ⟨?_, ?_, ?_, ?_⟩ <;> try dsimp only)

theorem still_raise {t : Tid} {f : Fld} (hk : Still s0 s) :
    Still s0 (raise s t f) := by
  unfold raise
  try dsimp only
  repeat' with_reducible first
    | assumption
    | apply still_tset
    | (apply still_ite <;> intro _)
    | intro _
    | dsimp only
    | split

theorem still_setFaultInfo {t : Tid} {counter : Nat} {kind : Nat} {slot : Nat} (hk : Still s0 s) :
    Still s0 (setFaultInfo s t counter kind slot) := by
  unfold setFaultInfo
  try dsimp only
  repeat' with_reducible first
    | assumption
    | apply still_tset
    | (apply still_ite <;> intro _)
    | intro _
    | dsimp only
    | split

theorem still_flagIf {t : Tid} {f : Fld} {n : Nat} (hk : Still s0 s) :
    Still s0 (flagIf s t f n) := by
  unfold flagIf
  try dsimp only
  repeat' with_reducible first
    | assumption
    | apply still_tset
    | (apply still_ite <;> intro _)
    | intro _
    | dsimp only
    | split

theorem still_noteNum {t : Tid} {e : NumEv} (hk : Still s0 s) :
    Still s0 (noteNum s t e) := by
  unfold noteNum
  try dsimp only
  repeat' with_reducible first
    | assumption
    | apply still_tinc
    | apply still_flagIf
    | (apply still_ite <;> intro _)
    | intro _
    | dsimp only
    | split

theorem still_setFrame {d : Nat} {f : Nat} {r : Option FrameRec} (hk : Still s0 s) :
    Still s0 (setFrame s d f r) := by
  unfold setFrame
  try dsimp only
  repeat' with_reducible first
    | assumption
    | apply still_modDie
    | apply kwf_kset
    | exact fun _ h => h
    | (apply still_ite <;> intro _)
    | intro _
    | dsimp only
    | exact still_of ‹Still _ _› rfl
    | split

theorem still_takeFrame {d : Nat} {r : FrameRec} (hk : Still s0 s) :
    ∀ z, takeFrame s d r = some z → Still s0 z.2 := by
  intro z hz
  unfold takeFrame at hz
  split at hz
  · cases hz
  · cases hz; exact still_setFrame (still_modDie hk)

theorem still_setL2 {d : Nat} {vpn : Nat} {e : DWord} (hk : Still s0 s) :
    Still s0 (setL2 s d vpn e) := by
  unfold setL2
  try dsimp only
  repeat' with_reducible first
    | assumption
    | apply still_modDie
    | apply kwf_kset
    | exact fun _ h => h
    | (apply still_ite <;> intro _)
    | intro _
    | dsimp only
    | exact still_of ‹Still _ _› rfl
    | split

theorem still_tlbPut {ts : TileState} {x0 : TileState} {vpn : Nat} {pte : DWord} (hk : TileQ x0 ts) :
    TileQ x0 (tlbPut ts vpn pte) := by
  unfold tlbPut
  try dsimp only
  repeat' with_reducible first
    | assumption
    | apply kwf_kset
    | exact fun _ _ h => ⟨h.1, h.2, h.3, h.4⟩
    | (apply still_ite <;> intro _)
    | intro _
    | dsimp only
    | split
    | apply TileQ.queues
    | apply TileQ.inflight
    | apply TileQ.running
    | apply TileQ.qstop
    | exact ⟨‹TileQ _ _›.queues, ‹TileQ _ _›.inflight, ‹TileQ _ _›.running, ‹TileQ _ _›.qstop⟩
    | (refine ⟨?_, ?_, ?_, ?_⟩ <;> try dsimp only)

theorem still_tlbDrop {ts : TileState} {x0 : TileState} {vpn : Nat} (hk : TileQ x0 ts) :
    TileQ x0 (tlbDrop ts vpn) := by
  unfold tlbDrop
  try dsimp only
  repeat' with_reducible first
    | assumption
    | apply still_foldl
    | apply kwf_kset
    | refine foldl_kwf ?_ fun _ _ h => kwf_kset h
    | apply tileQ_foldl
    | exact fun _ _ h => ⟨h.1, h.2, h.3, h.4⟩
    | (apply still_ite <;> intro _)
    | intro _
    | dsimp only
    | split
    | apply TileQ.queues
    | apply TileQ.inflight
    | apply TileQ.running
    | apply TileQ.qstop
    | exact ⟨‹TileQ _ _›.queues, ‹TileQ _ _›.inflight, ‹TileQ _ _›.running, ‹TileQ _ _›.qstop⟩
    | (refine ⟨?_, ?_, ?_, ?_⟩ <;> try dsimp only)

theorem still_walkCachePut {ts : TileState} {x0 : TileState} {i : Nat} {e : DWord} (hk : TileQ x0 ts) :
    TileQ x0 (walkCachePut ts i e) := by
  unfold walkCachePut
  try dsimp only
  repeat' with_reducible first
    | assumption
    | exact fun _ _ h => ⟨h.1, h.2, h.3, h.4⟩
    | (apply still_ite <;> intro _)
    | intro _
    | dsimp only
    | split
    | apply TileQ.queues
    | apply TileQ.inflight
    | apply TileQ.running
    | apply TileQ.qstop
    | exact ⟨‹TileQ _ _›.queues, ‹TileQ _ _›.inflight, ‹TileQ _ _›.running, ‹TileQ _ _›.qstop⟩
    | (refine ⟨?_, ?_, ?_, ?_⟩ <;> try dsimp only)

theorem still_iteSnd {α : Type} {c : Prop} [Decidable c] {a b : α × State} (ha : Still s0 a.2) (hb : Still s0 b.2) :
    Still s0 (if c then a else b).2 := by
  split
  · exact ha
  · exact hb

theorem still_walk {t : Tid} {vpn : Nat} (hk : Still s0 s) : Still s0 (walk s t vpn).2 := by
  unfold walk
  extract_lets d s1
  have h1 : Still s0 s1 := still_tinc hk
  clear_value s1
  split
  · exact h1
  · refine still_iteSnd h1 ?_
    have h2 := still_modTile (t := t) h1 fun _ ts hts => still_walkCachePut (ts := ts) (i := vpn / 65536) (e := ‹DWord›) hts
    refine still_iteSnd h2 (still_modTile h2 fun _ ts hts => tileQ_foldl hts fun ts i hts => ?_)
    dsimp only
    split
    · exact still_tlbPut hts
    · exact hts

theorem still_translate {t : Tid} {vpn : Nat} {write : Bool} {req : Nat} (hk : Still s0 s) :
    Still s0 (translate s t vpn write req).2 := by
  unfold translate
  try dsimp only
  repeat' with_reducible first
    | assumption
    | apply still_walk
    | refine still_snd (by assumption) ?_
    | (apply still_ite <;> intro _)
    | intro _
    | dsimp only
    | exact still_of ‹Still _ _› rfl
    | split

theorem still_transFault {t : Tid} {kind : Nat} {req : Nat} {va : Nat} (hk : Still s0 s) :
    Still s0 (transFault s t kind req va) := by
  unfold transFault
  try dsimp only
  repeat' with_reducible first
    | assumption
    | apply still_raise
    | apply still_logPut
    | apply still_tset
    | (apply still_ite <;> intro _)
    | intro _
    | dsimp only
    | split

theorem still_countPause {t : Tid} {kind : Nat} (hk : Still s0 s) :
    Still s0 (countPause s t kind) := by
  unfold countPause
  try dsimp only
  repeat' with_reducible first
    | assumption
    | apply still_tinc
    | (apply still_ite <;> intro _)
    | intro _
    | dsimp only
    | split

theorem still_bufWrite {ts : TileState} {x0 : TileState} {a : Nat} {bs : List Byte} (hk : TileQ x0 ts) :
    TileQ x0 (bufWrite ts a bs) := by
  unfold bufWrite
  try dsimp only
  repeat' with_reducible first
    | assumption
    | apply mstore_wf
    | apply kwf_filter
    | exact fun _ _ h => ⟨h.1, h.2, h.3, h.4⟩
    | (apply still_ite <;> intro _)
    | intro _
    | dsimp only
    | split
    | apply TileQ.queues
    | apply TileQ.inflight
    | apply TileQ.running
    | apply TileQ.qstop
    | exact ⟨‹TileQ _ _›.queues, ‹TileQ _ _›.inflight, ‹TileQ _ _›.running, ‹TileQ _ _›.qstop⟩
    | (refine ⟨?_, ?_, ?_, ?_⟩ <;> try dsimp only)

theorem still_stackWrite {d : Nat} {f : Nat} {off : Nat} {bs : List Byte} (hk : Still s0 s) :
    Still s0 (stackWrite s d f off bs) := by
  unfold stackWrite
  try dsimp only
  repeat' with_reducible first
    | assumption
    | apply still_modDie
    | apply mstore_wf
    | exact fun _ h => h
    | (apply still_ite <;> intro _)
    | intro _
    | dsimp only
    | exact still_of ‹Still _ _› rfl
    | split

theorem still_setWalker {d : Nat} {n : Nat} {w : Option WRec} (hk : Still s0 s) :
    Still s0 (setWalker s d n w) := by
  unfold setWalker
  try dsimp only
  repeat' with_reducible first
    | assumption
    | apply still_modDie
    | apply kwf_kset
    | exact fun _ h => h
    | (apply still_ite <;> intro _)
    | intro _
    | dsimp only
    | exact still_of ‹Still _ _› rfl
    | split

theorem still_setPool {p : Nat} {i : Nat} {v : Option Pool} (hk : Still s0 s) :
    Still s0 (setPool s p i v) := by
  unfold setPool
  try dsimp only
  repeat' with_reducible first
    | assumption
    | apply still_modPort
    | apply kwf_kset
    | (apply still_ite <;> intro _)
    | intro _
    | dsimp only
    | exact still_of ‹Still _ _› rfl
    | split

theorem still_closeQp {p : Nat} {i : Nat} (hk : Still s0 s) :
    Still s0 (closeQp s p i) := by
  unfold closeQp
  try dsimp only
  repeat' with_reducible first
    | assumption
    | apply still_modPort
    | (apply still_ite <;> intro _)
    | intro _
    | dsimp only
    | exact still_of ‹Still _ _› rfl
    | split

theorem still_poolCheck {p : Nat} {i : Nat} (hk : Still s0 s) :
    Still s0 (poolCheck s p i) := by
  unfold poolCheck
  try dsimp only
  repeat' with_reducible first
    | assumption
    | apply still_closeQp
    | apply still_setPool
    | apply still_logPut
    | (apply still_ite <;> intro _)
    | intro _
    | dsimp only
    | exact still_of ‹Still _ _› rfl
    | split

theorem still_releaseRemote {p : Nat} {index : Nat} (hk : Still s0 s) :
    Still s0 (releaseRemote s p index) := by
  unfold releaseRemote
  try dsimp only
  repeat' with_reducible first
    | assumption
    | apply still_setPool
    | apply still_poolCheck
    | apply still_modPort
    | apply kwf_kset
    | (apply still_ite <;> intro _)
    | intro _
    | dsimp only
    | exact still_of ‹Still _ _› rfl
    | split

theorem still_dropRemotePage {d : Nat} {vpn : Nat} (hk : Still s0 s) :
    Still s0 (dropRemotePage s d vpn) := by
  unfold dropRemotePage
  try dsimp only
  repeat' with_reducible first
    | assumption
    | apply still_releaseRemote
    | apply still_setL2
    | (apply still_ite <;> intro _)
    | intro _
    | dsimp only
    | exact still_of ‹Still _ _› rfl
    | split

theorem still_queueReturn {d : Nat} {r : RetFrame} (hk : Still s0 s) :
    Still s0 (queueReturn s d r) := by
  unfold queueReturn
  try dsimp only
  repeat' with_reducible first
    | assumption
    | apply still_modDie
    | exact fun _ h => h
    | (apply still_ite <;> intro _)
    | intro _
    | dsimp only
    | exact still_of ‹Still _ _› rfl
    | split

theorem still_orphanTransfers {d : Nat} {p : Nat → Bool} (hk : Still s0 s) :
    Still s0 (orphanTransfers s d p) := by
  unfold orphanTransfers
  try dsimp only
  repeat' with_reducible first
    | assumption
    | apply still_modDie
    | apply kwf_filter
    | exact fun _ h => h
    | (apply still_ite <;> intro _)
    | intro _
    | dsimp only
    | exact still_of ‹Still _ _› rfl
    | split

theorem still_unmapPage {d : Nat} {rho : Nat} {n : Nat} {p : KvPlan} {e : Nat × DWord} (hk : Still s0 s) :
    Still s0 (unmapPage s d rho n p e) := by
  unfold unmapPage
  try dsimp only
  repeat' with_reducible first
    | assumption
    | apply still_queueReturn
    | apply still_dropRemotePage
    | apply still_setL2
    | (apply still_ite <;> intro _)
    | intro _
    | dsimp only
    | split

theorem still_freeRange {d : Nat} {rho : Nat} {n : Nat} {p : KvPlan} (hk : Still s0 s) :
    Still s0 (freeRange s d rho n p) := by
  unfold freeRange
  try dsimp only
  repeat' with_reducible first
    | assumption
    | apply still_setWalker
    | apply still_unmapPage
    | apply still_modDie
    | apply still_orphanTransfers
    | apply still_forEach
    | apply kwf_filter
    | exact fun _ h => h
    | (apply still_ite <;> intro _)
    | intro _
    | dsimp only
    | exact still_of ‹Still _ _› rfl
    | split

theorem still_setBitmaps {d : Nat} {slot : Nat} {b : Nat × Nat} (hk : Still s0 s) :
    Still s0 (setBitmaps s d slot b) := by
  unfold setBitmaps
  try dsimp only
  repeat' with_reducible first
    | assumption
    | apply still_modDie
    | apply kwf_kset
    | exact fun _ h => h
    | (apply still_ite <;> intro _)
    | intro _
    | dsimp only
    | exact still_of ‹Still _ _› rfl
    | split

theorem still_takeStateFrame {d : Nat} {c : Nat} {kind : Nat} (hk : Still s0 s) :
    Still s0 (takeStateFrame s d c kind) := by
  unfold takeStateFrame
  try dsimp only
  repeat' with_reducible first
    | assumption
    | apply still_takeFrame
    | refine still_optSnd (by assumption) ?_
    | (apply still_ite <;> intro _)
    | intro _
    | dsimp only
    | exact still_of ‹Still _ _› rfl
    | split

theorem still_dropCredits {d : Nat} {n : Nat} {slot : Nat} (hk : Still s0 s) :
    Still s0 (dropCredits s d n slot) := by
  unfold dropCredits
  try dsimp only
  repeat' with_reducible first
    | assumption
    | apply still_modDie
    | exact fun _ h => h
    | (apply still_ite <;> intro _)
    | intro _
    | dsimp only
    | exact still_of ‹Still _ _› rfl
    | split

theorem still_freeSlot {c : Context} {slot : Nat} (hk : Still s0 s) :
    Still s0 (freeSlot s c slot) := by
  unfold freeSlot
  try dsimp only
  repeat' with_reducible first
    | assumption
    | apply still_setWalker
    | apply still_setBitmaps
    | apply still_freeRange
    | apply still_dropCredits
    | apply still_forEach
    | (apply still_ite <;> intro _)
    | intro _
    | dsimp only
    | split

theorem still_latchFields {p : Nat} {ids : List Nat} (hk : Still s0 s) :
    Still s0 (latchFields s p ids) := by
  unfold latchFields
  try dsimp only
  repeat' with_reducible first
    | assumption
    | apply still_modPort
    | apply kwf_kset
    | (apply still_ite <;> intro _)
    | intro _
    | dsimp only
    | exact still_of ‹Still _ _› rfl
    | split

theorem still_sendOn {p : Nat} {prio : Nat} {o : Out} (hk : Still s0 s) :
    Still s0 (sendOn s p prio o) := by
  unfold sendOn
  try dsimp only
  repeat' with_reducible first
    | assumption
    | apply still_send
    | apply still_modPort
    | (apply still_ite <;> intro _)
    | intro _
    | dsimp only
    | exact still_of ‹Still _ _› rfl
    | split

theorem still_sendNet {p : Fin 2} {kind : Nat} {arg : Nat} (hk : Still s0 s) :
    Still s0 (sendNet s p kind arg) := by
  unfold sendNet
  try dsimp only
  repeat' with_reducible first
    | assumption
    | apply still_send
    | apply still_sendOn
    | (apply still_ite <;> intro _)
    | intro _
    | dsimp only
    | split

theorem still_resolveHop {p : Nat} {hop : BitVec 128} (hk : Still s0 s) :
    Still s0 (resolveHop s p hop) := by
  unfold resolveHop
  try dsimp only
  repeat' with_reducible first
    | assumption
    | apply still_sendNet
    | apply still_modPort
    | (apply still_ite <;> intro _)
    | intro _
    | dsimp only
    | exact still_of ‹Still _ _› rfl
    | split

theorem still_sendLink {l : Link} {o : Out} (hk : Still s0 s) :
    Still s0 (sendLink s l o) := by
  unfold sendLink
  try dsimp only
  repeat' with_reducible first
    | assumption
    | apply still_sendOn
    | apply still_resolveHop
    | (apply still_ite <;> intro _)
    | intro _
    | dsimp only
    | split

theorem still_releasePaused {p : Nat} {prio : Nat} (hk : Still s0 s) :
    Still s0 (releasePaused s p prio) := by
  unfold releasePaused
  try dsimp only
  repeat' with_reducible first
    | assumption
    | apply still_send
    | apply still_modPort
    | apply still_forEach
    | apply kwf_filter
    | (apply still_ite <;> intro _)
    | intro _
    | dsimp only
    | exact still_of ‹Still _ _› rfl
    | split

theorem still_rdmaBegin {p : Nat} {verb : RdmaVerb} {use : RdmaUse} {server : BitVec 128} {qpn : Word} (hk : Still s0 s) :
    Still s0 (rdmaBegin s p verb use server qpn) := by
  unfold rdmaBegin
  try dsimp only
  repeat' with_reducible first
    | assumption
    | apply still_sendLink
    | (apply still_ite <;> intro _)
    | intro _
    | dsimp only
    | exact still_of ‹Still _ _› rfl
    | split

theorem still_rangeWrite {d : Nat} {rho : Nat} {rn : Nat} {off : Nat} {bs : List Byte} (hk : Still s0 s) :
    Still s0 (rangeWrite s d rho rn off bs) := by
  unfold rangeWrite
  try dsimp only
  repeat' with_reducible first
    | assumption
    | apply still_stackWrite
    | (apply still_ite <;> intro _)
    | intro _
    | dsimp only
    | split

theorem still_writeKey {d : Nat} {rho : Nat} {rn : Nat} {p : KvPlan} {pos : Nat} {h : Nat} {key : List Half} (hk : Still s0 s) :
    Still s0 (writeKey s d rho rn p pos h key) := by
  unfold writeKey
  try dsimp only
  repeat' with_reducible first
    | assumption
    | apply still_rangeWrite
    | (apply still_ite <;> intro _)
    | intro _
    | dsimp only
    | split

theorem still_writeTail {d : Nat} {rho : Nat} {rn : Nat} {p : KvPlan} {pos : Nat} {h : Nat} {value : List Half} (hk : Still s0 s) :
    Still s0 (writeTail s d rho rn p pos h value) := by
  unfold writeTail
  try dsimp only
  repeat' with_reducible first
    | assumption
    | apply still_rangeWrite
    | (apply still_ite <;> intro _)
    | intro _
    | dsimp only
    | split

theorem still_quantValueBlock {d : Nat} {rho : Nat} {rn : Nat} {p : KvPlan} {h : Nat} {blk : Nat} {limit : Nat} (hk : Still s0 s) :
    Still s0 (quantValueBlock s d rho rn p h blk limit) := by
  unfold quantValueBlock
  try dsimp only
  repeat' with_reducible first
    | assumption
    | apply still_rangeWrite
    | apply still_forEach
    | (apply still_ite <;> intro _)
    | intro _
    | dsimp only
    | split

theorem still_sendPageRead {p : Nat} {d : Nat} {vpn : Nat} {index : Nat} (hk : Still s0 s) :
    Still s0 (sendPageRead s p d vpn index) := by
  unfold sendPageRead
  try dsimp only
  repeat' with_reducible first
    | assumption
    | apply still_rdmaBegin
    | (apply still_ite <;> intro _)
    | intro _
    | dsimp only
    | exact still_of ‹Still _ _› rfl
    | split

theorem still_startPageIn {d : Nat} {vpn : Nat} (hk : Still s0 s) :
    Still s0 (startPageIn s d vpn) := by
  unfold startPageIn
  try dsimp only
  repeat' with_reducible first
    | assumption
    | apply still_takeFrame
    | apply still_sendPageRead
    | apply still_modDie
    | refine still_optSnd (by assumption) ?_
    | exact fun _ h => h
    | (apply still_ite <;> intro _)
    | intro _
    | dsimp only
    | exact still_of ‹Still _ _› rfl
    | split

theorem still_setLen {d : Nat} {rn : Nat} {len : Nat} {w : WRec} (hk : Still s0 s) :
    Still s0 (setLen s d rn len w) := by
  unfold setLen
  try dsimp only
  repeat' with_reducible first
    | assumption
    | apply still_dinc
    | apply still_setWalker
    | (apply still_ite <;> intro _)
    | intro _
    | dsimp only
    | exact still_of ‹Still _ _› rfl
    | split

theorem still_quantLast {d : Nat} {rho : Nat} {rn : Nat} {p : KvPlan} {len : Nat} (hk : Still s0 s) :
    Still s0 (quantLast s d rho rn p len) := by
  unfold quantLast
  try dsimp only
  repeat' with_reducible first
    | assumption
    | apply still_quantValueBlock
    | apply still_forEach
    | (apply still_ite <;> intro _)
    | intro _
    | dsimp only
    | split

theorem still_kvSetLen {d : Nat} {rho : Nat} {rn : Nat} {p : KvPlan} {len : Nat} (hk : Still s0 s) :
    Still s0 (kvSetLen s d rho rn p len) := by
  unfold kvSetLen
  try dsimp only
  repeat' with_reducible first
    | assumption
    | apply still_setLen
    | apply still_quantLast
    | (apply still_ite <;> intro _)
    | intro _
    | dsimp only
    | exact still_of ‹Still _ _› rfl
    | split

theorem still_settleRange {d : Nat} {rho : Nat} {rn : Nat} {p : KvPlan} (hk : Still s0 s) :
    Still s0 (settleRange s d rho rn p) := by
  unfold settleRange
  try dsimp only
  repeat' with_reducible first
    | assumption
    | apply still_startPageIn
    | apply still_quantLast
    | apply still_modDie
    | apply still_forEach
    | apply kwf_filter
    | exact fun _ h => h
    | (apply still_ite <;> intro _)
    | intro _
    | dsimp only
    | exact still_of ‹Still _ _› rfl
    | split

theorem still_settleDie {d : Nat} (hk : Still s0 s) :
    Still s0 (settleDie s d) := by
  unfold settleDie
  try dsimp only
  repeat' with_reducible first
    | assumption
    | apply still_settleRange
    | apply still_forEach
    | (apply still_ite <;> intro _)
    | intro _
    | dsimp only
    | exact still_of ‹Still _ _› rfl
    | split

theorem still_schedSetLen {d : Nat} {rho : Nat} {rn : Nat} {p : KvPlan} {len : Nat} (hk : Still s0 s) :
    Still s0 (schedSetLen s d rho rn p len) := by
  unfold schedSetLen
  try dsimp only
  repeat' with_reducible first
    | assumption
    | apply still_setLen
    | apply still_settleRange
    | (apply still_ite <;> intro _)
    | intro _
    | dsimp only
    | exact still_of ‹Still _ _› rfl
    | split

theorem still_slotSetLen {c : Context} {slot : Nat} {len : Nat} (hk : Still s0 s) :
    Still s0 (slotSetLen s c slot len) := by
  unfold slotSetLen
  try dsimp only
  repeat' with_reducible first
    | assumption
    | apply still_schedSetLen
    | apply still_forEach
    | (apply still_ite <;> intro _)
    | intro _
    | dsimp only
    | split

theorem still_setTenant {t : Nat} {v : Option Tenant} (hk : Still s0 s) :
    Still s0 (setTenant s t v) := by
  unfold setTenant
  try dsimp only
  repeat' with_reducible first
    | assumption
    | apply still_modServing
    | apply kwf_kset
    | (apply still_ite <;> intro _)
    | intro _
    | dsimp only
    | exact still_of ‹Still _ _› rfl
    | split

theorem still_sendServe {x : Session} {tenant : Nat} {req : DWord} {m : ServeMsg} (hk : Still s0 s) :
    Still s0 (sendServe s x tenant req m) := by
  unfold sendServe
  try dsimp only
  repeat' with_reducible first
    | assumption
    | apply still_send
    | apply still_sendLink
    | apply still_setTenant
    | (apply still_ite <;> intro _)
    | intro _
    | dsimp only
    | exact still_of ‹Still _ _› rfl
    | split

theorem still_modThis {q : Seq} {f : Seq → Seq} (hk : Still s0 s) :
    Still s0 (modThis s q f) := by
  unfold modThis
  try dsimp only
  repeat' with_reducible first
    | assumption
    | apply still_modServing
    | (apply still_ite <;> intro _)
    | intro _
    | dsimp only
    | exact still_of ‹Still _ _› rfl
    | split

theorem still_markParked {d : Nat} {slot : Nat} {b : Bool} (hk : Still s0 s) :
    Still s0 (markParked s d slot b) := by
  unfold markParked
  try dsimp only
  repeat' with_reducible first
    | assumption
    | apply still_modDie
    | exact fun _ h => h
    | (apply still_ite <;> intro _)
    | intro _
    | dsimp only
    | exact still_of ‹Still _ _› rfl
    | split

theorem still_unpark {d : Nat} {slot : Nat} {outcome : Nat} (hk : Still s0 s) :
    Still s0 (unpark s d slot outcome) := by
  unfold unpark
  try dsimp only
  repeat' with_reducible first
    | assumption
    | apply still_markParked
    | apply still_logPut
    | apply still_modDie
    | apply kwf_filter
    | exact fun _ h => h
    | (apply still_ite <;> intro _)
    | intro _
    | dsimp only
    | exact still_of ‹Still _ _› rfl
    | split

theorem still_unparkAll {slot : Nat} {outcome : Nat} (hk : Still s0 s) :
    Still s0 (unparkAll s slot outcome) := by
  unfold unparkAll
  try dsimp only
  repeat' with_reducible first
    | assumption
    | apply still_unpark
    | apply still_forEach
    | (apply still_ite <;> intro _)
    | intro _
    | dsimp only
    | split

theorem still_dropGrants {slot : Nat} (hk : Still s0 s) :
    Still s0 (dropGrants s slot) := by
  unfold dropGrants
  try dsimp only
  repeat' with_reducible first
    | assumption
    | apply still_modDie
    | apply still_forEach
    | apply kwf_filter
    | exact fun _ h => h
    | (apply still_ite <;> intro _)
    | intro _
    | dsimp only
    | exact still_of ‹Still _ _› rfl
    | split

theorem still_answerCancel {x : Session} {tenant : Nat} {req : DWord} {result : Nat} (hk : Still s0 s) :
    Still s0 (answerCancel s x tenant req result) := by
  unfold answerCancel
  try dsimp only
  repeat' with_reducible first
    | assumption
    | apply still_sendServe
    | apply still_pinc
    | (apply still_ite <;> intro _)
    | intro _
    | dsimp only
    | exact still_of ‹Still _ _› rfl
    | split

theorem still_purgeSeq {q : Seq} (hk : Still s0 s) :
    Still s0 (purgeSeq s q) := by
  unfold purgeSeq
  try dsimp only
  repeat' with_reducible first
    | assumption
    | apply still_modServing
    | apply kwf_filter
    | (apply still_ite <;> intro _)
    | intro _
    | dsimp only
    | exact still_of ‹Still _ _› rfl
    | split

theorem still_releaseSeq {q : Seq} (hk : Still s0 s) :
    Still s0 (releaseSeq s q) := by
  unfold releaseSeq
  try dsimp only
  repeat' with_reducible first
    | assumption
    | apply still_freeSlot
    | apply still_dropGrants
    | apply still_modThis
    | apply still_purgeSeq
    | (apply still_ite <;> intro _)
    | intro _
    | dsimp only
    | exact still_of ‹Still _ _› rfl
    | split

theorem still_setLane {l : Nat} {v : Option Lane} (hk : Still s0 s) :
    Still s0 (setLane s l v) := by
  unfold setLane
  try dsimp only
  repeat' with_reducible first
    | assumption
    | apply still_modServing
    | apply kwf_kset
    | (apply still_ite <;> intro _)
    | intro _
    | dsimp only
    | exact still_of ‹Still _ _› rfl
    | split

theorem still_modLane {l : Nat} {f : Lane → Lane} (hk : Still s0 s) :
    Still s0 (modLane s l f) := by
  unfold modLane
  try dsimp only
  repeat' with_reducible first
    | assumption
    | apply still_setLane
    | (apply still_ite <;> intro _)
    | intro _
    | dsimp only
    | split

theorem still_beginLane {l : Nat} (hk : Still s0 s) :
    Still s0 (beginLane s l) := by
  unfold beginLane
  try dsimp only
  repeat' with_reducible first
    | assumption
    | apply still_modLane
    | apply still_pinc
    | (apply still_ite <;> intro _)
    | intro _
    | dsimp only
    | exact still_of ‹Still _ _› rfl
    | split

theorem still_joinLane {l : Nat} {slot : Nat} (hk : Still s0 s) :
    Still s0 (joinLane s l slot) := by
  unfold joinLane
  try dsimp only
  repeat' with_reducible first
    | assumption
    | apply still_beginLane
    | apply still_modLane
    | (apply still_ite <;> intro _)
    | intro _
    | dsimp only
    | exact still_of ‹Still _ _› rfl
    | split

theorem still_requeue {l : Nat} {again : Bool} {f : List Nat → List Nat} (hk : Still s0 s) :
    Still s0 (requeue s l again f) := by
  unfold requeue
  try dsimp only
  repeat' with_reducible first
    | assumption
    | apply still_beginLane
    | apply still_modLane
    | (apply still_ite <;> intro _)
    | intro _
    | dsimp only
    | exact still_of ‹Still _ _› rfl
    | split

theorem still_dropSeat {slot : Nat} (hk : Still s0 s) :
    Still s0 (dropSeat s slot) := by
  unfold dropSeat
  try dsimp only
  repeat' with_reducible first
    | assumption
    | apply still_requeue
    | apply still_forEach
    | apply kwf_filter
    | (apply still_ite <;> intro _)
    | intro _
    | dsimp only
    | split

theorem still_endSeq {q0 : Seq} {reason : Nat} {code : Nat} (hk : Still s0 s) :
    Still s0 (endSeq s q0 reason code) := by
  unfold endSeq
  try dsimp only
  repeat' with_reducible first
    | assumption
    | apply still_dropSeat
    | apply still_answerCancel
    | apply still_sendServe
    | apply still_logPut
    | apply still_pinc
    | apply still_dropGrants
    | apply still_unparkAll
    | apply still_modThis
    | apply still_releaseSeq
    | apply still_forEach
    | (apply still_ite <;> intro _)
    | intro _
    | dsimp only
    | exact still_of ‹Still _ _› rfl
    | split

theorem still_planeState {new : Nat} {cause : Nat} (hk : Still s0 s) :
    Still s0 (planeState s new cause) := by
  unfold planeState
  try dsimp only
  repeat' with_reducible first
    | assumption
    | apply still_logPut
    | apply still_pset
    | (apply still_ite <;> intro _)
    | intro _
    | dsimp only
    | split

theorem still_leaveDoze {cause : Nat} (hk : Still s0 s) :
    Still s0 (leaveDoze s cause) := by
  unfold leaveDoze
  try dsimp only
  repeat' with_reducible first
    | assumption
    | apply still_planeState
    | apply still_modPlane
    | (apply still_ite <;> intro _)
    | intro _
    | dsimp only
    | exact still_of ‹Still _ _› rfl
    | split

theorem still_wakeAuto (hk : Still s0 s) :
    Still s0 (wakeAuto s) := by
  unfold wakeAuto
  try dsimp only
  repeat' with_reducible first
    | assumption
    | apply still_leaveDoze
    | (apply still_ite <;> intro _)
    | intro _
    | dsimp only
    | split

theorem still_markReady {q : Seq} (hk : Still s0 s) :
    Still s0 (markReady s q) := by
  unfold markReady
  try dsimp only
  repeat' with_reducible first
    | assumption
    | apply still_wakeAuto
    | apply still_modServing
    | apply still_modThis
    | (apply still_ite <;> intro _)
    | intro _
    | dsimp only
    | exact still_of ‹Still _ _› rfl
    | split

theorem still_giveStep {q : Seq} {st : SeqStep} (hk : Still s0 s) :
    Still s0 (giveStep s q st) := by
  unfold giveStep
  try dsimp only
  repeat' with_reducible first
    | assumption
    | apply still_markReady
    | apply still_modThis
    | (apply still_ite <;> intro _)
    | intro _
    | dsimp only
    | exact still_of ‹Still _ _› rfl
    | split

theorem still_firstChunk {q : Seq} (hk : Still s0 s) :
    Still s0 (firstChunk s q) := by
  unfold firstChunk
  try dsimp only
  repeat' with_reducible first
    | assumption
    | apply still_giveStep
    | (apply still_ite <;> intro _)
    | intro _
    | dsimp only
    | exact still_of ‹Still _ _› rfl
    | split

theorem still_drained {q : Seq} (hk : Still s0 s) :
    Still s0 (drained s q) := by
  unfold drained
  try dsimp only
  repeat' with_reducible first
    | assumption
    | apply still_firstChunk
    | apply still_slotSetLen
    | apply still_endSeq
    | apply still_releaseSeq
    | apply still_modThis
    | apply still_purgeSeq
    | (apply still_ite <;> intro _)
    | intro _
    | dsimp only
    | exact still_of ‹Still _ _› rfl
    | split

theorem still_setCtxState {c : Nat} {v : Nat} (hk : Still s0 s) :
    Still s0 (setCtxState s c v) := by
  unfold setCtxState
  try dsimp only
  repeat' with_reducible first
    | assumption
    | apply still_pset
    | (apply still_ite <;> intro _)
    | intro _
    | dsimp only
    | split

theorem still_dropGroups {c : Nat} (hk : Still s0 s) :
    Still s0 (dropGroups s c) := by
  unfold dropGroups
  try dsimp only
  repeat' with_reducible first
    | assumption
    | apply still_drained
    | apply still_modServing
    | apply still_forEach
    | apply kwf_filter
    | (apply still_ite <;> intro _)
    | intro _
    | dsimp only
    | exact still_of ‹Still _ _› rfl
    | split

theorem still_stopContext {c : Nat} {code : Nat} (hk : Still s0 s) :
    Still s0 (stopContext s c code) := by
  unfold stopContext
  try dsimp only
  repeat' with_reducible first
    | assumption
    | apply still_setCtxState
    | apply still_dropGroups
    | apply still_modCtx
    | apply still_endSeq
    | apply still_forEach
    | apply kwf_filter
    | (apply still_ite <;> intro _)
    | intro _
    | dsimp only
    | exact still_of ‹Still _ _› rfl
    | split

theorem still_invalidateAll {d : Nat} {vpn : Nat} (hk : Still s0 s) :
    Still s0 (invalidateAll s d vpn) := by
  unfold invalidateAll
  try dsimp only
  repeat' with_reducible first
    | assumption
    | apply still_post
    | apply still_forEach
    | (apply still_ite <;> intro _)
    | intro _
    | dsimp only
    | split

theorem still_modGroup {id : Nat} {f : WGroup → WGroup} (hk : Still s0 s) :
    Still s0 (modGroup s id f) := by
  unfold modGroup
  try dsimp only
  repeat' with_reducible first
    | assumption
    | apply still_modServing
    | (apply still_ite <;> intro _)
    | intro _
    | dsimp only
    | exact still_of ‹Still _ _› rfl
    | split

theorem still_doomSeq {q : Seq} {code : Nat} (hk : Still s0 s) :
    Still s0 (doomSeq s q code) := by
  unfold doomSeq
  try dsimp only
  repeat' with_reducible first
    | assumption
    | apply still_endSeq
    | apply still_modThis
    | (apply still_ite <;> intro _)
    | intro _
    | dsimp only
    | exact still_of ‹Still _ _› rfl
    | split

theorem still_doomSlot {slot : Nat} {code : Nat} (hk : Still s0 s) :
    Still s0 (doomSlot s slot code) := by
  unfold doomSlot
  try dsimp only
  repeat' with_reducible first
    | assumption
    | apply still_doomSeq
    | (apply still_ite <;> intro _)
    | intro _
    | dsimp only
    | exact still_of ‹Still _ _› rfl
    | split

theorem still_doomGroup {g : WGroup} {code : Nat} (hk : Still s0 s) :
    Still s0 (doomGroup s g code) := by
  unfold doomGroup
  try dsimp only
  repeat' with_reducible first
    | assumption
    | apply still_doomSlot
    | apply still_forEach
    | (apply still_ite <;> intro _)
    | intro _
    | dsimp only
    | split

theorem still_addBits {x : Context} {slot : Nat} {rep : List Nat} {pres : List Nat} (hk : Still s0 s) :
    Still s0 (addBits s x slot rep pres) := by
  unfold addBits
  try dsimp only
  repeat' with_reducible first
    | assumption
    | apply still_setBitmaps
    | apply still_forEach
    | (apply still_ite <;> intro _)
    | intro _
    | dsimp only
    | exact still_of ‹Still _ _› rfl
    | split

theorem still_clearPresence {x : Context} {slot : Nat} (hk : Still s0 s) :
    Still s0 (clearPresence s x slot) := by
  unfold clearPresence
  try dsimp only
  repeat' with_reducible first
    | assumption
    | apply still_setBitmaps
    | apply still_forEach
    | (apply still_ite <;> intro _)
    | intro _
    | dsimp only
    | split

theorem still_startRefetch {d : Nat} {vpn : Nat} {version : Bool} (hk : Still s0 s) :
    Still s0 (startRefetch s d vpn version) := by
  unfold startRefetch
  try dsimp only
  repeat' with_reducible first
    | assumption
    | apply still_modCtx
    | apply still_logPut
    | apply still_pinc
    | (apply still_ite <;> intro _)
    | intro _
    | dsimp only
    | exact still_of ‹Still _ _› rfl
    | split

theorem still_spareIn {d : Nat} {col : Nat} {ch : Nat} {spare : Nat} (hk : Still s0 s) :
    Still s0 (spareIn s d col ch spare) := by
  unfold spareIn
  try dsimp only
  repeat' with_reducible first
    | assumption
    | apply still_dset
    | apply still_rmAdd
    | (apply still_ite <;> intro _)
    | intro _
    | dsimp only
    | split

theorem still_takeSpare {d : Nat} {col : Nat} {ch : Nat} {hard : Nat} (hk : Still s0 s) :
    Still s0 (takeSpare s d col ch hard) := by
  unfold takeSpare
  try dsimp only
  repeat' with_reducible first
    | assumption
    | apply still_dset
    | apply still_logPut
    | (apply still_ite <;> intro _)
    | intro _
    | dsimp only
    | split

theorem still_relocate {d : Nat} {f : Nat} {r : FrameRec} (hk : Still s0 s) :
    Still s0 (relocate s d f r).2 := by
  unfold relocate
  try dsimp only
  repeat' with_reducible first
    | assumption
    | apply still_queueReturn
    | apply still_setFrame
    | apply still_takeFrame
    | apply still_setL2
    | apply still_modDie
    | refine still_optSnd (by assumption) ?_
    | apply clearFrame_wf
    | exact fun _ h => h
    | (apply still_ite <;> intro _)
    | intro _
    | dsimp only
    | exact still_of ‹Still _ _› rfl
    | split

theorem still_trimGrants {d : Nat} (hk : Still s0 s) :
    Still s0 (trimGrants s d) := by
  unfold trimGrants
  try dsimp only
  repeat' with_reducible first
    | assumption
    | apply still_modDie
    | exact fun _ h => h
    | (apply still_ite <;> intro _)
    | intro _
    | dsimp only
    | exact still_of ‹Still _ _› rfl
    | split

theorem still_retireChannel {d col ch : Nat} (hk : Still s0 s) : Still s0 (retireChannel s d col ch) := by
  unfold retireChannel
  extract_lets held weights caches states f s1 s2 s3
  have h3 : Still s0 s3 := still_rmAdd (still_dset (still_dset hk))
  clear_value s3
  split
  rename_i moved s5 e
  have h5 : Still s0 s5 := by
    refine still_snd e (still_foldSnd h3 fun a x ha => ?_)
    dsimp only
    apply still_ite <;> intro _
    · exact still_startRefetch (still_relocate ha)
    · exact still_relocate ha
  dsimp only
  have h6 : ∀ f : State → Nat × FrameRec → State, (∀ s e, Still s0 s → Still s0 (f s e)) → ∀ c v src a b g,
      Still s0 (trimGrants (forEach caches (logPut s5 c v src a b g) f) d) :=
    fun f hf _ _ _ _ _ _ => still_trimGrants (still_forEach (still_logPut h5) hf)
  have h7 := h6 _ fun s e h => still_doomSlot (slot := e.2.slot) (code := 0x0813) h
  split
  · exact h7 _ _ _ _ _ _
  · split
    · exact still_stopContext (h7 _ _ _ _ _ _)
    · exact h7 _ _ _ _ _ _

theorem still_startSoftSwap {d : Nat} {col : Nat} {ch : Nat} (hk : Still s0 s) :
    Still s0 (startSoftSwap s d col ch) := by
  unfold startSoftSwap
  try dsimp only
  repeat' with_reducible first
    | assumption
    | apply still_takeSpare
    | apply still_dset
    | apply still_retireChannel
    | apply still_modDie
    | exact fun _ h => h
    | (apply still_ite <;> intro _)
    | intro _
    | dsimp only
    | exact still_of ‹Still _ _› rfl
    | split

theorem still_stkCorrected {d : Nat} {col : Nat} {frame : Nat} (hk : Still s0 s) :
    Still s0 (stkCorrected s d col frame) := by
  unfold stkCorrected
  try dsimp only
  repeat' with_reducible first
    | assumption
    | apply still_dinc
    | apply still_startSoftSwap
    | apply still_modDie
    | apply kwf_kset
    | exact fun _ h => h
    | (apply still_ite <;> intro _)
    | intro _
    | dsimp only
    | exact still_of ‹Still _ _› rfl
    | split

theorem still_stkUncorrRead {d : Nat} {col : Nat} {frame : Nat} {line : Nat} {reader : Nat} (hk : Still s0 s) :
    Still s0 (stkUncorrRead s d col frame line reader) := by
  unfold stkUncorrRead
  try dsimp only
  repeat' with_reducible first
    | assumption
    | apply still_dinc
    | apply still_dset
    | apply still_modGroup
    | apply still_modDie
    | exact fun _ h => h
    | (apply still_ite <;> intro _)
    | intro _
    | dsimp only
    | exact still_of ‹Still _ _› rfl
    | split

theorem still_actUncorr {d : Nat} {col : Nat} {frame : Nat} {line : Nat} (hk : Still s0 s) :
    Still s0 (actUncorr s d col frame line) := by
  unfold actUncorr
  try dsimp only
  repeat' with_reducible first
    | assumption
    | apply still_logPut
    | apply still_doomSlot
    | apply still_startRefetch
    | apply still_doomGroup
    | apply still_rmAdd
    | apply still_modDie
    | apply kwf_filter
    | apply clearFrame_wf
    | exact fun _ h => h
    | (apply still_ite <;> intro _)
    | intro _
    | dsimp only
    | exact still_of ‹Still _ _› rfl
    | split

theorem still_postDone {t : Tid} {f : InFlight} (hk : Still s0 s) :
    Still s0 (postDone s t f) := by
  unfold postDone
  try dsimp only
  repeat' with_reducible first
    | assumption
    | apply still_ctrInc
    | apply still_forEach
    | (apply still_ite <;> intro _)
    | intro _
    | dsimp only
    | split

theorem still_bufCorrected {t : Tid} {line : Nat} {word : Nat} (hk : Still s0 s) :
    Still s0 (bufCorrected s t line word) := by
  unfold bufCorrected
  try dsimp only
  repeat' with_reducible first
    | assumption
    | apply still_tinc
    | apply still_modTile
    | exact fun _ _ h => ⟨h.1, h.2, h.3, h.4⟩
    | (apply still_ite <;> intro _)
    | intro _
    | dsimp only
    | exact still_of ‹Still _ _› rfl
    | split
    | apply TileQ.queues
    | apply TileQ.inflight
    | apply TileQ.running
    | apply TileQ.qstop
    | exact ⟨‹TileQ _ _›.queues, ‹TileQ _ _›.inflight, ‹TileQ _ _›.running, ‹TileQ _ _›.qstop⟩
    | (refine ⟨?_, ?_, ?_, ?_⟩ <;> try dsimp only)

theorem still_wantSlice {ts : TileState} {x0 : TileState} {k : SliceId} (hk : TileQ x0 ts) :
    TileQ x0 (wantSlice ts k) := by
  unfold wantSlice
  try dsimp only
  repeat' with_reducible first
    | assumption
    | exact fun _ _ h => ⟨h.1, h.2, h.3, h.4⟩
    | (apply still_ite <;> intro _)
    | intro _
    | dsimp only
    | split
    | apply TileQ.queues
    | apply TileQ.inflight
    | apply TileQ.running
    | apply TileQ.qstop
    | exact ⟨‹TileQ _ _›.queues, ‹TileQ _ _›.inflight, ‹TileQ _ _›.running, ‹TileQ _ _›.qstop⟩
    | (refine ⟨?_, ?_, ?_, ?_⟩ <;> try dsimp only)

theorem still_flagWord {t : Tid} {line : Nat} {word : Nat} (hk : Still s0 s) :
    Still s0 (flagWord s t line word) := by
  unfold flagWord
  try dsimp only
  repeat' with_reducible first
    | assumption
    | apply still_raise
    | apply still_modTile
    | apply still_wantSlice
    | apply still_post
    | apply still_tset
    | apply kwf_filter
    | exact fun _ _ h => ⟨h.1, h.2, h.3, h.4⟩
    | (apply still_ite <;> intro _)
    | intro _
    | dsimp only
    | exact still_of ‹Still _ _› rfl
    | split
    | apply TileQ.queues
    | apply TileQ.inflight
    | apply TileQ.running
    | apply TileQ.qstop
    | exact ⟨‹TileQ _ _›.queues, ‹TileQ _ _›.inflight, ‹TileQ _ _›.running, ‹TileQ _ _›.qstop⟩
    | (refine ⟨?_, ?_, ?_, ?_⟩ <;> try dsimp only)

theorem still_bufUncorrectable {t : Tid} {line : Nat} {word : Nat} (hk : Still s0 s) :
    Still s0 (bufUncorrectable s t line word) := by
  unfold bufUncorrectable
  try dsimp only
  repeat' with_reducible first
    | assumption
    | apply still_flagWord
    | apply still_bumpFree
    | apply still_modTile
    | apply mstore_wf
    | apply kwf_filter
    | exact fun _ _ h => ⟨h.1, h.2, h.3, h.4⟩
    | (apply still_ite <;> intro _)
    | intro _
    | dsimp only
    | exact still_of ‹Still _ _› rfl
    | split
    | apply TileQ.queues
    | apply TileQ.inflight
    | apply TileQ.running
    | apply TileQ.qstop
    | exact ⟨‹TileQ _ _›.queues, ‹TileQ _ _›.inflight, ‹TileQ _ _›.running, ‹TileQ _ _›.qstop⟩
    | (refine ⟨?_, ?_, ?_, ?_⟩ <;> try dsimp only)

theorem still_applyErr {t : Tid} {y0 : MemErr} (hk : Still s0 s) :
    Still s0 (applyErr s t y0) := by
  unfold applyErr
  try dsimp only
  repeat' with_reducible first
    | assumption
    | apply still_bufUncorrectable
    | apply still_bufCorrected
    | apply still_bumpFree
    | apply still_stkCorrected
    | apply still_stackWrite
    | apply still_stkUncorrRead
    | (apply still_ite <;> intro _)
    | intro _
    | dsimp only
    | split

theorem still_applyErrs {t : Tid} {errs : List MemErr} (hk : Still s0 s) :
    Still s0 (applyErrs s t errs) := by
  unfold applyErrs
  try dsimp only
  repeat' with_reducible first
    | assumption
    | apply still_applyErr
    | apply still_forEach
    | (apply still_ite <;> intro _)
    | intro _
    | dsimp only
    | split

theorem still_bufReads {t : Tid} {spans : List Span} {errs : List MemErr} (hk : Still s0 s) :
    Still s0 (bufReads s t spans errs) := by
  unfold bufReads
  try dsimp only
  repeat' with_reducible first
    | assumption
    | apply still_flagWord
    | apply still_applyErrs
    | apply still_forEach
    | apply kwf_filter
    | (apply still_ite <;> intro _)
    | intro _
    | dsimp only
    | exact still_of ‹Still _ _› rfl
    | split

theorem still_transAll {t : Tid} {write : Bool} {req : Nat} {l : List Nat} (hk : Still s0 s) :
    Still s0 (transAll t write req l s).2 := by
  induction l generalizing s with
  | nil => exact hk
  | cons va r ih =>
    unfold transAll
    split
    · next e => exact ih (still_snd e (still_translate hk))
    · next e =>
      have h := still_snd e (still_translate hk)
      split
      · exact h
      · split
        · exact ih (still_transFault h)
        · split
          · exact ih h
          · exact h

theorem still_pauseFor {t : Tid} {met : List (Nat × Nat)} {waits : List (Nat × Nat)} (hk : Still s0 s) :
    Still s0 (pauseFor s t met waits) := by
  unfold pauseFor
  try dsimp only
  repeat' with_reducible first
    | assumption
    | apply still_startPageIn
    | apply still_countPause
    | apply still_forEach
    | (apply still_ite <;> intro _)
    | intro _
    | dsimp only
    | split

theorem still_setCrossing {t : Tid} {d : Dir} {c : Crossing} (hk : Still s0 s) :
    Still s0 (setCrossing s t d c) := by
  unfold setCrossing
  try dsimp only
  repeat' with_reducible first
    | assumption
    | apply still_modTile
    | apply kwf_kset
    | exact fun _ _ h => ⟨h.1, h.2, h.3, h.4⟩
    | (apply still_ite <;> intro _)
    | intro _
    | dsimp only
    | exact still_of ‹Still _ _› rfl
    | split
    | apply TileQ.queues
    | apply TileQ.inflight
    | apply TileQ.running
    | apply TileQ.qstop
    | exact ⟨‹TileQ _ _›.queues, ‹TileQ _ _›.inflight, ‹TileQ _ _›.running, ‹TileQ _ _›.qstop⟩
    | (refine ⟨?_, ?_, ?_, ?_⟩ <;> try dsimp only)

theorem still_stageOut {t : Tid} {port : Nat} {d : Dir} {p : Packet} (hk : Still s0 s) :
    Still s0 (stageOut s t port d p) := by
  unfold stageOut
  try dsimp only
  repeat' with_reducible first
    | assumption
    | apply still_modTile
    | exact fun _ _ h => ⟨h.1, h.2, h.3, h.4⟩
    | (apply still_ite <;> intro _)
    | intro _
    | dsimp only
    | exact still_of ‹Still _ _› rfl
    | split
    | apply TileQ.queues
    | apply TileQ.inflight
    | apply TileQ.running
    | apply TileQ.qstop
    | exact ⟨‹TileQ _ _›.queues, ‹TileQ _ _›.inflight, ‹TileQ _ _›.running, ‹TileQ _ _›.qstop⟩
    | (refine ⟨?_, ?_, ?_, ?_⟩ <;> try dsimp only)

theorem still_dropLines {ts : List Tid} (hk : Still s0 s) :
    Still s0 (dropLines s ts) := by
  unfold dropLines
  try dsimp only
  repeat' with_reducible first
    | assumption
    | apply still_modTile
    | apply still_forEach
    | apply kwf_kset
    | apply kwf_filter
    | refine foldl_kwf ?_ fun _ _ h => kwf_kset h
    | exact fun _ _ h => ⟨h.1, h.2, h.3, h.4⟩
    | (apply still_ite <;> intro _)
    | intro _
    | dsimp only
    | exact still_of ‹Still _ _› rfl
    | split
    | exact kwf_nil
    | exact memory_nil
    | apply TileQ.queues
    | apply TileQ.inflight
    | apply TileQ.running
    | apply TileQ.qstop
    | exact ⟨‹TileQ _ _›.queues, ‹TileQ _ _›.inflight, ‹TileQ _ _›.running, ‹TileQ _ _›.qstop⟩
    | (refine ⟨?_, ?_, ?_, ?_⟩ <;> try dsimp only)

theorem still_setGrp {ts : TileState} {x0 : TileState} {g : Nat} {v : Grp} (hk : TileQ x0 ts) :
    TileQ x0 (setGrp ts g v) := by
  unfold setGrp
  try dsimp only
  repeat' with_reducible first
    | assumption
    | apply kwf_kset
    | exact fun _ _ h => ⟨h.1, h.2, h.3, h.4⟩
    | (apply still_ite <;> intro _)
    | intro _
    | dsimp only
    | split
    | apply TileQ.queues
    | apply TileQ.inflight
    | apply TileQ.running
    | apply TileQ.qstop
    | exact ⟨‹TileQ _ _›.queues, ‹TileQ _ _›.inflight, ‹TileQ _ _›.running, ‹TileQ _ _›.qstop⟩
    | (refine ⟨?_, ?_, ?_, ?_⟩ <;> try dsimp only)

theorem still_accClear {ts : TileState} {x0 : TileState} {g : Nat} (hk : TileQ x0 ts) :
    TileQ x0 (accClear ts g) := by
  unfold accClear
  try dsimp only
  repeat' with_reducible first
    | assumption
    | apply kwf_filter
    | exact fun _ _ h => ⟨h.1, h.2, h.3, h.4⟩
    | (apply still_ite <;> intro _)
    | intro _
    | dsimp only
    | split
    | apply TileQ.queues
    | apply TileQ.inflight
    | apply TileQ.running
    | apply TileQ.qstop
    | exact ⟨‹TileQ _ _›.queues, ‹TileQ _ _›.inflight, ‹TileQ _ _›.running, ‹TileQ _ _›.qstop⟩
    | (refine ⟨?_, ?_, ?_, ?_⟩ <;> try dsimp only)

theorem still_runStream {t : Tid} {d : Desc} (hk : Still s0 s) :
    Still s0 (runStream s t d) := by
  unfold runStream
  try dsimp only
  repeat' with_reducible first
    | assumption
    | apply still_modTile
    | apply still_setGrp
    | apply still_noteNum
    | apply kwf_kset
    | apply kwf_filter
    | refine foldl_kwf ?_ fun _ _ h => kwf_kset h
    | exact fun _ _ h => ⟨h.1, h.2, h.3, h.4⟩
    | (apply still_ite <;> intro _)
    | intro _
    | dsimp only
    | exact still_of ‹Still _ _› rfl
    | split
    | exact kwf_nil
    | exact memory_nil
    | apply TileQ.queues
    | apply TileQ.inflight
    | apply TileQ.running
    | apply TileQ.qstop
    | exact ⟨‹TileQ _ _›.queues, ‹TileQ _ _›.inflight, ‹TileQ _ _›.running, ‹TileQ _ _›.qstop⟩
    | (refine ⟨?_, ?_, ?_, ?_⟩ <;> try dsimp only)

theorem still_setVregFile {ts : TileState} {x0 : TileState} {core : Nat}
    {m : List Host.Cell} (hk : TileQ x0 ts) : TileQ x0 (setVregFile ts core m) := by
  unfold setVregFile
  split
  · exact ⟨hk.1, hk.2, hk.3, hk.4⟩
  · exact ⟨hk.1, hk.2, hk.3, hk.4⟩

theorem still_sampleDrain {t : Tid} {o : DrainOps} {g : Grp} {rows : List (Nat × Nat × DrainRow)} (hk : Still s0 s) :
    Still s0 (sampleDrain s t o g rows) := by
  unfold sampleDrain
  try dsimp only
  repeat' with_reducible first
    | assumption
    | apply still_modTile
    | apply still_tset
    | exact fun _ _ h => ⟨h.1, h.2, h.3, h.4⟩
    | (apply still_ite <;> intro _)
    | intro _
    | dsimp only
    | exact still_of ‹Still _ _› rfl
    | split
    | exact kwf_nil
    | exact memory_nil
    | apply TileQ.queues
    | apply TileQ.inflight
    | apply TileQ.running
    | apply TileQ.qstop
    | exact ⟨‹TileQ _ _›.queues, ‹TileQ _ _›.inflight, ‹TileQ _ _›.running, ‹TileQ _ _›.qstop⟩
    | (refine ⟨?_, ?_, ?_, ?_⟩ <;> try dsimp only)

theorem still_closeGroup {ts : TileState} {x0 : TileState} {g : Nat} (hk : TileQ x0 ts) :
    TileQ x0 (closeGroup ts g) := by
  unfold closeGroup
  try dsimp only
  repeat' with_reducible first
    | assumption
    | apply still_accClear
    | apply still_setGrp
    | exact fun _ _ h => ⟨h.1, h.2, h.3, h.4⟩
    | (apply still_ite <;> intro _)
    | intro _
    | dsimp only
    | split
    | apply TileQ.queues
    | apply TileQ.inflight
    | apply TileQ.running
    | apply TileQ.qstop
    | exact ⟨‹TileQ _ _›.queues, ‹TileQ _ _›.inflight, ‹TileQ _ _›.running, ‹TileQ _ _›.qstop⟩
    | (refine ⟨?_, ?_, ?_, ?_⟩ <;> try dsimp only)

theorem still_drainWrite {ts : TileState} {x0 : TileState} {o : DrainOps} {bytes : List Byte} {recs : List Byte} {draws : List (Nat × BitVec 24)} (hk : TileQ x0 ts) :
    TileQ x0 (drainWrite ts o bytes recs draws) := by
  unfold drainWrite
  try dsimp only
  repeat' with_reducible first
    | assumption
    | apply still_setVregFile
    | apply still_bufWrite
    | apply mstore_wf
    | apply kwf_kset
    | refine foldl_kwf ?_ fun _ _ h => kwf_kset h
    | exact fun _ _ h => ⟨h.1, h.2, h.3, h.4⟩
    | (apply still_ite <;> intro _)
    | intro _
    | dsimp only
    | split
    | apply TileQ.queues
    | apply TileQ.inflight
    | apply TileQ.running
    | apply TileQ.qstop
    | exact ⟨‹TileQ _ _›.queues, ‹TileQ _ _›.inflight, ‹TileQ _ _›.running, ‹TileQ _ _›.qstop⟩
    | (refine ⟨?_, ?_, ?_, ?_⟩ <;> try dsimp only)

theorem still_vstore {ts : TileState} {x0 : TileState} {core : Nat} {r : VRef} {off : Nat} {bs : List Byte} (hk : TileQ x0 ts) :
    TileQ x0 (vstore ts core r off bs) := by
  unfold vstore
  try dsimp only
  repeat' with_reducible first
    | assumption
    | apply still_setVregFile
    | apply still_bufWrite
    | apply mstore_wf
    | exact fun _ _ h => ⟨h.1, h.2, h.3, h.4⟩
    | (apply still_ite <;> intro _)
    | intro _
    | dsimp only
    | split
    | apply TileQ.queues
    | apply TileQ.inflight
    | apply TileQ.running
    | apply TileQ.qstop
    | exact ⟨‹TileQ _ _›.queues, ‹TileQ _ _›.inflight, ‹TileQ _ _›.running, ‹TileQ _ _›.qstop⟩
    | (refine ⟨?_, ?_, ?_, ?_⟩ <;> try dsimp only)

theorem still_vfinish {t : Tid} {core : Nat} {d : VRef} {off : Nat} {ev : NumEv} {rs : List VRes} (hk : Still s0 s) :
    Still s0 (vfinish s t core d off ev rs) := by
  unfold vfinish
  try dsimp only
  repeat' with_reducible first
    | assumption
    | apply still_noteNum
    | apply still_vstore
    | apply still_modTile
    | exact fun _ _ h => ⟨h.1, h.2, h.3, h.4⟩
    | (apply still_ite <;> intro _)
    | intro _
    | dsimp only
    | exact still_of ‹Still _ _› rfl
    | split
    | apply TileQ.queues
    | apply TileQ.inflight
    | apply TileQ.running
    | apply TileQ.qstop
    | exact ⟨‹TileQ _ _›.queues, ‹TileQ _ _›.inflight, ‹TileQ _ _›.running, ‹TileQ _ _›.qstop⟩
    | (refine ⟨?_, ?_, ?_, ?_⟩ <;> try dsimp only)

theorem still_quantQ8Out {t : Tid} {o : QuantOps} {blocks : List (List Rat)} (hk : Still s0 s) :
    Still s0 (quantQ8Out s t o blocks) := by
  unfold quantQ8Out
  try dsimp only
  repeat' with_reducible first
    | assumption
    | apply still_bufWrite
    | apply still_modTile
    | apply still_tinc
    | exact fun _ _ h => ⟨h.1, h.2, h.3, h.4⟩
    | (apply still_ite <;> intro _)
    | intro _
    | dsimp only
    | split
    | apply TileQ.queues
    | apply TileQ.inflight
    | apply TileQ.running
    | apply TileQ.qstop
    | exact ⟨‹TileQ _ _›.queues, ‹TileQ _ _›.inflight, ‹TileQ _ _›.running, ‹TileQ _ _›.qstop⟩
    | (refine ⟨?_, ?_, ?_, ?_⟩ <;> try dsimp only)

theorem still_writeEntries {ts : TileState} {x0 : TileState} {base : Nat} {bs : List BlockOut} (hk : TileQ x0 ts) :
    TileQ x0 (writeEntries ts base bs) := by
  unfold writeEntries
  try dsimp only
  repeat' with_reducible first
    | assumption
    | apply mstore_wf
    | exact fun _ _ h => ⟨h.1, h.2, h.3, h.4⟩
    | (apply still_ite <;> intro _)
    | intro _
    | dsimp only
    | split
    | apply TileQ.queues
    | apply TileQ.inflight
    | apply TileQ.running
    | apply TileQ.qstop
    | exact ⟨‹TileQ _ _›.queues, ‹TileQ _ _›.inflight, ‹TileQ _ _›.running, ‹TileQ _ _›.qstop⟩
    | (refine ⟨?_, ?_, ?_, ?_⟩ <;> try dsimp only)

theorem still_tincIf {t : Tid} {f : Fld} {n : Nat} (hk : Still s0 s) :
    Still s0 (tincIf s t f n) := by
  unfold tincIf
  try dsimp only
  repeat' with_reducible first
    | assumption
    | apply still_tinc
    | (apply still_ite <;> intro _)
    | intro _
    | dsimp only
    | split

theorem still_quantQ4Out {t : Tid} {o : QuantOps} {blocks : List (List Rat)} (hk : Still s0 s) :
    Still s0 (quantQ4Out s t o blocks) := by
  unfold quantQ4Out
  extract_lets q bs n s1 ct total counted s2 s3 s4 s5 s6 s7
  have h1 : Still s0 s1 := by
    refine still_modTile hk fun _ ts h => ?_
    refine still_writeEntries (tileQ_foldl (still_bufWrite (still_bufWrite (still_bufWrite h))) fun ts b h => ?_)
    split
    · exact still_bufWrite (still_bufWrite h)
    · exact h
  clear_value s1
  have h7 : Still s0 s7 :=
    still_tincIf (still_tincIf (still_tincIf (still_tincIf (still_tincIf (still_tincIf h1)))))
  clear_value s7
  exact still_modTile h7 fun _ _ h => ⟨h.1, h.2, h.3, h.4⟩

theorem still_setRegion {ts : TileState} {x0 : TileState} {r : Nat} {g : GridRegion} (hk : TileQ x0 ts) :
    TileQ x0 (setRegion ts r g) := by
  unfold setRegion
  try dsimp only
  repeat' with_reducible first
    | assumption
    | apply kwf_kset
    | exact fun _ _ h => ⟨h.1, h.2, h.3, h.4⟩
    | (apply still_ite <;> intro _)
    | intro _
    | dsimp only
    | split
    | apply TileQ.queues
    | apply TileQ.inflight
    | apply TileQ.running
    | apply TileQ.qstop
    | exact ⟨‹TileQ _ _›.queues, ‹TileQ _ _›.inflight, ‹TileQ _ _›.running, ‹TileQ _ _›.qstop⟩
    | (refine ⟨?_, ?_, ?_, ?_⟩ <;> try dsimp only)

theorem still_loadCores {ts : TileState} {x0 : TileState} {g : GridRegion} {image : List Byte} (hk : TileQ x0 ts) :
    TileQ x0 (loadCores ts g image) := by
  unfold loadCores
  try dsimp only
  repeat' with_reducible first
    | assumption
    | apply still_foldl
    | apply mstore_wf
    | apply tileQ_foldl
    | exact fun _ _ h => ⟨h.1, h.2, h.3, h.4⟩
    | (apply still_ite <;> intro _)
    | intro _
    | dsimp only
    | split
    | apply TileQ.queues
    | apply TileQ.inflight
    | apply TileQ.running
    | apply TileQ.qstop
    | exact ⟨‹TileQ _ _›.queues, ‹TileQ _ _›.inflight, ‹TileQ _ _›.running, ‹TileQ _ _›.qstop⟩
    | (refine ⟨?_, ?_, ?_, ?_⟩ <;> try dsimp only)

theorem still_orient {ts : TileState} {x0 : TileState} {waves : DWord} (hk : TileQ x0 ts) :
    TileQ x0 (orient ts waves) := by
  unfold orient
  try dsimp only
  repeat' with_reducible first
    | assumption
    | exact fun _ _ h => ⟨h.1, h.2, h.3, h.4⟩
    | (apply still_ite <;> intro _)
    | intro _
    | dsimp only
    | split
    | apply TileQ.queues
    | apply TileQ.inflight
    | apply TileQ.running
    | apply TileQ.qstop
    | exact ⟨‹TileQ _ _›.queues, ‹TileQ _ _›.inflight, ‹TileQ _ _›.running, ‹TileQ _ _›.qstop⟩
    | (refine ⟨?_, ?_, ?_, ?_⟩ <;> try dsimp only)

theorem still_locWrite {d : Nat} {bs : List Byte} {y0 : Loc} (hk : Still s0 s) :
    Still s0 (locWrite s d bs y0) := by
  unfold locWrite
  try dsimp only
  repeat' with_reducible first
    | assumption
    | apply still_bufWrite
    | apply still_modTile
    | apply still_stackWrite
    | exact fun _ _ h => ⟨h.1, h.2, h.3, h.4⟩
    | (apply still_ite <;> intro _)
    | intro _
    | dsimp only
    | split
    | apply TileQ.queues
    | apply TileQ.inflight
    | apply TileQ.running
    | apply TileQ.qstop
    | exact ⟨‹TileQ _ _›.queues, ‹TileQ _ _›.inflight, ‹TileQ _ _›.running, ‹TileQ _ _›.qstop⟩
    | (refine ⟨?_, ?_, ?_, ?_⟩ <;> try dsimp only)

theorem still_releaseWindow {d : Nat} {rho : Nat} {n : Nat} {p : KvPlan} {pos : Nat} (hk : Still s0 s) :
    Still s0 (releaseWindow s d rho n p pos) := by
  unfold releaseWindow
  try dsimp only
  repeat' with_reducible first
    | assumption
    | apply still_setWalker
    | apply still_unmapPage
    | apply still_forEach
    | apply kwf_filter
    | (apply still_ite <;> intro _)
    | intro _
    | dsimp only
    | exact still_of ‹Still _ _› rfl
    | split

theorem still_mapPage {d : Nat} {c : Nat} {slot : Nat} {layer : Nat} {n : Nat} {rho : Nat} {p : KvPlan} {vpn : Nat} (hk : Still s0 s) :
    Still s0 (mapPage s d c slot layer n rho p vpn) := by
  unfold mapPage
  try dsimp only
  repeat' with_reducible first
    | assumption
    | apply still_setWalker
    | apply still_takeFrame
    | apply still_setL2
    | refine still_optSnd (by assumption) ?_
    | (apply still_ite <;> intro _)
    | intro _
    | dsimp only
    | exact still_of ‹Still _ _› rfl
    | split

theorem still_takePositions {d c slot layer n rho : Nat} {p : KvPlan} {heads : List Nat} {pos fuel done : Nat}
    (hk : Still s0 s) : Still s0 (takePositions d c slot layer n rho p heads pos fuel done s).2 := by
  induction fuel generalizing done s with
  | zero => exact hk
  | succ k ih =>
    unfold takePositions
    split
    · exact hk
    · extract_lets pages
      split
      split
      · exact hk
      · exact ih (still_forEach hk fun s v h => still_mapPage h)

theorem still_storeKv {t : Tid} {a : KvAt} {o : AppendOps} {stored : Nat} (hk : Still s0 s) :
    Still s0 (storeKv s t a o stored) := by
  unfold storeKv
  try dsimp only
  repeat' with_reducible first
    | assumption
    | apply still_writeTail
    | apply still_noteNum
    | apply still_writeKey
    | apply still_quantValueBlock
    | apply still_forEach
    | (apply still_ite <;> intro _)
    | intro _
    | dsimp only
    | exact still_of ‹Still _ _› rfl
    | split

theorem still_closeRange {d : Nat} {a : KvAt} {o : AppendOps} {stored : Nat} (hk : Still s0 s) :
    Still s0 (closeRange s d a o stored) := by
  unfold closeRange
  try dsimp only
  repeat' with_reducible first
    | assumption
    | apply still_setWalker
    | apply still_quantValueBlock
    | apply still_forEach
    | (apply still_ite <;> intro _)
    | intro _
    | dsimp only
    | exact still_of ‹Still _ _› rfl
    | split

theorem still_reportNoPage {t : Tid} {o : AppendOps} {stored : Nat} (hk : Still s0 s) :
    Still s0 (reportNoPage s t o stored) := by
  unfold reportNoPage
  try dsimp only
  repeat' with_reducible first
    | assumption
    | apply still_dinc
    | apply still_logPut
    | apply still_modGroup
    | (apply still_ite <;> intro _)
    | intro _
    | dsimp only
    | exact still_of ‹Still _ _› rfl
    | split

theorem still_appendCut {d : Nat} {a : KvAt} {w : WRec} {pos : Nat} (hk : Still s0 s) :
    Still s0 (appendCut s d a w pos) := by
  unfold appendCut
  try dsimp only
  repeat' with_reducible first
    | assumption
    | apply still_releaseWindow
    | apply still_kvSetLen
    | (apply still_ite <;> intro _)
    | intro _
    | dsimp only
    | split

/-! ## Starting and launching -/

theorem startCmd_takes {op q : Nat} {t : Tid} {body : QCmd → State → State} {c : QCmd} {rest : List QCmd}
    (h : HeadStarts s t q op c rest) (hq : opQueueOk op q = true) (hd : opDefined op = true) :
    startCmd op q s t body = body c (takeHead s t q rest) := by
  obtain ⟨h1, h2, h3, h4, h5⟩ := h
  unfold startCmd
  dsimp only
  rw [h1]
  simp [h2, h3, h4, h5, hq, hd]

theorem checked_ok {t : Tid} {q : Nat} {c : QCmd} {l : List Check} {ok : State → State} (h : firstBroken l = none) :
    checked s t q c l ok = ok s := by
  unfold checked
  rw [h]

theorem takeHead_queues (h : kwf blankTile s.tiles = true) {t : Tid} {q : Nat} {rest : List QCmd} :
    (tileOf (takeHead s t q rest) t).queues = (setQueue (tileOf s t) q rest).queues
      ∧ (tileOf (takeHead s t q rest) t).inflight = (tileOf s t).inflight := by
  unfold takeHead
  rw [tileOf_modTile_self h]
  exact ⟨rfl, rfl⟩

theorem takeHead_tiles (h : kwf blankTile s.tiles = true) {t : Tid} {q : Nat} {rest : List QCmd} :
    kwf blankTile (takeHead s t q rest).tiles = true := kwf_kset h

theorem launch_spec (h : kwf blankTile s.tiles = true) {t : Tid} {q : Nat} {c : QCmd} {a : Nat} :
    (tileOf (launch s t q c a) t).queues = (tileOf s t).queues
      ∧ ∃ f, (tileOf (launch s t q c a) t).inflight = (tileOf s t).inflight ++ [f] ∧ f.queue = Fin.ofNat 6 q
        ∧ f.op = BitVec.ofNat 8 (descOp c.desc) ∧ f.cref = BitVec.ofNat 32 (dbits c.desc.w0 0 32)
        ∧ f.amount = BitVec.ofNat 32 a := by
  unfold launch
  dsimp only
  rw [tileOf_modTile_self h]
  exact ⟨rfl, _, rfl, rfl, rfl, rfl, rfl⟩

/-- Work that keeps the queues and the commands in flight, then a launch. -/
theorem launched_of {v : State} {t : Tid} {q : Nat} {c : QCmd} {rest : List QCmd} {a : Nat}
    (h : kwf blankTile s.tiles = true) (hq : q < 6) (hv : Still (takeHead s t q rest) v) :
    Launched s (launch v t q c a) t q c rest a := by
  obtain ⟨h1, f, h2, h3, h4, h5, h6⟩ := launch_spec (t := t) (q := q) (c := c) (a := a) hv.tiles
  have hs := hv.same t
  have ht := takeHead_queues (t := t) (q := q) (rest := rest) h
  refine ⟨h1.trans (hs.queues.trans ht.1), f, ?_, ?_, h4, h5, h6⟩
  · rw [h2, hs.inflight, ht.2]
  · rw [h3]
    exact Nat.mod_eq_of_lt hq


end Sys2Proof.Machine
end

