-- ==== Sys2Proof/Laws/KeepPlace.lean ====
section
/-! SUPPORT. One lemma for each operation of steps of sequences, placement, fences, barriers, quality and the timebase: what it keeps (Laws/Keep.lean). A
hypothesis `h_f` is asked for each effect that the operation is given. -/
namespace Sys2Proof.Machine

variable {s0 s : State}

/-! ## Machine/Steps.lean -/

theorem keep_askSeat {q : Seq} (hk : Keep s0 s) :
    Keep s0 (askSeat s q) := by
  unfold askSeat
  try dsimp only
  repeat' with_reducible first
    | assumption
    | apply keep_modThis
    | apply keep_joinLane
    | (apply keep_ite <;> intro _)
    | intro _
    | dsimp only
    | exact keep_of ‹Keep _ _› rfl rfl rfl rfl rfl rfl rfl rfl rfl
    | split

theorem keep_nextDecode {q0 : Seq} (hk : Keep s0 s) :
    Keep s0 (nextDecode s q0) := by
  unfold nextDecode
  try dsimp only
  repeat' with_reducible first
    | assumption
    | apply keep_giveStep
    | apply keep_joinLane
    | (apply keep_ite <;> intro _)
    | intro _
    | dsimp only
    | exact keep_of ‹Keep _ _› rfl rfl rfl rfl rfl rfl rfl rfl rfl
    | split

theorem keep_setBack {c : Nat} {slot : Nat} {first : Nat} (hk : Keep s0 s) :
    Keep s0 (setBack s c slot first) := by
  unfold setBack
  try dsimp only
  repeat' with_reducible first
    | assumption
    | apply keep_slotSetLen
    | apply keep_modThis
    | (apply keep_ite <;> intro _)
    | intro _
    | dsimp only
    | exact keep_of ‹Keep _ _› rfl rfl rfl rfl rfl rfl rfl rfl rfl
    | split

theorem keep_discardAll {c : Fin 4} (hk : Keep s0 s) :
    Keep s0 (discardAll s c) := by
  unfold discardAll
  try dsimp only
  repeat' with_reducible first
    | assumption
    | apply keep_drained
    | apply keep_modThis
    | apply keep_modServing
    | apply keep_requeue
    | apply keep_dropSeat
    | apply keep_setBack
    | apply keep_forEach
    | apply kwf_filter
    | (apply keep_ite <;> intro _)
    | intro _
    | dsimp only
    | exact keep_of ‹Keep _ _› rfl rfl rfl rfl rfl rfl rfl rfl rfl
    | split

/-! ## Machine/Place.lean -/

theorem keep_setRole {t : Tid} {r : Nat} (hk : Keep s0 s) :
    Keep s0 (setRole s t r) := by
  unfold setRole
  try dsimp only
  repeat' with_reducible first
    | assumption
    | apply keep_tset
    | (apply keep_ite <;> intro _)
    | intro _
    | dsimp only
    | split

theorem keep_meshTables {c : Nat} {x : Context} (hk : Keep s0 s) :
    Keep s0 (meshTables s c x) := by
  unfold meshTables
  try dsimp only
  repeat' with_reducible first
    | assumption
    | apply keep_modTile
    | apply keep_forEach
    | apply kwf_filter
    | exact fun _ h => ⟨h.1, h.2, h.3, h.4, h.5, h.6, h.7, h.8, h.9, h.10, h.11, h.12⟩
    | (apply keep_ite <;> intro _)
    | intro _
    | dsimp only
    | exact keep_of ‹Keep _ _› rfl rfl rfl rfl rfl rfl rfl rfl rfl
    | split
    | (refine ⟨?_, ?_, ?_, ?_, ?_, ?_, ?_, ?_, ?_, ?_, ?_, ?_⟩ <;> try dsimp only)
    | apply TileMem.sdata
    | apply TileMem.buf
    | apply TileMem.side
    | apply TileMem.vreg0
    | apply TileMem.vreg1
    | apply TileMem.sregs
    | apply TileMem.store
    | apply TileMem.queues
    | apply TileMem.groups
    | apply TileMem.acc
    | apply TileMem.regions
    | apply TileMem.crossings

theorem keep_dropGroupTables {c : Nat} (hk : Keep s0 s) :
    Keep s0 (dropGroupTables s c) := by
  unfold dropGroupTables
  try dsimp only
  repeat' with_reducible first
    | assumption
    | apply keep_modTile
    | apply keep_forEach
    | apply kwf_filter
    | exact fun _ h => ⟨h.1, h.2, h.3, h.4, h.5, h.6, h.7, h.8, h.9, h.10, h.11, h.12⟩
    | (apply keep_ite <;> intro _)
    | intro _
    | dsimp only
    | exact keep_of ‹Keep _ _› rfl rfl rfl rfl rfl rfl rfl rfl rfl
    | split
    | (refine ⟨?_, ?_, ?_, ?_, ?_, ?_, ?_, ?_, ?_, ?_, ?_, ?_⟩ <;> try dsimp only)
    | apply TileMem.sdata
    | apply TileMem.buf
    | apply TileMem.side
    | apply TileMem.vreg0
    | apply TileMem.vreg1
    | apply TileMem.sregs
    | apply TileMem.store
    | apply TileMem.queues
    | apply TileMem.groups
    | apply TileMem.acc
    | apply TileMem.regions
    | apply TileMem.crossings

theorem keep_blankProgram {ts : TileState} (hk : TileMem ts) :
    TileMem (blankProgram ts) := by
  unfold blankProgram
  try dsimp only
  repeat' with_reducible first
    | assumption
    | exact fun _ h => ⟨h.1, h.2, h.3, h.4, h.5, h.6, h.7, h.8, h.9, h.10, h.11, h.12⟩
    | (apply keep_ite <;> intro _)
    | intro _
    | dsimp only
    | split
    | exact kwf_nil
    | exact memory_nil
    | (refine ⟨?_, ?_, ?_, ?_, ?_, ?_, ?_, ?_, ?_, ?_, ?_, ?_⟩ <;> try dsimp only)
    | apply TileMem.sdata
    | apply TileMem.buf
    | apply TileMem.side
    | apply TileMem.vreg0
    | apply TileMem.vreg1
    | apply TileMem.sregs
    | apply TileMem.store
    | apply TileMem.queues
    | apply TileMem.groups
    | apply TileMem.acc
    | apply TileMem.regions
    | apply TileMem.crossings

theorem keep_clearCtrs {t : Tid} {n : Nat} (hk : Keep s0 s) : Keep s0 (clearCtrs s t n) := by
  unfold clearCtrs
  exact keep_regsFilter hk

theorem initialSdata_wf {x : Context} {sl : Slice} : Memory.wf (initialSdata x sl) = true := by
  unfold initialSdata
  refine foldl_wf (mstore_wf rfl) fun m k h => foldl_wf h fun m i h => ?_
  dsimp only
  split
  · exact h
  · exact mwrite_wf h

theorem patchedDescr_wf {c : Nat} {x : Context} {lane : List Tid} {sl : Slice} :
    kwf zeroDesc (patchedDescr c x lane sl) = true := by
  unfold patchedDescr
  exact foldl_kwf rfl fun m e h => kwf_kset h

theorem blankProgram_mem {ts : TileState} (h : TileMem ts) : TileMem (blankProgram ts) :=
  ⟨h.1, h.2, h.3, h.4, h.5, rfl, h.7, rfl, rfl, rfl, h.11, h.12⟩

theorem keep_programTile {c : Nat} {x : Context} {lane : List Tid} {layer pos : Nat} {t : Tid} (hk : Keep s0 s) :
    Keep s0 (programTile s c x lane layer pos t) := by
  unfold programTile
  split
  · exact hk
  · extract_lets s1 s2 s3 s4 s5 s6 s7 s8
    have h1 : Keep s0 s1 := keep_modTile hk fun ts h =>
      ⟨initialSdata_wf, h.2, h.3, h.4, h.5, rfl, patchedDescr_wf, rfl, rfl, rfl, h.11, h.12⟩
    clear_value s1
    exact keep_clearCtrs (keep_tset (keep_tset (keep_tset (keep_tset (keep_tset (keep_tset (keep_tset h1)))))))

theorem keep_restoreTile {c : Nat} {x : Context} {key : Nat} {t : Tid} (hk : Keep s0 s) :
    Keep s0 (restoreTile s c x key t) := by
  unfold restoreTile
  split
  · exact hk
  · rename_i sl _
    extract_lets m patch s1 s2
    have hp : ∀ ts, kwf zeroDesc ts.store = true → kwf zeroDesc (patch ts) = true := by
      intro ts h
      dsimp only [patch, m]
      refine foldl_kwf ?_ fun l p h => ?_
      · split
        · exact foldl_kwf rfl fun l e h => kwf_kset h
        · exact h
      · split
        · exact kwf_kset h
        · exact h
    have h1 : Keep s0 s1 := keep_modTile hk fun ts h =>
      ⟨initialSdata_wf, h.2, h.3, h.4, h.5, rfl, hp _ h.7, rfl, rfl, rfl, h.11, h.12⟩
    clear_value s1
    exact keep_clearCtrs (keep_tset h1)

theorem keep_startTile {t : Tid} (hk : Keep s0 s) :
    Keep s0 (startTile s t) := by
  unfold startTile
  try dsimp only
  repeat' with_reducible first
    | assumption
    | apply keep_modTile
    | exact fun _ h => ⟨h.1, h.2, h.3, h.4, h.5, h.6, h.7, h.8, h.9, h.10, h.11, h.12⟩
    | (apply keep_ite <;> intro _)
    | intro _
    | dsimp only
    | exact keep_of ‹Keep _ _› rfl rfl rfl rfl rfl rfl rfl rfl rfl
    | split
    | (refine ⟨?_, ?_, ?_, ?_, ?_, ?_, ?_, ?_, ?_, ?_, ?_, ?_⟩ <;> try dsimp only)
    | apply TileMem.sdata
    | apply TileMem.buf
    | apply TileMem.side
    | apply TileMem.vreg0
    | apply TileMem.vreg1
    | apply TileMem.sregs
    | apply TileMem.store
    | apply TileMem.queues
    | apply TileMem.groups
    | apply TileMem.acc
    | apply TileMem.regions
    | apply TileMem.crossings

theorem keep_residentCopy {x : Context} {img : Image} {layer : Nat} {pos : Nat} {t : Tid} (hk : Keep s0 s) :
    Keep s0 (residentCopy s x img layer pos t) := by
  unfold residentCopy
  try dsimp only
  repeat' with_reducible first
    | assumption
    | apply keep_modTile
    | apply keep_bufWrite
    | apply keep_forEach
    | apply kwf_filter
    | exact fun _ h => ⟨h.1, h.2, h.3, h.4, h.5, h.6, h.7, h.8, h.9, h.10, h.11, h.12⟩
    | (apply keep_ite <;> intro _)
    | intro _
    | dsimp only
    | split
    | (refine ⟨?_, ?_, ?_, ?_, ?_, ?_, ?_, ?_, ?_, ?_, ?_, ?_⟩ <;> try dsimp only)
    | apply TileMem.sdata
    | apply TileMem.buf
    | apply TileMem.side
    | apply TileMem.vreg0
    | apply TileMem.vreg1
    | apply TileMem.sregs
    | apply TileMem.store
    | apply TileMem.queues
    | apply TileMem.groups
    | apply TileMem.acc
    | apply TileMem.regions
    | apply TileMem.crossings

theorem keep_dropCtrl {ts : List Tid} (hk : Keep s0 s) : Keep s0 (dropCtrl s ts) :=
  keep_dropLines (keep_of hk rfl rfl rfl rfl rfl rfl rfl rfl rfl)

theorem keep_freeSpare {t : Tid} (hk : Keep s0 s) :
    Keep s0 (freeSpare s t) := by
  unfold freeSpare
  try dsimp only
  repeat' with_reducible first
    | assumption
    | apply keep_raise
    | apply keep_blankProgram
    | apply keep_setRole
    | apply keep_tset
    | apply keep_modTile
    | apply keep_setStep
    | exact fun _ h => ⟨h.1, h.2, h.3, h.4, h.5, h.6, h.7, h.8, h.9, h.10, h.11, h.12⟩
    | (apply keep_ite <;> intro _)
    | intro _
    | dsimp only
    | exact keep_of ‹Keep _ _› rfl rfl rfl rfl rfl rfl rfl rfl rfl
    | split
    | (refine ⟨?_, ?_, ?_, ?_, ?_, ?_, ?_, ?_, ?_, ?_, ?_, ?_⟩ <;> try dsimp only)
    | apply TileMem.sdata
    | apply TileMem.buf
    | apply TileMem.side
    | apply TileMem.vreg0
    | apply TileMem.vreg1
    | apply TileMem.sregs
    | apply TileMem.store
    | apply TileMem.queues
    | apply TileMem.groups
    | apply TileMem.acc
    | apply TileMem.regions
    | apply TileMem.crossings

theorem keep_clearLaneStat {l : Nat} (hk : Keep s0 s) :
    Keep s0 (clearLaneStat s l) := by
  unfold clearLaneStat
  try dsimp only
  repeat' with_reducible first
    | assumption
    | apply keep_pset
    | (apply keep_ite <;> intro _)
    | intro _
    | dsimp only
    | split

theorem keep_loseSeats {l : Nat} {x : Lane} (hk : Keep s0 s) :
    Keep s0 (loseSeats s l x) := by
  unfold loseSeats
  try dsimp only
  repeat' with_reducible first
    | assumption
    | apply keep_giveStep
    | apply keep_modThis
    | apply keep_forEach
    | apply kwf_filter
    | (apply keep_ite <;> intro _)
    | intro _
    | dsimp only
    | exact keep_of ‹Keep _ _› rfl rfl rfl rfl rfl rfl rfl rfl rfl
    | split

theorem keep_closeLane {l : Nat} {taken : Tid} (hk : Keep s0 s) :
    Keep s0 (closeLane s l taken) := by
  unfold closeLane
  try dsimp only
  repeat' with_reducible first
    | assumption
    | apply keep_setLane
    | apply keep_loseSeats
    | apply keep_logPut
    | apply keep_freeSpare
    | apply keep_clearLaneStat
    | apply keep_forEach
    | apply kwf_filter
    | (apply keep_ite <;> intro _)
    | intro _
    | dsimp only
    | exact keep_of ‹Keep _ _› rfl rfl rfl rfl rfl rfl rfl rfl rfl
    | split

theorem keep_takeDraftFrames {c : Nat} {x : Context} {d : Nat} (hk : Keep s0 s) :
    Keep s0 (takeDraftFrames s c x d) := by
  unfold takeDraftFrames
  try dsimp only
  repeat' with_reducible first
    | assumption
    | apply keep_takeStateFrame
    | apply keep_forEach
    | apply kwf_filter
    | (apply keep_ite <;> intro _)
    | intro _
    | dsimp only
    | split

theorem keep_formLane {c : Fin 4} (hk : Keep s0 s) : ∀ z, formLane s c = some z → Keep s0 z := by
  intro z hz
  unfold formLane at hz
  split at hz
  · cases hz
  · dsimp only at hz
    split at hz
    · cases hz
    · split at hz
      · cases hz
      · cases hz
        refine keep_forEach (keep_pset (keep_pset (keep_pset (keep_pset (keep_takeDraftFrames (keep_setLane hk)))))) fun s e h => ?_
        exact keep_startTile (keep_residentCopy (keep_tset (keep_programTile (keep_setRole h))))

theorem keep_logLanes {c : Fin 4} {n : Nat} (hk : Keep s0 s) :
    Keep s0 (logLanes s c n) := by
  unfold logLanes
  try dsimp only
  repeat' with_reducible first
    | assumption
    | apply keep_logPut
    | (apply keep_ite <;> intro _)
    | intro _
    | dsimp only
    | exact keep_of ‹Keep _ _› rfl rfl rfl rfl rfl rfl rfl rfl rfl
    | split

theorem keep_formLanes {c : Fin 4} {fuel n : Nat} (hk : Keep s0 s) : Keep s0 (formLanes c fuel n s) := by
  induction fuel generalizing n s with
  | zero =>
    unfold formLanes
    exact keep_ite (fun _ => hk) fun _ => keep_logLanes hk
  | succ k ih =>
    unfold formLanes
    split
    · next e => exact ih (keep_formLane hk _ e)
    · exact keep_ite (fun _ => hk) fun _ => keep_logLanes hk

theorem keep_resetTileRegs {t : Tid} (hk : Keep s0 s) : Keep s0 (resetTileRegs s t) :=
  keep_tset (keep_tset (keep_regsFilter hk))

theorem keep_coldTile {ts : TileState} (h : TileMem ts) : TileMem (coldTile ts) :=
  ⟨rfl, rfl, rfl, rfl, rfl, rfl, rfl, rfl, rfl, rfl, rfl, h.12⟩

theorem keep_resetTile {t : Tid} (hk : Keep s0 s) :
    Keep s0 (resetTile s t) := by
  unfold resetTile
  try dsimp only
  repeat' with_reducible first
    | assumption
    | apply keep_modTile
    | apply keep_coldTile
    | apply keep_tinc
    | apply keep_resetTileRegs
    | exact fun _ h => ⟨h.1, h.2, h.3, h.4, h.5, h.6, h.7, h.8, h.9, h.10, h.11, h.12⟩
    | (apply keep_ite <;> intro _)
    | intro _
    | dsimp only
    | split
    | (refine ⟨?_, ?_, ?_, ?_, ?_, ?_, ?_, ?_, ?_, ?_, ?_, ?_⟩ <;> try dsimp only)
    | apply TileMem.sdata
    | apply TileMem.buf
    | apply TileMem.side
    | apply TileMem.vreg0
    | apply TileMem.vreg1
    | apply TileMem.sregs
    | apply TileMem.store
    | apply TileMem.queues
    | apply TileMem.groups
    | apply TileMem.acc
    | apply TileMem.regions
    | apply TileMem.crossings

theorem keep_endTurnOn {t : Tid} (hk : Keep s0 s) :
    Keep s0 (endTurnOn s t) := by
  unfold endTurnOn
  try dsimp only
  repeat' with_reducible first
    | assumption
    | apply keep_modDie
    | apply keep_modTile
    | apply keep_forEach
    | apply kwf_filter
    | exact fun _ h => ⟨h.1, h.2, h.3, h.4, h.5, h.6, h.7, h.8, h.9, h.10, h.11, h.12⟩
    | exact fun _ h => h
    | (apply keep_ite <;> intro _)
    | intro _
    | dsimp only
    | exact keep_of ‹Keep _ _› rfl rfl rfl rfl rfl rfl rfl rfl rfl
    | split
    | (refine ⟨?_, ?_, ?_, ?_, ?_, ?_, ?_, ?_, ?_, ?_, ?_, ?_⟩ <;> try dsimp only)
    | apply TileMem.sdata
    | apply TileMem.buf
    | apply TileMem.side
    | apply TileMem.vreg0
    | apply TileMem.vreg1
    | apply TileMem.sregs
    | apply TileMem.store
    | apply TileMem.queues
    | apply TileMem.groups
    | apply TileMem.acc
    | apply TileMem.regions
    | apply TileMem.crossings

theorem keep_pushRecord {d : Nat} {r : TestRec} (hk : Keep s0 s) :
    Keep s0 (pushRecord s d r) := by
  unfold pushRecord
  try dsimp only
  repeat' with_reducible first
    | assumption
    | apply keep_modDie
    | exact fun _ h => h
    | (apply keep_ite <;> intro _)
    | intro _
    | dsimp only
    | exact keep_of ‹Keep _ _› rfl rfl rfl rfl rfl rfl rfl rfl rfl
    | split

theorem keep_noteWaits {t : Tid} {x : SliceRun} (hk : Keep s0 s) :
    Keep s0 (noteWaits s t x) := by
  unfold noteWaits
  try dsimp only
  repeat' with_reducible first
    | assumption
    | apply keep_rmax
    | apply keep_forEach
    | apply kwf_filter
    | (apply keep_ite <;> intro _)
    | intro _
    | dsimp only
    | exact keep_of ‹Keep _ _› rfl rfl rfl rfl rfl rfl rfl rfl rfl
    | split

theorem keep_closeSlice {t : Tid} {x : SliceRun} {outcome : Byte} {micros : Half} (hk : Keep s0 s) :
    Keep s0 (closeSlice s t x outcome micros) := by
  unfold closeSlice
  try dsimp only
  repeat' with_reducible first
    | assumption
    | apply keep_noteWaits
    | apply keep_tset
    | apply keep_pushRecord
    | apply keep_modTile
    | apply keep_releaseLooped
    | exact fun _ h => ⟨h.1, h.2, h.3, h.4, h.5, h.6, h.7, h.8, h.9, h.10, h.11, h.12⟩
    | (apply keep_ite <;> intro _)
    | intro _
    | dsimp only
    | exact keep_of ‹Keep _ _› rfl rfl rfl rfl rfl rfl rfl rfl rfl
    | split
    | (refine ⟨?_, ?_, ?_, ?_, ?_, ?_, ?_, ?_, ?_, ?_, ?_, ?_⟩ <;> try dsimp only)
    | apply TileMem.sdata
    | apply TileMem.buf
    | apply TileMem.side
    | apply TileMem.vreg0
    | apply TileMem.vreg1
    | apply TileMem.sregs
    | apply TileMem.store
    | apply TileMem.queues
    | apply TileMem.groups
    | apply TileMem.acc
    | apply TileMem.regions
    | apply TileMem.crossings

theorem keep_abandonSlice {t : Tid} (hk : Keep s0 s) :
    Keep s0 (abandonSlice s t) := by
  unfold abandonSlice
  try dsimp only
  repeat' with_reducible first
    | assumption
    | apply keep_modTile
    | apply keep_tinc
    | apply keep_closeSlice
    | exact fun _ h => ⟨h.1, h.2, h.3, h.4, h.5, h.6, h.7, h.8, h.9, h.10, h.11, h.12⟩
    | (apply keep_ite <;> intro _)
    | intro _
    | dsimp only
    | exact keep_of ‹Keep _ _› rfl rfl rfl rfl rfl rfl rfl rfl rfl
    | split
    | (refine ⟨?_, ?_, ?_, ?_, ?_, ?_, ?_, ?_, ?_, ?_, ?_, ?_⟩ <;> try dsimp only)
    | apply TileMem.sdata
    | apply TileMem.buf
    | apply TileMem.side
    | apply TileMem.vreg0
    | apply TileMem.vreg1
    | apply TileMem.sregs
    | apply TileMem.store
    | apply TileMem.queues
    | apply TileMem.groups
    | apply TileMem.acc
    | apply TileMem.regions
    | apply TileMem.crossings

theorem keep_abandonCheck {t : Tid} (hk : Keep s0 s) :
    Keep s0 (abandonCheck s t) := by
  unfold abandonCheck
  try dsimp only
  repeat' with_reducible first
    | assumption
    | apply keep_tset
    | apply keep_modTile
    | apply keep_tinc
    | exact fun _ h => ⟨h.1, h.2, h.3, h.4, h.5, h.6, h.7, h.8, h.9, h.10, h.11, h.12⟩
    | (apply keep_ite <;> intro _)
    | intro _
    | dsimp only
    | exact keep_of ‹Keep _ _› rfl rfl rfl rfl rfl rfl rfl rfl rfl
    | split
    | (refine ⟨?_, ?_, ?_, ?_, ?_, ?_, ?_, ?_, ?_, ?_, ?_, ?_⟩ <;> try dsimp only)
    | apply TileMem.sdata
    | apply TileMem.buf
    | apply TileMem.side
    | apply TileMem.vreg0
    | apply TileMem.vreg1
    | apply TileMem.sregs
    | apply TileMem.store
    | apply TileMem.queues
    | apply TileMem.groups
    | apply TileMem.acc
    | apply TileMem.regions
    | apply TileMem.crossings

/-! ## Machine/Contexts.lean -/

theorem keep_releaseLanes {c : Nat} (hk : Keep s0 s) :
    Keep s0 (releaseLanes s c) := by
  unfold releaseLanes
  try dsimp only
  repeat' with_reducible first
    | assumption
    | apply keep_setLane
    | apply keep_loseSeats
    | apply keep_clearLaneStat
    | apply keep_forEach
    | (apply keep_ite <;> intro _)
    | intro _
    | dsimp only
    | split

theorem keep_vacateTile {t : Tid} (hk : Keep s0 s) :
    Keep s0 (vacateTile s t) := by
  unfold vacateTile
  try dsimp only
  repeat' with_reducible first
    | assumption
    | apply keep_setRole
    | apply keep_abandonCheck
    | apply keep_tset
    | apply keep_freeSpare
    | apply keep_modTile
    | exact fun _ h => ⟨h.1, h.2, h.3, h.4, h.5, h.6, h.7, h.8, h.9, h.10, h.11, h.12⟩
    | (apply keep_ite <;> intro _)
    | intro _
    | dsimp only
    | exact keep_of ‹Keep _ _› rfl rfl rfl rfl rfl rfl rfl rfl rfl
    | split
    | exact kwf_nil
    | exact memory_nil
    | (refine ⟨?_, ?_, ?_, ?_, ?_, ?_, ?_, ?_, ?_, ?_, ?_, ?_⟩ <;> try dsimp only)
    | apply TileMem.sdata
    | apply TileMem.buf
    | apply TileMem.side
    | apply TileMem.vreg0
    | apply TileMem.vreg1
    | apply TileMem.sregs
    | apply TileMem.store
    | apply TileMem.queues
    | apply TileMem.groups
    | apply TileMem.acc
    | apply TileMem.regions
    | apply TileMem.crossings

theorem keep_dropPageOut {e : PageOut} (hk : Keep s0 s) :
    Keep s0 (dropPageOut s e) := by
  unfold dropPageOut
  try dsimp only
  repeat' with_reducible first
    | assumption
    | apply keep_poolCheck
    | apply keep_setPool
    | (apply keep_ite <;> intro _)
    | intro _
    | dsimp only
    | exact keep_of ‹Keep _ _› rfl rfl rfl rfl rfl rfl rfl rfl rfl
    | split

theorem keep_dropRemote {d : Nat} (hk : Keep s0 s) :
    Keep s0 (dropRemote s d) := by
  unfold dropRemote
  try dsimp only
  repeat' with_reducible first
    | assumption
    | apply keep_dropPageOut
    | apply keep_releaseRemote
    | apply keep_forEach
    | apply kwf_filter
    | (apply keep_ite <;> intro _)
    | intro _
    | dsimp only
    | split

theorem keep_clearStack {d : Nat} (hk : Keep s0 s) : Keep s0 (clearStack s d) :=
  keep_modDie (keep_dropRemote hk) fun _ _ => rfl

theorem keep_setCtxRegs {c : Nat} {state : Nat} {dies : Nat} {first : Nat} {entry : Nat} (hk : Keep s0 s) :
    Keep s0 (setCtxRegs s c state dies first entry) := by
  unfold setCtxRegs
  try dsimp only
  repeat' with_reducible first
    | assumption
    | apply keep_pset
    | apply keep_setCtxState
    | (apply keep_ite <;> intro _)
    | intro _
    | dsimp only
    | split

theorem keep_setProgress {c : Nat} {unit : Nat} {permille : Nat} (hk : Keep s0 s) :
    Keep s0 (setProgress s c unit permille) := by
  unfold setProgress
  try dsimp only
  repeat' with_reducible first
    | assumption
    | apply keep_pset
    | (apply keep_ite <;> intro _)
    | intro _
    | dsimp only
    | split

theorem keep_endLive {c : Nat} {reason : Nat} {code : Nat} (hk : Keep s0 s) :
    Keep s0 (endLive s c reason code) := by
  unfold endLive
  try dsimp only
  repeat' with_reducible first
    | assumption
    | apply keep_endSeq
    | apply keep_forEach
    | apply kwf_filter
    | (apply keep_ite <;> intro _)
    | intro _
    | dsimp only
    | split

theorem keep_teardown {c : Nat} (hk : Keep s0 s) :
    Keep s0 (teardown s c) := by
  unfold teardown
  try dsimp only
  repeat' with_reducible first
    | assumption
    | apply keep_setCtxRegs
    | apply keep_releaseLanes
    | apply keep_vacateTile
    | apply keep_clearStack
    | apply keep_endLive
    | apply keep_dropGroups
    | apply keep_setProgress
    | apply keep_setCtx
    | apply keep_modServing
    | apply keep_pset
    | apply keep_dropCtrl
    | apply keep_releaseSeq
    | apply keep_dropGroupTables
    | apply keep_forEach
    | apply kwf_filter
    | (apply keep_ite <;> intro _)
    | intro _
    | dsimp only
    | exact keep_of ‹Keep _ _› rfl rfl rfl rfl rfl rfl rfl rfl rfl
    | split

theorem keep_setReport {c : Nat} {r : LoadReport} (hk : Keep s0 s) :
    Keep s0 (setReport s c r) := by
  unfold setReport
  try dsimp only
  repeat' with_reducible first
    | assumption
    | apply keep_modLoader
    | apply kwf_kset
    | (apply keep_ite <;> intro _)
    | intro _
    | dsimp only
    | exact keep_of ‹Keep _ _› rfl rfl rfl rfl rfl rfl rfl rfl rfl
    | split

theorem keep_refuseOp {c : Nat} {reason : Nat} {detail : Nat} {step : Nat} {r : LoadReport} (hk : Keep s0 s) :
    Keep s0 (refuseOp s c reason detail step r) := by
  unfold refuseOp
  try dsimp only
  repeat' with_reducible first
    | assumption
    | apply keep_logPut
    | apply keep_setReport
    | (apply keep_ite <;> intro _)
    | intro _
    | dsimp only
    | exact keep_of ‹Keep _ _› rfl rfl rfl rfl rfl rfl rfl rfl rfl
    | split

theorem keep_failLoad {c : Nat} {reason : Nat} {detail : Nat} {step : Nat} (hk : Keep s0 s) :
    Keep s0 (failLoad s c reason detail step) := by
  unfold failLoad
  try dsimp only
  repeat' with_reducible first
    | assumption
    | apply keep_refuseOp
    | apply keep_teardown
    | (apply keep_ite <;> intro _)
    | intro _
    | dsimp only
    | split

theorem keep_cutUnload {c : Nat} (hk : Keep s0 s) :
    Keep s0 (cutUnload s c) := by
  unfold cutUnload
  try dsimp only
  repeat' with_reducible first
    | assumption
    | apply keep_endSeq
    | apply keep_dropGroups
    | apply keep_forEach
    | apply kwf_filter
    | (apply keep_ite <;> intro _)
    | intro _
    | dsimp only
    | split

theorem keep_abandonLoad {c : Nat} {detail : Nat} (hk : Keep s0 s) :
    Keep s0 (abandonLoad s c detail) := by
  unfold abandonLoad
  try dsimp only
  repeat' with_reducible first
    | assumption
    | apply keep_failLoad
    | (apply keep_ite <;> intro _)
    | intro _
    | dsimp only
    | split

/-! ## Machine/Fence.lean -/

theorem keep_failDie {d : Fin 56} {detail : Nat} (hk : Keep s0 s) :
    Keep s0 (failDie s d detail) := by
  unfold failDie
  try dsimp only
  repeat' with_reducible first
    | assumption
    | apply keep_modDie
    | apply keep_logPut
    | apply keep_rmAdd
    | apply keep_stopContext
    | apply keep_closeLane
    | apply keep_abandonLoad
    | apply keep_forEach
    | apply kwf_filter
    | exact fun _ h => h
    | (apply keep_ite <;> intro _)
    | intro _
    | dsimp only
    | exact keep_of ‹Keep _ _› rfl rfl rfl rfl rfl rfl rfl rfl rfl
    | split

theorem keep_takeOver {c : Nat} {t : Tid} {spare : Tid} {key : Nat} (hk : Keep s0 s) :
    Keep s0 (takeOver s c t spare key) := by
  unfold takeOver
  try dsimp only
  repeat' with_reducible first
    | assumption
    | apply keep_residentCopy
    | apply keep_meshTables
    | apply keep_freshWindow
    | apply keep_setRole
    | apply keep_tset
    | apply keep_programTile
    | apply keep_modCtx
    | (apply keep_ite <;> intro _)
    | intro _
    | dsimp only
    | exact keep_of ‹Keep _ _› rfl rfl rfl rfl rfl rfl rfl rfl rfl
    | split

theorem keep_restartSlices {c : Fin 4} {spare : Tid} (hk : Keep s0 s) :
    Keep s0 (restartSlices s c spare) := by
  unfold restartSlices
  try dsimp only
  repeat' with_reducible first
    | assumption
    | apply keep_startTile
    | apply keep_restoreTile
    | apply keep_dropCtrl
    | apply keep_forEach
    | (apply keep_ite <;> intro _)
    | intro _
    | dsimp only
    | exact keep_of ‹Keep _ _› rfl rfl rfl rfl rfl rfl rfl rfl rfl
    | split

theorem keep_patchOthers {c : Nat} {spare : Tid} (hk : Keep s0 s) :
    Keep s0 (patchOthers s c spare) := by
  unfold patchOthers
  try dsimp only
  repeat' with_reducible first
    | assumption
    | apply keep_restoreTile
    | apply keep_forEach
    | (apply keep_ite <;> intro _)
    | intro _
    | dsimp only
    | exact keep_of ‹Keep _ _› rfl rfl rfl rfl rfl rfl rfl rfl rfl
    | split

theorem keep_darken {t : Tid} (hk : Keep s0 s) :
    Keep s0 (darken s t) := by
  unfold darken
  try dsimp only
  repeat' with_reducible first
    | assumption
    | apply keep_raise
    | apply keep_blankProgram
    | apply keep_setRole
    | apply keep_abandonCheck
    | apply keep_tset
    | apply keep_modTile
    | apply keep_endTurnOn
    | apply keep_abandonSlice
    | apply keep_leaveEpisode
    | exact fun _ h => ⟨h.1, h.2, h.3, h.4, h.5, h.6, h.7, h.8, h.9, h.10, h.11, h.12⟩
    | (apply keep_ite <;> intro _)
    | intro _
    | dsimp only
    | exact keep_of ‹Keep _ _› rfl rfl rfl rfl rfl rfl rfl rfl rfl
    | split
    | exact kwf_nil
    | exact memory_nil
    | (refine ⟨?_, ?_, ?_, ?_, ?_, ?_, ?_, ?_, ?_, ?_, ?_, ?_⟩ <;> try dsimp only)
    | apply TileMem.sdata
    | apply TileMem.buf
    | apply TileMem.side
    | apply TileMem.vreg0
    | apply TileMem.vreg1
    | apply TileMem.sregs
    | apply TileMem.store
    | apply TileMem.queues
    | apply TileMem.groups
    | apply TileMem.acc
    | apply TileMem.regions
    | apply TileMem.crossings

theorem keep_tileFenced {t : Tid} {detail : Nat} {spare : Nat} (hk : Keep s0 s) :
    Keep s0 (tileFenced s t detail spare) := by
  unfold tileFenced
  try dsimp only
  repeat' with_reducible first
    | assumption
    | apply keep_logPut
    | (apply keep_ite <;> intro _)
    | intro _
    | dsimp only
    | split

theorem keep_idleTakeOver {t : Tid} {detail : Nat} (hk : Keep s0 s) :
    Keep s0 (idleTakeOver s t detail) := by
  unfold idleTakeOver
  try dsimp only
  repeat' with_reducible first
    | assumption
    | apply keep_setRole
    | apply keep_closeLane
    | apply keep_failDie
    | apply keep_tileFenced
    | (apply keep_ite <;> intro _)
    | intro _
    | dsimp only
    | exact keep_of ‹Keep _ _› rfl rfl rfl rfl rfl rfl rfl rfl rfl
    | split

theorem keep_fenceHome {t : Tid} {detail : Nat} {active : Bool} {home : Option (Nat × Nat)} (hk : Keep s0 s) :
    Keep s0 (fenceHome s t detail active home) := by
  unfold fenceHome
  try dsimp only
  repeat' with_reducible first
    | assumption
    | apply keep_cutUnload
    | apply keep_discardAll
    | apply keep_logPut
    | apply keep_restartSlices
    | apply keep_closeLane
    | apply keep_bumpFree
    | apply keep_idleTakeOver
    | apply keep_failDie
    | apply keep_takeOver
    | apply keep_patchOthers
    | apply keep_tileFenced
    | apply kwf_filter
    | (apply keep_ite <;> intro _)
    | intro _
    | dsimp only
    | exact keep_of ‹Keep _ _› rfl rfl rfl rfl rfl rfl rfl rfl rfl
    | split

theorem keep_fenceTile {t : Tid} {cause : FenceCause} (hk : Keep s0 s) :
    Keep s0 (fenceTile s t cause) := by
  unfold fenceTile
  try dsimp only
  repeat' with_reducible first
    | assumption
    | apply keep_rmAdd
    | apply keep_darken
    | apply keep_modPlane
    | apply keep_fenceHome
    | (apply keep_ite <;> intro _)
    | intro _
    | dsimp only
    | exact keep_of ‹Keep _ _› rfl rfl rfl rfl rfl rfl rfl rfl rfl
    | split

/-! ## Machine/TileEvents.lean -/

theorem keep_eccWritebackEff {t : Tid} {line : Nat} {word : Nat} (hk : Keep s0 s) :
    Keep s0 (eccWritebackEff t line word s) := by
  unfold eccWritebackEff
  try dsimp only
  repeat' with_reducible first
    | assumption
    | apply keep_modTile
    | apply kwf_filter
    | exact fun _ h => ⟨h.1, h.2, h.3, h.4, h.5, h.6, h.7, h.8, h.9, h.10, h.11, h.12⟩
    | (apply keep_ite <;> intro _)
    | intro _
    | dsimp only
    | exact keep_of ‹Keep _ _› rfl rfl rfl rfl rfl rfl rfl rfl rfl
    | split
    | (refine ⟨?_, ?_, ?_, ?_, ?_, ?_, ?_, ?_, ?_, ?_, ?_, ?_⟩ <;> try dsimp only)
    | apply TileMem.sdata
    | apply TileMem.buf
    | apply TileMem.side
    | apply TileMem.vreg0
    | apply TileMem.vreg1
    | apply TileMem.sregs
    | apply TileMem.store
    | apply TileMem.queues
    | apply TileMem.groups
    | apply TileMem.acc
    | apply TileMem.regions
    | apply TileMem.crossings

theorem keep_residentLost {t : Tid} {x : Context} {r : Region} {line : Nat} (hk : Keep s0 s) :
    Keep s0 (residentLost s t x r line) := by
  unfold residentLost
  try dsimp only
  repeat' with_reducible first
    | assumption
    | apply keep_modGroup
    | apply keep_startRefetch
    | apply keep_modTile
    | apply keep_bufWrite
    | exact fun _ h => ⟨h.1, h.2, h.3, h.4, h.5, h.6, h.7, h.8, h.9, h.10, h.11, h.12⟩
    | (apply keep_ite <;> intro _)
    | intro _
    | dsimp only
    | exact keep_of ‹Keep _ _› rfl rfl rfl rfl rfl rfl rfl rfl rfl
    | split
    | (refine ⟨?_, ?_, ?_, ?_, ?_, ?_, ?_, ?_, ?_, ?_, ?_, ?_⟩ <;> try dsimp only)
    | apply TileMem.sdata
    | apply TileMem.buf
    | apply TileMem.side
    | apply TileMem.vreg0
    | apply TileMem.vreg1
    | apply TileMem.sregs
    | apply TileMem.store
    | apply TileMem.queues
    | apply TileMem.groups
    | apply TileMem.acc
    | apply TileMem.regions
    | apply TileMem.crossings

theorem keep_bowlerBufferEff {t : Tid} (hk : Keep s0 s) :
    Keep s0 (bowlerBufferEff t s) := by
  unfold bowlerBufferEff
  try dsimp only
  repeat' with_reducible first
    | assumption
    | apply keep_logPut
    | apply keep_doomGroup
    | apply keep_modTile
    | apply keep_residentLost
    | exact fun _ h => ⟨h.1, h.2, h.3, h.4, h.5, h.6, h.7, h.8, h.9, h.10, h.11, h.12⟩
    | (apply keep_ite <;> intro _)
    | intro _
    | dsimp only
    | exact keep_of ‹Keep _ _› rfl rfl rfl rfl rfl rfl rfl rfl rfl
    | split
    | exact kwf_nil
    | exact memory_nil
    | (refine ⟨?_, ?_, ?_, ?_, ?_, ?_, ?_, ?_, ?_, ?_, ?_, ?_⟩ <;> try dsimp only)
    | apply TileMem.sdata
    | apply TileMem.buf
    | apply TileMem.side
    | apply TileMem.vreg0
    | apply TileMem.vreg1
    | apply TileMem.sregs
    | apply TileMem.store
    | apply TileMem.queues
    | apply TileMem.groups
    | apply TileMem.acc
    | apply TileMem.regions
    | apply TileMem.crossings

theorem keep_bufferScrubEff {t : Tid} {errs : List MemErr} (hk : Keep s0 s) :
    Keep s0 (bufferScrubEff t errs s) := by
  unfold bufferScrubEff
  try dsimp only
  repeat' with_reducible first
    | assumption
    | apply keep_applyErr
    | apply keep_forEach
    | (apply keep_ite <;> intro _)
    | intro _
    | dsimp only
    | exact keep_of ‹Keep _ _› rfl rfl rfl rfl rfl rfl rfl rfl rfl
    | split

theorem keep_quadrantRotateEff {t : Tid} (hk : Keep s0 s) :
    Keep s0 (quadrantRotateEff t s) := by
  unfold quadrantRotateEff
  try dsimp only
  repeat' with_reducible first
    | assumption
    | apply keep_modTile
    | exact fun _ h => ⟨h.1, h.2, h.3, h.4, h.5, h.6, h.7, h.8, h.9, h.10, h.11, h.12⟩
    | (apply keep_ite <;> intro _)
    | intro _
    | dsimp only
    | exact keep_of ‹Keep _ _› rfl rfl rfl rfl rfl rfl rfl rfl rfl
    | split
    | (refine ⟨?_, ?_, ?_, ?_, ?_, ?_, ?_, ?_, ?_, ?_, ?_, ?_⟩ <;> try dsimp only)
    | apply TileMem.sdata
    | apply TileMem.buf
    | apply TileMem.side
    | apply TileMem.vreg0
    | apply TileMem.vreg1
    | apply TileMem.sregs
    | apply TileMem.store
    | apply TileMem.queues
    | apply TileMem.groups
    | apply TileMem.acc
    | apply TileMem.regions
    | apply TileMem.crossings

theorem keep_newtAlternateEff {t : Tid} (hk : Keep s0 s) :
    Keep s0 (newtAlternateEff t s) := by
  unfold newtAlternateEff
  try dsimp only
  repeat' with_reducible first
    | assumption
    | apply keep_modTile
    | exact fun _ h => ⟨h.1, h.2, h.3, h.4, h.5, h.6, h.7, h.8, h.9, h.10, h.11, h.12⟩
    | (apply keep_ite <;> intro _)
    | intro _
    | dsimp only
    | exact keep_of ‹Keep _ _› rfl rfl rfl rfl rfl rfl rfl rfl rfl
    | split
    | (refine ⟨?_, ?_, ?_, ?_, ?_, ?_, ?_, ?_, ?_, ?_, ?_, ?_⟩ <;> try dsimp only)
    | apply TileMem.sdata
    | apply TileMem.buf
    | apply TileMem.side
    | apply TileMem.vreg0
    | apply TileMem.vreg1
    | apply TileMem.sregs
    | apply TileMem.store
    | apply TileMem.queues
    | apply TileMem.groups
    | apply TileMem.acc
    | apply TileMem.regions
    | apply TileMem.crossings

theorem keep_gridFaultEff {t : Tid} {x : Nat} {y : Nat} (hk : Keep s0 s) :
    Keep s0 (gridFaultEff t x y s) := by
  unfold gridFaultEff
  try dsimp only
  repeat' with_reducible first
    | assumption
    | apply keep_raise
    | apply keep_modTile
    | exact fun _ h => ⟨h.1, h.2, h.3, h.4, h.5, h.6, h.7, h.8, h.9, h.10, h.11, h.12⟩
    | (apply keep_ite <;> intro _)
    | intro _
    | dsimp only
    | exact keep_of ‹Keep _ _› rfl rfl rfl rfl rfl rfl rfl rfl rfl
    | split
    | (refine ⟨?_, ?_, ?_, ?_, ?_, ?_, ?_, ?_, ?_, ?_, ?_, ?_⟩ <;> try dsimp only)
    | apply TileMem.sdata
    | apply TileMem.buf
    | apply TileMem.side
    | apply TileMem.vreg0
    | apply TileMem.vreg1
    | apply TileMem.sregs
    | apply TileMem.store
    | apply TileMem.queues
    | apply TileMem.groups
    | apply TileMem.acc
    | apply TileMem.regions
    | apply TileMem.crossings

theorem keep_fenceReqEff {t : Tid} (hk : Keep s0 s) :
    Keep s0 (fenceReqEff t s) := by
  unfold fenceReqEff
  try dsimp only
  repeat' with_reducible first
    | assumption
    | apply keep_modTile
    | apply keep_post
    | exact fun _ h => ⟨h.1, h.2, h.3, h.4, h.5, h.6, h.7, h.8, h.9, h.10, h.11, h.12⟩
    | (apply keep_ite <;> intro _)
    | intro _
    | dsimp only
    | exact keep_of ‹Keep _ _› rfl rfl rfl rfl rfl rfl rfl rfl rfl
    | split
    | (refine ⟨?_, ?_, ?_, ?_, ?_, ?_, ?_, ?_, ?_, ?_, ?_, ?_⟩ <;> try dsimp only)
    | apply TileMem.sdata
    | apply TileMem.buf
    | apply TileMem.side
    | apply TileMem.vreg0
    | apply TileMem.vreg1
    | apply TileMem.sregs
    | apply TileMem.store
    | apply TileMem.queues
    | apply TileMem.groups
    | apply TileMem.acc
    | apply TileMem.regions
    | apply TileMem.crossings

theorem keep_loseTile {t : Tid} (hk : Keep s0 s) :
    Keep s0 (loseTile s t) := by
  unfold loseTile
  try dsimp only
  repeat' with_reducible first
    | assumption
    | apply keep_endTurnOn
    | apply keep_abandonSlice
    | apply keep_tset
    | apply keep_resetTile
    | (apply keep_ite <;> intro _)
    | intro _
    | dsimp only
    | split

theorem keep_tileResetEff {t : Tid} (hk : Keep s0 s) :
    Keep s0 (tileResetEff t s) := by
  unfold tileResetEff
  try dsimp only
  repeat' with_reducible first
    | assumption
    | apply keep_setRole
    | apply keep_stopContext
    | apply keep_closeLane
    | apply keep_loseTile
    | apply keep_post
    | (apply keep_ite <;> intro _)
    | intro _
    | dsimp only
    | exact keep_of ‹Keep _ _› rfl rfl rfl rfl rfl rfl rfl rfl rfl
    | split

theorem keep_tileFenceEff {t : Tid} {cause : FenceCause} (hk : Keep s0 s) :
    Keep s0 (tileFenceEff t cause s) := by
  unfold tileFenceEff
  try dsimp only
  repeat' with_reducible first
    | assumption
    | apply keep_fenceTile
    | (apply keep_ite <;> intro _)
    | intro _
    | dsimp only
    | split

theorem keep_laneCloseEff {l : Fin 32} {spare : Tid} (hk : Keep s0 s) :
    Keep s0 (laneCloseEff l spare s) := by
  unfold laneCloseEff
  try dsimp only
  repeat' with_reducible first
    | assumption
    | apply keep_closeLane
    | (apply keep_ite <;> intro _)
    | intro _
    | dsimp only
    | exact keep_of ‹Keep _ _› rfl rfl rfl rfl rfl rfl rfl rfl rfl
    | split

theorem keep_laneFormEff {c : Fin 4} (hk : Keep s0 s) : Keep s0 (laneFormEff c s) := by
  unfold laneFormEff
  apply keep_ite <;> intro _
  · split
    · next e => exact keep_logLanes (keep_formLane hk _ e)
    · exact hk
  · exact hk

/-! ## Machine/Barrier.lean -/

theorem keep_setProj {id : Nat} {p : Nat → Bool} {st : Nat} (hk : Keep s0 s) :
    Keep s0 (setProj s id p st) := by
  unfold setProj
  try dsimp only
  repeat' with_reducible first
    | assumption
    | apply keep_modGroup
    | (apply keep_ite <;> intro _)
    | intro _
    | dsimp only
    | exact keep_of ‹Keep _ _› rfl rfl rfl rfl rfl rfl rfl rfl rfl
    | split

theorem keep_enterLayer {c : Nat} {x : Context} {g : WGroup} {layer : Nat} (hk : Keep s0 s) :
    Keep s0 (enterLayer s c x g layer) := by
  unfold enterLayer
  try dsimp only
  repeat' with_reducible first
    | assumption
    | apply keep_post
    | apply keep_modServing
    | apply keep_modGroup
    | apply keep_forEach
    | apply kwf_kset
    | (apply keep_ite <;> intro _)
    | intro _
    | dsimp only
    | exact keep_of ‹Keep _ _› rfl rfl rfl rfl rfl rfl rfl rfl rfl
    | split

theorem keep_moveGroup {g : WGroup} {layer : Nat} {inside : Bool} (hk : Keep s0 s) :
    Keep s0 (moveGroup s g layer inside) := by
  unfold moveGroup
  try dsimp only
  repeat' with_reducible first
    | assumption
    | apply keep_modServing
    | apply kwf_filter
    | (apply keep_ite <;> intro _)
    | intro _
    | dsimp only
    | exact keep_of ‹Keep _ _› rfl rfl rfl rfl rfl rfl rfl rfl rfl
    | split

theorem keep_countWait {x : Context} {layer : Nat} (hk : Keep s0 s) :
    Keep s0 (countWait s x layer) := by
  unfold countWait
  try dsimp only
  repeat' with_reducible first
    | assumption
    | apply keep_dinc
    | (apply keep_ite <;> intro _)
    | intro _
    | dsimp only
    | split

theorem keep_beginProj {x : Context} {g : WGroup} (hk : Keep s0 s) :
    Keep s0 (beginProj s x g) := by
  unfold beginProj
  try dsimp only
  repeat' with_reducible first
    | assumption
    | apply keep_countWait
    | apply keep_moveGroup
    | apply keep_forEach
    | (apply keep_ite <;> intro _)
    | intro _
    | dsimp only
    | exact keep_of ‹Keep _ _› rfl rfl rfl rfl rfl rfl rfl rfl rfl
    | split

theorem keep_barrierAdmitEff {c : Fin 4} {layer : Nat} (hk : Keep s0 s) :
    Keep s0 (barrierAdmitEff c layer s) := by
  unfold barrierAdmitEff
  try dsimp only
  repeat' with_reducible first
    | assumption
    | apply keep_setProj
    | apply keep_beginProj
    | apply keep_enterLayer
    | (apply keep_ite <;> intro _)
    | intro _
    | dsimp only
    | exact keep_of ‹Keep _ _› rfl rfl rfl rfl rfl rfl rfl rfl rfl
    | split

theorem keep_takeCtrl {p : CtrlMsg → Bool} (hk : Keep s0 s) : ∀ z, takeCtrl s p = some z → Keep s0 z.2 := by
  intro z hz
  unfold takeCtrl at hz
  split at hz
  · cases hz
  · cases hz; exact keep_of hk rfl rfl rfl rfl rfl rfl rfl rfl rfl

theorem writeRecord_wf {m : List Host.Cell} {a : Nat} {g : WGroup} {no : Nat} (h : Memory.wf m = true) :
    Memory.wf (writeRecord m a g no) = true := by
  unfold writeRecord
  exact foldl_inv (P := fun x : List Host.Cell × Nat × Nat => Memory.wf x.1 = true) (mwrite_wf h)
    fun x e hx => mwrite_wf (mwrite_wf hx)

theorem keep_admitEff {t : Tid} (hk : Keep s0 s) : Keep s0 (admitEff t s) := by
  unfold admitEff
  split
  · next e =>
    have h := keep_takeCtrl hk _ e
    split
    · apply keep_ite <;> intro _
      · exact keep_ctrInc (keep_modTile h fun ts h => ⟨writeRecord_wf h.1, h.2, h.3, h.4, h.5, h.6, h.7, h.8, h.9, h.10, h.11, h.12⟩)
      · exact h
    · exact h
  · exact hk

theorem keep_dropGroup {id : Nat} (hk : Keep s0 s) :
    Keep s0 (dropGroup s id) := by
  unfold dropGroup
  try dsimp only
  repeat' with_reducible first
    | assumption
    | apply keep_modServing
    | apply kwf_filter
    | (apply keep_ite <;> intro _)
    | intro _
    | dsimp only
    | exact keep_of ‹Keep _ _› rfl rfl rfl rfl rfl rfl rfl rfl rfl
    | split

theorem keep_arriveAt {x : Context} {g : WGroup} {layer : Nat} (hk : Keep s0 s) :
    Keep s0 (arriveAt s x g layer) := by
  unfold arriveAt
  try dsimp only
  repeat' with_reducible first
    | assumption
    | apply keep_countWait
    | apply keep_moveGroup
    | (apply keep_ite <;> intro _)
    | intro _
    | dsimp only
    | split

theorem keep_dropLater {slot : Nat} {first : Nat} (hk : Keep s0 s) :
    Keep s0 (dropLater s slot first) := by
  unfold dropLater
  try dsimp only
  repeat' with_reducible first
    | assumption
    | apply keep_modServing
    | apply kwf_filter
    | (apply keep_ite <;> intro _)
    | intro _
    | dsimp only
    | exact keep_of ‹Keep _ _› rfl rfl rfl rfl rfl rfl rfl rfl rfl
    | split

theorem keep_clearShort {q : Seq} {slot : Nat} (hk : Keep s0 s) :
    Keep s0 (clearShort s q slot) := by
  unfold clearShort
  try dsimp only
  repeat' with_reducible first
    | assumption
    | apply keep_modThis
    | apply keep_unparkAll
    | apply keep_dropGrants
    | (apply keep_ite <;> intro _)
    | intro _
    | dsimp only
    | exact keep_of ‹Keep _ _› rfl rfl rfl rfl rfl rfl rfl rfl rfl
    | split

theorem keep_redoStep {c : Nat} {q : Seq} {st : SeqStep} (hk : Keep s0 s) :
    Keep s0 (redoStep s c q st) := by
  unfold redoStep
  try dsimp only
  repeat' with_reducible first
    | assumption
    | apply keep_giveStep
    | apply keep_dropLater
    | apply keep_clearShort
    | apply keep_setBack
    | (apply keep_ite <;> intro _)
    | intro _
    | dsimp only
    | exact keep_of ‹Keep _ _› rfl rfl rfl rfl rfl rfl rfl rfl rfl
    | split

theorem keep_boundary {q0 : Seq} (hk : Keep s0 s) :
    Keep s0 (boundary s q0) := by
  unfold boundary
  try dsimp only
  repeat' with_reducible first
    | assumption
    | apply keep_endSeq
    | (apply keep_ite <;> intro _)
    | intro _
    | dsimp only
    | exact keep_of ‹Keep _ _› rfl rfl rfl rfl rfl rfl rfl rfl rfl
    | split

theorem keep_idleBoundary {q0 : Seq} (hk : Keep s0 s) :
    Keep s0 (idleBoundary s q0) := by
  unfold idleBoundary
  try dsimp only
  repeat' with_reducible first
    | assumption
    | apply keep_boundary
    | (apply keep_ite <;> intro _)
    | intro _
    | dsimp only
    | exact keep_of ‹Keep _ _› rfl rfl rfl rfl rfl rfl rfl rfl rfl
    | split

theorem keep_releaseDrained {q0 : Seq} (hk : Keep s0 s) :
    Keep s0 (releaseDrained s q0) := by
  unfold releaseDrained
  try dsimp only
  repeat' with_reducible first
    | assumption
    | apply keep_drained
    | (apply keep_ite <;> intro _)
    | intro _
    | dsimp only
    | exact keep_of ‹Keep _ _› rfl rfl rfl rfl rfl rfl rfl rfl rfl
    | split

theorem keep_endChunk {g : WGroup} {m : Member} (hk : Keep s0 s) :
    Keep s0 (endChunk s g m) := by
  unfold endChunk
  try dsimp only
  repeat' with_reducible first
    | assumption
    | apply keep_endSeq
    | apply keep_boundary
    | apply keep_idleBoundary
    | apply keep_redoStep
    | apply keep_releaseDrained
    | (apply keep_ite <;> intro _)
    | intro _
    | dsimp only
    | exact keep_of ‹Keep _ _› rfl rfl rfl rfl rfl rfl rfl rfl rfl
    | split

theorem keep_nextChunk {x : Context} {m : Member} (hk : Keep s0 s) :
    Keep s0 (nextChunk s x m) := by
  unfold nextChunk
  try dsimp only
  repeat' with_reducible first
    | assumption
    | apply keep_giveStep
    | (apply keep_ite <;> intro _)
    | intro _
    | dsimp only
    | exact keep_of ‹Keep _ _› rfl rfl rfl rfl rfl rfl rfl rfl rfl
    | split

theorem keep_reachProj {x : Context} {g : WGroup} (hk : Keep s0 s) :
    Keep s0 (reachProj s x g) := by
  unfold reachProj
  try dsimp only
  repeat' with_reducible first
    | assumption
    | apply keep_beginProj
    | apply keep_moveGroup
    | (apply keep_ite <;> intro _)
    | intro _
    | dsimp only
    | split

theorem keep_leaveLast {x : Context} {g : WGroup} (hk : Keep s0 s) :
    Keep s0 (leaveLast s x g) := by
  unfold leaveLast
  try dsimp only
  repeat' with_reducible first
    | assumption
    | apply keep_reachProj
    | apply keep_endChunk
    | apply keep_dropGroup
    | apply keep_forEach
    | apply kwf_filter
    | (apply keep_ite <;> intro _)
    | intro _
    | dsimp only
    | exact keep_of ‹Keep _ _› rfl rfl rfl rfl rfl rfl rfl rfl rfl
    | split

theorem keep_leaveLayer {x : Context} {g : WGroup} (hk : Keep s0 s) :
    Keep s0 (leaveLayer s x g) := by
  unfold leaveLayer
  try dsimp only
  repeat' with_reducible first
    | assumption
    | apply keep_nextChunk
    | apply keep_arriveAt
    | apply keep_leaveLast
    | apply keep_dropGroup
    | apply keep_forEach
    | (apply keep_ite <;> intro _)
    | intro _
    | dsimp only
    | split

theorem keep_doneEff {t : Tid} (hk : Keep s0 s) :
    Keep s0 (doneEff t s) := by
  unfold doneEff
  try dsimp only
  repeat' with_reducible first
    | assumption
    | apply keep_leaveLayer
    | apply keep_modTile
    | apply keep_modGroup
    | exact fun _ h => ⟨h.1, h.2, h.3, h.4, h.5, h.6, h.7, h.8, h.9, h.10, h.11, h.12⟩
    | (apply keep_ite <;> intro _)
    | intro _
    | dsimp only
    | exact keep_of ‹Keep _ _› rfl rfl rfl rfl rfl rfl rfl rfl rfl
    | split
    | (refine ⟨?_, ?_, ?_, ?_, ?_, ?_, ?_, ?_, ?_, ?_, ?_, ?_⟩ <;> try dsimp only)
    | apply TileMem.sdata
    | apply TileMem.buf
    | apply TileMem.side
    | apply TileMem.vreg0
    | apply TileMem.vreg1
    | apply TileMem.sregs
    | apply TileMem.store
    | apply TileMem.queues
    | apply TileMem.groups
    | apply TileMem.acc
    | apply TileMem.regions
    | apply TileMem.crossings

theorem keep_signalEff {src : Tid} {dst : Tid} (hk : Keep s0 s) :
    Keep s0 (signalEff src dst s) := by
  unfold signalEff
  try dsimp only
  repeat' with_reducible first
    | assumption
    | apply keep_takeCtrl
    | apply keep_ctrInc
    | refine keep_optSnd (by assumption) ?_
    | (apply keep_ite <;> intro _)
    | intro _
    | dsimp only
    | exact keep_of ‹Keep _ _› rfl rfl rfl rfl rfl rfl rfl rfl rfl
    | split

theorem keep_orderEff {t : Tid} {o : Order} (hk : Keep s0 s) :
    Keep s0 (orderEff t o s) := by
  unfold orderEff
  try dsimp only
  repeat' with_reducible first
    | assumption
    | apply keep_tlbDrop
    | apply keep_takeCtrl
    | apply keep_modTile
    | apply keep_ctrInc
    | refine keep_optSnd (by assumption) ?_
    | exact fun _ h => ⟨h.1, h.2, h.3, h.4, h.5, h.6, h.7, h.8, h.9, h.10, h.11, h.12⟩
    | (apply keep_ite <;> intro _)
    | intro _
    | dsimp only
    | exact keep_of ‹Keep _ _› rfl rfl rfl rfl rfl rfl rfl rfl rfl
    | split
    | (refine ⟨?_, ?_, ?_, ?_, ?_, ?_, ?_, ?_, ?_, ?_, ?_, ?_⟩ <;> try dsimp only)
    | apply TileMem.sdata
    | apply TileMem.buf
    | apply TileMem.side
    | apply TileMem.vreg0
    | apply TileMem.vreg1
    | apply TileMem.sregs
    | apply TileMem.store
    | apply TileMem.queues
    | apply TileMem.groups
    | apply TileMem.acc
    | apply TileMem.regions
    | apply TileMem.crossings

theorem keep_reportEff {t : Tid} {r : Report} (hk : Keep s0 s) :
    Keep s0 (reportEff t r s) := by
  unfold reportEff
  try dsimp only
  repeat' with_reducible first
    | assumption
    | apply keep_takeCtrl
    | refine keep_optSnd (by assumption) ?_
    | (apply keep_ite <;> intro _)
    | intro _
    | dsimp only
    | exact keep_of ‹Keep _ _› rfl rfl rfl rfl rfl rfl rfl rfl rfl
    | split

/-! ## Machine/Quality.lean -/

theorem keep_countBreach {t : Tid} {layer : Nat} (hk : Keep s0 s) :
    Keep s0 (countBreach s t layer) := by
  unfold countBreach
  try dsimp only
  repeat' with_reducible first
    | assumption
    | apply keep_modDie
    | apply keep_logPut
    | apply keep_tset
    | apply keep_forEach
    | apply kwf_filter
    | exact fun _ h => h
    | (apply keep_ite <;> intro _)
    | intro _
    | dsimp only
    | exact keep_of ‹Keep _ _› rfl rfl rfl rfl rfl rfl rfl rfl rfl
    | split

theorem keep_clearForced {tiles : List Tid} (hk : Keep s0 s) :
    Keep s0 (clearForced s tiles) := by
  unfold clearForced
  try dsimp only
  repeat' with_reducible first
    | assumption
    | apply keep_modDie
    | apply keep_tset
    | apply keep_forEach
    | apply kwf_filter
    | exact fun _ h => h
    | (apply keep_ite <;> intro _)
    | intro _
    | dsimp only
    | exact keep_of ‹Keep _ _› rfl rfl rfl rfl rfl rfl rfl rfl rfl
    | split

theorem keep_checkFault {t : Tid} {f : Nat × Nat} (hk : Keep s0 s) :
    Keep s0 (checkFault s t f) := by
  unfold checkFault
  try dsimp only
  repeat' with_reducible first
    | assumption
    | apply keep_transFault
    | apply keep_abandonCheck
    | apply keep_stopContext
    | (apply keep_ite <;> intro _)
    | intro _
    | dsimp only
    | exact keep_of ‹Keep _ _› rfl rfl rfl rfl rfl rfl rfl rfl rfl
    | split

theorem keep_judgeCheck {t : Tid} {c : Capture} (hk : Keep s0 s) :
    Keep s0 (judgeCheck t c s) := by
  unfold judgeCheck
  try dsimp only
  repeat' with_reducible first
    | assumption
    | apply keep_wantSlice
    | apply keep_logPut
    | apply keep_tset
    | apply keep_modTile
    | apply keep_tinc
    | apply keep_post
    | apply keep_countBreach
    | apply keep_foldl
    | apply tileMem_foldl
    | exact fun _ h => ⟨h.1, h.2, h.3, h.4, h.5, h.6, h.7, h.8, h.9, h.10, h.11, h.12⟩
    | (apply keep_ite <;> intro _)
    | intro _
    | dsimp only
    | exact keep_of ‹Keep _ _› rfl rfl rfl rfl rfl rfl rfl rfl rfl
    | split
    | (refine ⟨?_, ?_, ?_, ?_, ?_, ?_, ?_, ?_, ?_, ?_, ?_, ?_⟩ <;> try dsimp only)
    | apply TileMem.sdata
    | apply TileMem.buf
    | apply TileMem.side
    | apply TileMem.vreg0
    | apply TileMem.vreg1
    | apply TileMem.sregs
    | apply TileMem.store
    | apply TileMem.queues
    | apply TileMem.groups
    | apply TileMem.acc
    | apply TileMem.regions
    | apply TileMem.crossings

theorem keep_wideCheckEff {t : Tid} (hk : Keep s0 s) :
    Keep s0 (wideCheckEff t s) := by
  unfold wideCheckEff
  try dsimp only
  repeat' with_reducible first
    | assumption
    | apply keep_pauseFor
    | apply keep_checkFault
    | apply keep_modTile
    | apply keep_transAll
    | apply keep_judgeCheck
    | refine keep_snd (by assumption) ?_
    | exact fun _ h => ⟨h.1, h.2, h.3, h.4, h.5, h.6, h.7, h.8, h.9, h.10, h.11, h.12⟩
    | (apply keep_ite <;> intro _)
    | intro _
    | dsimp only
    | exact keep_of ‹Keep _ _› rfl rfl rfl rfl rfl rfl rfl rfl rfl
    | split
    | (refine ⟨?_, ?_, ?_, ?_, ?_, ?_, ?_, ?_, ?_, ?_, ?_, ?_⟩ <;> try dsimp only)
    | apply TileMem.sdata
    | apply TileMem.buf
    | apply TileMem.side
    | apply TileMem.vreg0
    | apply TileMem.vreg1
    | apply TileMem.sregs
    | apply TileMem.store
    | apply TileMem.queues
    | apply TileMem.groups
    | apply TileMem.acc
    | apply TileMem.regions
    | apply TileMem.crossings

/-! ## Machine/Timebase.lean -/

theorem keep_tlsSecond (hk : Keep s0 s) :
    Keep s0 (tlsSecond s) := by
  unfold tlsSecond
  try dsimp only
  repeat' with_reducible first
    | assumption
    | apply keep_logPut
    | apply keep_modPlane
    | (apply keep_ite <;> intro _)
    | intro _
    | dsimp only
    | exact keep_of ‹Keep _ _› rfl rfl rfl rfl rfl rfl rfl rfl rfl
    | split

theorem keep_idleTick (hk : Keep s0 s) :
    Keep s0 (idleTick s) := by
  unfold idleTick
  try dsimp only
  repeat' with_reducible first
    | assumption
    | apply keep_tlsSecond
    | apply keep_modTime
    | apply keep_modPlane
    | (apply keep_ite <;> intro _)
    | intro _
    | dsimp only
    | exact keep_of ‹Keep _ _› rfl rfl rfl rfl rfl rfl rfl rfl rfl
    | split

theorem keep_tbLossEff {freq : Bool} (hk : Keep s0 s) :
    Keep s0 (tbLossEff freq s) := by
  unfold tbLossEff
  try dsimp only
  repeat' with_reducible first
    | assumption
    | apply keep_logPut
    | apply keep_modTime
    | apply keep_pset
    | apply keep_pinc
    | (apply keep_ite <;> intro _)
    | intro _
    | dsimp only
    | exact keep_of ‹Keep _ _› rfl rfl rfl rfl rfl rfl rfl rfl rfl
    | split

theorem keep_tbRelockEff (hk : Keep s0 s) :
    Keep s0 (tbRelockEff s) := by
  unfold tbRelockEff
  try dsimp only
  repeat' with_reducible first
    | assumption
    | apply keep_logPut
    | apply keep_modTime
    | apply keep_pset
    | (apply keep_ite <;> intro _)
    | intro _
    | dsimp only
    | exact keep_of ‹Keep _ _› rfl rfl rfl rfl rfl rfl rfl rfl rfl
    | split

theorem keep_tbSetEff {v : Word} (hk : Keep s0 s) :
    Keep s0 (tbSetEff v s) := by
  unfold tbSetEff
  try dsimp only
  repeat' with_reducible first
    | assumption
    | apply keep_logPut
    | apply keep_modTime
    | (apply keep_ite <;> intro _)
    | intro _
    | dsimp only
    | exact keep_of ‹Keep _ _› rfl rfl rfl rfl rfl rfl rfl rfl rfl
    | split

theorem keep_tbNowEff (hk : Keep s0 s) :
    Keep s0 (tbNowEff s) := by
  unfold tbNowEff
  try dsimp only
  repeat' with_reducible first
    | assumption
    | apply keep_modTime
    | (apply keep_ite <;> intro _)
    | intro _
    | dsimp only
    | exact keep_of ‹Keep _ _› rfl rfl rfl rfl rfl rfl rfl rfl rfl
    | split

theorem keep_takeoverEff (hk : Keep s0 s) : Keep s0 (takeoverEff s) := by
  unfold takeoverEff
  apply keep_ite <;> intro _
  · exact hk
  · extract_lets s1 s2 s3
    have h3 : Keep s0 s3 := keep_modServing (keep_pset (keep_pset (keep_modPlane hk)))
    exact keep_of h3 rfl rfl rfl rfl rfl rfl rfl rfl rfl

end Sys2Proof.Machine
end

