-- ==== Sys2Proof/Laws/KeepServe.lean ====
section
/-! SUPPORT. One lemma for each operation of grants, spilling, serving and sampling: what it keeps (Laws/Keep.lean). A
hypothesis `h_f` is asked for each effect that the operation is given. -/
namespace Sys2Proof.Machine

variable {s0 s : State}

/-! ## Machine/Grants.lean -/

theorem keep_addGrant {d : Nat} {n : Nat} {k : Nat} (hk : Keep s0 s) :
    Keep s0 (addGrant s d n k) := by
  unfold addGrant
  try dsimp only
  repeat' with_reducible first
    | assumption
    | apply keep_setWalker
    | (apply keep_ite <;> intro _)
    | intro _
    | dsimp only
    | exact keep_of ‹Keep _ _› rfl rfl rfl rfl rfl rfl rfl rfl rfl
    | split

theorem keep_takeAvail {x : Context} {d : Nat} {slot : Nat} {st : SeqStep} (hk : Keep s0 s) :
    Keep s0 (takeAvail s x d slot st) := by
  unfold takeAvail
  try dsimp only
  repeat' with_reducible first
    | assumption
    | apply keep_addGrant
    | apply keep_forEach
    | (apply keep_ite <;> intro _)
    | intro _
    | dsimp only
    | split

theorem keep_pageOutFailed {d : Nat} {p : Nat} {slot : Nat} {why : Nat} (hk : Keep s0 s) :
    Keep s0 (pageOutFailed s d p slot why) := by
  unfold pageOutFailed
  try dsimp only
  repeat' with_reducible first
    | assumption
    | apply keep_modDie
    | apply keep_logPut
    | apply keep_portInc
    | exact fun _ h => h
    | (apply keep_ite <;> intro _)
    | intro _
    | dsimp only
    | exact keep_of ‹Keep _ _› rfl rfl rfl rfl rfl rfl rfl rfl rfl
    | split

theorem keep_sendPage {d : Nat} {e : PageOut} (hk : Keep s0 s) :
    Keep s0 (sendPage s d e) := by
  unfold sendPage
  try dsimp only
  repeat' with_reducible first
    | assumption
    | apply keep_sendOn
    | apply keep_rdmaBegin
    | apply keep_modPort
    | (apply keep_ite <;> intro _)
    | intro _
    | dsimp only
    | exact keep_of ‹Keep _ _› rfl rfl rfl rfl rfl rfl rfl rfl rfl
    | split

theorem keep_beginPageOut {d : Nat} {slot : Nat} {vpn : Nat} (hk : Keep s0 s) :
    Keep s0 (beginPageOut s d slot vpn) := by
  unfold beginPageOut
  try dsimp only
  repeat' with_reducible first
    | assumption
    | apply keep_modDie
    | apply keep_pageOutFailed
    | apply keep_setL2
    | apply keep_invalidateAll
    | apply keep_setPool
    | apply keep_sendPage
    | exact fun _ h => h
    | (apply keep_ite <;> intro _)
    | intro _
    | dsimp only
    | exact keep_of ‹Keep _ _› rfl rfl rfl rfl rfl rfl rfl rfl rfl
    | split

theorem keep_dropJob {d : Nat} {slot : Nat} (hk : Keep s0 s) :
    Keep s0 (dropJob s d slot) := by
  unfold dropJob
  try dsimp only
  repeat' with_reducible first
    | assumption
    | apply keep_modDie
    | apply kwf_filter
    | exact fun _ h => h
    | (apply keep_ite <;> intro _)
    | intro _
    | dsimp only
    | exact keep_of ‹Keep _ _› rfl rfl rfl rfl rfl rfl rfl rfl rfl
    | split

theorem keep_grantDone {q0 : Seq} (hk : Keep s0 s) :
    Keep s0 (grantDone s q0) := by
  unfold grantDone
  try dsimp only
  repeat' with_reducible first
    | assumption
    | apply keep_modThis
    | apply keep_unparkAll
    | apply keep_modServing
    | apply keep_markReady
    | (apply keep_ite <;> intro _)
    | intro _
    | dsimp only
    | exact keep_of ‹Keep _ _› rfl rfl rfl rfl rfl rfl rfl rfl rfl
    | split

theorem keep_cacheFull {x : Context} {q : Seq} {d : Nat} {slot : Nat} {st : SeqStep} (hk : Keep s0 s) :
    Keep s0 (cacheFull s x q d slot st) := by
  unfold cacheFull
  try dsimp only
  repeat' with_reducible first
    | assumption
    | apply keep_endSeq
    | apply keep_logPut
    | apply keep_dinc
    | (apply keep_ite <;> intro _)
    | intro _
    | dsimp only
    | split

theorem keep_park {x : Context} {q : Seq} {d : Nat} {slot : Nat} {spilled : Nat} {st : SeqStep} (hk : Keep s0 s) :
    Keep s0 (park s x q d slot spilled st) := by
  unfold park
  try dsimp only
  repeat' with_reducible first
    | assumption
    | apply keep_modDie
    | apply keep_logPut
    | apply keep_modThis
    | apply keep_markParked
    | apply keep_modServing
    | apply keep_dinc
    | exact fun _ h => h
    | (apply keep_ite <;> intro _)
    | intro _
    | dsimp only
    | exact keep_of ‹Keep _ _› rfl rfl rfl rfl rfl rfl rfl rfl rfl
    | split

theorem keep_spillOne {d : Nat} {slot : Nat} {c : SpillCand} (hk : Keep s0 s) :
    Keep s0 (spillOne d slot s c) := by
  unfold spillOne
  try dsimp only
  repeat' with_reducible first
    | assumption
    | apply keep_modDie
    | apply keep_beginPageOut
    | exact fun _ h => h
    | (apply keep_ite <;> intro _)
    | intro _
    | dsimp only
    | exact keep_of ‹Keep _ _› rfl rfl rfl rfl rfl rfl rfl rfl rfl
    | split

theorem keep_spillFor {x : Context} {d : Nat} {slot : Nat} {st : SeqStep} {g : GrantJob} (hk : Keep s0 s) :
    Keep s0 (spillFor s x d slot st g) := by
  unfold spillFor
  try dsimp only
  repeat' with_reducible first
    | assumption
    | apply keep_spillOne
    | apply keep_forEach
    | (apply keep_ite <;> intro _)
    | intro _
    | dsimp only
    | split

theorem keep_continueGrant {d : Nat} {slot : Nat} (hk : Keep s0 s) :
    Keep s0 (continueGrant s d slot) := by
  unfold continueGrant
  try dsimp only
  repeat' with_reducible first
    | assumption
    | apply keep_park
    | apply keep_cacheFull
    | apply keep_dropJob
    | apply keep_takeAvail
    | apply keep_spillFor
    | apply keep_grantDone
    | (apply keep_ite <;> intro _)
    | intro _
    | dsimp only
    | exact keep_of ‹Keep _ _› rfl rfl rfl rfl rfl rfl rfl rfl rfl
    | split

theorem keep_serveDie {d : Nat} (hk : Keep s0 s) :
    Keep s0 (serveDie s d) := by
  unfold serveDie
  try dsimp only
  repeat' with_reducible first
    | assumption
    | apply keep_continueGrant
    | apply keep_forEach
    | apply kwf_filter
    | (apply keep_ite <;> intro _)
    | intro _
    | dsimp only
    | split

theorem keep_grantRequestEff {slot : Nat} (hk : Keep s0 s) :
    Keep s0 (grantRequestEff slot s) := by
  unfold grantRequestEff
  try dsimp only
  repeat' with_reducible first
    | assumption
    | apply keep_modDie
    | apply keep_continueGrant
    | apply keep_takeAvail
    | apply keep_grantDone
    | apply keep_forEach
    | apply kwf_filter
    | exact fun _ h => h
    | (apply keep_ite <;> intro _)
    | intro _
    | dsimp only
    | exact keep_of ‹Keep _ _› rfl rfl rfl rfl rfl rfl rfl rfl rfl
    | split

theorem keep_parkLimitEff {slot : Nat} (hk : Keep s0 s) :
    Keep s0 (parkLimitEff slot s) := by
  unfold parkLimitEff
  try dsimp only
  repeat' with_reducible first
    | assumption
    | apply keep_cacheFull
    | apply keep_unpark
    | (apply keep_ite <;> intro _)
    | intro _
    | dsimp only
    | exact keep_of ‹Keep _ _› rfl rfl rfl rfl rfl rfl rfl rfl rfl
    | split

/-! ## Machine/Spill.lean -/

theorem keep_walkCompleteEff {t : Tid} {va : Nat} (hk : Keep s0 s) :
    Keep s0 (walkCompleteEff t va s) := by
  unfold walkCompleteEff
  try dsimp only
  repeat' with_reducible first
    | assumption
    | apply keep_walk
    | refine keep_snd (by assumption) ?_
    | (apply keep_ite <;> intro _)
    | intro _
    | dsimp only
    | split

theorem keep_frameToPool {d : Nat} {f : RetFrame} (hk : Keep s0 s) :
    Keep s0 (frameToPool s d f) := by
  unfold frameToPool
  try dsimp only
  repeat' with_reducible first
    | assumption
    | apply keep_setFrame
    | apply keep_setWalker
    | apply keep_addGrant
    | (apply keep_ite <;> intro _)
    | intro _
    | dsimp only
    | exact keep_of ‹Keep _ _› rfl rfl rfl rfl rfl rfl rfl rfl rfl
    | split

theorem keep_endRound {d : Nat} {r : Round} (hk : Keep s0 s) :
    Keep s0 (endRound s d r) := by
  unfold endRound
  try dsimp only
  repeat' with_reducible first
    | assumption
    | apply keep_modDie
    | apply keep_frameToPool
    | apply keep_serveDie
    | apply keep_forEach
    | exact fun _ h => h
    | (apply keep_ite <;> intro _)
    | intro _
    | dsimp only
    | exact keep_of ‹Keep _ _› rfl rfl rfl rfl rfl rfl rfl rfl rfl
    | split

theorem keep_roundEff {d : Fin 56} (hk : Keep s0 s) :
    Keep s0 (roundEff d s) := by
  unfold roundEff
  try dsimp only
  repeat' with_reducible first
    | assumption
    | apply keep_modDie
    | apply keep_endRound
    | apply keep_invalidateAll
    | apply keep_forEach
    | exact fun _ h => h
    | (apply keep_ite <;> intro _)
    | intro _
    | dsimp only
    | exact keep_of ‹Keep _ _› rfl rfl rfl rfl rfl rfl rfl rfl rfl
    | split

theorem keep_ackEff {t : Tid} (hk : Keep s0 s) :
    Keep s0 (ackEff t s) := by
  unfold ackEff
  try dsimp only
  repeat' with_reducible first
    | assumption
    | apply keep_modDie
    | apply keep_modTile
    | apply keep_endRound
    | apply keep_sendPage
    | apply keep_forEach
    | apply kwf_filter
    | exact fun _ h => ⟨h.1, h.2, h.3, h.4, h.5, h.6, h.7, h.8, h.9, h.10, h.11, h.12⟩
    | exact fun _ h => h
    | (apply keep_ite <;> intro _)
    | intro _
    | dsimp only
    | exact keep_of ‹Keep _ _› rfl rfl rfl rfl rfl rfl rfl rfl rfl
    | split
    | exact kwf_nil
    | exact memory_nil
    | (refine ⟨?_, ?_, ?_, ?_, ?_, ?_, ?_, ?_, ?_, ?_, ?_, ?_⟩ <;> try dsimp only)
    | apply TileMem.sdata
    | apply TileMem.buf
    | apply TileMem.side
    | apply TileMem.vreg0
    | apply TileMem.vreg1
    | apply TileMem.sregs
    | apply TileMem.store
    | apply TileMem.queues
    | apply TileMem.groups
    | apply TileMem.acc
    | apply TileMem.regions
    | apply TileMem.crossings

theorem keep_modPool {p : Nat} {i : Nat} {f : Pool → Pool} (hk : Keep s0 s) :
    Keep s0 (modPool s p i f) := by
  unfold modPool
  try dsimp only
  repeat' with_reducible first
    | assumption
    | apply keep_setPool
    | (apply keep_ite <;> intro _)
    | intro _
    | dsimp only
    | split

theorem keep_addRemote {d : Nat} {n : Nat} {up : Bool} (hk : Keep s0 s) :
    Keep s0 (addRemote s d n up) := by
  unfold addRemote
  try dsimp only
  repeat' with_reducible first
    | assumption
    | apply keep_setWalker
    | (apply keep_ite <;> intro _)
    | intro _
    | dsimp only
    | exact keep_of ‹Keep _ _› rfl rfl rfl rfl rfl rfl rfl rfl rfl
    | split

theorem keep_dropOut {d : Nat} {vpn : Word} (hk : Keep s0 s) :
    Keep s0 (dropOut s d vpn) := by
  unfold dropOut
  try dsimp only
  repeat' with_reducible first
    | assumption
    | apply keep_modDie
    | exact fun _ h => h
    | (apply keep_ite <;> intro _)
    | intro _
    | dsimp only
    | exact keep_of ‹Keep _ _› rfl rfl rfl rfl rfl rfl rfl rfl rfl
    | split

theorem keep_freePage {p : Nat} {index : Nat} (hk : Keep s0 s) :
    Keep s0 (freePage s p index) := by
  unfold freePage
  try dsimp only
  repeat' with_reducible first
    | assumption
    | apply keep_poolCheck
    | apply keep_modPool
    | (apply keep_ite <;> intro _)
    | intro _
    | dsimp only
    | exact keep_of ‹Keep _ _› rfl rfl rfl rfl rfl rfl rfl rfl rfl
    | split

theorem keep_pageOutAckEff {d : Fin 56} {vpn : Word} (hk : Keep s0 s) :
    Keep s0 (pageOutAckEff d vpn s) := by
  unfold pageOutAckEff
  try dsimp only
  repeat' with_reducible first
    | assumption
    | apply keep_freePage
    | apply keep_modDie
    | apply keep_dropOut
    | apply keep_portInc
    | apply keep_settleDie
    | apply keep_queueReturn
    | apply keep_setL2
    | apply keep_addRemote
    | apply keep_dinc
    | apply keep_modPort
    | apply kwf_kset
    | exact fun _ h => h
    | (apply keep_ite <;> intro _)
    | intro _
    | dsimp only
    | exact keep_of ‹Keep _ _› rfl rfl rfl rfl rfl rfl rfl rfl rfl
    | split

theorem keep_pageOutTimeoutEff {d : Fin 56} {vpn : Word} {why : Nat} (hk : Keep s0 s) :
    Keep s0 (pageOutTimeoutEff d vpn why s) := by
  unfold pageOutTimeoutEff
  try dsimp only
  repeat' with_reducible first
    | assumption
    | apply keep_freePage
    | apply keep_dropOut
    | apply keep_continueGrant
    | apply keep_settleDie
    | apply keep_pageOutFailed
    | apply keep_queueReturn
    | apply keep_setL2
    | apply keep_invalidateAll
    | (apply keep_ite <;> intro _)
    | intro _
    | dsimp only
    | exact keep_of ‹Keep _ _› rfl rfl rfl rfl rfl rfl rfl rfl rfl
    | split

theorem keep_dropPageIn {d : Nat} {vpn : Word} (hk : Keep s0 s) :
    Keep s0 (dropPageIn s d vpn) := by
  unfold dropPageIn
  try dsimp only
  repeat' with_reducible first
    | assumption
    | apply keep_modDie
    | exact fun _ h => h
    | (apply keep_ite <;> intro _)
    | intro _
    | dsimp only
    | exact keep_of ‹Keep _ _› rfl rfl rfl rfl rfl rfl rfl rfl rfl
    | split

theorem keep_pageInFailed {d : Nat} {e : PageIn} {why : Nat} (hk : Keep s0 s) :
    Keep s0 (pageInFailed s d e why) := by
  unfold pageInFailed
  try dsimp only
  repeat' with_reducible first
    | assumption
    | apply keep_doomSlot
    | apply keep_modDie
    | apply keep_releaseRemote
    | apply keep_logPut
    | apply keep_setFrame
    | apply keep_dropPageIn
    | apply keep_portInc
    | apply keep_settleDie
    | apply keep_serveDie
    | exact fun _ h => h
    | (apply keep_ite <;> intro _)
    | intro _
    | dsimp only
    | exact keep_of ‹Keep _ _› rfl rfl rfl rfl rfl rfl rfl rfl rfl
    | split

theorem keep_pageInEff {d : Fin 56} {vpn : Word} {text : List Byte} {tag : BitVec 128} {gen : Nat} (hk : Keep s0 s) :
    Keep s0 (pageInEff d vpn text tag gen s) := by
  unfold pageInEff
  try dsimp only
  repeat' with_reducible first
    | assumption
    | apply keep_modDie
    | apply keep_releaseRemote
    | apply keep_setFrame
    | apply keep_dropPageIn
    | apply keep_portInc
    | apply keep_modPool
    | apply keep_settleDie
    | apply keep_setL2
    | apply keep_addRemote
    | apply keep_serveDie
    | apply keep_pageInFailed
    | apply putFrame_wf
    | exact fun _ h => h
    | (apply keep_ite <;> intro _)
    | intro _
    | dsimp only
    | exact keep_of ‹Keep _ _› rfl rfl rfl rfl rfl rfl rfl rfl rfl
    | split

theorem keep_pageInTimeoutEff {d : Fin 56} {vpn : Word} {refused : Bool} (hk : Keep s0 s) :
    Keep s0 (pageInTimeoutEff d vpn refused s) := by
  unfold pageInTimeoutEff
  try dsimp only
  repeat' with_reducible first
    | assumption
    | apply keep_modDie
    | apply keep_sendPageRead
    | apply keep_pageInFailed
    | exact fun _ h => h
    | (apply keep_ite <;> intro _)
    | intro _
    | dsimp only
    | exact keep_of ‹Keep _ _› rfl rfl rfl rfl rfl rfl rfl rfl rfl
    | split

theorem keep_drainNext {p : Nat} (hk : Keep s0 s) :
    Keep s0 (drainNext s p) := by
  unfold drainNext
  try dsimp only
  repeat' with_reducible first
    | assumption
    | apply keep_modDie
    | apply keep_modPort
    | apply keep_startPageIn
    | exact fun _ h => h
    | (apply keep_ite <;> intro _)
    | intro _
    | dsimp only
    | exact keep_of ‹Keep _ _› rfl rfl rfl rfl rfl rfl rfl rfl rfl
    | split

theorem keep_drainPageInEff {p : Nat} (hk : Keep s0 s) :
    Keep s0 (drainPageInEff p s) := by
  unfold drainPageInEff
  try dsimp only
  repeat' with_reducible first
    | assumption
    | apply keep_drainNext
    | (apply keep_ite <;> intro _)
    | intro _
    | dsimp only
    | split

theorem keep_drainRetryEff {p : Nat} (hk : Keep s0 s) :
    Keep s0 (drainRetryEff p s) := by
  unfold drainRetryEff
  try dsimp only
  repeat' with_reducible first
    | assumption
    | apply keep_drainNext
    | apply keep_modPort
    | (apply keep_ite <;> intro _)
    | intro _
    | dsimp only
    | exact keep_of ‹Keep _ _› rfl rfl rfl rfl rfl rfl rfl rfl rfl
    | split

/-! ## Machine/Serving.lean -/

theorem keep_rejectMsg {x : Session} {tenant : Nat} {req : DWord} {reason : Nat} {detail : Nat} (hk : Keep s0 s) :
    Keep s0 (rejectMsg s x tenant req reason detail) := by
  unfold rejectMsg
  try dsimp only
  repeat' with_reducible first
    | assumption
    | apply keep_sendServe
    | apply keep_logPut
    | apply keep_pinc
    | (apply keep_ite <;> intro _)
    | intro _
    | dsimp only
    | split

theorem keep_authFail {tenant : Word} (hk : Keep s0 s) :
    Keep s0 (authFail s tenant) := by
  unfold authFail
  try dsimp only
  repeat' with_reducible first
    | assumption
    | apply keep_modServing
    | apply keep_pinc
    | (apply keep_ite <;> intro _)
    | intro _
    | dsimp only
    | exact keep_of ‹Keep _ _› rfl rfl rfl rfl rfl rfl rfl rfl rfl
    | split

theorem keep_dropMsg (hk : Keep s0 s) :
    Keep s0 (dropMsg s) := by
  unfold dropMsg
  try dsimp only
  repeat' with_reducible first
    | assumption
    | apply keep_pinc
    | (apply keep_ite <;> intro _)
    | intro _
    | dsimp only
    | split

theorem keep_epochReject {x : Session} {tenant : Nat} {req : DWord} (hk : Keep s0 s) :
    Keep s0 (epochReject s x tenant req) := by
  unfold epochReject
  try dsimp only
  repeat' with_reducible first
    | assumption
    | apply keep_rejectMsg
    | apply keep_modServing
    | apply kwf_filter
    | (apply keep_ite <;> intro _)
    | intro _
    | dsimp only
    | exact keep_of ‹Keep _ _› rfl rfl rfl rfl rfl rfl rfl rfl rfl
    | split

theorem keep_receive {x : Session} {b : List Byte} {type : Nat} {act : State → Nat → Tenant → DWord → State} (h_act : ∀ s1 a1 a2 a3, Keep s0 s1 → Keep s0 (act s1 a1 a2 a3)) (hk : Keep s0 s) :
    Keep s0 (receive s x b type act) := by
  unfold receive
  try dsimp only
  repeat' with_reducible first
    | assumption
    | apply keep_portInc
    | apply keep_epochReject
    | apply keep_authFail
    | apply keep_setTenant
    | apply keep_dropMsg
    | apply h_act
    | (apply keep_ite <;> intro _)
    | intro _
    | dsimp only
    | exact keep_of ‹Keep _ _› rfl rfl rfl rfl rfl rfl rfl rfl rfl
    | split

theorem keep_forgetReq {tenant : Nat} {req : DWord} (hk : Keep s0 s) :
    Keep s0 (forgetReq s tenant req) := by
  unfold forgetReq
  try dsimp only
  repeat' with_reducible first
    | assumption
    | apply keep_purgeSeq
    | apply keep_modThis
    | (apply keep_ite <;> intro _)
    | intro _
    | dsimp only
    | exact keep_of ‹Keep _ _› rfl rfl rfl rfl rfl rfl rfl rfl rfl
    | split

theorem keep_takeSlot {prev : Seq} (hk : Keep s0 s) :
    Keep s0 (takeSlot s prev) := by
  unfold takeSlot
  try dsimp only
  repeat' with_reducible first
    | assumption
    | apply keep_modThis
    | (apply keep_ite <;> intro _)
    | intro _
    | dsimp only
    | exact keep_of ‹Keep _ _› rfl rfl rfl rfl rfl rfl rfl rfl rfl
    | split

theorem keep_takeBits {x : Context} {q : Seq} (hk : Keep s0 s) :
    Keep s0 (takeBits s x q) := by
  unfold takeBits
  try dsimp only
  repeat' with_reducible first
    | assumption
    | apply keep_addBits
    | apply keep_clearPresence
    | (apply keep_ite <;> intro _)
    | intro _
    | dsimp only
    | exact keep_of ‹Keep _ _› rfl rfl rfl rfl rfl rfl rfl rfl rfl
    | split

theorem keep_createSeq {sess : Session} {tenant : Nat} {tn : Tenant} {req : DWord} {x : Context} {r : ReqBody} {seed : DWord} (hk : Keep s0 s) :
    Keep s0 (createSeq s sess tenant tn req x r seed) := by
  unfold createSeq
  try dsimp only
  repeat' with_reducible first
    | assumption
    | apply keep_sendServe
    | apply keep_endSeq
    | apply keep_forgetReq
    | apply keep_firstChunk
    | apply keep_takeBits
    | apply keep_modServing
    | apply keep_takeSlot
    | apply keep_pinc
    | (apply keep_ite <;> intro _)
    | intro _
    | dsimp only
    | exact keep_of ‹Keep _ _› rfl rfl rfl rfl rfl rfl rfl rfl rfl
    | split

theorem keep_admitReq {sess : Session} {tenant : Nat} {tn : Tenant} {req : DWord} {body : List Byte} {own : Nat} {seed : DWord} (hk : Keep s0 s) :
    Keep s0 (admitReq s sess tenant tn req body own seed) := by
  unfold admitReq
  try dsimp only
  repeat' with_reducible first
    | assumption
    | apply keep_rejectMsg
    | apply keep_createSeq
    | (apply keep_ite <;> intro _)
    | intro _
    | dsimp only
    | exact keep_of ‹Keep _ _› rfl rfl rfl rfl rfl rfl rfl rfl rfl
    | split

theorem keep_dropAssembly {tenant : Nat} {req : DWord} (hk : Keep s0 s) :
    Keep s0 (dropAssembly s tenant req) := by
  unfold dropAssembly
  try dsimp only
  repeat' with_reducible first
    | assumption
    | apply keep_modServing
    | apply kwf_filter
    | (apply keep_ite <;> intro _)
    | intro _
    | dsimp only
    | exact keep_of ‹Keep _ _› rfl rfl rfl rfl rfl rfl rfl rfl rfl
    | split

theorem keep_requestAct {sess : Session} {b : List Byte} {seed : DWord} {tenant : Nat} {tn : Tenant} {req : DWord} (hk : Keep s0 s) :
    Keep s0 (requestAct sess b seed s tenant tn req) := by
  unfold requestAct
  try dsimp only
  repeat' with_reducible first
    | assumption
    | apply keep_sendServe
    | apply keep_admitReq
    | apply keep_rejectMsg
    | apply keep_modServing
    | (apply keep_ite <;> intro _)
    | intro _
    | dsimp only
    | exact keep_of ‹Keep _ _› rfl rfl rfl rfl rfl rfl rfl rfl rfl
    | split

theorem keep_partAct {b : List Byte} {tenant : Nat} {tn : Tenant} {req : DWord} (hk : Keep s0 s) :
    Keep s0 (partAct b s tenant tn req) := by
  unfold partAct
  try dsimp only
  repeat' with_reducible first
    | assumption
    | apply keep_dropAssembly
    | apply keep_admitReq
    | apply keep_rejectMsg
    | apply keep_modServing
    | apply keep_dropMsg
    | (apply keep_ite <;> intro _)
    | intro _
    | dsimp only
    | exact keep_of ‹Keep _ _› rfl rfl rfl rfl rfl rfl rfl rfl rfl
    | split

theorem keep_fragTimeoutEff {tenant : Nat} {req : DWord} (hk : Keep s0 s) :
    Keep s0 (fragTimeoutEff tenant req s) := by
  unfold fragTimeoutEff
  try dsimp only
  repeat' with_reducible first
    | assumption
    | apply keep_dropAssembly
    | apply keep_rejectMsg
    | (apply keep_ite <;> intro _)
    | intro _
    | dsimp only
    | exact keep_of ‹Keep _ _› rfl rfl rfl rfl rfl rfl rfl rfl rfl
    | split

theorem keep_releaseKept {q : Seq} (hk : Keep s0 s) :
    Keep s0 (releaseKept s q) := by
  unfold releaseKept
  try dsimp only
  repeat' with_reducible first
    | assumption
    | apply keep_releaseSeq
    | apply keep_modThis
    | (apply keep_ite <;> intro _)
    | intro _
    | dsimp only
    | exact keep_of ‹Keep _ _› rfl rfl rfl rfl rfl rfl rfl rfl rfl
    | split

theorem keep_cancelAct {sess : Session} {tenant : Nat} {x2 : Tenant} {req : DWord} (hk : Keep s0 s) :
    Keep s0 (cancelAct sess s tenant x2 req) := by
  unfold cancelAct
  try dsimp only
  repeat' with_reducible first
    | assumption
    | apply keep_dropAssembly
    | apply keep_endSeq
    | apply keep_releaseKept
    | apply keep_modThis
    | apply keep_modServing
    | apply keep_answerCancel
    | apply kwf_filter
    | (apply keep_ite <;> intro _)
    | intro _
    | dsimp only
    | exact keep_of ‹Keep _ _› rfl rfl rfl rfl rfl rfl rfl rfl rfl
    | split

theorem keep_resendAct {sess : Session} {b : List Byte} {tenant : Nat} {x3 : Tenant} {req : DWord} (hk : Keep s0 s) :
    Keep s0 (resendAct sess b s tenant x3 req) := by
  unfold resendAct
  try dsimp only
  repeat' with_reducible first
    | assumption
    | apply keep_sendServe
    | apply keep_rejectMsg
    | apply keep_forEach
    | apply kwf_filter
    | (apply keep_ite <;> intro _)
    | intro _
    | dsimp only
    | exact keep_of ‹Keep _ _› rfl rfl rfl rfl rfl rfl rfl rfl rfl
    | split

theorem keep_keepExpiryEff {tenant : Nat} {req : DWord} (hk : Keep s0 s) :
    Keep s0 (keepExpiryEff tenant req s) := by
  unfold keepExpiryEff
  try dsimp only
  repeat' with_reducible first
    | assumption
    | apply keep_purgeSeq
    | apply keep_releaseKept
    | apply keep_modThis
    | apply keep_modServing
    | apply kwf_filter
    | (apply keep_ite <;> intro _)
    | intro _
    | dsimp only
    | exact keep_of ‹Keep _ _› rfl rfl rfl rfl rfl rfl rfl rfl rfl
    | split

theorem keep_authBurstEff (hk : Keep s0 s) :
    Keep s0 (authBurstEff s) := by
  unfold authBurstEff
  try dsimp only
  repeat' with_reducible first
    | assumption
    | apply keep_logPut
    | apply keep_modServing
    | (apply keep_ite <;> intro _)
    | intro _
    | dsimp only
    | exact keep_of ‹Keep _ _› rfl rfl rfl rfl rfl rfl rfl rfl rfl
    | split

/-! ## Machine/Schedule.lean -/

theorem keep_activateSlot {x : Context} {slot : Nat} (hk : Keep s0 s) :
    Keep s0 (activateSlot s x slot) := by
  unfold activateSlot
  try dsimp only
  repeat' with_reducible first
    | assumption
    | apply keep_setWalker
    | apply keep_forEach
    | (apply keep_ite <;> intro _)
    | intro _
    | dsimp only
    | split

theorem keep_forgetSlot {slot : Nat} (hk : Keep s0 s) :
    Keep s0 (forgetSlot s slot) := by
  unfold forgetSlot
  try dsimp only
  repeat' with_reducible first
    | assumption
    | apply keep_purgeSeq
    | apply keep_modThis
    | apply keep_forEach
    | apply kwf_filter
    | (apply keep_ite <;> intro _)
    | intro _
    | dsimp only
    | exact keep_of ‹Keep _ _› rfl rfl rfl rfl rfl rfl rfl rfl rfl
    | split

theorem keep_sequenceAdmitEff {tenant : Nat} {req : DWord} (hk : Keep s0 s) :
    Keep s0 (sequenceAdmitEff tenant req s) := by
  unfold sequenceAdmitEff
  try dsimp only
  repeat' with_reducible first
    | assumption
    | apply keep_firstChunk
    | apply keep_modThis
    | apply keep_addBits
    | apply keep_forgetSlot
    | apply keep_activateSlot
    | (apply keep_ite <;> intro _)
    | intro _
    | dsimp only
    | exact keep_of ‹Keep _ _› rfl rfl rfl rfl rfl rfl rfl rfl rfl
    | split

theorem keep_refreshPipes (hk : Keep s0 s) :
    Keep s0 (refreshPipes s) := by
  unfold refreshPipes
  try dsimp only
  repeat' with_reducible first
    | assumption
    | apply keep_modLoader
    | (apply keep_ite <;> intro _)
    | intro _
    | dsimp only
    | exact keep_of ‹Keep _ _› rfl rfl rfl rfl rfl rfl rfl rfl rfl
    | split

theorem keep_pointerMoved (hk : Keep s0 s) :
    Keep s0 (pointerMoved s) := by
  unfold pointerMoved
  try dsimp only
  repeat' with_reducible first
    | assumption
    | apply keep_refreshPipes
    | apply keep_modServing
    | (apply keep_ite <;> intro _)
    | intro _
    | dsimp only
    | exact keep_of ‹Keep _ _› rfl rfl rfl rfl rfl rfl rfl rfl rfl
    | split

theorem keep_groupFormEff {c : Fin 4} {speed : Bool} (hk : Keep s0 s) :
    Keep s0 (groupFormEff c speed s) := by
  unfold groupFormEff
  try dsimp only
  repeat' with_reducible first
    | assumption
    | apply keep_modServing
    | apply keep_arriveAt
    | apply keep_pointerMoved
    | (apply keep_ite <;> intro _)
    | intro _
    | dsimp only
    | exact keep_of ‹Keep _ _› rfl rfl rfl rfl rfl rfl rfl rfl rfl
    | split

theorem keep_commitLen {x : Context} {slot : Nat} {first : Nat} {len : Nat} (hk : Keep s0 s) :
    Keep s0 (commitLen s x slot first len) := by
  unfold commitLen
  try dsimp only
  repeat' with_reducible first
    | assumption
    | apply keep_schedSetLen
    | apply keep_forEach
    | (apply keep_ite <;> intro _)
    | intro _
    | dsimp only
    | split

theorem keep_deliver {q : Seq} {toks : List Nat} (hk : Keep s0 s) :
    Keep s0 (deliver s q toks) := by
  unfold deliver
  try dsimp only
  repeat' with_reducible first
    | assumption
    | apply keep_sendServe
    | apply keep_modThis
    | apply keep_pinc
    | (apply keep_ite <;> intro _)
    | intro _
    | dsimp only
    | exact keep_of ‹Keep _ _› rfl rfl rfl rfl rfl rfl rfl rfl rfl
    | split

theorem keep_sequenceCommitEff {slot : Nat} (hk : Keep s0 s) :
    Keep s0 (sequenceCommitEff slot s) := by
  unfold sequenceCommitEff
  try dsimp only
  repeat' with_reducible first
    | assumption
    | apply keep_endSeq
    | apply keep_boundary
    | apply keep_commitLen
    | apply keep_modThis
    | apply keep_addBits
    | apply keep_idleBoundary
    | apply keep_modServing
    | apply keep_redoStep
    | apply keep_releaseDrained
    | apply keep_deliver
    | (apply keep_ite <;> intro _)
    | intro _
    | dsimp only
    | exact keep_of ‹Keep _ _› rfl rfl rfl rfl rfl rfl rfl rfl rfl
    | split

/-! ## Machine/Forecast.lean -/

theorem keep_noteMiss {d : Fin 56} {x : Nat × Nat} (hk : Keep s0 s) :
    Keep s0 (noteMiss d s x) := by
  unfold noteMiss
  try dsimp only
  repeat' with_reducible first
    | assumption
    | apply keep_dinc
    | (apply keep_ite <;> intro _)
    | intro _
    | dsimp only
    | split

theorem keep_giveTarget {t : Tid} {n : Nat} (hk : Keep s0 s) :
    Keep s0 (giveTarget t n s) := by
  unfold giveTarget
  try dsimp only
  repeat' with_reducible first
    | assumption
    | apply keep_post
    | apply keep_tset
    | (apply keep_ite <;> intro _)
    | intro _
    | dsimp only
    | split

theorem keep_planTile {d : Fin 56} {x : Nat × Nat × Nat} (hk : Keep s0 s) :
    Keep s0 (planTile d s x) := by
  unfold planTile
  try dsimp only
  repeat' with_reducible first
    | assumption
    | apply keep_modTile
    | apply keep_giveTarget
    | exact fun _ h => ⟨h.1, h.2, h.3, h.4, h.5, h.6, h.7, h.8, h.9, h.10, h.11, h.12⟩
    | (apply keep_ite <;> intro _)
    | intro _
    | dsimp only
    | exact keep_of ‹Keep _ _› rfl rfl rfl rfl rfl rfl rfl rfl rfl
    | split
    | (refine ⟨?_, ?_, ?_, ?_, ?_, ?_, ?_, ?_, ?_, ?_, ?_, ?_⟩ <;> try dsimp only)
    | apply TileMem.sdata
    | apply TileMem.buf
    | apply TileMem.side
    | apply TileMem.vreg0
    | apply TileMem.vreg1
    | apply TileMem.sregs
    | apply TileMem.store
    | apply TileMem.queues
    | apply TileMem.groups
    | apply TileMem.acc
    | apply TileMem.regions
    | apply TileMem.crossings

theorem keep_forecastEff {d : Fin 56} {measured : List Nat} (hk : Keep s0 s) :
    Keep s0 (forecastEff d measured s) := by
  unfold forecastEff
  try dsimp only
  repeat' with_reducible first
    | assumption
    | apply keep_planTile
    | apply keep_dset
    | apply keep_noteMiss
    | apply keep_forEach
    | apply kwf_filter
    | (apply keep_ite <;> intro _)
    | intro _
    | dsimp only
    | split

/-! ## Machine/Sampling.lean -/

theorem keep_samplingPartialEff {d : Nat} {slot : Nat} {pos : Nat} {logits : List Word} (hk : Keep s0 s) :
    Keep s0 (samplingPartialEff d slot pos logits s) := by
  unfold samplingPartialEff
  try dsimp only
  repeat' with_reducible first
    | assumption
    | apply keep_setProj
    | apply keep_modServing
    | (apply keep_ite <;> intro _)
    | intro _
    | dsimp only
    | exact keep_of ‹Keep _ _› rfl rfl rfl rfl rfl rfl rfl rfl rfl
    | split

theorem keep_partialMergeEff {d : Nat} {slot : Nat} {pos : Nat} (hk : Keep s0 s) :
    Keep s0 (partialMergeEff d slot pos s) := by
  unfold partialMergeEff
  try dsimp only
  repeat' with_reducible first
    | assumption
    | apply keep_modServing
    | apply keep_foldl
    | apply kwf_filter
    | (apply keep_ite <;> intro _)
    | intro _
    | dsimp only
    | exact keep_of ‹Keep _ _› rfl rfl rfl rfl rfl rfl rfl rfl rfl
    | split

theorem keep_adaptPass {q : Seq} {spec : Nat × Nat × Nat} {d' : Nat} {a : Nat} (hk : Keep s0 s) :
    Keep s0 (adaptPass s q spec d' a) := by
  unfold adaptPass
  try dsimp only
  repeat' with_reducible first
    | assumption
    | apply keep_modThis
    | apply keep_pinc
    | (apply keep_ite <;> intro _)
    | intro _
    | dsimp only
    | exact keep_of ‹Keep _ _› rfl rfl rfl rfl rfl rfl rfl rfl rfl
    | split

theorem keep_leaveGroup {g : WGroup} {slot : Nat} (hk : Keep s0 s) :
    Keep s0 (leaveGroup s g slot) := by
  unfold leaveGroup
  try dsimp only
  repeat' with_reducible first
    | assumption
    | apply keep_modServing
    | apply kwf_filter
    | (apply keep_ite <;> intro _)
    | intro _
    | dsimp only
    | exact keep_of ‹Keep _ _› rfl rfl rfl rfl rfl rfl rfl rfl rfl
    | split

theorem keep_afterCommit {q : Seq} {m : Member} {toks : List Nat} (hk : Keep s0 s) :
    Keep s0 (afterCommit s q m toks) := by
  unfold afterCommit
  try dsimp only
  repeat' with_reducible first
    | assumption
    | apply keep_adaptPass
    | apply keep_nextDecode
    | apply keep_modThis
    | apply keep_askSeat
    | (apply keep_ite <;> intro _)
    | intro _
    | dsimp only
    | exact keep_of ‹Keep _ _› rfl rfl rfl rfl rfl rfl rfl rfl rfl
    | split

theorem keep_tokenCommitEff {slot : Nat} (hk : Keep s0 s) :
    Keep s0 (tokenCommitEff slot s) := by
  unfold tokenCommitEff
  try dsimp only
  repeat' with_reducible first
    | assumption
    | apply keep_modServing
    | apply keep_leaveGroup
    | apply keep_afterCommit
    | apply kwf_filter
    | (apply keep_ite <;> intro _)
    | intro _
    | dsimp only
    | exact keep_of ‹Keep _ _› rfl rfl rfl rfl rfl rfl rfl rfl rfl
    | split

theorem keep_popLane {l : Nat} (hk : Keep s0 s) :
    Keep s0 (popLane s l) := by
  unfold popLane
  try dsimp only
  repeat' with_reducible first
    | assumption
    | apply keep_requeue
    | (apply keep_ite <;> intro _)
    | intro _
    | dsimp only
    | split

theorem keep_draftPassEff {l : Nat} {slot : Nat} {logits : List (List Word)} (hk : Keep s0 s) :
    Keep s0 (draftPassEff l slot logits s) := by
  unfold draftPassEff
  try dsimp only
  repeat' with_reducible first
    | assumption
    | apply keep_popLane
    | apply keep_giveStep
    | apply keep_beginLane
    | apply keep_modThis
    | (apply keep_ite <;> intro _)
    | intro _
    | dsimp only
    | exact keep_of ‹Keep _ _› rfl rfl rfl rfl rfl rfl rfl rfl rfl
    | split

theorem keep_draftCatchupEff {l : Nat} {slot : Nat} (hk : Keep s0 s) :
    Keep s0 (draftCatchupEff l slot s) := by
  unfold draftCatchupEff
  try dsimp only
  repeat' with_reducible first
    | assumption
    | apply keep_popLane
    | apply keep_beginLane
    | apply keep_modThis
    | (apply keep_ite <;> intro _)
    | intro _
    | dsimp only
    | exact keep_of ‹Keep _ _› rfl rfl rfl rfl rfl rfl rfl rfl rfl
    | split

end Sys2Proof.Machine
end

