-- ==== Sys2Proof/Laws/KeepLoad.lean ====
section
/-! SUPPORT. One lemma for each operation of loading and the port dies: what it keeps (Laws/Keep.lean). A
hypothesis `h_f` is asked for each effect that the operation is given. -/
namespace Sys2Proof.Machine

variable {s0 s : State}

/-! ## Machine/MgmtBase.lean -/

theorem keep_reply {m : Mgmt} {op : Nat} {status : Nat} {body : List Byte} (hk : Keep s0 s) :
    Keep s0 (reply s m op status body) := by
  unfold reply
  try dsimp only
  repeat' with_reducible first
    | assumption
    | apply keep_sendOn
    | (apply keep_ite <;> intro _)
    | intro _
    | dsimp only
    | split

theorem keep_refuse {m : Mgmt} {op : Nat} {code : Nat} (hk : Keep s0 s) :
    Keep s0 (refuse s m op code) := by
  unfold refuse
  try dsimp only
  repeat' with_reducible first
    | assumption
    | apply keep_reply
    | (apply keep_ite <;> intro _)
    | intro _
    | dsimp only
    | split

theorem keep_breakSession {m : Mgmt} {port : Nat} (hk : Keep s0 s) : Keep s0 (breakSession s m port) :=
  keep_of (keep_sendOn hk) rfl rfl rfl rfl rfl rfl rfl rfl rfl

theorem keep_mgmtOp {allowed : State → Bool} {op : Nat} {m : Mgmt} {act : State → State} (h_act : ∀ s1, Keep s0 s1 → Keep s0 (act s1)) (hk : Keep s0 s) :
    Keep s0 (mgmtOp allowed op m act s) := by
  unfold mgmtOp
  try dsimp only
  repeat' with_reducible first
    | assumption
    | apply keep_reply
    | apply keep_breakSession
    | apply h_act
    | (apply keep_ite <;> intro _)
    | intro _
    | dsimp only
    | exact keep_of ‹Keep _ _› rfl rfl rfl rfl rfl rfl rfl rfl rfl
    | split

/-! ## Machine/LoadCheck.lean -/

theorem keep_logAlternate {c : Nat} {i : Nat} {v : Nat} {dies : List Nat} {r : RouteSet} (hk : Keep s0 s) :
    Keep s0 (logAlternate s c i v dies r) := by
  unfold logAlternate
  try dsimp only
  repeat' with_reducible first
    | assumption
    | apply keep_logPut
    | (apply keep_ite <;> intro _)
    | intro _
    | dsimp only
    | split

theorem keep_chooseRoutes {c : Nat} {dies : List Nat} {l : List (RouteSet × Nat)} {acc : List (Nat × Nat)}
    (hk : Keep s0 s) : Keep s0 (chooseRoutes s c dies l acc).1 := by
  induction l generalizing s acc with
  | nil => exact hk
  | cons e r ih =>
    unfold chooseRoutes
    split
    · exact hk
    · exact ih hk
    · split
      · exact hk
      · exact ih (keep_logAlternate hk)

/-! ## Machine/Loading.lean -/

theorem keep_takeTable {d : Nat} {c : Nat} {layer : Nat} {first : Nat} (hk : Keep s0 s) :
    Keep s0 (takeTable s d c layer first).2 := by
  unfold takeTable
  try dsimp only
  repeat' with_reducible first
    | assumption
    | apply keep_setFrame
    | apply keep_forEach
    | (apply keep_ite <;> intro _)
    | intro _
    | dsimp only
    | exact keep_of ‹Keep _ _› rfl rfl rfl rfl rfl rfl rfl rfl rfl
    | split

theorem keep_addLevel2 {d : Nat} {c : Nat} {i : Nat} (hk : Keep s0 s) :
    Keep s0 (addLevel2 s d c i) := by
  unfold addLevel2
  try dsimp only
  repeat' with_reducible first
    | assumption
    | apply keep_modDie
    | apply keep_takeTable
    | refine keep_snd (by assumption) ?_
    | apply kwf_kset
    | exact fun _ h => h
    | (apply keep_ite <;> intro _)
    | intro _
    | dsimp only
    | exact keep_of ‹Keep _ _› rfl rfl rfl rfl rfl rfl rfl rfl rfl
    | split

theorem keep_mapLoaderPage {d : Nat} {c : Nat} {vpn : Nat} {type : Nat} {wr : Bool} {version : Bool} (hk : Keep s0 s) :
    Keep s0 (mapLoaderPage s d c vpn type wr version) := by
  unfold mapLoaderPage
  try dsimp only
  repeat' with_reducible first
    | assumption
    | apply keep_takeFrame
    | apply keep_setL2
    | refine keep_optSnd (by assumption) ?_
    | (apply keep_ite <;> intro _)
    | intro _
    | dsimp only
    | exact keep_of ‹Keep _ _› rfl rfl rfl rfl rfl rfl rfl rfl rfl
    | split

theorem keep_layOutDie {c : Nat} {x : Context} {t : Template} {pos : Nat} {d : Nat} (hk : Keep s0 s) :
    Keep s0 (layOutDie s c x t pos d) := by
  unfold layOutDie
  try dsimp only
  repeat' with_reducible first
    | assumption
    | apply keep_modDie
    | apply keep_mapLoaderPage
    | apply keep_takeTable
    | apply keep_takeStateFrame
    | apply keep_addLevel2
    | refine keep_snd (by assumption) ?_
    | apply keep_forEach
    | exact fun _ h => h
    | (apply keep_ite <;> intro _)
    | intro _
    | dsimp only
    | exact keep_of ‹Keep _ _› rfl rfl rfl rfl rfl rfl rfl rfl rfl
    | split

theorem keep_setRoles {x : Context} (hk : Keep s0 s) :
    Keep s0 (setRoles s x) := by
  unfold setRoles
  try dsimp only
  repeat' with_reducible first
    | assumption
    | apply keep_setRole
    | apply keep_tset
    | apply keep_freeSpare
    | apply keep_forEach
    | (apply keep_ite <;> intro _)
    | intro _
    | dsimp only
    | split

theorem keep_programAll {c : Nat} {x : Context} (hk : Keep s0 s) :
    Keep s0 (programAll s c x) := by
  unfold programAll
  try dsimp only
  repeat' with_reducible first
    | assumption
    | apply keep_programTile
    | apply keep_meshTables
    | apply keep_forEach
    | (apply keep_ite <;> intro _)
    | intro _
    | dsimp only
    | split

theorem keep_residentAll {x : Context} (hk : Keep s0 s) :
    Keep s0 (residentAll s x) := by
  unfold residentAll
  try dsimp only
  repeat' with_reducible first
    | assumption
    | apply keep_residentCopy
    | apply keep_forEach
    | (apply keep_ite <;> intro _)
    | intro _
    | dsimp only
    | split

theorem keep_restartLane {c : Nat} {x : Context} {l : Lane} (hk : Keep s0 s) :
    Keep s0 (restartLane s c x l) := by
  unfold restartLane
  try dsimp only
  repeat' with_reducible first
    | assumption
    | apply keep_startTile
    | apply keep_residentCopy
    | apply keep_programTile
    | apply keep_forEach
    | (apply keep_ite <;> intro _)
    | intro _
    | dsimp only
    | split

theorem keep_runSlices {c : Fin 4} {x : Context} (hk : Keep s0 s) :
    Keep s0 (runSlices s c x) := by
  unfold runSlices
  try dsimp only
  repeat' with_reducible first
    | assumption
    | apply keep_residentAll
    | apply keep_formLanes
    | apply keep_startTile
    | apply keep_restartLane
    | apply keep_forEach
    | (apply keep_ite <;> intro _)
    | intro _
    | dsimp only
    | split

theorem keep_logDegraded {c : Nat} {x : Context} {p : Nat → RouteVariant → Tid × Dir → Bool} (hk : Keep s0 s) :
    Keep s0 (logDegraded s c x p) := by
  unfold logDegraded
  try dsimp only
  repeat' with_reducible first
    | assumption
    | apply keep_logPut
    | apply keep_forEach
    | apply kwf_filter
    | (apply keep_ite <;> intro _)
    | intro _
    | dsimp only
    | split

theorem keep_logNarrow {c : Nat} {x : Context} (hk : Keep s0 s) :
    Keep s0 (logNarrow s c x) := by
  unfold logNarrow
  try dsimp only
  repeat' with_reducible first
    | assumption
    | apply keep_logDegraded
    | (apply keep_ite <;> intro _)
    | intro _
    | dsimp only
    | split

theorem keep_sublinksFell {t : Tid} {d : Dir} {subs : List Nat} (hk : Keep s0 s) :
    Keep s0 (sublinksFell s t d subs) := by
  unfold sublinksFell
  try dsimp only
  repeat' with_reducible first
    | assumption
    | apply keep_logDegraded
    | apply keep_forEach
    | (apply keep_ite <;> intro _)
    | intro _
    | dsimp only
    | exact keep_of ‹Keep _ _› rfl rfl rfl rfl rfl rfl rfl rfl rfl
    | split

theorem keep_startServing {c : Fin 4} (hk : Keep s0 s) :
    Keep s0 (startServing s c) := by
  unfold startServing
  try dsimp only
  repeat' with_reducible first
    | assumption
    | apply keep_runSlices
    | apply keep_logPut
    | apply keep_logNarrow
    | apply keep_setCtxState
    | apply keep_setProgress
    | apply keep_setReport
    | (apply keep_ite <;> intro _)
    | intro _
    | dsimp only
    | exact keep_of ‹Keep _ _› rfl rfl rfl rfl rfl rfl rfl rfl rfl
    | split

theorem keep_logUnwrap {c : Nat} {ent : ManifestEntry} (hk : Keep s0 s) :
    Keep s0 (logUnwrap s c ent) := by
  unfold logUnwrap
  try dsimp only
  repeat' with_reducible first
    | assumption
    | apply keep_logPut
    | apply keep_pinc
    | apply keep_forEach
    | apply kwf_filter
    | (apply keep_ite <;> intro _)
    | intro _
    | dsimp only
    | split

theorem keep_refuseAs {c : Nat} {r : Refused} {rep : LoadReport} (hk : Keep s0 s) :
    Keep s0 (refuseAs s c r rep) := by
  unfold refuseAs
  try dsimp only
  repeat' with_reducible first
    | assumption
    | apply keep_refuseOp
    | (apply keep_ite <;> intro _)
    | intro _
    | dsimp only
    | exact keep_of ‹Keep _ _› rfl rfl rfl rfl rfl rfl rfl rfl rfl
    | split

theorem keep_commitLoad {c : Fin 4} {x : Context} {t : Template} {heads : List ContainerHead} (hk : Keep s0 s) :
    Keep s0 (commitLoad s c x t heads) := by
  unfold commitLoad
  try dsimp only
  repeat' with_reducible first
    | assumption
    | apply keep_setCtxRegs
    | apply keep_programAll
    | apply keep_startServing
    | apply keep_layOutDie
    | apply keep_modCtx
    | apply keep_setCtx
    | apply keep_teardown
    | apply keep_setRoles
    | apply keep_logUnwrap
    | apply keep_failLoad
    | apply keep_forEach
    | (apply keep_ite <;> intro _)
    | intro _
    | dsimp only
    | exact keep_of ‹Keep _ _› rfl rfl rfl rfl rfl rfl rfl rfl rfl
    | split

theorem keep_secManifestRefused {entry : Nat} {use : Nat} (hk : Keep s0 s) :
    Keep s0 (secManifestRefused s entry use) := by
  unfold secManifestRefused
  try dsimp only
  repeat' with_reducible first
    | assumption
    | apply keep_logPut
    | (apply keep_ite <;> intro _)
    | intro _
    | dsimp only
    | split

theorem keep_runLoad {c : Fin 4} {entry : Nat} {dies : List Nat} {barred : List Nat} {img : Option Image} {heads : List ContainerHead} (hk : Keep s0 s) :
    Keep s0 (runLoad s c entry dies barred img heads) := by
  unfold runLoad
  try dsimp only
  repeat' with_reducible first
    | assumption
    | apply keep_refuseOp
    | apply keep_chooseRoutes
    | apply keep_setReport
    | apply keep_secManifestRefused
    | apply keep_commitLoad
    | apply keep_failDie
    | apply keep_refuseAs
    | refine keep_fst (by assumption) ?_
    | (apply keep_ite <;> intro _)
    | intro _
    | dsimp only
    | exact keep_of ‹Keep _ _› rfl rfl rfl rfl rfl rfl rfl rfl rfl
    | split

theorem keep_unstart {q : Seq} (hk : Keep s0 s) :
    Keep s0 (unstart s q) := by
  unfold unstart
  try dsimp only
  repeat' with_reducible first
    | assumption
    | apply keep_modServing
    | apply kwf_filter
    | (apply keep_ite <;> intro _)
    | intro _
    | dsimp only
    | exact keep_of ‹Keep _ _› rfl rfl rfl rfl rfl rfl rfl rfl rfl
    | split

theorem keep_leaveSeqs {l : List Seq} (hk : Keep s0 s) :
    Keep s0 (leaveSeqs s l) := by
  unfold leaveSeqs
  try dsimp only
  repeat' with_reducible first
    | assumption
    | apply keep_releaseKept
    | apply keep_modThis
    | apply keep_idleBoundary
    | apply keep_unstart
    | apply keep_forEach
    | (apply keep_ite <;> intro _)
    | intro _
    | dsimp only
    | exact keep_of ‹Keep _ _› rfl rfl rfl rfl rfl rfl rfl rfl rfl
    | split

theorem keep_startReplace {c : Nat} {entry : Nat} {ent : ManifestEntry} {img : Image} {x : Context} {heads : List ContainerHead} (hk : Keep s0 s) :
    Keep s0 (startReplace s c entry ent img x heads) := by
  unfold startReplace
  try dsimp only
  repeat' with_reducible first
    | assumption
    | apply keep_logPut
    | apply keep_setCtxState
    | apply keep_setProgress
    | apply keep_leaveSeqs
    | apply keep_modCtx
    | apply keep_modServing
    | apply kwf_filter
    | (apply keep_ite <;> intro _)
    | intro _
    | dsimp only
    | exact keep_of ‹Keep _ _› rfl rfl rfl rfl rfl rfl rfl rfl rfl
    | split

theorem keep_runReplace {c : Fin 4} {entry : Nat} {img : Option Image} {heads : List ContainerHead} (hk : Keep s0 s) :
    Keep s0 (runReplace s c entry img heads) := by
  unfold runReplace
  try dsimp only
  repeat' with_reducible first
    | assumption
    | apply keep_startReplace
    | apply keep_refuseOp
    | apply keep_secManifestRefused
    | apply keep_refuseAs
    | apply keep_logUnwrap
    | (apply keep_ite <;> intro _)
    | intro _
    | dsimp only
    | exact keep_of ‹Keep _ _› rfl rfl rfl rfl rfl rfl rfl rfl rfl
    | split

theorem keep_loadExecuteEff {img : Option Image} {heads : List ContainerHead} (hk : Keep s0 s) :
    Keep s0 (loadExecuteEff img heads s) := by
  unfold loadExecuteEff
  try dsimp only
  repeat' with_reducible first
    | assumption
    | apply keep_modLoader
    | apply keep_runReplace
    | apply keep_runLoad
    | (apply keep_ite <;> intro _)
    | intro _
    | dsimp only
    | exact keep_of ‹Keep _ _› rfl rfl rfl rfl rfl rfl rfl rfl rfl
    | split

theorem keep_readChunk {p : Nat} {key : Word × Word} (hk : Keep s0 s) :
    Keep s0 (readChunk s p key) := by
  unfold readChunk
  try dsimp only
  repeat' with_reducible first
    | assumption
    | apply keep_rdmaBegin
    | apply keep_send
    | (apply keep_ite <;> intro _)
    | intro _
    | dsimp only
    | exact keep_of ‹Keep _ _› rfl rfl rfl rfl rfl rfl rfl rfl rfl
    | split

theorem keep_refill (hk : Keep s0 s) :
    Keep s0 (refill s) := by
  unfold refill
  try dsimp only
  repeat' with_reducible first
    | assumption
    | apply keep_readChunk
    | apply keep_modPort
    | apply keep_forEach
    | apply kwf_filter
    | (apply keep_ite <;> intro _)
    | intro _
    | dsimp only
    | exact keep_of ‹Keep _ _› rfl rfl rfl rfl rfl rfl rfl rfl rfl
    | split

theorem keep_writePage {d : Nat} {vpn : Nat} {version : Option Bool} {bytes : List Byte} (hk : Keep s0 s) :
    Keep s0 (writePage s d vpn version bytes) := by
  unfold writePage
  try dsimp only
  repeat' with_reducible first
    | assumption
    | apply keep_modDie
    | apply keep_setFrame
    | apply mstore_wf
    | apply kwf_filter
    | apply clearFrame_wf
    | exact fun _ h => h
    | (apply keep_ite <;> intro _)
    | intro _
    | dsimp only
    | exact keep_of ‹Keep _ _› rfl rfl rfl rfl rfl rfl rfl rfl rfl
    | split

theorem keep_writeChunk {x : Context} {img : Image} {key : Word × Word} {version : Bool} {pages : List (List Byte)} (hk : Keep s0 s) :
    Keep s0 (writeChunk s x img key version pages) := by
  unfold writeChunk
  try dsimp only
  repeat' with_reducible first
    | assumption
    | apply keep_writePage
    | apply keep_forEach
    | (apply keep_ite <;> intro _)
    | intro _
    | dsimp only
    | exact keep_of ‹Keep _ _› rfl rfl rfl rfl rfl rfl rfl rfl rfl
    | split

theorem keep_rewriteChunk {x : Context} {img : Image} {key : Word × Word} {version : Bool} {pages : List (List Byte)} (hk : Keep s0 s) :
    Keep s0 (rewriteChunk s x img key version pages) := by
  unfold rewriteChunk
  try dsimp only
  repeat' with_reducible first
    | assumption
    | apply keep_writePage
    | apply keep_forEach
    | (apply keep_ite <;> intro _)
    | intro _
    | dsimp only
    | exact keep_of ‹Keep _ _› rfl rfl rfl rfl rfl rfl rfl rfl rfl
    | split

theorem keep_residentWhere {c : Nat} {x : Context} {img : Image} {p : Nat → Nat → Bool} (hk : Keep s0 s) :
    Keep s0 (residentWhere s c x img p) := by
  unfold residentWhere
  try dsimp only
  repeat' with_reducible first
    | assumption
    | apply keep_residentCopy
    | apply keep_forEach
    | (apply keep_ite <;> intro _)
    | intro _
    | dsimp only
    | split

theorem keep_abandonPasses {c : Nat} (hk : Keep s0 s) :
    Keep s0 (abandonPasses s c) := by
  unfold abandonPasses
  try dsimp only
  repeat' with_reducible first
    | assumption
    | apply keep_giveStep
    | apply keep_modThis
    | apply keep_requeue
    | apply keep_forEach
    | apply kwf_filter
    | (apply keep_ite <;> intro _)
    | intro _
    | dsimp only
    | exact keep_of ‹Keep _ _› rfl rfl rfl rfl rfl rfl rfl rfl rfl
    | split

theorem keep_resumeLanes {c : Nat} (hk : Keep s0 s) :
    Keep s0 (resumeLanes s c) := by
  unfold resumeLanes
  try dsimp only
  repeat' with_reducible first
    | assumption
    | apply keep_beginLane
    | apply keep_forEach
    | (apply keep_ite <;> intro _)
    | intro _
    | dsimp only
    | split

theorem keep_endReplace {c : Nat} {r : Replacing} (hk : Keep s0 s) :
    Keep s0 (endReplace s c r) := by
  unfold endReplace
  try dsimp only
  repeat' with_reducible first
    | assumption
    | apply keep_logPut
    | apply keep_setCtxState
    | apply keep_setProgress
    | apply keep_modCtx
    | apply keep_resumeLanes
    | apply keep_pset
    | (apply keep_ite <;> intro _)
    | intro _
    | dsimp only
    | exact keep_of ‹Keep _ _› rfl rfl rfl rfl rfl rfl rfl rfl rfl
    | split

theorem keep_abandonUnit {c : Nat} {x : Context} {img : Image} {u : Nat} (hk : Keep s0 s) :
    Keep s0 (abandonUnit s c x img u) := by
  unfold abandonUnit
  try dsimp only
  repeat' with_reducible first
    | assumption
    | apply keep_abandonCheck
    | apply keep_forEach
    | apply kwf_filter
    | (apply keep_ite <;> intro _)
    | intro _
    | dsimp only
    | split

theorem keep_finishUnit {c : Nat} {x : Context} {r : Replacing} (hk : Keep s0 s) :
    Keep s0 (finishUnit s c x r) := by
  unfold finishUnit
  try dsimp only
  repeat' with_reducible first
    | assumption
    | apply keep_abandonPasses
    | apply keep_endReplace
    | apply keep_residentWhere
    | apply keep_clearForced
    | apply keep_setProgress
    | apply keep_modCtx
    | (apply keep_ite <;> intro _)
    | intro _
    | dsimp only
    | exact keep_of ‹Keep _ _› rfl rfl rfl rfl rfl rfl rfl rfl rfl
    | split

theorem keep_unitDrainedEff {c : Fin 4} (hk : Keep s0 s) :
    Keep s0 (unitDrainedEff c s) := by
  unfold unitDrainedEff
  try dsimp only
  repeat' with_reducible first
    | assumption
    | apply keep_abandonPasses
    | apply keep_finishUnit
    | apply keep_refill
    | apply keep_modCtx
    | apply keep_abandonUnit
    | apply kwf_filter
    | (apply keep_ite <;> intro _)
    | intro _
    | dsimp only
    | exact keep_of ‹Keep _ _› rfl rfl rfl rfl rfl rfl rfl rfl rfl
    | split

theorem keep_chunkLost {w : Wanted} {detail : Nat} (hk : Keep s0 s) :
    Keep s0 (chunkLost s w detail) := by
  unfold chunkLost
  try dsimp only
  repeat' with_reducible first
    | assumption
    | apply keep_logPut
    | apply keep_stopContext
    | apply keep_failLoad
    | (apply keep_ite <;> intro _)
    | intro _
    | dsimp only
    | exact keep_of ‹Keep _ _› rfl rfl rfl rfl rfl rfl rfl rfl rfl
    | split

theorem keep_chunkFailed {w : Wanted} {detail : Nat} (hk : Keep s0 s) :
    Keep s0 (chunkFailed s w detail) := by
  unfold chunkFailed
  try dsimp only
  repeat' with_reducible first
    | assumption
    | apply keep_chunkLost
    | apply keep_refill
    | apply keep_modCtx
    | apply keep_pinc
    | (apply keep_ite <;> intro _)
    | intro _
    | dsimp only
    | exact keep_of ‹Keep _ _› rfl rfl rfl rfl rfl rfl rfl rfl rfl
    | split

theorem keep_chunkWritten {c : Fin 4} {x : Context} {w : Wanted} {pages : List (List Byte)} (hk : Keep s0 s) :
    Keep s0 (chunkWritten s c x w pages) := by
  unfold chunkWritten
  try dsimp only
  repeat' with_reducible first
    | assumption
    | apply keep_finishUnit
    | apply keep_startServing
    | apply keep_residentWhere
    | apply keep_setProgress
    | apply keep_modCtx
    | apply keep_writeChunk
    | apply keep_resumeLanes
    | apply keep_rewriteChunk
    | (apply keep_ite <;> intro _)
    | intro _
    | dsimp only
    | exact keep_of ‹Keep _ _› rfl rfl rfl rfl rfl rfl rfl rfl rfl
    | split

theorem keep_chunkReadEff {p : Fin 2} {container : Word} {chunk : Word} {text : List Byte} (hk : Keep s0 s) :
    Keep s0 (chunkReadEff p container chunk text s) := by
  unfold chunkReadEff
  try dsimp only
  repeat' with_reducible first
    | assumption
    | apply keep_refill
    | apply keep_chunkWritten
    | apply keep_chunkFailed
    | (apply keep_ite <;> intro _)
    | intro _
    | dsimp only
    | exact keep_of ‹Keep _ _› rfl rfl rfl rfl rfl rfl rfl rfl rfl
    | split

theorem keep_chunkTimeoutEff {p : Fin 2} {container : Word} {chunk : Word} (hk : Keep s0 s) :
    Keep s0 (chunkTimeoutEff p container chunk s) := by
  unfold chunkTimeoutEff
  try dsimp only
  repeat' with_reducible first
    | assumption
    | apply keep_refill
    | apply keep_chunkFailed
    | (apply keep_ite <;> intro _)
    | intro _
    | dsimp only
    | exact keep_of ‹Keep _ _› rfl rfl rfl rfl rfl rfl rfl rfl rfl
    | split

theorem keep_queueOp {m : Mgmt} {op : Nat} {c : Nat} {entry : Nat} {mk : Fin 4 → LoadOp} (hk : Keep s0 s) :
    Keep s0 (queueOp m op c entry mk s) := by
  unfold queueOp
  try dsimp only
  repeat' with_reducible first
    | assumption
    | apply keep_reply
    | apply keep_modLoader
    | apply keep_mgmtOp
    | (apply keep_ite <;> intro _)
    | intro _
    | dsimp only
    | exact keep_of ‹Keep _ _› rfl rfl rfl rfl rfl rfl rfl rfl rfl
    | split

theorem keep_loadReqEff {m : Mgmt} {c : Nat} {entry : Nat} {dies : List Nat} (hk : Keep s0 s) :
    Keep s0 (loadReqEff m c entry dies s) := by
  unfold loadReqEff
  try dsimp only
  repeat' with_reducible first
    | assumption
    | apply keep_queueOp
    | (apply keep_ite <;> intro _)
    | intro _
    | dsimp only
    | split

theorem keep_replaceReqEff {m : Mgmt} {c : Nat} {entry : Nat} (hk : Keep s0 s) :
    Keep s0 (replaceReqEff m c entry s) := by
  unfold replaceReqEff
  try dsimp only
  repeat' with_reducible first
    | assumption
    | apply keep_queueOp
    | (apply keep_ite <;> intro _)
    | intro _
    | dsimp only
    | split

theorem keep_beginUnload {c : Nat} (hk : Keep s0 s) :
    Keep s0 (beginUnload s c) := by
  unfold beginUnload
  try dsimp only
  repeat' with_reducible first
    | assumption
    | apply keep_setCtxState
    | apply keep_leaveSeqs
    | apply keep_modCtx
    | apply keep_abandonLoad
    | apply kwf_filter
    | (apply keep_ite <;> intro _)
    | intro _
    | dsimp only
    | exact keep_of ‹Keep _ _› rfl rfl rfl rfl rfl rfl rfl rfl rfl
    | split

theorem keep_unloadReqEff {m : Mgmt} {c : Nat} (hk : Keep s0 s) :
    Keep s0 (unloadReqEff m c s) := by
  unfold unloadReqEff
  try dsimp only
  repeat' with_reducible first
    | assumption
    | apply keep_reply
    | apply keep_mgmtOp
    | apply keep_beginUnload
    | (apply keep_ite <;> intro _)
    | intro _
    | dsimp only
    | split

theorem keep_unloadDoneEff {c : Fin 4} {ms : Nat} (hk : Keep s0 s) :
    Keep s0 (unloadDoneEff c ms s) := by
  unfold unloadDoneEff
  try dsimp only
  repeat' with_reducible first
    | assumption
    | apply keep_modLoader
    | apply keep_logPut
    | apply keep_teardown
    | (apply keep_ite <;> intro _)
    | intro _
    | dsimp only
    | exact keep_of ‹Keep _ _› rfl rfl rfl rfl rfl rfl rfl rfl rfl
    | split

theorem keep_manifestWriteEff {m : Mgmt} {n : Nat} {e : ManifestEntry} (hk : Keep s0 s) :
    Keep s0 (manifestWriteEff m n e s) := by
  unfold manifestWriteEff
  try dsimp only
  repeat' with_reducible first
    | assumption
    | apply keep_reply
    | apply keep_mgmtOp
    | apply keep_refuse
    | apply keep_secManifestRefused
    | apply keep_modStore
    | apply kwf_kset
    | exact fun _ => ⟨rfl, rfl, rfl⟩
    | exact ⟨rfl, rfl, rfl⟩
    | (apply keep_ite <;> intro _)
    | intro _
    | dsimp only
    | exact keep_of ‹Keep _ _› rfl rfl rfl rfl rfl rfl rfl rfl rfl
    | split

/-! ## Machine/Ports.lean -/

theorem keep_ptDownLog {p : Nat} {reason : Nat} (hk : Keep s0 s) :
    Keep s0 (ptDownLog s p reason) := by
  unfold ptDownLog
  try dsimp only
  repeat' with_reducible first
    | assumption
    | apply keep_logPut
    | (apply keep_ite <;> intro _)
    | intro _
    | dsimp only
    | split

theorem keep_bankLaser {p : Nat} (hk : Keep s0 s) :
    Keep s0 (bankLaser s p) := by
  unfold bankLaser
  try dsimp only
  repeat' with_reducible first
    | assumption
    | apply keep_modPort
    | (apply keep_ite <;> intro _)
    | intro _
    | dsimp only
    | exact keep_of ‹Keep _ _› rfl rfl rfl rfl rfl rfl rfl rfl rfl
    | split

theorem keep_takeLaser {p : Nat} (hk : Keep s0 s) :
    Keep s0 (takeLaser s p).2 := by
  unfold takeLaser
  try dsimp only
  repeat' with_reducible first
    | assumption
    | apply keep_bankLaser
    | apply keep_modPort
    | (apply keep_ite <;> intro _)
    | intro _
    | dsimp only
    | exact keep_of ‹Keep _ _› rfl rfl rfl rfl rfl rfl rfl rfl rfl
    | split

theorem keep_setApp {p : Nat} {app : Nat} (hk : Keep s0 s) :
    Keep s0 (setApp s p app) := by
  unfold setApp
  try dsimp only
  repeat' with_reducible first
    | assumption
    | apply keep_portSet
    | apply keep_bankLaser
    | apply keep_send
    | apply keep_modPort
    | (apply keep_ite <;> intro _)
    | intro _
    | dsimp only
    | exact keep_of ‹Keep _ _› rfl rfl rfl rfl rfl rfl rfl rfl rfl
    | split

theorem keep_clearOptics {p : Nat} (hk : Keep s0 s) :
    Keep s0 (clearOptics s p) := by
  unfold clearOptics
  try dsimp only
  repeat' with_reducible first
    | assumption
    | apply keep_portSet
    | apply keep_setApp
    | (apply keep_ite <;> intro _)
    | intro _
    | dsimp only
    | split

theorem keep_forgetModule {p : Nat} (hk : Keep s0 s) :
    Keep s0 (forgetModule s p) := by
  unfold forgetModule
  try dsimp only
  repeat' with_reducible first
    | assumption
    | apply keep_modPort
    | (apply keep_ite <;> intro _)
    | intro _
    | dsimp only
    | exact keep_of ‹Keep _ _› rfl rfl rfl rfl rfl rfl rfl rfl rfl
    | split

theorem keep_selectAttempt {p : Nat} (hk : Keep s0 s) :
    Keep s0 (selectAttempt s p) := by
  unfold selectAttempt
  try dsimp only
  repeat' with_reducible first
    | assumption
    | apply keep_setApp
    | (apply keep_ite <;> intro _)
    | intro _
    | dsimp only
    | exact keep_of ‹Keep _ _› rfl rfl rfl rfl rfl rfl rfl rfl rfl
    | split

theorem keep_startTraining {p : Nat} (hk : Keep s0 s) :
    Keep s0 (startTraining s p) := by
  unfold startTraining
  try dsimp only
  repeat' with_reducible first
    | assumption
    | apply keep_latchFields
    | apply keep_clearOptics
    | apply keep_forgetModule
    | apply keep_modPort
    | apply keep_selectAttempt
    | (apply keep_ite <;> intro _)
    | intro _
    | dsimp only
    | exact keep_of ‹Keep _ _› rfl rfl rfl rfl rfl rfl rfl rfl rfl
    | split

theorem keep_optUnsupported {p : Nat} {reason : Nat} {i : ModuleInfo} (hk : Keep s0 s) :
    Keep s0 (optUnsupported s p reason i) := by
  unfold optUnsupported
  try dsimp only
  repeat' with_reducible first
    | assumption
    | apply keep_logPut
    | (apply keep_ite <;> intro _)
    | intro _
    | dsimp only
    | split

theorem keep_attemptFails {p : Nat} {i : ModuleInfo} (hk : Keep s0 s) :
    Keep s0 (attemptFails s p i) := by
  unfold attemptFails
  try dsimp only
  repeat' with_reducible first
    | assumption
    | apply keep_setApp
    | apply keep_optUnsupported
    | apply keep_ptDownLog
    | apply keep_modPort
    | apply keep_selectAttempt
    | (apply keep_ite <;> intro _)
    | intro _
    | dsimp only
    | exact keep_of ‹Keep _ _› rfl rfl rfl rfl rfl rfl rfl rfl rfl
    | split

theorem keep_portComesUp {p : Nat} {ms : Nat} {g : Nat × Nat} {app : Nat} (hk : Keep s0 s) :
    Keep s0 (portComesUp s p ms g app) := by
  unfold portComesUp
  try dsimp only
  repeat' with_reducible first
    | assumption
    | apply keep_logPut
    | apply keep_portSet
    | apply keep_setApp
    | apply keep_modPort
    | (apply keep_ite <;> intro _)
    | intro _
    | dsimp only
    | exact keep_of ‹Keep _ _› rfl rfl rfl rfl rfl rfl rfl rfl rfl
    | split

theorem keep_endAttempt {p : Nat} {lanes : Nat} {ms : Nat} {aligned : Bool} (hk : Keep s0 s) :
    Keep s0 (endAttempt p lanes ms aligned s) := by
  unfold endAttempt
  try dsimp only
  repeat' with_reducible first
    | assumption
    | apply keep_portSet
    | apply keep_portComesUp
    | apply keep_attemptFails
    | (apply keep_ite <;> intro _)
    | intro _
    | dsimp only
    | exact keep_of ‹Keep _ _› rfl rfl rfl rfl rfl rfl rfl rfl rfl
    | split

theorem keep_askPower {p : Nat} (hk : Keep s0 s) :
    Keep s0 (askPower s p) := by
  unfold askPower
  try dsimp only
  repeat' with_reducible first
    | assumption
    | apply keep_send
    | apply keep_modPort
    | (apply keep_ite <;> intro _)
    | intro _
    | dsimp only
    | exact keep_of ‹Keep _ _› rfl rfl rfl rfl rfl rfl rfl rfl rfl
    | split

theorem keep_portRetryEff {p : Nat} (hk : Keep s0 s) :
    Keep s0 (portRetryEff p s) := by
  unfold portRetryEff
  try dsimp only
  repeat' with_reducible first
    | assumption
    | apply keep_askPower
    | apply keep_startTraining
    | (apply keep_ite <;> intro _)
    | intro _
    | dsimp only
    | split

theorem keep_failTransfers {p : Nat} (hk : Keep s0 s) :
    Keep s0 (failTransfers s p) := by
  unfold failTransfers
  try dsimp only
  repeat' with_reducible first
    | assumption
    | apply keep_pageOutTimeoutEff
    | apply keep_pageInTimeoutEff
    | apply keep_forEach
    | apply kwf_filter
    | (apply keep_ite <;> intro _)
    | intro _
    | dsimp only
    | split

theorem keep_failRdma {p : Nat} (hk : Keep s0 s) :
    Keep s0 (failRdma s p) := by
  unfold failRdma
  try dsimp only
  repeat' with_reducible first
    | assumption
    | apply keep_failTransfers
    | apply keep_refill
    | apply keep_modPort
    | apply keep_chunkFailed
    | apply keep_forEach
    | apply kwf_filter
    | (apply keep_ite <;> intro _)
    | intro _
    | dsimp only
    | exact keep_of ‹Keep _ _› rfl rfl rfl rfl rfl rfl rfl rfl rfl
    | split

theorem keep_portGoesDown {p : Nat} {reason : Nat} (hk : Keep s0 s) :
    Keep s0 (portGoesDown s p reason) := by
  unfold portGoesDown
  try dsimp only
  repeat' with_reducible first
    | assumption
    | apply keep_portSet
    | apply keep_setApp
    | apply keep_portInc
    | apply keep_failRdma
    | apply keep_ptDownLog
    | (apply keep_ite <;> intro _)
    | intro _
    | dsimp only
    | split

theorem keep_pcsLossEff {p : Nat} (hk : Keep s0 s) :
    Keep s0 (pcsLossEff p s) := by
  unfold pcsLossEff
  try dsimp only
  repeat' with_reducible first
    | assumption
    | apply keep_startTraining
    | apply keep_portGoesDown
    | (apply keep_ite <;> intro _)
    | intro _
    | dsimp only
    | split

theorem keep_retrainPort {p : Nat} (hk : Keep s0 s) :
    Keep s0 (retrainPort s p) := by
  unfold retrainPort
  try dsimp only
  repeat' with_reducible first
    | assumption
    | apply keep_startTraining
    | apply keep_portGoesDown
    | apply keep_ptDownLog
    | (apply keep_ite <;> intro _)
    | intro _
    | dsimp only
    | split

theorem keep_resetPort {p : Nat} (hk : Keep s0 s) :
    Keep s0 (resetPort s p) := by
  unfold resetPort
  try dsimp only
  repeat' with_reducible first
    | assumption
    | apply keep_portInc
    | apply keep_retrainPort
    | apply keep_modPort
    | (apply keep_ite <;> intro _)
    | intro _
    | dsimp only
    | exact keep_of ‹Keep _ _› rfl rfl rfl rfl rfl rfl rfl rfl rfl
    | split

theorem keep_setQp {p : Nat} {qp : Nat} {q : QPair} (hk : Keep s0 s) :
    Keep s0 (setQp s p qp q) := by
  unfold setQp
  try dsimp only
  repeat' with_reducible first
    | assumption
    | apply keep_modPort
    | (apply keep_ite <;> intro _)
    | intro _
    | dsimp only
    | exact keep_of ‹Keep _ _› rfl rfl rfl rfl rfl rfl rfl rfl rfl
    | split

theorem keep_answerFrame {p : Fin 2} {f : EthFrame} (hk : Keep s0 s) :
    Keep s0 (answerFrame s p f) := by
  unfold answerFrame
  try dsimp only
  repeat' with_reducible first
    | assumption
    | apply keep_setQp
    | apply keep_sendNet
    | (apply keep_ite <;> intro _)
    | intro _
    | dsimp only
    | exact keep_of ‹Keep _ _› rfl rfl rfl rfl rfl rfl rfl rfl rfl
    | split

theorem keep_pfcSend {p : Fin 2} {prio : Nat} {occ : Nat} (hk : Keep s0 s) :
    Keep s0 (pfcSend s p prio occ) := by
  unfold pfcSend
  try dsimp only
  repeat' with_reducible first
    | assumption
    | apply keep_portInc
    | apply keep_sendNet
    | apply keep_modPort
    | (apply keep_ite <;> intro _)
    | intro _
    | dsimp only
    | exact keep_of ‹Keep _ _› rfl rfl rfl rfl rfl rfl rfl rfl rfl
    | split

theorem keep_pfcAll {p : Fin 2} {held : List Nat} (hk : Keep s0 s) :
    Keep s0 (pfcAll s p held) := by
  unfold pfcAll
  try dsimp only
  repeat' with_reducible first
    | assumption
    | apply keep_pfcSend
    | apply keep_forEach
    | (apply keep_ite <;> intro _)
    | intro _
    | dsimp only
    | split

theorem keep_fecSecondEff {p : Fin 2} {uncorrected : Nat} {corrected : Nat} {held : List Nat} (hk : Keep s0 s) :
    Keep s0 (fecSecondEff p uncorrected corrected held s) := by
  unfold fecSecondEff
  try dsimp only
  repeat' with_reducible first
    | assumption
    | apply keep_portInc
    | apply keep_portGoesDown
    | apply keep_pfcAll
    | apply keep_modPort
    | apply keep_startTraining
    | (apply keep_ite <;> intro _)
    | intro _
    | dsimp only
    | exact keep_of ‹Keep _ _› rfl rfl rfl rfl rfl rfl rfl rfl rfl
    | split

theorem keep_unserved {p : Nat} (hk : Keep s0 s) :
    Keep s0 (unserved s p) := by
  unfold unserved
  try dsimp only
  repeat' with_reducible first
    | assumption
    | apply keep_portInc
    | (apply keep_ite <;> intro _)
    | intro _
    | dsimp only
    | split

theorem keep_frameEff {p : Fin 2} {f : EthFrame} (hk : Keep s0 s) :
    Keep s0 (frameEff p f s) := by
  unfold frameEff
  try dsimp only
  repeat' with_reducible first
    | assumption
    | apply keep_portInc
    | apply keep_answerFrame
    | apply keep_unserved
    | apply keep_pfcAll
    | (apply keep_ite <;> intro _)
    | intro _
    | dsimp only
    | exact keep_of ‹Keep _ _› rfl rfl rfl rfl rfl rfl rfl rfl rfl
    | split

theorem keep_pauseEff {p : Nat} {prio : Nat} {xoff : Bool} (hk : Keep s0 s) :
    Keep s0 (pauseEff p prio xoff s) := by
  unfold pauseEff
  try dsimp only
  repeat' with_reducible first
    | assumption
    | apply keep_portInc
    | apply keep_releasePaused
    | apply keep_modPort
    | (apply keep_ite <;> intro _)
    | intro _
    | dsimp only
    | exact keep_of ‹Keep _ _› rfl rfl rfl rfl rfl rfl rfl rfl rfl
    | split

theorem keep_pauseStormEff {p : Nat} {prio : Nat} (hk : Keep s0 s) :
    Keep s0 (pauseStormEff p prio s) := by
  unfold pauseStormEff
  try dsimp only
  repeat' with_reducible first
    | assumption
    | apply keep_logPut
    | apply keep_modPort
    | (apply keep_ite <;> intro _)
    | intro _
    | dsimp only
    | exact keep_of ‹Keep _ _› rfl rfl rfl rfl rfl rfl rfl rfl rfl
    | split

theorem keep_cnpEff {p : Nat} {qp : Nat} (hk : Keep s0 s) :
    Keep s0 (cnpEff p qp s) := by
  unfold cnpEff
  try dsimp only
  repeat' with_reducible first
    | assumption
    | apply keep_setQp
    | apply keep_portInc
    | (apply keep_ite <;> intro _)
    | intro _
    | dsimp only
    | exact keep_of ‹Keep _ _› rfl rfl rfl rfl rfl rfl rfl rfl rfl
    | split

theorem keep_rateRaiseEff {p : Nat} {qp : Nat} (hk : Keep s0 s) :
    Keep s0 (rateRaiseEff p qp s) := by
  unfold rateRaiseEff
  try dsimp only
  repeat' with_reducible first
    | assumption
    | apply keep_setQp
    | (apply keep_ite <;> intro _)
    | intro _
    | dsimp only
    | exact keep_of ‹Keep _ _› rfl rfl rfl rfl rfl rfl rfl rfl rfl
    | split

theorem keep_failOp {p : Nat} {y0 : RdmaUse} (hk : Keep s0 s) :
    Keep s0 (failOp s p y0) := by
  unfold failOp
  try dsimp only
  repeat' with_reducible first
    | assumption
    | apply keep_refill
    | apply keep_pageOutTimeoutEff
    | apply keep_pageInTimeoutEff
    | apply keep_chunkFailed
    | (apply keep_ite <;> intro _)
    | intro _
    | dsimp only
    | exact keep_of ‹Keep _ _› rfl rfl rfl rfl rfl rfl rfl rfl rfl
    | split

theorem keep_ackTimeoutEff {p : Nat} {qp : Nat} {again : Bool} {use : RdmaUse} (hk : Keep s0 s) :
    Keep s0 (ackTimeoutEff p qp again use s) := by
  unfold ackTimeoutEff
  try dsimp only
  repeat' with_reducible first
    | assumption
    | apply keep_setQp
    | apply keep_portInc
    | apply keep_failOp
    | (apply keep_ite <;> intro _)
    | intro _
    | dsimp only
    | exact keep_of ‹Keep _ _› rfl rfl rfl rfl rfl rfl rfl rfl rfl
    | split

theorem keep_setLife {i : Nat} {r : LifeRec} (hk : Keep s0 s) :
    Keep s0 (setLife s i r) := by
  unfold setLife
  try dsimp only
  repeat' with_reducible first
    | assumption
    | apply keep_modStore
    | apply kwf_kset
    | exact fun _ => ⟨rfl, rfl, rfl⟩
    | exact ⟨rfl, rfl, rfl⟩
    | (apply keep_ite <;> intro _)
    | intro _
    | dsimp only
    | exact keep_of ‹Keep _ _› rfl rfl rfl rfl rfl rfl rfl rfl rfl
    | split

theorem keep_showLife {p : Nat} {k : Nat} (hk : Keep s0 s) :
    Keep s0 (showLife s p k) := by
  unfold showLife
  try dsimp only
  repeat' with_reducible first
    | assumption
    | apply keep_portSet
    | (apply keep_ite <;> intro _)
    | intro _
    | dsimp only
    | exact keep_of ‹Keep _ _› rfl rfl rfl rfl rfl rfl rfl rfl rfl
    | split

theorem keep_writeLife {p : Nat} {f : LifeRec → LifeRec} (hk : Keep s0 s) :
    Keep s0 (writeLife s p f) := by
  unfold writeLife
  try dsimp only
  repeat' with_reducible first
    | assumption
    | apply keep_showLife
    | apply keep_setLife
    | (apply keep_ite <;> intro _)
    | intro _
    | dsimp only
    | exact keep_of ‹Keep _ _› rfl rfl rfl rfl rfl rfl rfl rfl rfl
    | split

theorem keep_finalLife {p : Nat} (hk : Keep s0 s) :
    Keep s0 (finalLife s p) := by
  unfold finalLife
  try dsimp only
  repeat' with_reducible first
    | assumption
    | apply keep_showLife
    | apply keep_setLife
    | apply keep_takeLaser
    | refine keep_snd (by assumption) ?_
    | (apply keep_ite <;> intro _)
    | intro _
    | dsimp only
    | exact keep_of ‹Keep _ _› rfl rfl rfl rfl rfl rfl rfl rfl rfl
    | split

theorem keep_showCage {p : Nat} (hk : Keep s0 s) :
    Keep s0 (showCage s p) := by
  unfold showCage
  try dsimp only
  repeat' with_reducible first
    | assumption
    | apply keep_portSet
    | apply kwf_filter
    | (apply keep_ite <;> intro _)
    | intro _
    | dsimp only
    | exact keep_of ‹Keep _ _› rfl rfl rfl rfl rfl rfl rfl rfl rfl
    | split

theorem keep_becomeReady {p : Nat} (hk : Keep s0 s) :
    Keep s0 (becomeReady s p) := by
  unfold becomeReady
  try dsimp only
  repeat' with_reducible first
    | assumption
    | apply keep_portSet
    | apply keep_startTraining
    | apply keep_selectAttempt
    | (apply keep_ite <;> intro _)
    | intro _
    | dsimp only
    | split

theorem keep_insertModule {p : Fin 2} {i : ModuleInfo} (hk : Keep s0 s) :
    Keep s0 (insertModule s p i) := by
  unfold insertModule
  try dsimp only
  repeat' with_reducible first
    | assumption
    | apply keep_logPut
    | apply keep_portSet
    | apply keep_becomeReady
    | apply keep_optUnsupported
    | apply keep_askPower
    | apply keep_showLife
    | apply keep_setLife
    | apply keep_modPort
    | (apply keep_ite <;> intro _)
    | intro _
    | dsimp only
    | exact keep_of ‹Keep _ _› rfl rfl rfl rfl rfl rfl rfl rfl rfl
    | split

theorem keep_removeModule {p : Nat} {i : ModuleInfo} (hk : Keep s0 s) :
    Keep s0 (removeModule s p i) := by
  unfold removeModule
  try dsimp only
  repeat' with_reducible first
    | assumption
    | apply keep_logPut
    | apply keep_clearOptics
    | apply keep_finalLife
    | apply keep_ptDownLog
    | apply keep_forgetModule
    | apply keep_portGoesDown
    | (apply keep_ite <;> intro _)
    | intro _
    | dsimp only
    | split

theorem keep_modulePollEff {p : Fin 2} {answer : Option ModuleInfo} (hk : Keep s0 s) :
    Keep s0 (modulePollEff p answer s) := by
  unfold modulePollEff
  try dsimp only
  repeat' with_reducible first
    | assumption
    | apply keep_insertModule
    | apply keep_answer
    | apply keep_portSet
    | apply keep_becomeReady
    | apply keep_removeModule
    | apply keep_modPort
    | (apply keep_ite <;> intro _)
    | intro _
    | dsimp only
    | exact keep_of ‹Keep _ _› rfl rfl rfl rfl rfl rfl rfl rfl rfl
    | split

theorem keep_readyTimeoutEff {p : Nat} (hk : Keep s0 s) :
    Keep s0 (readyTimeoutEff p s) := by
  unfold readyTimeoutEff
  try dsimp only
  repeat' with_reducible first
    | assumption
    | apply keep_optUnsupported
    | apply keep_modPort
    | (apply keep_ite <;> intro _)
    | intro _
    | dsimp only
    | exact keep_of ‹Keep _ _› rfl rfl rfl rfl rfl rfl rfl rfl rfl
    | split

theorem keep_monitorEff {p : Nat} {modFlags : Word} {laneFlags : Word} (hk : Keep s0 s) :
    Keep s0 (monitorEff p modFlags laneFlags s) := by
  unfold monitorEff
  try dsimp only
  repeat' with_reducible first
    | assumption
    | apply keep_logPut
    | apply keep_modPort
    | (apply keep_ite <;> intro _)
    | intro _
    | dsimp only
    | exact keep_of ‹Keep _ _› rfl rfl rfl rfl rfl rfl rfl rfl rfl
    | split

theorem keep_warnLife {p : Nat} (hk : Keep s0 s) :
    Keep s0 (warnLife s p) := by
  unfold warnLife
  try dsimp only
  repeat' with_reducible first
    | assumption
    | apply keep_logPut
    | apply keep_showLife
    | apply keep_setLife
    | (apply keep_ite <;> intro _)
    | intro _
    | dsimp only
    | exact keep_of ‹Keep _ _› rfl rfl rfl rfl rfl rfl rfl rfl rfl
    | split

theorem keep_warnBias {p : Nat} (hk : Keep s0 s) :
    Keep s0 (warnBias s p) := by
  unfold warnBias
  try dsimp only
  repeat' with_reducible first
    | assumption
    | apply keep_logPut
    | apply keep_showLife
    | apply keep_setLife
    | apply keep_forEach
    | apply kwf_filter
    | (apply keep_ite <;> intro _)
    | intro _
    | dsimp only
    | exact keep_of ‹Keep _ _› rfl rfl rfl rfl rfl rfl rfl rfl rfl
    | split

theorem keep_lifeHourEff {p : Nat} {bias : List Half} (hk : Keep s0 s) :
    Keep s0 (lifeHourEff p bias s) := by
  unfold lifeHourEff
  try dsimp only
  repeat' with_reducible first
    | assumption
    | apply keep_latchFields
    | apply keep_writeLife
    | apply keep_warnBias
    | apply keep_warnLife
    | apply keep_takeLaser
    | refine keep_snd (by assumption) ?_
    | (apply keep_ite <;> intro _)
    | intro _
    | dsimp only
    | exact keep_of ‹Keep _ _› rfl rfl rfl rfl rfl rfl rfl rfl rfl
    | split

theorem keep_opticsSetEff {m : Mgmt} {k : Nat} {hours : Nat} {ratedKh : Nat} (hk : Keep s0 s) :
    Keep s0 (opticsSetEff m k hours ratedKh s) := by
  unfold opticsSetEff
  try dsimp only
  repeat' with_reducible first
    | assumption
    | apply keep_reply
    | apply keep_mgmtOp
    | apply keep_showLife
    | apply keep_setLife
    | apply keep_forEach
    | (apply keep_ite <;> intro _)
    | intro _
    | dsimp only
    | exact keep_of ‹Keep _ _› rfl rfl rfl rfl rfl rfl rfl rfl rfl
    | split

end Sys2Proof.Machine
end

