-- ==== Sys2Proof/Laws/KeepPower.lean ====
section
/-! SUPPORT. One lemma for each operation of power, cooling, converters and tests: what it keeps (Laws/Keep.lean). A
hypothesis `h_f` is asked for each effect that the operation is given. -/
namespace Sys2Proof.Machine

variable {s0 s : State}

/-! ## Machine/PlaneOps.lean -/

theorem keep_discardPlane (hk : Keep s0 s) :
    Keep s0 (discardPlane s) := by
  unfold discardPlane
  try dsimp only
  repeat' with_reducible first
    | assumption
    | apply keep_cutUnload
    | apply keep_discardAll
    | apply keep_forEach
    | (apply keep_ite <;> intro _)
    | intro _
    | dsimp only
    | split

theorem keep_coldOne {t : Tid} (hk : Keep s0 s) :
    Keep s0 (coldOne s t) := by
  unfold coldOne
  try dsimp only
  repeat' with_reducible first
    | assumption
    | apply keep_abandonSlice
    | apply keep_tset
    | apply keep_resetTile
    | (apply keep_ite <;> intro _)
    | intro _
    | dsimp only
    | split

theorem keep_dieRailsOff {d : Fin 56} (hk : Keep s0 s) :
    Keep s0 (dieRailsOff s d) := by
  unfold dieRailsOff
  try dsimp only
  repeat' with_reducible first
    | assumption
    | apply keep_modDie
    | apply keep_coldOne
    | apply keep_forEach
    | exact fun _ h => h
    | (apply keep_ite <;> intro _)
    | intro _
    | dsimp only
    | exact keep_of ‹Keep _ _› rfl rfl rfl rfl rfl rfl rfl rfl rfl
    | split

theorem keep_railsOff (hk : Keep s0 s) :
    Keep s0 (railsOff s) := by
  unfold railsOff
  try dsimp only
  repeat' with_reducible first
    | assumption
    | apply keep_dieRailsOff
    | apply keep_forEach
    | (apply keep_ite <;> intro _)
    | intro _
    | dsimp only
    | split

theorem keep_dieRailsOn {d : Fin 56} (hk : Keep s0 s) :
    Keep s0 (dieRailsOn s d) := by
  unfold dieRailsOn
  try dsimp only
  repeat' with_reducible first
    | assumption
    | apply keep_freshWindow
    | apply keep_tset
    | apply keep_forEach
    | (apply keep_ite <;> intro _)
    | intro _
    | dsimp only
    | split

theorem keep_railsOn (hk : Keep s0 s) :
    Keep s0 (railsOn s) := by
  unfold railsOn
  try dsimp only
  repeat' with_reducible first
    | assumption
    | apply keep_dieRailsOn
    | apply keep_forEach
    | (apply keep_ite <;> intro _)
    | intro _
    | dsimp only
    | split

theorem keep_reloadNew {c : Fin 4} {x : Context} {r : Replacing} (hk : Keep s0 s) :
    Keep s0 (reloadNew s c x r) := by
  unfold reloadNew
  try dsimp only
  repeat' with_reducible first
    | assumption
    | apply keep_programAll
    | apply keep_startServing
    | apply keep_setCtxState
    | apply keep_setProgress
    | apply keep_setCtx
    | apply keep_pset
    | (apply keep_ite <;> intro _)
    | intro _
    | dsimp only
    | exact keep_of ‹Keep _ _› rfl rfl rfl rfl rfl rfl rfl rfl rfl
    | split

theorem keep_restartCtx {c : Fin 4} (hk : Keep s0 s) :
    Keep s0 (restartCtx s c) := by
  unfold restartCtx
  try dsimp only
  repeat' with_reducible first
    | assumption
    | apply keep_runSlices
    | apply keep_programAll
    | apply keep_reloadNew
    | (apply keep_ite <;> intro _)
    | intro _
    | dsimp only
    | exact keep_of ‹Keep _ _› rfl rfl rfl rfl rfl rfl rfl rfl rfl
    | split

theorem keep_restartPlane (hk : Keep s0 s) :
    Keep s0 (restartPlane s) := by
  unfold restartPlane
  try dsimp only
  repeat' with_reducible first
    | assumption
    | apply keep_refill
    | apply keep_railsOn
    | apply keep_modPlane
    | apply keep_restartCtx
    | apply keep_forEach
    | (apply keep_ite <;> intro _)
    | intro _
    | dsimp only
    | exact keep_of ‹Keep _ _› rfl rfl rfl rfl rfl rfl rfl rfl rfl
    | split

theorem keep_resumeCtx {c : Fin 4} (hk : Keep s0 s) :
    Keep s0 (resumeCtx s c) := by
  unfold resumeCtx
  try dsimp only
  repeat' with_reducible first
    | assumption
    | apply keep_runSlices
    | apply keep_programAll
    | apply keep_restartCtx
    | (apply keep_ite <;> intro _)
    | intro _
    | dsimp only
    | exact keep_of ‹Keep _ _› rfl rfl rfl rfl rfl rfl rfl rfl rfl
    | split

theorem keep_enterHold {cause : Nat} (hk : Keep s0 s) :
    Keep s0 (enterHold s cause) := by
  unfold enterHold
  try dsimp only
  repeat' with_reducible first
    | assumption
    | apply keep_planeState
    | apply keep_modLoader
    | apply keep_discardPlane
    | apply keep_railsOff
    | apply keep_modPlane
    | (apply keep_ite <;> intro _)
    | intro _
    | dsimp only
    | exact keep_of ‹Keep _ _› rfl rfl rfl rfl rfl rfl rfl rfl rfl
    | split

theorem keep_leaveHold {cause : Nat} (hk : Keep s0 s) :
    Keep s0 (leaveHold s cause) := by
  unfold leaveHold
  try dsimp only
  repeat' with_reducible first
    | assumption
    | apply keep_railsOn
    | apply keep_planeState
    | apply keep_modLoader
    | apply keep_refill
    | apply keep_resumeCtx
    | apply keep_modPlane
    | apply keep_forEach
    | (apply keep_ite <;> intro _)
    | intro _
    | dsimp only
    | exact keep_of ‹Keep _ _› rfl rfl rfl rfl rfl rfl rfl rfl rfl
    | split

theorem keep_adcOff {d : Nat} (hk : Keep s0 s) : Keep s0 (adcOff s d) := by
  unfold adcOff
  exact keep_regsFilter hk

theorem keep_darkDie {d : Fin 56} {site : Nat} (hk : Keep s0 s) :
    Keep s0 (darkDie s d site) := by
  unfold darkDie
  try dsimp only
  repeat' with_reducible first
    | assumption
    | apply keep_clearStack
    | apply keep_adcOff
    | apply keep_modTile
    | apply keep_dieRailsOff
    | apply keep_dset
    | apply keep_forEach
    | exact fun _ h => ⟨h.1, h.2, h.3, h.4, h.5, h.6, h.7, h.8, h.9, h.10, h.11, h.12⟩
    | (apply keep_ite <;> intro _)
    | intro _
    | dsimp only
    | exact keep_of ‹Keep _ _› rfl rfl rfl rfl rfl rfl rfl rfl rfl
    | split
    | exact kwf_nil
    | exact memory_nil
    | (refine ⟨?_, ?_, ?_, ?_, ?_, ?_, ?_, ?_, ?_, ?_, ?_, ?_⟩ <;> try dsimp only)
    | apply TileMem.sdata
    | apply TileMem.buf
    | apply TileMem.side
    | apply TileMem.vreg0
    | apply TileMem.vreg1
    | apply TileMem.sregs
    | apply TileMem.store
    | apply TileMem.queues
    | apply TileMem.groups
    | apply TileMem.acc
    | apply TileMem.regions
    | apply TileMem.crossings

theorem keep_sitesOff (hk : Keep s0 s) :
    Keep s0 (sitesOff s) := by
  unfold sitesOff
  try dsimp only
  repeat' with_reducible first
    | assumption
    | apply keep_darkDie
    | apply keep_modPlane
    | apply keep_forEach
    | (apply keep_ite <;> intro _)
    | intro _
    | dsimp only
    | exact keep_of ‹Keep _ _› rfl rfl rfl rfl rfl rfl rfl rfl rfl
    | split

theorem keep_stopAll {code : Nat} (hk : Keep s0 s) :
    Keep s0 (stopAll s code) := by
  unfold stopAll
  try dsimp only
  repeat' with_reducible first
    | assumption
    | apply keep_endSeq
    | apply keep_releaseKept
    | apply keep_stopContext
    | apply keep_dropGroups
    | apply keep_abandonLoad
    | apply keep_forEach
    | apply kwf_filter
    | (apply keep_ite <;> intro _)
    | intro _
    | dsimp only
    | split

theorem keep_toRest {code : Nat} {cause : Nat} (hk : Keep s0 s) :
    Keep s0 (toRest s code cause) := by
  unfold toRest
  try dsimp only
  repeat' with_reducible first
    | assumption
    | apply keep_stopAll
    | apply keep_sitesOff
    | apply keep_planeState
    | apply keep_modLoader
    | (apply keep_ite <;> intro _)
    | intro _
    | dsimp only
    | exact keep_of ‹Keep _ _› rfl rfl rfl rfl rfl rfl rfl rfl rfl
    | split

theorem keep_enterRest {code : Nat} {cause : Nat} (hk : Keep s0 s) :
    Keep s0 (enterRest s code cause) := by
  unfold enterRest
  try dsimp only
  repeat' with_reducible first
    | assumption
    | apply keep_toRest
    | (apply keep_ite <;> intro _)
    | intro _
    | dsimp only
    | split

/-! ## Machine/Power.lean -/

theorem keep_budgetCut {d : Fin 56} (hk : Keep s0 s) :
    Keep s0 (budgetCut s d) := by
  unfold budgetCut
  try dsimp only
  repeat' with_reducible first
    | assumption
    | apply keep_withCaps
    | apply keep_dset
    | apply keep_forEach
    | apply keep_foldl
    | apply kwf_filter
    | (apply keep_ite <;> intro _)
    | intro _
    | dsimp only
    | exact keep_of ‹Keep _ _› rfl rfl rfl rfl rfl rfl rfl rfl rfl
    | split

theorem keep_governorCut {d : Fin 56} (hk : Keep s0 s) :
    Keep s0 (governorCut s d) := by
  unfold governorCut
  try dsimp only
  repeat' with_reducible first
    | assumption
    | apply keep_modDie
    | apply keep_logPut
    | apply keep_budgetCut
    | apply keep_dinc
    | apply keep_foldl
    | exact fun _ h => h
    | (apply keep_ite <;> intro _)
    | intro _
    | dsimp only
    | exact keep_of ‹Keep _ _› rfl rfl rfl rfl rfl rfl rfl rfl rfl
    | split

theorem keep_noteMeasure {d : Fin 56} {watts : Nat} (hk : Keep s0 s) :
    Keep s0 (noteMeasure s d watts) := by
  unfold noteMeasure
  try dsimp only
  repeat' with_reducible first
    | assumption
    | apply keep_modDie
    | apply keep_rmax
    | apply keep_dset
    | exact fun _ h => h
    | (apply keep_ite <;> intro _)
    | intro _
    | dsimp only
    | exact keep_of ‹Keep _ _› rfl rfl rfl rfl rfl rfl rfl rfl rfl
    | split

theorem keep_powerMeasureEff {d : Fin 56} {watts : Nat} (hk : Keep s0 s) :
    Keep s0 (powerMeasureEff d watts s) := by
  unfold powerMeasureEff
  try dsimp only
  repeat' with_reducible first
    | assumption
    | apply keep_noteMeasure
    | apply keep_governorCut
    | (apply keep_ite <;> intro _)
    | intro _
    | dsimp only
    | split

theorem keep_budgetLiftEff {d : Fin 56} (hk : Keep s0 s) :
    Keep s0 (budgetLiftEff d s) := by
  unfold budgetLiftEff
  try dsimp only
  repeat' with_reducible first
    | assumption
    | apply keep_modDie
    | apply keep_modTile
    | apply keep_dset
    | apply keep_forEach
    | apply kwf_filter
    | exact fun _ h => ⟨h.1, h.2, h.3, h.4, h.5, h.6, h.7, h.8, h.9, h.10, h.11, h.12⟩
    | exact fun _ h => h
    | (apply keep_ite <;> intro _)
    | intro _
    | dsimp only
    | exact keep_of ‹Keep _ _› rfl rfl rfl rfl rfl rfl rfl rfl rfl
    | split
    | (refine ⟨?_, ?_, ?_, ?_, ?_, ?_, ?_, ?_, ?_, ?_, ?_, ?_⟩ <;> try dsimp only)
    | apply TileMem.sdata
    | apply TileMem.buf
    | apply TileMem.side
    | apply TileMem.vreg0
    | apply TileMem.vreg1
    | apply TileMem.sregs
    | apply TileMem.store
    | apply TileMem.queues
    | apply TileMem.groups
    | apply TileMem.acc
    | apply TileMem.regions
    | apply TileMem.crossings

theorem keep_modTurnOn {t : Tid} {f : TurnOn → TurnOn} (hk : Keep s0 s) :
    Keep s0 (modTurnOn s t f) := by
  unfold modTurnOn
  try dsimp only
  repeat' with_reducible first
    | assumption
    | apply keep_modDie
    | exact fun _ h => h
    | (apply keep_ite <;> intro _)
    | intro _
    | dsimp only
    | exact keep_of ‹Keep _ _› rfl rfl rfl rfl rfl rfl rfl rfl rfl
    | split

theorem keep_grantSpan {t : Tid} {since : Nat} {span : Nat} {capped : List Nat} (hk : Keep s0 s) :
    Keep s0 (grantSpan s t since span capped) := by
  unfold grantSpan
  try dsimp only
  repeat' with_reducible first
    | assumption
    | apply keep_rmax
    | apply keep_modTurnOn
    | apply keep_tset
    | (apply keep_ite <;> intro _)
    | intro _
    | dsimp only
    | exact keep_of ‹Keep _ _› rfl rfl rfl rfl rfl rfl rfl rfl rfl
    | split

theorem keep_turnOnEff {t : Tid} {segDa : Nat} {dieDa : Nat} (hk : Keep s0 s) :
    Keep s0 (turnOnEff t segDa dieDa s) := by
  unfold turnOnEff
  try dsimp only
  repeat' with_reducible first
    | assumption
    | apply keep_modDie
    | apply keep_grantSpan
    | exact fun _ h => h
    | (apply keep_ite <;> intro _)
    | intro _
    | dsimp only
    | exact keep_of ‹Keep _ _› rfl rfl rfl rfl rfl rfl rfl rfl rfl
    | split

theorem keep_grantRetestEff {d : Fin 56} {segDa : Nat} {dieDa : Nat} (hk : Keep s0 s) :
    Keep s0 (grantRetestEff d segDa dieDa s) := by
  unfold grantRetestEff
  try dsimp only
  repeat' with_reducible first
    | assumption
    | apply keep_grantSpan
    | (apply keep_ite <;> intro _)
    | intro _
    | dsimp only
    | exact keep_of ‹Keep _ _› rfl rfl rfl rfl rfl rfl rfl rfl rfl
    | split

theorem keep_grantExpiryEff {t : Tid} {segDa : Nat} {dieDa : Nat} (hk : Keep s0 s) :
    Keep s0 (grantExpiryEff t segDa dieDa s) := by
  unfold grantExpiryEff
  try dsimp only
  repeat' with_reducible first
    | assumption
    | apply keep_withCaps
    | apply keep_logPut
    | apply keep_grantSpan
    | apply keep_dinc
    | apply keep_forEach
    | apply kwf_filter
    | (apply keep_ite <;> intro _)
    | intro _
    | dsimp only
    | exact keep_of ‹Keep _ _› rfl rfl rfl rfl rfl rfl rfl rfl rfl
    | split

theorem keep_turnOnSettledEff {t : Tid} (hk : Keep s0 s) :
    Keep s0 (turnOnSettledEff t s) := by
  unfold turnOnSettledEff
  try dsimp only
  repeat' with_reducible first
    | assumption
    | apply keep_freshWindow
    | apply keep_tset
    | apply keep_tinc
    | apply keep_endTurnOn
    | (apply keep_ite <;> intro _)
    | intro _
    | dsimp only
    | exact keep_of ‹Keep _ _› rfl rfl rfl rfl rfl rfl rfl rfl rfl
    | split

theorem keep_isolateRail {t : Tid} {cause : Nat} {deciAmps : Nat} {why : FenceCause} (hk : Keep s0 s) :
    Keep s0 (isolateRail s t cause deciAmps why) := by
  unfold isolateRail
  try dsimp only
  repeat' with_reducible first
    | assumption
    | apply keep_raise
    | apply keep_logPut
    | apply keep_tset
    | apply keep_modTile
    | apply keep_endTurnOn
    | apply keep_leaveEpisode
    | apply keep_forEach
    | exact fun _ h => ⟨h.1, h.2, h.3, h.4, h.5, h.6, h.7, h.8, h.9, h.10, h.11, h.12⟩
    | (apply keep_ite <;> intro _)
    | intro _
    | dsimp only
    | exact keep_of ‹Keep _ _› rfl rfl rfl rfl rfl rfl rfl rfl rfl
    | split
    | (refine ⟨?_, ?_, ?_, ?_, ?_, ?_, ?_, ?_, ?_, ?_, ?_, ?_⟩ <;> try dsimp only)
    | apply TileMem.sdata
    | apply TileMem.buf
    | apply TileMem.side
    | apply TileMem.vreg0
    | apply TileMem.vreg1
    | apply TileMem.sregs
    | apply TileMem.store
    | apply TileMem.queues
    | apply TileMem.groups
    | apply TileMem.acc
    | apply TileMem.regions
    | apply TileMem.crossings

theorem keep_failPhases {t : Tid} {phases : List Nat} {cause : Nat} (hk : Keep s0 s) :
    Keep s0 (failPhases s t phases cause) := by
  unfold failPhases
  try dsimp only
  repeat' with_reducible first
    | assumption
    | apply keep_withCaps
    | apply keep_isolateRail
    | apply keep_logPut
    | apply keep_rmAdd
    | apply keep_tset
    | apply keep_bumpFree
    | apply keep_tinc
    | apply keep_forEach
    | apply kwf_filter
    | (apply keep_ite <;> intro _)
    | intro _
    | dsimp only
    | exact keep_of ‹Keep _ _› rfl rfl rfl rfl rfl rfl rfl rfl rfl
    | split

theorem keep_phaseFailureEff {t : Tid} {phases : List Nat} {cause : Nat} (hk : Keep s0 s) :
    Keep s0 (phaseFailureEff t phases cause s) := by
  unfold phaseFailureEff
  try dsimp only
  repeat' with_reducible first
    | assumption
    | apply keep_failPhases
    | (apply keep_ite <;> intro _)
    | intro _
    | dsimp only
    | split

theorem keep_railShortEff {t : Tid} {deciAmps : Nat} (hk : Keep s0 s) :
    Keep s0 (railShortEff t deciAmps s) := by
  unfold railShortEff
  try dsimp only
  repeat' with_reducible first
    | assumption
    | apply keep_isolateRail
    | apply keep_tinc
    | (apply keep_ite <;> intro _)
    | intro _
    | dsimp only
    | split

theorem keep_siteTripEff {d : Fin 56} {cause : Nat} (hk : Keep s0 s) :
    Keep s0 (siteTripEff d cause s) := by
  unfold siteTripEff
  try dsimp only
  repeat' with_reducible first
    | assumption
    | apply keep_darkDie
    | apply keep_logPut
    | apply keep_failDie
    | (apply keep_ite <;> intro _)
    | intro _
    | dsimp only
    | split

theorem keep_siteRetryEff {d : Fin 56} {holds : Bool} (hk : Keep s0 s) :
    Keep s0 (siteRetryEff d holds s) := by
  unfold siteRetryEff
  try dsimp only
  repeat' with_reducible first
    | assumption
    | apply keep_modDie
    | apply keep_dset
    | apply keep_rmDrop
    | exact fun _ h => h
    | (apply keep_ite <;> intro _)
    | intro _
    | dsimp only
    | exact keep_of ‹Keep _ _› rfl rfl rfl rfl rfl rfl rfl rfl rfl
    | split

theorem keep_vinLowEff {volts : Nat} (hk : Keep s0 s) :
    Keep s0 (vinLowEff volts s) := by
  unfold vinLowEff
  try dsimp only
  repeat' with_reducible first
    | assumption
    | apply keep_logPut
    | apply keep_modPlant
    | (apply keep_ite <;> intro _)
    | intro _
    | dsimp only
    | exact keep_of ‹Keep _ _› rfl rfl rfl rfl rfl rfl rfl rfl rfl
    | split

theorem keep_supplyLoss {volts : Nat} (hk : Keep s0 s) :
    Keep s0 (supplyLoss s volts) := by
  unfold supplyLoss
  try dsimp only
  repeat' with_reducible first
    | assumption
    | apply keep_toRest
    | apply keep_logPut
    | apply keep_modPlant
    | apply keep_stopAll
    | apply keep_sitesOff
    | apply keep_pset
    | (apply keep_ite <;> intro _)
    | intro _
    | dsimp only
    | exact keep_of ‹Keep _ _› rfl rfl rfl rfl rfl rfl rfl rfl rfl
    | split

theorem keep_vinLossEff {volts : Nat} (hk : Keep s0 s) :
    Keep s0 (vinLossEff volts s) := by
  unfold vinLossEff
  try dsimp only
  repeat' with_reducible first
    | assumption
    | apply keep_modPlant
    | apply keep_supplyLoss
    | (apply keep_ite <;> intro _)
    | intro _
    | dsimp only
    | exact keep_of ‹Keep _ _› rfl rfl rfl rfl rfl rfl rfl rfl rfl
    | split

theorem keep_vinOverEff {volts : Nat} (hk : Keep s0 s) :
    Keep s0 (vinOverEff volts s) := by
  unfold vinOverEff
  try dsimp only
  repeat' with_reducible first
    | assumption
    | apply keep_modPlant
    | apply keep_bumpFree
    | apply keep_supplyLoss
    | (apply keep_ite <;> intro _)
    | intro _
    | dsimp only
    | exact keep_of ‹Keep _ _› rfl rfl rfl rfl rfl rfl rfl rfl rfl
    | split

theorem keep_clearLoss (hk : Keep s0 s) :
    Keep s0 (clearLoss s) := by
  unfold clearLoss
  try dsimp only
  repeat' with_reducible first
    | assumption
    | apply keep_modPlant
    | (apply keep_ite <;> intro _)
    | intro _
    | dsimp only
    | exact keep_of ‹Keep _ _› rfl rfl rfl rfl rfl rfl rfl rfl rfl
    | split

theorem keep_pgInOffEff (hk : Keep s0 s) :
    Keep s0 (pgInOffEff s) := by
  unfold pgInOffEff
  try dsimp only
  repeat' with_reducible first
    | assumption
    | apply keep_modPins
    | apply keep_bumpFree
    | apply keep_supplyLoss
    | (apply keep_ite <;> intro _)
    | intro _
    | dsimp only
    | exact keep_of ‹Keep _ _› rfl rfl rfl rfl rfl rfl rfl rfl rfl
    | split

theorem keep_pgInOnEff (hk : Keep s0 s) :
    Keep s0 (pgInOnEff s) := by
  unfold pgInOnEff
  try dsimp only
  repeat' with_reducible first
    | assumption
    | apply keep_clearLoss
    | apply keep_modPins
    | (apply keep_ite <;> intro _)
    | intro _
    | dsimp only
    | exact keep_of ‹Keep _ _› rfl rfl rfl rfl rfl rfl rfl rfl rfl
    | split

theorem keep_vinBackEff {volts : Nat} (hk : Keep s0 s) :
    Keep s0 (vinBackEff volts s) := by
  unfold vinBackEff
  try dsimp only
  repeat' with_reducible first
    | assumption
    | apply keep_clearLoss
    | apply keep_modPlant
    | (apply keep_ite <;> intro _)
    | intro _
    | dsimp only
    | exact keep_of ‹Keep _ _› rfl rfl rfl rfl rfl rfl rfl rfl rfl
    | split

/-- A cold state is canonical, with the identity, the queue and what was sent of the state before (R403). -/
theorem coldState_canonical : Canonical (coldState s) :=
  ⟨Canonical.reset.1, Canonical.reset.2, Canonical.reset.3, Canonical.reset.4, Canonical.reset.5,
    Canonical.reset.6, Canonical.reset.7, Nat.zero_le _⟩

theorem keep_vauxLossEff : Keep (coldState s) (vauxLossEff s) := keep_modPlane (Keep.refl coldState_canonical)

/-! ## Machine/Thermal.lean -/

theorem keep_setCool {n : Nat} (hk : Keep s0 s) :
    Keep s0 (setCool s n) := by
  unfold setCool
  try dsimp only
  repeat' with_reducible first
    | assumption
    | apply keep_pset
    | (apply keep_ite <;> intro _)
    | intro _
    | dsimp only
    | split

theorem keep_setFlowCap {cap : Nat} (hk : Keep s0 s) :
    Keep s0 (setFlowCap s cap) := by
  unfold setFlowCap
  try dsimp only
  repeat' with_reducible first
    | assumption
    | apply keep_withCaps
    | apply keep_pset
    | apply keep_forEach
    | (apply keep_ite <;> intro _)
    | intro _
    | dsimp only
    | exact keep_of ‹Keep _ _› rfl rfl rfl rfl rfl rfl rfl rfl rfl
    | split

theorem keep_holdEnds (hk : Keep s0 s) :
    Keep s0 (holdEnds s) := by
  unfold holdEnds
  try dsimp only
  repeat' with_reducible first
    | assumption
    | apply keep_endSeq
    | apply keep_modPlant
    | apply keep_forEach
    | apply kwf_filter
    | (apply keep_ite <;> intro _)
    | intro _
    | dsimp only
    | exact keep_of ‹Keep _ _› rfl rfl rfl rfl rfl rfl rfl rfl rfl
    | split

theorem keep_stopPlane (hk : Keep s0 s) :
    Keep s0 (stopPlane s) := by
  unfold stopPlane
  try dsimp only
  repeat' with_reducible first
    | assumption
    | apply keep_enterHold
    | apply keep_setCool
    | apply keep_setFlowCap
    | apply keep_holdEnds
    | apply keep_modPlant
    | (apply keep_ite <;> intro _)
    | intro _
    | dsimp only
    | exact keep_of ‹Keep _ _› rfl rfl rfl rfl rfl rfl rfl rfl rfl
    | split

theorem keep_suddenStop {circuit : Nat} {flow : Nat} {rule : Nat} (hk : Keep s0 s) :
    Keep s0 (suddenStop s circuit flow rule) := by
  unfold suddenStop
  try dsimp only
  repeat' with_reducible first
    | assumption
    | apply keep_logPut
    | apply keep_stopPlane
    | apply keep_pinc
    | (apply keep_ite <;> intro _)
    | intro _
    | dsimp only
    | split

theorem keep_thermTrip {src : LogSrc} {where_ : Nat} {reading : Nat} (hk : Keep s0 s) :
    Keep s0 (thermTrip s src where_ reading) := by
  unfold thermTrip
  try dsimp only
  repeat' with_reducible first
    | assumption
    | apply keep_logPut
    | apply keep_modPins
    | apply keep_stopPlane
    | apply keep_pset
    | (apply keep_ite <;> intro _)
    | intro _
    | dsimp only
    | exact keep_of ‹Keep _ _› rfl rfl rfl rfl rfl rfl rfl rfl rfl
    | split

theorem keep_coolSample {d : Nat} {key : Nat} (hk : Keep s0 s) :
    Keep s0 (coolSample s d key) := by
  unfold coolSample
  try dsimp only
  repeat' with_reducible first
    | assumption
    | apply keep_modDie
    | apply kwf_filter
    | exact fun _ h => h
    | (apply keep_ite <;> intro _)
    | intro _
    | dsimp only
    | exact keep_of ‹Keep _ _› rfl rfl rfl rfl rfl rfl rfl rfl rfl
    | split

theorem keep_tripSample {d : Nat} {key : Nat} {temp : Int} {src : LogSrc} {where_ : Nat} (hk : Keep s0 s) :
    Keep s0 (tripSample s d key temp src where_) := by
  unfold tripSample
  try dsimp only
  repeat' with_reducible first
    | assumption
    | apply keep_modDie
    | apply keep_thermTrip
    | apply keep_coolSample
    | exact fun _ h => h
    | (apply keep_ite <;> intro _)
    | intro _
    | dsimp only
    | exact keep_of ‹Keep _ _› rfl rfl rfl rfl rfl rfl rfl rfl rfl
    | split

theorem keep_sensorCap {t : Tid} (hk : Keep s0 s) :
    Keep s0 (sensorCap s t) := by
  unfold sensorCap
  try dsimp only
  repeat' with_reducible first
    | assumption
    | apply keep_withCaps
    | (apply keep_ite <;> intro _)
    | intro _
    | dsimp only
    | exact keep_of ‹Keep _ _› rfl rfl rfl rfl rfl rfl rfl rfl rfl
    | split

theorem keep_setThermal {t : Tid} {cap : Nat} (hk : Keep s0 s) :
    Keep s0 (setThermal s t cap) := by
  unfold setThermal
  try dsimp only
  repeat' with_reducible first
    | assumption
    | apply keep_tset
    | apply keep_withCaps
    | (apply keep_ite <;> intro _)
    | intro _
    | dsimp only
    | exact keep_of ‹Keep _ _› rfl rfl rfl rfl rfl rfl rfl rfl rfl
    | split

theorem keep_thermalFrom {t : Tid} {cap : Nat} {hot : Nat} {stack : Nat} (hk : Keep s0 s) :
    Keep s0 (thermalFrom s t cap hot stack) := by
  unfold thermalFrom
  try dsimp only
  repeat' with_reducible first
    | assumption
    | apply keep_modTile
    | exact fun _ h => ⟨h.1, h.2, h.3, h.4, h.5, h.6, h.7, h.8, h.9, h.10, h.11, h.12⟩
    | (apply keep_ite <;> intro _)
    | intro _
    | dsimp only
    | exact keep_of ‹Keep _ _› rfl rfl rfl rfl rfl rfl rfl rfl rfl
    | split
    | (refine ⟨?_, ?_, ?_, ?_, ?_, ?_, ?_, ?_, ?_, ?_, ?_, ?_⟩ <;> try dsimp only)
    | apply TileMem.sdata
    | apply TileMem.buf
    | apply TileMem.side
    | apply TileMem.vreg0
    | apply TileMem.vreg1
    | apply TileMem.sregs
    | apply TileMem.store
    | apply TileMem.queues
    | apply TileMem.groups
    | apply TileMem.acc
    | apply TileMem.regions
    | apply TileMem.crossings

theorem keep_thermalTighten {t : Tid} (hk : Keep s0 s) :
    Keep s0 (thermalTighten s t) := by
  unfold thermalTighten
  try dsimp only
  repeat' with_reducible first
    | assumption
    | apply keep_setThermal
    | apply keep_thermalFrom
    | (apply keep_ite <;> intro _)
    | intro _
    | dsimp only
    | split

theorem keep_thermalLoosenEff {t : Tid} (hk : Keep s0 s) :
    Keep s0 (thermalLoosenEff t s) := by
  unfold thermalLoosenEff
  try dsimp only
  repeat' with_reducible first
    | assumption
    | apply keep_setThermal
    | (apply keep_ite <;> intro _)
    | intro _
    | dsimp only
    | exact keep_of ‹Keep _ _› rfl rfl rfl rfl rfl rfl rfl rfl rfl
    | split

theorem keep_updateHot {t : Tid} (hk : Keep s0 s) :
    Keep s0 (updateHot s t) := by
  unfold updateHot
  try dsimp only
  repeat' with_reducible first
    | assumption
    | apply keep_sensorCap
    | apply keep_thermalTighten
    | apply keep_logPut
    | apply keep_tset
    | apply keep_modTile
    | apply keep_tinc
    | exact fun _ h => ⟨h.1, h.2, h.3, h.4, h.5, h.6, h.7, h.8, h.9, h.10, h.11, h.12⟩
    | (apply keep_ite <;> intro _)
    | intro _
    | dsimp only
    | exact keep_of ‹Keep _ _› rfl rfl rfl rfl rfl rfl rfl rfl rfl
    | split
    | (refine ⟨?_, ?_, ?_, ?_, ?_, ?_, ?_, ?_, ?_, ?_, ?_, ?_⟩ <;> try dsimp only)
    | apply TileMem.sdata
    | apply TileMem.buf
    | apply TileMem.side
    | apply TileMem.vreg0
    | apply TileMem.vreg1
    | apply TileMem.sregs
    | apply TileMem.store
    | apply TileMem.queues
    | apply TileMem.groups
    | apply TileMem.acc
    | apply TileMem.regions
    | apply TileMem.crossings

theorem keep_suspectClearEff {t : Tid} (hk : Keep s0 s) :
    Keep s0 (suspectClearEff t s) := by
  unfold suspectClearEff
  try dsimp only
  repeat' with_reducible first
    | assumption
    | apply keep_tset
    | apply keep_sensorCap
    | (apply keep_ite <;> intro _)
    | intro _
    | dsimp only
    | split

theorem keep_roEstimateEff {t : Tid} {e : Nat} (hk : Keep s0 s) :
    Keep s0 (roEstimateEff t e s) := by
  unfold roEstimateEff
  try dsimp only
  repeat' with_reducible first
    | assumption
    | apply keep_updateHot
    | apply keep_tset
    | (apply keep_ite <;> intro _)
    | intro _
    | dsimp only
    | split

theorem keep_noteDiode {t : Tid} {which : Nat} {temp : Int} (hk : Keep s0 s) :
    Keep s0 (noteDiode s t which temp) := by
  unfold noteDiode
  try dsimp only
  repeat' with_reducible first
    | assumption
    | apply keep_tripSample
    | apply keep_tset
    | apply keep_tinc
    | apply keep_coolSample
    | (apply keep_ite <;> intro _)
    | intro _
    | dsimp only
    | exact keep_of ‹Keep _ _› rfl rfl rfl rfl rfl rfl rfl rfl rfl
    | split

theorem keep_noteStack {d : Nat} {n : Nat} {temp : Int} (hk : Keep s0 s) :
    Keep s0 (noteStack s d n temp) := by
  unfold noteStack
  try dsimp only
  repeat' with_reducible first
    | assumption
    | apply keep_dset
    | (apply keep_ite <;> intro _)
    | intro _
    | dsimp only
    | split

theorem keep_updateStack {d : Fin 56} (hk : Keep s0 s) :
    Keep s0 (updateStack s d) := by
  unfold updateStack
  try dsimp only
  repeat' with_reducible first
    | assumption
    | apply keep_tripSample
    | apply keep_sensorCap
    | apply keep_thermalTighten
    | apply keep_logPut
    | apply keep_dset
    | apply keep_forEach
    | (apply keep_ite <;> intro _)
    | intro _
    | dsimp only
    | split

theorem keep_noteScan {d : Fin 56} {bank : Nat} {code : Nat → Nat} (hk : Keep s0 s) :
    Keep s0 (noteScan s d bank code) := by
  unfold noteScan
  try dsimp only
  repeat' with_reducible first
    | assumption
    | apply keep_updateStack
    | apply keep_noteDiode
    | apply keep_updateHot
    | apply keep_noteStack
    | apply keep_forEach
    | (apply keep_ite <;> intro _)
    | intro _
    | dsimp only
    | split

theorem keep_bankUnread {d : Fin 56} {bank : Nat} (hk : Keep s0 s) :
    Keep s0 (bankUnread s d bank) := by
  unfold bankUnread
  try dsimp only
  repeat' with_reducible first
    | assumption
    | apply keep_updateStack
    | apply keep_updateHot
    | apply keep_tset
    | apply keep_dset
    | apply keep_forEach
    | (apply keep_ite <;> intro _)
    | intro _
    | dsimp only
    | split

theorem keep_overheatEff {d : Fin 56} (hk : Keep s0 s) :
    Keep s0 (overheatEff d s) := by
  unfold overheatEff
  try dsimp only
  repeat' with_reducible first
    | assumption
    | apply keep_setCool
    | apply keep_enterRest
    | apply keep_logPut
    | (apply keep_ite <;> intro _)
    | intro _
    | dsimp only
    | split

/-! ## Machine/Adc.lean -/

theorem keep_adcSet {d : Nat} {f : Fld} {v : Nat} (hk : Keep s0 s) :
    Keep s0 (adcSet s d f v) := by
  unfold adcSet
  try dsimp only
  repeat' with_reducible first
    | assumption
    | apply keep_dset
    | (apply keep_ite <;> intro _)
    | intro _
    | dsimp only
    | split

theorem keep_setSlice {d : Nat} {i : Nat} {st : Nat} (hk : Keep s0 s) :
    Keep s0 (setSlice s d i st) := by
  unfold setSlice
  try dsimp only
  repeat' with_reducible first
    | assumption
    | apply keep_adcSet
    | (apply keep_ite <;> intro _)
    | intro _
    | dsimp only
    | split

theorem keep_setCalibrated {d : Nat} {i : Nat} {v : Bool} (hk : Keep s0 s) :
    Keep s0 (setCalibrated s d i v) := by
  unfold setCalibrated
  try dsimp only
  repeat' with_reducible first
    | assumption
    | apply keep_modDie
    | exact fun _ h => h
    | (apply keep_ite <;> intro _)
    | intro _
    | dsimp only
    | exact keep_of ‹Keep _ _› rfl rfl rfl rfl rfl rfl rfl rfl rfl
    | split

theorem keep_giveBank {d : Nat} {i : Nat} {b : Nat} (hk : Keep s0 s) :
    Keep s0 (giveBank s d i b) := by
  unfold giveBank
  try dsimp only
  repeat' with_reducible first
    | assumption
    | apply keep_modDie
    | apply keep_adcSet
    | apply keep_setSlice
    | apply kwf_kset
    | exact fun _ h => h
    | (apply keep_ite <;> intro _)
    | intro _
    | dsimp only
    | exact keep_of ‹Keep _ _› rfl rfl rfl rfl rfl rfl rfl rfl rfl
    | split

theorem keep_loseBank {d : Nat} {b : Nat} (hk : Keep s0 s) :
    Keep s0 (loseBank s d b) := by
  unfold loseBank
  try dsimp only
  repeat' with_reducible first
    | assumption
    | apply keep_modDie
    | apply keep_adcSet
    | apply keep_logPut
    | apply keep_bankUnread
    | apply keep_forEach
    | exact fun _ h => h
    | (apply keep_ite <;> intro _)
    | intro _
    | dsimp only
    | exact keep_of ‹Keep _ _› rfl rfl rfl rfl rfl rfl rfl rfl rfl
    | split

theorem keep_fillBanks {d : Nat} (hk : Keep s0 s) :
    Keep s0 (fillBanks s d) := by
  unfold fillBanks
  try dsimp only
  repeat' with_reducible first
    | assumption
    | apply keep_adcSet
    | apply keep_giveBank
    | apply keep_loseBank
    | apply keep_forEach
    | apply keep_foldl
    | apply kwf_filter
    | (apply keep_ite <;> intro _)
    | intro _
    | dsimp only
    | exact keep_of ‹Keep _ _› rfl rfl rfl rfl rfl rfl rfl rfl rfl
    | split

theorem keep_retireSlice {d : Nat} {i : Nat} {why : Nat} (hk : Keep s0 s) :
    Keep s0 (retireSlice s d i why) := by
  unfold retireSlice
  try dsimp only
  repeat' with_reducible first
    | assumption
    | apply keep_logPut
    | apply keep_rmAdd
    | apply keep_fillBanks
    | apply keep_setSlice
    | apply keep_setCalibrated
    | (apply keep_ite <;> intro _)
    | intro _
    | dsimp only
    | split

theorem keep_storeScan {d : Nat} {b : Nat} {slice : Nat} {code : Nat → Nat} (hk : Keep s0 s) :
    Keep s0 (storeScan s d b slice code) := by
  unfold storeScan
  try dsimp only
  repeat' with_reducible first
    | assumption
    | apply keep_adcSet
    | apply keep_forEach
    | apply kwf_filter
    | (apply keep_ite <;> intro _)
    | intro _
    | dsimp only
    | split

theorem keep_failScan {d : Nat} {b : Nat} {slice : Nat} {ground : Nat} {bandgap : Nat} (hk : Keep s0 s) :
    Keep s0 (failScan s d b slice ground bandgap) := by
  unfold failScan
  try dsimp only
  repeat' with_reducible first
    | assumption
    | apply keep_modDie
    | apply keep_adcSet
    | apply keep_logPut
    | apply keep_giveBank
    | apply keep_dinc
    | apply keep_setSlice
    | apply keep_setCalibrated
    | apply keep_forEach
    | apply kwf_kset
    | exact fun _ h => h
    | (apply keep_ite <;> intro _)
    | intro _
    | dsimp only
    | exact keep_of ‹Keep _ _› rfl rfl rfl rfl rfl rfl rfl rfl rfl
    | split

theorem keep_scanBank {d : Nat} {b : Nat} {codes : List (BitVec 12)} (hk : Keep s0 s) :
    Keep s0 (scanBank s d b codes) := by
  unfold scanBank
  try dsimp only
  repeat' with_reducible first
    | assumption
    | apply keep_modDie
    | apply keep_storeScan
    | apply keep_noteScan
    | apply keep_failScan
    | apply kwf_kset
    | exact fun _ h => h
    | (apply keep_ite <;> intro _)
    | intro _
    | dsimp only
    | exact keep_of ‹Keep _ _› rfl rfl rfl rfl rfl rfl rfl rfl rfl
    | split

theorem keep_calWrite {d : Nat} {i : Nat} {ground : List Nat} {bandgap : List Nat} (hk : Keep s0 s) :
    Keep s0 (calWrite s d i ground bandgap) := by
  unfold calWrite
  try dsimp only
  repeat' with_reducible first
    | assumption
    | apply keep_adcSet
    | (apply keep_ite <;> intro _)
    | intro _
    | dsimp only
    | split

theorem keep_calibrateSlice {d : Nat} {i : Nat} {ground : List Nat} {bandgap : List Nat} {dac : List Nat} (hk : Keep s0 s) :
    Keep s0 (calibrateSlice s d i ground bandgap dac) := by
  unfold calibrateSlice
  try dsimp only
  repeat' with_reducible first
    | assumption
    | apply keep_modDie
    | apply keep_logPut
    | apply keep_calWrite
    | apply keep_setSlice
    | apply keep_retireSlice
    | apply keep_setCalibrated
    | apply kwf_kset
    | exact fun _ h => h
    | (apply keep_ite <;> intro _)
    | intro _
    | dsimp only
    | exact keep_of ‹Keep _ _› rfl rfl rfl rfl rfl rfl rfl rfl rfl
    | split

theorem keep_warmUp {d : Nat} (hk : Keep s0 s) :
    Keep s0 (warmUp s d) := by
  unfold warmUp
  try dsimp only
  repeat' with_reducible first
    | assumption
    | apply keep_modDie
    | exact fun _ h => h
    | (apply keep_ite <;> intro _)
    | intro _
    | dsimp only
    | exact keep_of ‹Keep _ _› rfl rfl rfl rfl rfl rfl rfl rfl rfl
    | split

theorem keep_calibrateEff {d : Nat} {ground : List Nat} {bandgap : List Nat} {dac : List Nat} (hk : Keep s0 s) :
    Keep s0 (calibrateEff d ground bandgap dac s) := by
  unfold calibrateEff
  try dsimp only
  repeat' with_reducible first
    | assumption
    | apply keep_warmUp
    | apply keep_calibrateSlice
    | (apply keep_ite <;> intro _)
    | intro _
    | dsimp only
    | exact keep_of ‹Keep _ _› rfl rfl rfl rfl rfl rfl rfl rfl rfl
    | split

theorem keep_handOver {d : Nat} {inc : Nat} {out : Nat} {b : Nat} (hk : Keep s0 s) :
    Keep s0 (handOver s d inc out b) := by
  unfold handOver
  try dsimp only
  repeat' with_reducible first
    | assumption
    | apply keep_giveBank
    | apply keep_setSlice
    | apply keep_setCalibrated
    | (apply keep_ite <;> intro _)
    | intro _
    | dsimp only
    | split

theorem keep_rotateEff {d : Nat} {inCodes : List (BitVec 12)} {outCodes : List (BitVec 12)} {inCheck : List (BitVec 12)} {outCheck : List (BitVec 12)} (hk : Keep s0 s) :
    Keep s0 (rotateEff d inCodes outCodes inCheck outCheck s) := by
  unfold rotateEff
  try dsimp only
  repeat' with_reducible first
    | assumption
    | apply keep_logPut
    | apply keep_scanBank
    | apply keep_handOver
    | apply keep_dinc
    | apply keep_setSlice
    | apply keep_retireSlice
    | apply keep_setCalibrated
    | (apply keep_ite <;> intro _)
    | intro _
    | dsimp only
    | exact keep_of ‹Keep _ _› rfl rfl rfl rfl rfl rfl rfl rfl rfl
    | split

theorem keep_dacRun {d : Nat} {ctrl : Nat} {raw : Nat} (hk : Keep s0 s) :
    Keep s0 (dacRun s d ctrl raw) := by
  unfold dacRun
  try dsimp only
  repeat' with_reducible first
    | assumption
    | apply keep_adcSet
    | (apply keep_ite <;> intro _)
    | intro _
    | dsimp only
    | split

theorem keep_dacConvertEff {d : Nat} {ctrl : Nat} {raw : Nat} (hk : Keep s0 s) :
    Keep s0 (dacConvertEff d ctrl raw s) := by
  unfold dacConvertEff
  try dsimp only
  repeat' with_reducible first
    | assumption
    | apply keep_modDie
    | apply keep_dacRun
    | exact fun _ h => h
    | (apply keep_ite <;> intro _)
    | intro _
    | dsimp only
    | exact keep_of ‹Keep _ _› rfl rfl rfl rfl rfl rfl rfl rfl rfl
    | split

theorem keep_dacFree {d : Nat} (hk : Keep s0 s) :
    Keep s0 (dacFree s d) := by
  unfold dacFree
  try dsimp only
  repeat' with_reducible first
    | assumption
    | apply keep_dacConvertEff
    | (apply keep_ite <;> intro _)
    | intro _
    | dsimp only
    | exact keep_of ‹Keep _ _› rfl rfl rfl rfl rfl rfl rfl rfl rfl
    | split

theorem keep_sensorScanEff {d : Nat} {b : Nat} {codes : List (BitVec 12)} (hk : Keep s0 s) :
    Keep s0 (sensorScanEff d b codes s) := by
  unfold sensorScanEff
  try dsimp only
  repeat' with_reducible first
    | assumption
    | apply keep_scanBank
    | apply keep_dacFree
    | (apply keep_ite <;> intro _)
    | intro _
    | dsimp only
    | split

/-! ## Machine/Coolant.lean -/

theorem keep_pushFlow {i : Nat} {v : Option Nat} (hk : Keep s0 s) :
    Keep s0 (pushFlow s i v) := by
  unfold pushFlow
  try dsimp only
  repeat' with_reducible first
    | assumption
    | apply keep_modPlant
    | (apply keep_ite <;> intro _)
    | intro _
    | dsimp only
    | exact keep_of ‹Keep _ _› rfl rfl rfl rfl rfl rfl rfl rfl rfl
    | split

theorem keep_noteFacilityTemp {f : Fld} {code : Nat} (hk : Keep s0 s) :
    Keep s0 (noteFacilityTemp s f code) := by
  unfold noteFacilityTemp
  try dsimp only
  repeat' with_reducible first
    | assumption
    | apply keep_pset
    | (apply keep_ite <;> intro _)
    | intro _
    | dsimp only
    | split

theorem keep_noteFlows {code : Nat → Nat} (hk : Keep s0 s) :
    Keep s0 (noteFlows code s) := by
  unfold noteFlows
  try dsimp only
  repeat' with_reducible first
    | assumption
    | apply keep_noteFacilityTemp
    | apply keep_pushFlow
    | apply keep_pset
    | apply keep_forEach
    | (apply keep_ite <;> intro _)
    | intro _
    | dsimp only
    | exact keep_of ‹Keep _ _› rfl rfl rfl rfl rfl rfl rfl rfl rfl
    | split

theorem keep_checkStop (hk : Keep s0 s) :
    Keep s0 (checkStop s) := by
  unfold checkStop
  try dsimp only
  repeat' with_reducible first
    | assumption
    | apply keep_suddenStop
    | (apply keep_ite <;> intro _)
    | intro _
    | dsimp only
    | exact keep_of ‹Keep _ _› rfl rfl rfl rfl rfl rfl rfl rfl rfl
    | split

theorem keep_facilityEff {codes : List (BitVec 12)} (hk : Keep s0 s) :
    Keep s0 (facilityEff codes s) := by
  unfold facilityEff
  try dsimp only
  repeat' with_reducible first
    | assumption
    | apply keep_checkStop
    | apply keep_scanBank
    | apply keep_noteFlows
    | apply keep_dacFree
    | (apply keep_ite <;> intro _)
    | intro _
    | dsimp only
    | exact keep_of ‹Keep _ _› rfl rfl rfl rfl rfl rfl rfl rfl rfl
    | split

theorem keep_sensorLostEff {i : Nat} (hk : Keep s0 s) :
    Keep s0 (sensorLostEff i s) := by
  unfold sensorLostEff
  try dsimp only
  repeat' with_reducible first
    | assumption
    | apply keep_logPut
    | apply keep_modPlant
    | (apply keep_ite <;> intro _)
    | intro _
    | dsimp only
    | exact keep_of ‹Keep _ _› rfl rfl rfl rfl rfl rfl rfl rfl rfl
    | split

theorem keep_inletEff {i : Nat} {below : Bool} (hk : Keep s0 s) :
    Keep s0 (inletEff i below s) := by
  unfold inletEff
  try dsimp only
  repeat' with_reducible first
    | assumption
    | apply keep_logPut
    | (apply keep_ite <;> intro _)
    | intro _
    | dsimp only
    | split

theorem keep_timeFlow {f : Rat} (hk : Keep s0 s) :
    Keep s0 (timeFlow s f) := by
  unfold timeFlow
  try dsimp only
  repeat' with_reducible first
    | assumption
    | apply keep_modPlant
    | (apply keep_ite <;> intro _)
    | intro _
    | dsimp only
    | exact keep_of ‹Keep _ _› rfl rfl rfl rfl rfl rfl rfl rfl rfl
    | split

theorem keep_warnFlow {c : Nat} {f : Rat} (hk : Keep s0 s) :
    Keep s0 (warnFlow s c f) := by
  unfold warnFlow
  try dsimp only
  repeat' with_reducible first
    | assumption
    | apply keep_setCool
    | apply keep_logPut
    | apply keep_modPlant
    | apply keep_pinc
    | (apply keep_ite <;> intro _)
    | intro _
    | dsimp only
    | exact keep_of ‹Keep _ _› rfl rfl rfl rfl rfl rfl rfl rfl rfl
    | split

theorem keep_cutFlow {c : Nat} {f : Rat} (hk : Keep s0 s) :
    Keep s0 (cutFlow s c f) := by
  unfold cutFlow
  try dsimp only
  repeat' with_reducible first
    | assumption
    | apply keep_setCool
    | apply keep_logPut
    | apply keep_setFlowCap
    | (apply keep_ite <;> intro _)
    | intro _
    | dsimp only
    | exact keep_of ‹Keep _ _› rfl rfl rfl rfl rfl rfl rfl rfl rfl
    | split

theorem keep_flowEvalEff (hk : Keep s0 s) :
    Keep s0 (flowEvalEff s) := by
  unfold flowEvalEff
  try dsimp only
  repeat' with_reducible first
    | assumption
    | apply keep_timeFlow
    | apply keep_warnFlow
    | apply keep_cutFlow
    | (apply keep_ite <;> intro _)
    | intro _
    | dsimp only
    | exact keep_of ‹Keep _ _› rfl rfl rfl rfl rfl rfl rfl rfl rfl
    | split

theorem keep_flowLoosenEff (hk : Keep s0 s) :
    Keep s0 (flowLoosenEff s) := by
  unfold flowLoosenEff
  try dsimp only
  repeat' with_reducible first
    | assumption
    | apply keep_setCool
    | apply keep_setFlowCap
    | (apply keep_ite <;> intro _)
    | intro _
    | dsimp only
    | exact keep_of ‹Keep _ _› rfl rfl rfl rfl rfl rfl rfl rfl rfl
    | split

theorem keep_holdTimeoutEff (hk : Keep s0 s) :
    Keep s0 (holdTimeoutEff s) := by
  unfold holdTimeoutEff
  try dsimp only
  repeat' with_reducible first
    | assumption
    | apply keep_holdEnds
    | (apply keep_ite <;> intro _)
    | intro _
    | dsimp only
    | split

theorem keep_resumeStop {holdS : Nat} {how : Nat} (hk : Keep s0 s) :
    Keep s0 (resumeStop s holdS how) := by
  unfold resumeStop
  try dsimp only
  repeat' with_reducible first
    | assumption
    | apply keep_setCool
    | apply keep_leaveHold
    | apply keep_logPut
    | apply keep_setFlowCap
    | apply keep_modPlant
    | (apply keep_ite <;> intro _)
    | intro _
    | dsimp only
    | exact keep_of ‹Keep _ _› rfl rfl rfl rfl rfl rfl rfl rfl rfl
    | split

theorem keep_holdResumeEff {holdS : Nat} (hk : Keep s0 s) :
    Keep s0 (holdResumeEff holdS s) := by
  unfold holdResumeEff
  try dsimp only
  repeat' with_reducible first
    | assumption
    | apply keep_resumeStop
    | (apply keep_ite <;> intro _)
    | intro _
    | dsimp only
    | split

theorem keep_mgmtResume (hk : Keep s0 s) :
    Keep s0 (mgmtResume s).2 := by
  unfold mgmtResume
  try dsimp only
  repeat' with_reducible first
    | assumption
    | apply keep_resumeStop
    | (apply keep_ite <;> intro _)
    | intro _
    | dsimp only
    | split

theorem keep_resumeEff {m : Mgmt} (hk : Keep s0 s) :
    Keep s0 (resumeEff m s) := by
  unfold resumeEff
  try dsimp only
  repeat' with_reducible first
    | assumption
    | apply keep_reply
    | apply keep_mgmtOp
    | apply keep_mgmtResume
    | refine keep_snd (by assumption) ?_
    | (apply keep_ite <;> intro _)
    | intro _
    | dsimp only
    | split

/-! ## Machine/Tests.lean -/

theorem keep_saveRegion {t : Tid} {k : SliceId} (hk : Keep s0 s) :
    Keep s0 (saveRegion s t k) := by
  unfold saveRegion
  try dsimp only
  repeat' with_reducible first
    | assumption
    | apply keep_stackWrite
    | (apply keep_ite <;> intro _)
    | intro _
    | dsimp only
    | split

theorem keep_sliceStartEff {t : Tid} {k : SliceId} (hk : Keep s0 s) :
    Keep s0 (sliceStartEff t k s) := by
  unfold sliceStartEff
  try dsimp only
  repeat' with_reducible first
    | assumption
    | apply keep_saveRegion
    | apply keep_tset
    | apply keep_modTile
    | apply keep_post
    | apply kwf_filter
    | exact fun _ h => ⟨h.1, h.2, h.3, h.4, h.5, h.6, h.7, h.8, h.9, h.10, h.11, h.12⟩
    | (apply keep_ite <;> intro _)
    | intro _
    | dsimp only
    | exact keep_of ‹Keep _ _› rfl rfl rfl rfl rfl rfl rfl rfl rfl
    | split
    | (refine ⟨?_, ?_, ?_, ?_, ?_, ?_, ?_, ?_, ?_, ?_, ?_, ?_⟩ <;> try dsimp only)
    | apply TileMem.sdata
    | apply TileMem.buf
    | apply TileMem.side
    | apply TileMem.vreg0
    | apply TileMem.vreg1
    | apply TileMem.sregs
    | apply TileMem.store
    | apply TileMem.queues
    | apply TileMem.groups
    | apply TileMem.acc
    | apply TileMem.regions
    | apply TileMem.crossings

theorem keep_restoreLost {t : Tid} {k : SliceId} {line : Nat} (hk : Keep s0 s) :
    Keep s0 (restoreLost s t k line) := by
  unfold restoreLost
  try dsimp only
  repeat' with_reducible first
    | assumption
    | apply keep_setVregFile
    | apply keep_bumpFree
    | apply keep_modTile
    | apply keep_flagWord
    | apply vregFile_wf
    | apply mstore_wf
    | apply kwf_filter
    | exact fun _ h => ⟨h.1, h.2, h.3, h.4, h.5, h.6, h.7, h.8, h.9, h.10, h.11, h.12⟩
    | (apply keep_ite <;> intro _)
    | intro _
    | dsimp only
    | exact keep_of ‹Keep _ _› rfl rfl rfl rfl rfl rfl rfl rfl rfl
    | split
    | (refine ⟨?_, ?_, ?_, ?_, ?_, ?_, ?_, ?_, ?_, ?_, ?_, ?_⟩ <;> try dsimp only)
    | apply TileMem.sdata
    | apply TileMem.buf
    | apply TileMem.side
    | apply TileMem.vreg0
    | apply TileMem.vreg1
    | apply TileMem.sregs
    | apply TileMem.store
    | apply TileMem.queues
    | apply TileMem.groups
    | apply TileMem.acc
    | apply TileMem.regions
    | apply TileMem.crossings

theorem keep_setLinkHalf {t : Tid} {d : Dir} {v : Nat} (hk : Keep s0 s) :
    Keep s0 (setLinkHalf s t d v) := by
  unfold setLinkHalf
  try dsimp only
  repeat' with_reducible first
    | assumption
    | apply keep_rset
    | (apply keep_ite <;> intro _)
    | intro _
    | dsimp only
    | exact keep_of ‹Keep _ _› rfl rfl rfl rfl rfl rfl rfl rfl rfl
    | split

theorem keep_setLinkState {t : Tid} {d : Dir} {v : Nat} (hk : Keep s0 s) :
    Keep s0 (setLinkState s t d v) := by
  unfold setLinkState
  try dsimp only
  repeat' with_reducible first
    | assumption
    | apply keep_rset
    | (apply keep_ite <;> intro _)
    | intro _
    | dsimp only
    | exact keep_of ‹Keep _ _› rfl rfl rfl rfl rfl rfl rfl rfl rfl
    | split

theorem keep_failLane {t : Tid} {d : Dir} {lane : Nat} (hk : Keep s0 s) :
    Keep s0 (failLane s t d lane).2 := by
  unfold failLane
  try dsimp only
  repeat' with_reducible first
    | assumption
    | apply keep_sublinksFell
    | apply keep_logPut
    | apply keep_rmAdd
    | apply keep_rset
    | apply keep_setLinkState
    | apply keep_setLinkHalf
    | (apply keep_ite <;> intro _)
    | intro _
    | dsimp only
    | split

theorem keep_failCrossing {t : Tid} {d : Dir} {lanes : List Nat} (hk : Keep s0 s) :
    Keep s0 (failCrossing s t d lanes).2 := by
  unfold failCrossing
  split
  · exact hk
  · extract_lets l1
    split
    · refine keep_foldSnd hk fun a l h => ?_
      dsimp only
      split
      · exact h
      · exact keep_failLane h
    · rename_i old new s1 _
      have h1 : Keep s0 s1 := keep_modTile hk fun _ h => ⟨h.1, h.2, h.3, h.4, h.5, h.6, h.7, h.8, h.9, h.10, h.11, h.12⟩
      clear_value s1
      refine keep_iteSnd ?_ (keep_iteSnd h1 (keep_sublinksFell h1))
      dsimp only
      refine keep_modTile h1 fun _ h => ?_
      exact ⟨h.1, h.2, h.3, h.4, h.5, h.6, h.7, h.8, h.9, h.10, h.11, h.12⟩

theorem keep_markDone {t : Tid} {k : SliceId} (hk : Keep s0 s) :
    Keep s0 (markDone s t k) := by
  unfold markDone
  try dsimp only
  repeat' with_reducible first
    | assumption
    | apply keep_tset
    | (apply keep_ite <;> intro _)
    | intro _
    | dsimp only
    | exact keep_of ‹Keep _ _› rfl rfl rfl rfl rfl rfl rfl rfl rfl
    | split

theorem keep_fenceCore {t : Tid} {i : Nat} (hk : Keep s0 s) :
    Keep s0 (fenceCore s t i).2 := by
  unfold fenceCore
  try dsimp only
  repeat' with_reducible first
    | assumption
    | apply keep_raise
    | apply keep_tset
    | apply keep_modTile
    | exact fun _ h => ⟨h.1, h.2, h.3, h.4, h.5, h.6, h.7, h.8, h.9, h.10, h.11, h.12⟩
    | (apply keep_ite <;> intro _)
    | intro _
    | dsimp only
    | exact keep_of ‹Keep _ _› rfl rfl rfl rfl rfl rfl rfl rfl rfl
    | split
    | (refine ⟨?_, ?_, ?_, ?_, ?_, ?_, ?_, ?_, ?_, ?_, ?_, ?_⟩ <;> try dsimp only)
    | apply TileMem.sdata
    | apply TileMem.buf
    | apply TileMem.side
    | apply TileMem.vreg0
    | apply TileMem.vreg1
    | apply TileMem.sregs
    | apply TileMem.store
    | apply TileMem.queues
    | apply TileMem.groups
    | apply TileMem.acc
    | apply TileMem.regions
    | apply TileMem.crossings

theorem keep_failPath {t : Tid} {which : Nat} {detail : Nat} (hk : Keep s0 s) :
    Keep s0 (failPath s t which detail) := by
  unfold failPath
  try dsimp only
  repeat' with_reducible first
    | assumption
    | apply keep_logPut
    | apply keep_rmAdd
    | apply keep_tset
    | apply keep_updateHot
    | (apply keep_ite <;> intro _)
    | intro _
    | dsimp only
    | split

theorem keep_failAction {t : Tid} {k : SliceId} {r : SliceResult} (hk : Keep s0 s) :
    Keep s0 (failAction s t k r).2 := by
  unfold failAction
  try dsimp only
  repeat' with_reducible first
    | assumption
    | apply keep_failCrossing
    | apply keep_modTile
    | apply keep_failPhases
    | apply keep_fenceCore
    | apply keep_failPath
    | refine keep_snd (by assumption) ?_
    | apply keep_forEach
    | apply kwf_filter
    | exact fun _ h => ⟨h.1, h.2, h.3, h.4, h.5, h.6, h.7, h.8, h.9, h.10, h.11, h.12⟩
    | (apply keep_ite <;> intro _)
    | intro _
    | dsimp only
    | exact keep_of ‹Keep _ _› rfl rfl rfl rfl rfl rfl rfl rfl rfl
    | split
    | (refine ⟨?_, ?_, ?_, ?_, ?_, ?_, ?_, ?_, ?_, ?_, ?_, ?_⟩ <;> try dsimp only)
    | apply TileMem.sdata
    | apply TileMem.buf
    | apply TileMem.side
    | apply TileMem.vreg0
    | apply TileMem.vreg1
    | apply TileMem.sregs
    | apply TileMem.store
    | apply TileMem.queues
    | apply TileMem.groups
    | apply TileMem.acc
    | apply TileMem.regions
    | apply TileMem.crossings

theorem keep_sliceFailed {t : Tid} {k : SliceId} {r : SliceResult} (hk : Keep s0 s) :
    Keep s0 (sliceFailed s t k r) := by
  unfold sliceFailed
  try dsimp only
  repeat' with_reducible first
    | assumption
    | apply keep_logPut
    | apply keep_failAction
    | apply keep_tinc
    | refine keep_snd (by assumption) ?_
    | (apply keep_ite <;> intro _)
    | intro _
    | dsimp only
    | split

theorem keep_openSweep {d : Fin 56} (hk : Keep s0 s) :
    Keep s0 (openSweep s d) := by
  unfold openSweep
  try dsimp only
  repeat' with_reducible first
    | assumption
    | apply keep_modDie
    | exact fun _ h => h
    | (apply keep_ite <;> intro _)
    | intro _
    | dsimp only
    | exact keep_of ‹Keep _ _› rfl rfl rfl rfl rfl rfl rfl rfl rfl
    | split

theorem keep_periodicSet (hk : Keep s0 s) :
    Keep s0 (periodicSet s) := by
  unfold periodicSet
  try dsimp only
  repeat' with_reducible first
    | assumption
    | apply keep_openSweep
    | apply keep_forEach
    | apply kwf_filter
    | (apply keep_ite <;> intro _)
    | intro _
    | dsimp only
    | split

theorem keep_startSweep {d : Fin 56} (hk : Keep s0 s) :
    Keep s0 (startSweep s d) := by
  unfold startSweep
  try dsimp only
  repeat' with_reducible first
    | assumption
    | apply keep_modDie
    | apply keep_tset
    | apply keep_openSweep
    | apply keep_dset
    | apply keep_forEach
    | exact fun _ h => h
    | (apply keep_ite <;> intro _)
    | intro _
    | dsimp only
    | exact keep_of ‹Keep _ _› rfl rfl rfl rfl rfl rfl rfl rfl rfl
    | split

theorem keep_noteSweep {d : Fin 56} (hk : Keep s0 s) :
    Keep s0 (noteSweep s d) := by
  unfold noteSweep
  try dsimp only
  repeat' with_reducible first
    | assumption
    | apply keep_startSweep
    | apply keep_dset
    | apply keep_dinc
    | (apply keep_ite <;> intro _)
    | intro _
    | dsimp only
    | split

theorem keep_sliceEndEff {t : Tid} {r : SliceResult} (hk : Keep s0 s) :
    Keep s0 (sliceEndEff t r s) := by
  unfold sliceEndEff
  try dsimp only
  repeat' with_reducible first
    | assumption
    | apply keep_restoreLost
    | apply keep_sliceFailed
    | apply keep_noteSweep
    | apply keep_closeSlice
    | apply keep_markDone
    | apply keep_forEach
    | (apply keep_ite <;> intro _)
    | intro _
    | dsimp only
    | exact keep_of ‹Keep _ _› rfl rfl rfl rfl rfl rfl rfl rfl rfl
    | split

theorem keep_sweepLateEff {d : Fin 56} {hours : Nat} (hk : Keep s0 s) :
    Keep s0 (sweepLateEff d hours s) := by
  unfold sweepLateEff
  try dsimp only
  repeat' with_reducible first
    | assumption
    | apply keep_modDie
    | apply keep_logPut
    | apply keep_dset
    | exact fun _ h => h
    | (apply keep_ite <;> intro _)
    | intro _
    | dsimp only
    | exact keep_of ‹Keep _ _› rfl rfl rfl rfl rfl rfl rfl rfl rfl
    | split

theorem keep_formBubble {c : Fin 4} {x : Context} (hk : Keep s0 s) :
    Keep s0 (formBubble s c x) := by
  unfold formBubble
  try dsimp only
  repeat' with_reducible first
    | assumption
    | apply keep_arriveAt
    | apply keep_modServing
    | (apply keep_ite <;> intro _)
    | intro _
    | dsimp only
    | exact keep_of ‹Keep _ _› rfl rfl rfl rfl rfl rfl rfl rfl rfl
    | split

theorem keep_bubbleReqEff {t : Tid} (hk : Keep s0 s) :
    Keep s0 (bubbleReqEff t s) := by
  unfold bubbleReqEff
  try dsimp only
  repeat' with_reducible first
    | assumption
    | apply keep_dinc
    | apply keep_formBubble
    | apply kwf_filter
    | (apply keep_ite <;> intro _)
    | intro _
    | dsimp only
    | exact keep_of ‹Keep _ _› rfl rfl rfl rfl rfl rfl rfl rfl rfl
    | split

theorem keep_bubblePassEff {c : Fin 4} {layer : Nat} (hk : Keep s0 s) :
    Keep s0 (bubblePassEff c layer s) := by
  unfold bubblePassEff
  try dsimp only
  repeat' with_reducible first
    | assumption
    | apply keep_arriveAt
    | apply keep_modServing
    | apply kwf_filter
    | (apply keep_ite <;> intro _)
    | intro _
    | dsimp only
    | exact keep_of ‹Keep _ _› rfl rfl rfl rfl rfl rfl rfl rfl rfl
    | split

theorem keep_bowlerTimeoutEff {d : Fin 56} (hk : Keep s0 s) :
    Keep s0 (bowlerTimeoutEff d s) := by
  unfold bowlerTimeoutEff
  try dsimp only
  repeat' with_reducible first
    | assumption
    | apply keep_failDie
    | (apply keep_ite <;> intro _)
    | intro _
    | dsimp only
    | split

end Sys2Proof.Machine
end

