-- ==== Sys2Proof/Laws/KeepMgmt.lean ====
section
/-! SUPPORT. One lemma for each operation of bring-up, resets and management: what it keeps (Laws/Keep.lean). A
hypothesis `h_f` is asked for each effect that the operation is given. -/
namespace Sys2Proof.Machine

variable {s0 s : State}

/-! ## Machine/BringUp.lean -/

theorem keep_setBuStep {n : Nat} (hk : Keep s0 s) :
    Keep s0 (setBuStep s n) := by
  unfold setBuStep
  try dsimp only
  repeat' with_reducible first
    | assumption
    | apply keep_pset
    | (apply keep_ite <;> intro _)
    | intro _
    | dsimp only
    | split

theorem keep_oneWrite {old new : State} (h : Keep s0 new) : Keep s0 (oneWrite old new) := by
  unfold oneWrite
  apply keep_ite <;> intro _
  · exact h
  · exact keep_modStore h fun r => rmWrite_same _ _

theorem keep_bonnetFail {q : Nat} (hk : Keep s0 s) :
    Keep s0 (bonnetFail s q) := by
  unfold bonnetFail
  try dsimp only
  repeat' with_reducible first
    | assumption
    | apply keep_bumpFree
    | apply keep_logPut
    | (apply keep_ite <;> intro _)
    | intro _
    | dsimp only
    | split

theorem keep_enterRecovery {gradeBad : Bool} (hk : Keep s0 s) :
    Keep s0 (enterRecovery s gradeBad) := by
  unfold enterRecovery
  try dsimp only
  repeat' with_reducible first
    | assumption
    | apply keep_logPut
    | apply keep_modPins
    | apply keep_pset
    | (apply keep_ite <;> intro _)
    | intro _
    | dsimp only
    | exact keep_of ‹Keep _ _› rfl rfl rfl rfl rfl rfl rfl rfl rfl
    | split

theorem keep_coldPowerOnEff {rom0 : Bool} {bon0 : Bool} {rom1 : Bool} {bon1 : Bool} (hk : Keep s0 (coldState s)) :
    Keep s0 (coldPowerOnEff rom0 bon0 rom1 bon1 s) := by
  unfold coldPowerOnEff
  try dsimp only
  repeat' with_reducible first
    | assumption
    | apply keep_showCage
    | apply keep_coldState
    | apply keep_bonnetFail
    | apply keep_pset
    | apply keep_modPlane
    | apply keep_enterRecovery
    | apply keep_forEach
    | (apply keep_ite <;> intro _)
    | intro _
    | dsimp only
    | exact keep_of ‹Keep _ _› rfl rfl rfl rfl rfl rfl rfl rfl rfl
    | split

theorem keep_syncCfgKey (hk : Keep s0 s) :
    Keep s0 (syncCfgKey s) := by
  unfold syncCfgKey
  try dsimp only
  repeat' with_reducible first
    | assumption
    | apply keep_modStore
    | exact fun _ => ⟨rfl, rfl, rfl⟩
    | exact ⟨rfl, rfl, rfl⟩
    | (apply keep_ite <;> intro _)
    | intro _
    | dsimp only
    | exact keep_of ‹Keep _ _› rfl rfl rfl rfl rfl rfl rfl rfl rfl
    | split

theorem keep_readGrade (hk : Keep s0 s) :
    Keep s0 (readGrade s).2 := by
  unfold readGrade
  try dsimp only
  repeat' with_reducible first
    | assumption
    | apply keep_logPut
    | apply keep_modStore
    | exact fun _ => ⟨rfl, rfl, rfl⟩
    | exact ⟨rfl, rfl, rfl⟩
    | (apply keep_ite <;> intro _)
    | intro _
    | dsimp only
    | exact keep_of ‹Keep _ _› rfl rfl rfl rfl rfl rfl rfl rfl rfl
    | split

theorem keep_readRepair (hk : Keep s0 s) : Keep s0 (readRepair s) := by
  unfold readRepair
  extract_lets a b use
  have hu : ∀ c, Keep s0 (use c) := fun c => keep_modStore hk fun _ => ⟨rfl, rfl, rfl⟩
  apply keep_ite <;> intro _
  · exact hu _
  · apply keep_ite <;> intro _
    · exact hu _
    · exact keep_logPut (keep_modStore hk fun r => rmWrite_same _ _)

theorem keep_dieRoles {d : Fin 56} (hk : Keep s0 s) :
    Keep s0 (dieRoles s d) := by
  unfold dieRoles
  try dsimp only
  repeat' with_reducible first
    | assumption
    | apply keep_setRole
    | apply keep_tset
    | apply keep_forEach
    | (apply keep_ite <;> intro _)
    | intro _
    | dsimp only
    | split

theorem keep_setIsolated {t : Tid} (hk : Keep s0 s) :
    Keep s0 (setIsolated s t) := by
  unfold setIsolated
  try dsimp only
  repeat' with_reducible first
    | assumption
    | apply keep_tset
    | apply keep_forEach
    | (apply keep_ite <;> intro _)
    | intro _
    | dsimp only
    | split

theorem keep_setPhases {t : Tid} (hk : Keep s0 s) :
    Keep s0 (setPhases s t) := by
  unfold setPhases
  try dsimp only
  repeat' with_reducible first
    | assumption
    | apply keep_tset
    | apply keep_modTile
    | apply keep_setIsolated
    | exact fun _ h => ⟨h.1, h.2, h.3, h.4, h.5, h.6, h.7, h.8, h.9, h.10, h.11, h.12⟩
    | (apply keep_ite <;> intro _)
    | intro _
    | dsimp only
    | exact keep_of ‹Keep _ _› rfl rfl rfl rfl rfl rfl rfl rfl rfl
    | split
    | (refine ⟨?_, ?_, ?_, ?_, ?_, ?_, ?_, ?_, ?_, ?_, ?_, ?_⟩ <;> try dsimp only)
    | apply TileMem.sdata
    | apply TileMem.buf
    | apply TileMem.side
    | apply TileMem.vreg0
    | apply TileMem.vreg1
    | apply TileMem.sregs
    | apply TileMem.store
    | apply TileMem.queues
    | apply TileMem.groups
    | apply TileMem.acc
    | apply TileMem.regions
    | apply TileMem.crossings

theorem keep_applyEntry {e : RmEntry} (hk : Keep s0 s) :
    Keep s0 (applyEntry s e) := by
  unfold applyEntry
  try dsimp only
  repeat' with_reducible first
    | assumption
    | apply keep_modDie
    | apply keep_tset
    | apply keep_setPhases
    | apply keep_dset
    | apply keep_setIsolated
    | apply keep_setSlice
    | exact fun _ h => h
    | (apply keep_ite <;> intro _)
    | intro _
    | dsimp only
    | exact keep_of ‹Keep _ _› rfl rfl rfl rfl rfl rfl rfl rfl rfl
    | split

theorem keep_applyRepairMap (hk : Keep s0 s) :
    Keep s0 (applyRepairMap s) := by
  unfold applyRepairMap
  try dsimp only
  repeat' with_reducible first
    | assumption
    | apply keep_dieRoles
    | apply keep_applyEntry
    | apply keep_forEach
    | (apply keep_ite <;> intro _)
    | intro _
    | dsimp only
    | split

theorem keep_bciVerifyEff {boot : Word} (hk : Keep s0 s) :
    Keep s0 (bciVerifyEff boot s) := by
  unfold bciVerifyEff
  try dsimp only
  repeat' with_reducible first
    | assumption
    | apply keep_syncCfgKey
    | apply keep_setBuStep
    | apply keep_applyRepairMap
    | apply keep_pset
    | apply keep_modServing
    | apply keep_readRepair
    | apply keep_enterRecovery
    | apply keep_startTraining
    | apply keep_readGrade
    | refine keep_snd (by assumption) ?_
    | (apply keep_ite <;> intro _)
    | intro _
    | dsimp only
    | exact keep_of ‹Keep _ _› rfl rfl rfl rfl rfl rfl rfl rfl rfl
    | split

theorem keep_unwrapFail {tenant : Nat} (hk : Keep s0 s) :
    Keep s0 (unwrapFail s tenant) := by
  unfold unwrapFail
  try dsimp only
  repeat' with_reducible first
    | assumption
    | apply keep_pinc
    | apply keep_logPut
    | (apply keep_ite <;> intro _)
    | intro _
    | dsimp only
    | split

theorem keep_checkTenants {earlier : List TenantEntry} {listed : List CfgEntry} {l : List TenantEntry}
    (hk : Keep s0 s) : Keep s0 (checkTenants s earlier listed l).1 := by
  induction l generalizing s earlier listed with
  | nil => exact hk
  | cons e r ih =>
    unfold checkTenants
    dsimp only
    split
    · exact ih (keep_setTenant hk)
    · refine ih ?_
      split
      · exact keep_unwrapFail hk
      · exact hk

theorem keep_startConverters {d : Nat} (hk : Keep s0 s) :
    Keep s0 (startConverters s d) := by
  unfold startConverters
  try dsimp only
  repeat' with_reducible first
    | assumption
    | apply keep_modDie
    | apply keep_fillBanks
    | apply keep_setSlice
    | apply keep_forEach
    | exact fun _ h => h
    | (apply keep_ite <;> intro _)
    | intro _
    | dsimp only
    | exact keep_of ‹Keep _ _› rfl rfl rfl rfl rfl rfl rfl rfl rfl
    | split

theorem checkRecord_kwf {k : Checking} {r : FieldRec} (h : kwf fieldDefault k.values = true) :
    kwf fieldDefault (checkRecord k r).values = true := by
  unfold checkRecord
  split
  · exact h
  · dsimp only
    split
    · exact h
    · split
      · exact kwf_kset h
      · split
        · exact kwf_kset h
        · exact kwf_kset h

theorem checkFields_kwf {k : Checking} {l : List FieldRec} (h : kwf fieldDefault k.values = true) :
    kwf fieldDefault (checkFields k l).values = true := by
  induction l generalizing k with
  | nil => exact h
  | cons r rest ih =>
    unfold checkFields
    dsimp only
    split
    · exact h
    · split
      · exact ih h
      · exact ih (checkRecord_kwf h)

theorem keep_fieldCheckEff (hk : Keep s0 s) : Keep s0 (fieldCheckEff s) := by
  unfold fieldCheckEff
  apply keep_ite <;> intro _
  · exact hk
  · extract_lets img k s0' s1
    have h0 : Keep s0 s0' := keep_fieldsTo hk (checkFields_kwf rfl)
    have h1 : Keep s0 s1 := keep_forEach h0 fun _ _ h => keep_latchFields h
    clear_value s1
    split
    rename_i s3 tenants e
    have h3 : Keep s0 s3 := keep_fst e (keep_checkTenants h1)
    extract_lets entries report s4 s5 s6
    have h4 : Keep s0 s4 := keep_startConverters (keep_startConverters (keep_of h3 rfl rfl rfl rfl rfl rfl rfl rfl rfl))
    exact keep_setBuStep (keep_logPut (keep_pset h4))

theorem keep_startSite {d : Fin 56} {fails : Bool} (hk : Keep s0 s) :
    Keep s0 (startSite s d fails) := by
  unfold startSite
  try dsimp only
  repeat' with_reducible first
    | assumption
    | apply keep_modDie
    | apply keep_startConverters
    | apply keep_dieRailsOn
    | apply keep_failDie
    | apply keep_dset
    | exact fun _ h => h
    | (apply keep_ite <;> intro _)
    | intro _
    | dsimp only
    | exact keep_of ‹Keep _ _› rfl rfl rfl rfl rfl rfl rfl rfl rfl
    | split

theorem keep_keepSerials {l : List (BitVec 128)} (hk : Keep s0 s) :
    Keep s0 (keepSerials s l) := by
  unfold keepSerials
  try dsimp only
  repeat' with_reducible first
    | assumption
    | apply keep_modStore
    | exact fun _ => ⟨rfl, rfl, rfl⟩
    | exact ⟨rfl, rfl, rfl⟩
    | (apply keep_ite <;> intro _)
    | intro _
    | dsimp only
    | exact keep_of ‹Keep _ _› rfl rfl rfl rfl rfl rfl rfl rfl rfl
    | split

theorem keep_softStartEff {failed : List (Fin 56)} {serials : List (BitVec 128)} (hk : Keep s0 s) :
    Keep s0 (softStartEff failed serials s) := by
  unfold softStartEff
  try dsimp only
  repeat' with_reducible first
    | assumption
    | apply keep_startSite
    | apply keep_setBuStep
    | apply keep_keepSerials
    | apply keep_modPlane
    | apply keep_oneWrite
    | apply keep_forEach
    | (apply keep_ite <;> intro _)
    | intro _
    | dsimp only
    | exact keep_of ‹Keep _ _› rfl rfl rfl rfl rfl rfl rfl rfl rfl
    | split

theorem keep_setLink {t : Tid} {d : Dir} {failed : List (List Nat)} {ctrl : List Nat} (hk : Keep s0 s) :
    Keep s0 (setLink s t d failed ctrl) := by
  unfold setLink
  try dsimp only
  repeat' with_reducible first
    | assumption
    | apply keep_logPut
    | apply keep_rmAdd
    | apply keep_rset
    | apply keep_setLinkState
    | apply keep_setLinkHalf
    | apply keep_forEach
    | apply kwf_filter
    | (apply keep_ite <;> intro _)
    | intro _
    | dsimp only
    | split

theorem keep_markLinkFailed {t : Tid} {d : Dir} (hk : Keep s0 s) :
    Keep s0 (markLinkFailed s t d) := by
  unfold markLinkFailed
  try dsimp only
  repeat' with_reducible first
    | assumption
    | apply keep_logPut
    | apply keep_rmAdd
    | apply keep_bumpFree
    | apply keep_setLinkState
    | (apply keep_ite <;> intro _)
    | intro _
    | dsimp only
    | split

theorem keep_trainLink {results : List LinkResult} {t : Tid} {d : Dir} (hk : Keep s0 s) :
    Keep s0 (trainLink results s t d) := by
  unfold trainLink
  try dsimp only
  repeat' with_reducible first
    | assumption
    | apply keep_setLink
    | apply keep_markLinkFailed
    | (apply keep_ite <;> intro _)
    | intro _
    | dsimp only
    | exact keep_of ‹Keep _ _› rfl rfl rfl rfl rfl rfl rfl rfl rfl
    | split

theorem keep_linkTrainingEff {results : List LinkResult} (hk : Keep s0 s) :
    Keep s0 (linkTrainingEff results s) := by
  unfold linkTrainingEff
  try dsimp only
  repeat' with_reducible first
    | assumption
    | apply keep_setBuStep
    | apply keep_trainLink
    | apply keep_rmDrop
    | apply keep_oneWrite
    | apply keep_forEach
    | apply keep_regsFilter
    | apply kwf_filter
    | (apply keep_ite <;> intro _)
    | intro _
    | dsimp only
    | exact keep_of ‹Keep _ _› rfl rfl rfl rfl rfl rfl rfl rfl rfl
    | split

theorem keep_calibrationEff {results : List CalResult} (hk : Keep s0 s) : Keep s0 (calibrationEff results s) := by
  unfold calibrationEff
  apply keep_ite <;> intro _
  · exact hk
  · extract_lets s1 s2
    have h1 : Keep s0 s1 := keep_regsFilter hk
    have h2 : Keep s0 s2 := keep_forEach h1 fun s k h => keep_modTile h
      fun ts h => ⟨h.1, h.2, h.3, h.4, h.5, h.6, h.7, h.8, h.9, h.10, h.11, h.12⟩
    clear_value s2
    refine keep_setBuStep (keep_forEach h2 fun s r h => ?_)
    apply keep_ite <;> intro _
    · exact h
    · extract_lets s3 m s4
      have h3 : Keep s0 s3 := keep_modTile h fun ts h => ⟨h.1, h.2, h.3, h.4, h.5, h.6, h.7, h.8, h.9, h.10, h.11, h.12⟩
      clear_value s3
      apply keep_ite <;> intro _
      · exact h3
      · exact keep_logPut (keep_tset h3)

theorem keep_startSteps (hk : Keep s0 s) :
    Keep s0 (startSteps s) := by
  unfold startSteps
  try dsimp only
  repeat' with_reducible first
    | assumption
    | apply keep_tset
    | apply keep_forEach
    | (apply keep_ite <;> intro _)
    | intro _
    | dsimp only
    | split

theorem keep_firmwareDone (hk : Keep s0 s) :
    Keep s0 (firmwareDone s) := by
  unfold firmwareDone
  try dsimp only
  repeat' with_reducible first
    | assumption
    | apply keep_setBuStep
    | apply keep_startSteps
    | apply keep_modPlane
    | (apply keep_ite <;> intro _)
    | intro _
    | dsimp only
    | exact keep_of ‹Keep _ _› rfl rfl rfl rfl rfl rfl rfl rfl rfl
    | split

theorem keep_broadcastEff {badTiles : List Tid} {badBowlers : List (Fin 56)} (hk : Keep s0 s) :
    Keep s0 (broadcastEff badTiles badBowlers s) := by
  unfold broadcastEff
  try dsimp only
  repeat' with_reducible first
    | assumption
    | apply keep_firmwareDone
    | apply keep_modPlane
    | apply kwf_filter
    | (apply keep_ite <;> intro _)
    | intro _
    | dsimp only
    | exact keep_of ‹Keep _ _› rfl rfl rfl rfl rfl rfl rfl rfl rfl
    | split

theorem keep_firmwareFails {t : Tid} {bowler : Bool} (hk : Keep s0 s) :
    Keep s0 (firmwareFails s t bowler) := by
  unfold firmwareFails
  try dsimp only
  repeat' with_reducible first
    | assumption
    | apply keep_fenceTile
    | apply keep_logPut
    | apply keep_failDie
    | (apply keep_ite <;> intro _)
    | intro _
    | dsimp only
    | split

theorem keep_resendEff {t : Tid} {bowler : Bool} {ok : Bool} (hk : Keep s0 s) :
    Keep s0 (resendEff t bowler ok s) := by
  unfold resendEff
  try dsimp only
  repeat' with_reducible first
    | assumption
    | apply keep_firmwareFails
    | apply keep_firmwareDone
    | apply keep_modPlane
    | apply kwf_filter
    | (apply keep_ite <;> intro _)
    | intro _
    | dsimp only
    | exact keep_of ‹Keep _ _› rfl rfl rfl rfl rfl rfl rfl rfl rfl
    | split

theorem keep_channelFails {d : Nat} {col : Nat} {ch : Nat} (hk : Keep s0 s) :
    Keep s0 (channelFails s d col ch) := by
  unfold channelFails
  try dsimp only
  repeat' with_reducible first
    | assumption
    | apply keep_retireChannel
    | apply keep_takeSpare
    | apply keep_spareIn
    | (apply keep_ite <;> intro _)
    | intro _
    | dsimp only
    | split

theorem keep_stackInitEff {failed : List (Fin 56 × Fin 24 × Fin 10)} (hk : Keep s0 s) :
    Keep s0 (stackInitEff failed s) := by
  unfold stackInitEff
  try dsimp only
  repeat' with_reducible first
    | assumption
    | apply keep_setBuStep
    | apply keep_channelFails
    | apply keep_oneWrite
    | apply keep_forEach
    | (apply keep_ite <;> intro _)
    | intro _
    | dsimp only
    | split

theorem keep_passSlice {t : Tid} {k : SliceId} {r : SliceResult} (hk : Keep s0 s) :
    Keep s0 (passSlice s t k r) := by
  unfold passSlice
  try dsimp only
  repeat' with_reducible first
    | assumption
    | apply keep_fenceTile
    | apply keep_sliceFailed
    | apply keep_pushRecord
    | (apply keep_ite <;> intro _)
    | intro _
    | dsimp only
    | exact keep_of ‹Keep _ _› rfl rfl rfl rfl rfl rfl rfl rfl rfl
    | split

theorem keep_fullPassEff {results : List (Tid × SliceId × SliceResult)} (hk : Keep s0 s) :
    Keep s0 (fullPassEff results s) := by
  unfold fullPassEff
  try dsimp only
  repeat' with_reducible first
    | assumption
    | apply keep_passSlice
    | apply keep_setBuStep
    | apply keep_oneWrite
    | apply keep_startTraining
    | apply keep_forEach
    | (apply keep_ite <;> intro _)
    | intro _
    | dsimp only
    | split

theorem keep_buReadyEff {ms : Nat} (hk : Keep s0 s) :
    Keep s0 (buReadyEff ms s) := by
  unfold buReadyEff
  try dsimp only
  repeat' with_reducible first
    | assumption
    | apply keep_logPut
    | apply keep_setBuStep
    | apply keep_modPins
    | apply keep_openSweep
    | apply keep_pset
    | apply keep_forEach
    | (apply keep_ite <;> intro _)
    | intro _
    | dsimp only
    | exact keep_of ‹Keep _ _› rfl rfl rfl rfl rfl rfl rfl rfl rfl
    | split

theorem keep_buLateEff {ms : Nat} (hk : Keep s0 s) :
    Keep s0 (buLateEff ms s) := by
  unfold buLateEff
  try dsimp only
  repeat' with_reducible first
    | assumption
    | apply keep_logPut
    | apply keep_pset
    | (apply keep_ite <;> intro _)
    | intro _
    | dsimp only
    | split

/-! ## Machine/Resets.lean -/

theorem keep_resetKeep (hk : Keep s0 s) : Keep s0 (resetKeep s) :=
  ⟨⟨kwf_filter _ hk.canon.regs, Canonical.reset.2, Canonical.reset.3, Canonical.reset.4, Canonical.reset.5,
    Canonical.reset.6, Canonical.reset.7, hk.canon.log⟩, hk.serial, hk.cert, hk.key, hk.queue, hk.out, hk.log⟩

theorem keep_moduleReset {cause : Nat} (hk : Keep s0 s) :
    Keep s0 (moduleReset s cause) := by
  unfold moduleReset
  try dsimp only
  repeat' with_reducible first
    | assumption
    | apply keep_showCage
    | apply keep_resetKeep
    | apply keep_endSeq
    | apply keep_logPut
    | apply keep_bumpFree
    | apply keep_pset
    | apply keep_pinc
    | apply keep_forEach
    | apply kwf_filter
    | (apply keep_ite <;> intro _)
    | intro _
    | dsimp only
    | split

theorem keep_modPinEff (hk : Keep s0 s) :
    Keep s0 (modPinEff s) := by
  unfold modPinEff
  try dsimp only
  repeat' with_reducible first
    | assumption
    | apply keep_moduleReset
    | apply keep_modPins
    | (apply keep_ite <;> intro _)
    | intro _
    | dsimp only
    | exact keep_of ‹Keep _ _› rfl rfl rfl rfl rfl rfl rfl rfl rfl
    | split

theorem keep_modReleaseEff (hk : Keep s0 s) :
    Keep s0 (modReleaseEff s) := by
  unfold modReleaseEff
  try dsimp only
  repeat' with_reducible first
    | assumption
    | apply keep_modPins
    | (apply keep_ite <;> intro _)
    | intro _
    | dsimp only
    | exact keep_of ‹Keep _ _› rfl rfl rfl rfl rfl rfl rfl rfl rfl
    | split

theorem keep_startCpReset {cause : Nat} (hk : Keep s0 s) :
    Keep s0 (startCpReset s cause) := by
  unfold startCpReset
  try dsimp only
  repeat' with_reducible first
    | assumption
    | apply keep_discardPlane
    | apply keep_logPut
    | apply keep_railsOff
    | apply keep_pset
    | apply keep_modPlane
    | apply keep_pinc
    | apply keep_abandonLoad
    | apply keep_forEach
    | (apply keep_ite <;> intro _)
    | intro _
    | dsimp only
    | exact keep_of ‹Keep _ _› rfl rfl rfl rfl rfl rfl rfl rfl rfl
    | split

theorem keep_cpPinEff (hk : Keep s0 s) :
    Keep s0 (cpPinEff s) := by
  unfold cpPinEff
  try dsimp only
  repeat' with_reducible first
    | assumption
    | apply keep_startCpReset
    | apply keep_modPins
    | (apply keep_ite <;> intro _)
    | intro _
    | dsimp only
    | exact keep_of ‹Keep _ _› rfl rfl rfl rfl rfl rfl rfl rfl rfl
    | split

theorem keep_cpEndEff (hk : Keep s0 s) :
    Keep s0 (cpEndEff s) := by
  unfold cpEndEff
  try dsimp only
  repeat' with_reducible first
    | assumption
    | apply keep_modPins
    | apply keep_pset
    | apply keep_modPlane
    | apply keep_restartPlane
    | (apply keep_ite <;> intro _)
    | intro _
    | dsimp only
    | exact keep_of ‹Keep _ _› rfl rfl rfl rfl rfl rfl rfl rfl rfl
    | split

theorem keep_enterDoze {cause : Nat} (hk : Keep s0 s) :
    Keep s0 (enterDoze s cause) := by
  unfold enterDoze
  try dsimp only
  repeat' with_reducible first
    | assumption
    | apply keep_planeState
    | apply keep_modPlane
    | (apply keep_ite <;> intro _)
    | intro _
    | dsimp only
    | exact keep_of ‹Keep _ _› rfl rfl rfl rfl rfl rfl rfl rfl rfl
    | split

theorem keep_dozeAct (hk : Keep s0 s) :
    Keep s0 (dozeAct s) := by
  unfold dozeAct
  try dsimp only
  repeat' with_reducible first
    | assumption
    | apply keep_enterDoze
    | apply keep_modPlane
    | (apply keep_ite <;> intro _)
    | intro _
    | dsimp only
    | exact keep_of ‹Keep _ _› rfl rfl rfl rfl rfl rfl rfl rfl rfl
    | split

theorem keep_autoDozeEff (hk : Keep s0 s) :
    Keep s0 (autoDozeEff s) := by
  unfold autoDozeEff
  try dsimp only
  repeat' with_reducible first
    | assumption
    | apply keep_enterDoze
    | (apply keep_ite <;> intro _)
    | intro _
    | dsimp only
    | split

theorem keep_dozeDoneEff (hk : Keep s0 s) :
    Keep s0 (dozeDoneEff s) := by
  unfold dozeDoneEff
  try dsimp only
  repeat' with_reducible first
    | assumption
    | apply keep_modPlane
    | apply keep_setStep
    | apply keep_forEach
    | (apply keep_ite <;> intro _)
    | intro _
    | dsimp only
    | exact keep_of ‹Keep _ _› rfl rfl rfl rfl rfl rfl rfl rfl rfl
    | split

theorem keep_runAct (hk : Keep s0 s) :
    Keep s0 (runAct s).2 := by
  unfold runAct
  try dsimp only
  repeat' with_reducible first
    | assumption
    | apply keep_mgmtResume
    | apply keep_leaveDoze
    | apply keep_leaveHold
    | refine keep_snd (by assumption) ?_
    | (apply keep_ite <;> intro _)
    | intro _
    | dsimp only
    | split

theorem keep_rsAct {word : Nat} (hk : Keep s0 s) :
    Keep s0 (rsAct s word).2 := by
  unfold rsAct
  try dsimp only
  repeat' with_reducible first
    | assumption
    | apply keep_startCpReset
    | apply keep_runAct
    | apply keep_enterHold
    | apply keep_enterRest
    | apply keep_moduleReset
    | apply keep_dozeAct
    | refine keep_snd (by assumption) ?_
    | (apply keep_ite <;> intro _)
    | intro _
    | dsimp only
    | split

theorem keep_resetOp {m : Mgmt} {word : Nat} (hk : Keep s0 s) :
    Keep s0 (resetOp m word s) := by
  unfold resetOp
  try dsimp only
  repeat' with_reducible first
    | assumption
    | apply keep_reply
    | apply keep_mgmtOp
    | apply keep_rsAct
    | refine keep_snd (by assumption) ?_
    | (apply keep_ite <;> intro _)
    | intro _
    | dsimp only
    | split

/-! ## Machine/RegAccess.lean -/

theorem keep_afterRead {x : Place} (hk : Keep s0 s) :
    Keep s0 (afterRead s x) := by
  unfold afterRead
  try dsimp only
  repeat' with_reducible first
    | assumption
    | apply keep_rset
    | apply keep_modPlane
    | apply keep_tbNowEff
    | apply keep_forEach
    | (apply keep_ite <;> intro _)
    | intro _
    | dsimp only
    | exact keep_of ‹Keep _ _› rfl rfl rfl rfl rfl rfl rfl rfl rfl
    | split

theorem keep_mgmtRead {x : Place} (hk : Keep s0 s) :
    Keep s0 (mgmtRead s x).2 := by
  unfold mgmtRead
  try dsimp only
  repeat' with_reducible first
    | assumption
    | apply keep_afterRead
    | (apply keep_ite <;> intro _)
    | intro _
    | dsimp only
    | split

theorem keep_writePlain {x : Place} {v : Nat} (hk : Keep s0 s) :
    Keep s0 (writePlain s x v) := by
  unfold writePlain
  try dsimp only
  repeat' with_reducible first
    | assumption
    | apply keep_rset
    | apply keep_forEach
    | (apply keep_ite <;> intro _)
    | intro _
    | dsimp only
    | exact keep_of ‹Keep _ _› rfl rfl rfl rfl rfl rfl rfl rfl rfl
    | split

theorem keep_writeTileCtrl {t : Tid} {v : Nat} (hk : Keep s0 s) :
    Keep s0 (writeTileCtrl s t v) := by
  unfold writeTileCtrl
  try dsimp only
  repeat' with_reducible first
    | assumption
    | apply keep_fenceReqEff
    | apply keep_tileResetEff
    | (apply keep_ite <;> intro _)
    | intro _
    | dsimp only
    | split

theorem keep_writeDac {d : Nat} {v : Nat} (hk : Keep s0 s) :
    Keep s0 (writeDac s d v) := by
  unfold writeDac
  try dsimp only
  repeat' with_reducible first
    | assumption
    | apply keep_dacConvertEff
    | apply keep_bumpFree
    | apply keep_adcSet
    | (apply keep_ite <;> intro _)
    | intro _
    | dsimp only
    | split

theorem keep_writePtCtrl {p : Nat} {v : Nat} (hk : Keep s0 s) :
    Keep s0 (writePtCtrl s p v) := by
  unfold writePtCtrl
  try dsimp only
  repeat' with_reducible first
    | assumption
    | apply keep_retrainPort
    | apply keep_resetPort
    | (apply keep_ite <;> intro _)
    | intro _
    | dsimp only
    | split

theorem keep_writeSiteCtrl {d : Nat} {v : Nat} (hk : Keep s0 s) :
    Keep s0 (writeSiteCtrl s d v) := by
  unfold writeSiteCtrl
  try dsimp only
  repeat' with_reducible first
    | assumption
    | apply keep_bumpFree
    | apply keep_siteRetryEff
    | (apply keep_ite <;> intro _)
    | intro _
    | dsimp only
    | split

theorem keep_writeLogStat {v : Nat} (hk : Keep s0 s) :
    Keep s0 (writeLogStat s v) := by
  unfold writeLogStat
  try dsimp only
  repeat' with_reducible first
    | assumption
    | apply keep_modPins
    | apply keep_pset
    | (apply keep_ite <;> intro _)
    | intro _
    | dsimp only
    | exact keep_of ‹Keep _ _› rfl rfl rfl rfl rfl rfl rfl rfl rfl
    | split

theorem keep_mgmtWrite {x : Place} {v : Nat} (hk : Keep s0 s) :
    Keep s0 (mgmtWrite s x v) := by
  unfold mgmtWrite
  try dsimp only
  repeat' with_reducible first
    | assumption
    | apply keep_writeDac
    | apply keep_writePlain
    | apply keep_writeSiteCtrl
    | apply keep_rsAct
    | apply keep_tbSetEff
    | apply keep_writeTileCtrl
    | apply keep_modTime
    | apply keep_writePtCtrl
    | apply keep_writeLogStat
    | refine keep_snd (by assumption) ?_
    | (apply keep_ite <;> intro _)
    | intro _
    | dsimp only
    | exact keep_of ‹Keep _ _› rfl rfl rfl rfl rfl rfl rfl rfl rfl
    | split

theorem keep_accessEff {addr : Nat} {write : Option Nat} (hk : Keep s0 s) :
    Keep s0 (accessEff addr write s) := by
  unfold accessEff
  try dsimp only
  repeat' with_reducible first
    | assumption
    | apply keep_send
    | apply keep_mgmtWrite
    | apply keep_mgmtRead
    | refine keep_snd (by assumption) ?_
    | (apply keep_ite <;> intro _)
    | intro _
    | dsimp only
    | exact keep_of ‹Keep _ _› rfl rfl rfl rfl rfl rfl rfl rfl rfl
    | split

theorem keep_ringAct {f : RingFrame} (hk : Keep s0 s) : Keep s0 (ringAct f s).2.2 := by
  unfold ringAct
  split
  · exact hk
  split
  · exact hk
  split
  · exact hk
  split
  · exact hk
  split
  · exact hk
  split
  · exact hk
  split
  · exact keep_mgmtWrite hk
  · exact keep_mgmtRead hk

theorem keep_ringFrameEff {f : RingFrame} (hk : Keep s0 s) :
    Keep s0 (ringFrameEff f s) := by
  unfold ringFrameEff
  try dsimp only
  repeat' with_reducible first
    | assumption
    | apply keep_ringAct
    | apply keep_send
    | refine keep_trd (by assumption) ?_
    | (apply keep_ite <;> intro _)
    | intro _
    | dsimp only
    | split

/-! ## Machine/Mgmt.lean -/

theorem keep_answer {m : Mgmt} {op : Nat} {body : List Byte} (hk : Keep s0 s) :
    Keep s0 (answer s m op body) := by
  unfold answer
  try dsimp only
  repeat' with_reducible first
    | assumption
    | apply keep_reply
    | (apply keep_ite <;> intro _)
    | intro _
    | dsimp only
    | split

theorem keep_statusReadEff {m : Mgmt} (hk : Keep s0 s) :
    Keep s0 (statusReadEff m s) := by
  unfold statusReadEff
  try dsimp only
  repeat' with_reducible first
    | assumption
    | apply keep_mgmtOp
    | apply keep_answer
    | (apply keep_ite <;> intro _)
    | intro _
    | dsimp only
    | split

theorem keep_readAll {l : List Place} (hk : Keep s0 s) : Keep s0 (readAll l s).2 := by
  induction l generalizing s with
  | nil => exact hk
  | cons x r ih => exact ih (keep_mgmtRead hk)

theorem keep_regReadEff {m : Mgmt} {addr : Nat} {count : Nat} (hk : Keep s0 s) :
    Keep s0 (regReadEff m addr count s) := by
  unfold regReadEff
  try dsimp only
  repeat' with_reducible first
    | assumption
    | apply keep_reply
    | apply keep_answer
    | apply keep_mgmtOp
    | apply keep_readAll
    | refine keep_snd (by assumption) ?_
    | (apply keep_ite <;> intro _)
    | intro _
    | dsimp only
    | exact keep_of ‹Keep _ _› rfl rfl rfl rfl rfl rfl rfl rfl rfl
    | split

theorem keep_regWriteEff {m : Mgmt} {addr : Nat} {words : List Nat} (hk : Keep s0 s) :
    Keep s0 (regWriteEff m addr words s) := by
  unfold regWriteEff
  try dsimp only
  repeat' with_reducible first
    | assumption
    | apply keep_reply
    | apply keep_answer
    | apply keep_mgmtOp
    | apply keep_mgmtWrite
    | apply keep_forEach
    | (apply keep_ite <;> intro _)
    | intro _
    | dsimp only
    | exact keep_of ‹Keep _ _› rfl rfl rfl rfl rfl rfl rfl rfl rfl
    | split

theorem keep_ringAccessEff {m : Mgmt} {f : RingFrame} (hk : Keep s0 s) :
    Keep s0 (ringAccessEff m f s) := by
  unfold ringAccessEff
  try dsimp only
  repeat' with_reducible first
    | assumption
    | apply keep_answer
    | apply keep_mgmtOp
    | apply keep_ringAct
    | refine keep_trd (by assumption) ?_
    | (apply keep_ite <;> intro _)
    | intro _
    | dsimp only
    | exact keep_of ‹Keep _ _› rfl rfl rfl rfl rfl rfl rfl rfl rfl
    | split

theorem keep_fieldReadEff {m : Mgmt} {id : Nat} (hk : Keep s0 s) :
    Keep s0 (fieldReadEff m id s) := by
  unfold fieldReadEff
  try dsimp only
  repeat' with_reducible first
    | assumption
    | apply keep_reply
    | apply keep_answer
    | apply keep_mgmtOp
    | (apply keep_ite <;> intro _)
    | intro _
    | dsimp only
    | split

theorem keep_classSet {k id v : Nat} (hk : Keep s0 s) : Keep s0 (classSet s k id v) :=
  keep_logPut (keep_fieldsSet (keep_modServing hk))

theorem keep_trimRecords (hk : Keep s0 s) :
    Keep s0 (trimRecords s) := by
  unfold trimRecords
  try dsimp only
  repeat' with_reducible first
    | assumption
    | apply keep_modServing
    | (apply keep_ite <;> intro _)
    | intro _
    | dsimp only
    | exact keep_of ‹Keep _ _› rfl rfl rfl rfl rfl rfl rfl rfl rfl
    | split

theorem keep_setField {id v : Nat} (hk : Keep s0 s) : Keep s0 (setField s id v) := by
  have h1 := keep_fieldsSet (id := id) (v := v) hk
  unfold setField
  split
  · exact keep_classSet hk
  dsimp only
  split
  · exact keep_refreshPipes h1
  split
  · exact keep_trimRecords h1
  split
  · exact keep_periodicSet h1
  · exact h1

theorem keep_fieldWrite {id len value : Nat} (hk : Keep s0 s) : Keep s0 (fieldWrite s id len value).1 := by
  unfold fieldWrite
  dsimp only
  split
  · exact hk
  · split
    · exact hk
    · split
      · exact keep_of hk rfl rfl rfl rfl rfl rfl rfl rfl rfl
      · exact keep_setField hk

theorem keep_fieldWriteEff {m : Mgmt} {id : Nat} {len : Nat} {value : Nat} (hk : Keep s0 s) :
    Keep s0 (fieldWriteEff m id len value s) := by
  unfold fieldWriteEff
  try dsimp only
  repeat' with_reducible first
    | assumption
    | apply keep_answer
    | apply keep_mgmtOp
    | apply keep_fieldWrite
    | refine keep_fst (by assumption) ?_
    | (apply keep_ite <;> intro _)
    | intro _
    | dsimp only
    | split

theorem keep_configReportEff {m : Mgmt} (hk : Keep s0 s) :
    Keep s0 (configReportEff m s) := by
  unfold configReportEff
  try dsimp only
  repeat' with_reducible first
    | assumption
    | apply keep_mgmtOp
    | apply keep_answer
    | (apply keep_ite <;> intro _)
    | intro _
    | dsimp only
    | split

theorem keep_logReadEff {m : Mgmt} {first : Word} {count : Nat} (hk : Keep s0 s) :
    Keep s0 (logReadEff m first count s) := by
  unfold logReadEff
  try dsimp only
  repeat' with_reducible first
    | assumption
    | apply keep_reply
    | apply keep_answer
    | apply keep_mgmtOp
    | (apply keep_ite <;> intro _)
    | intro _
    | dsimp only
    | split

theorem keep_bciWriteEff {m : Mgmt} {dev : Nat} {img : BciImage} (hk : Keep s0 s) :
    Keep s0 (bciWriteEff m dev img s) := by
  unfold bciWriteEff
  try dsimp only
  repeat' with_reducible first
    | assumption
    | apply keep_reply
    | apply keep_answer
    | apply keep_mgmtOp
    | apply keep_refuse
    | apply keep_modStore
    | exact fun _ => ⟨rfl, rfl, rfl⟩
    | exact ⟨rfl, rfl, rfl⟩
    | (apply keep_ite <;> intro _)
    | intro _
    | dsimp only
    | exact keep_of ‹Keep _ _› rfl rfl rfl rfl rfl rfl rfl rfl rfl
    | split

theorem keep_capabilityEff {m : Mgmt} (hk : Keep s0 s) :
    Keep s0 (capabilityEff m s) := by
  unfold capabilityEff
  try dsimp only
  repeat' with_reducible first
    | assumption
    | apply keep_mgmtOp
    | apply keep_answer
    | (apply keep_ite <;> intro _)
    | intro _
    | dsimp only
    | split

theorem keep_repairMapEff {m : Mgmt} (hk : Keep s0 s) :
    Keep s0 (repairMapEff m s) := by
  unfold repairMapEff
  try dsimp only
  repeat' with_reducible first
    | assumption
    | apply keep_mgmtOp
    | apply keep_answer
    | (apply keep_ite <;> intro _)
    | intro _
    | dsimp only
    | split

theorem keep_testRecordEff {m : Mgmt} {d : Nat} (hk : Keep s0 s) :
    Keep s0 (testRecordEff m d s) := by
  unfold testRecordEff
  try dsimp only
  repeat' with_reducible first
    | assumption
    | apply keep_reply
    | apply keep_answer
    | apply keep_mgmtOp
    | (apply keep_ite <;> intro _)
    | intro _
    | dsimp only
    | split

theorem keep_loadReportEff {m : Mgmt} {c : Nat} (hk : Keep s0 s) :
    Keep s0 (loadReportEff m c s) := by
  unfold loadReportEff
  try dsimp only
  repeat' with_reducible first
    | assumption
    | apply keep_reply
    | apply keep_answer
    | apply keep_mgmtOp
    | (apply keep_ite <;> intro _)
    | intro _
    | dsimp only
    | split

theorem keep_sequenceQueryEff {m : Mgmt} {tenant : Nat} {req : DWord} (hk : Keep s0 s) :
    Keep s0 (sequenceQueryEff m tenant req s) := by
  unfold sequenceQueryEff
  try dsimp only
  repeat' with_reducible first
    | assumption
    | apply keep_reply
    | apply keep_answer
    | apply keep_mgmtOp
    | (apply keep_ite <;> intro _)
    | intro _
    | dsimp only
    | exact keep_of ‹Keep _ _› rfl rfl rfl rfl rfl rfl rfl rfl rfl
    | split

theorem keep_displacePool {p : Nat} (hk : Keep s0 s) :
    Keep s0 (displacePool s p) := by
  unfold displacePool
  try dsimp only
  repeat' with_reducible first
    | assumption
    | apply keep_poolCheck
    | apply keep_setPool
    | apply keep_modPort
    | (apply keep_ite <;> intro _)
    | intro _
    | dsimp only
    | exact keep_of ‹Keep _ _› rfl rfl rfl rfl rfl rfl rfl rfl rfl
    | split

theorem keep_registerPool {p : Nat} {q : PoolParams} (hk : Keep s0 s) :
    Keep s0 (registerPool s p q) := by
  unfold registerPool
  try dsimp only
  repeat' with_reducible first
    | assumption
    | apply keep_displacePool
    | apply keep_setPool
    | apply keep_modPort
    | (apply keep_ite <;> intro _)
    | intro _
    | dsimp only
    | exact keep_of ‹Keep _ _› rfl rfl rfl rfl rfl rfl rfl rfl rfl
    | split

theorem keep_poolRegisterEff {m : Mgmt} {p : Nat} {q : PoolParams} (hk : Keep s0 s) :
    Keep s0 (poolRegisterEff m p q s) := by
  unfold poolRegisterEff
  try dsimp only
  repeat' with_reducible first
    | assumption
    | apply keep_reply
    | apply keep_answer
    | apply keep_mgmtOp
    | apply keep_refuse
    | apply keep_registerPool
    | (apply keep_ite <;> intro _)
    | intro _
    | dsimp only
    | split

/-! ## Machine/MgmtKeys.lean -/

theorem keep_tlsRefuse {why : Nat} (hk : Keep s0 s) :
    Keep s0 (tlsRefuse s why) := by
  unfold tlsRefuse
  try dsimp only
  repeat' with_reducible first
    | assumption
    | apply keep_modPlane
    | apply keep_pinc
    | (apply keep_ite <;> intro _)
    | intro _
    | dsimp only
    | exact keep_of ‹Keep _ _› rfl rfl rfl rfl rfl rfl rfl rfl rfl
    | split

theorem keep_tlsEff {o : TlsOffer} (hk : Keep s0 s) : Keep s0 (tlsEff o s) := by
  unfold tlsEff
  apply keep_ite <;> intro _
  · exact hk
  apply keep_ite <;> intro _
  · exact keep_tlsRefuse hk
  apply keep_ite <;> intro _
  · exact keep_sendOn (keep_tlsRefuse hk)
  apply keep_ite <;> intro _
  · exact keep_sendOn (keep_tlsRefuse hk)
  · exact keep_of hk rfl rfl rfl rfl rfl rfl rfl rfl rfl

theorem keep_idleEff {id idleS : Nat} (hk : Keep s0 s) : Keep s0 (idleEff id idleS s) :=
  keep_of hk rfl rfl rfl rfl rfl rfl rfl rfl rfl

theorem keep_putTenant {e : TenantEntry} (hk : Keep s0 s) :
    Keep s0 (putTenant s e) := by
  unfold putTenant
  try dsimp only
  repeat' with_reducible first
    | assumption
    | apply keep_send
    | apply keep_setTenant
    | (apply keep_ite <;> intro _)
    | intro _
    | dsimp only
    | exact keep_of ‹Keep _ _› rfl rfl rfl rfl rfl rfl rfl rfl rfl
    | split

theorem keep_putTenants {earlier l : List TenantEntry} (hk : Keep s0 s) : Keep s0 (putTenants s earlier l) := by
  induction l generalizing s earlier with
  | nil => exact hk
  | cons e r ih =>
    unfold putTenants
    dsimp only
    refine ih ?_
    apply keep_ite <;> intro _
    · exact keep_putTenant hk
    · apply keep_ite <;> intro _
      · exact keep_unwrapFail hk
      · exact hk

theorem keep_tenantSetEff {m : Mgmt} {body : List Byte} (hk : Keep s0 s) :
    Keep s0 (tenantSetEff m body s) := by
  unfold tenantSetEff
  try dsimp only
  repeat' with_reducible first
    | assumption
    | apply keep_reply
    | apply keep_answer
    | apply keep_mgmtOp
    | apply keep_putTenants
    | (apply keep_ite <;> intro _)
    | intro _
    | dsimp only
    | split

theorem keep_certificateEff {m : Mgmt} (hk : Keep s0 s) :
    Keep s0 (certificateEff m s) := by
  unfold certificateEff
  try dsimp only
  repeat' with_reducible first
    | assumption
    | apply keep_mgmtOp
    | apply keep_answer
    | (apply keep_ite <;> intro _)
    | intro _
    | dsimp only
    | split

theorem keep_attestationEff {m : Mgmt} {nonce : BitVec 256} (hk : Keep s0 s) :
    Keep s0 (attestationEff m nonce s) := by
  unfold attestationEff
  try dsimp only
  repeat' with_reducible first
    | assumption
    | apply keep_mgmtOp
    | apply keep_answer
    | (apply keep_ite <;> intro _)
    | intro _
    | dsimp only
    | split

theorem keep_putConfigKey {key : BitVec 512} {counter : Nat} (hk : Keep s0 s) :
    Keep s0 (putConfigKey s key counter) := by
  unfold putConfigKey
  try dsimp only
  repeat' with_reducible first
    | assumption
    | apply keep_logPut
    | apply keep_modStore
    | exact fun _ => ⟨rfl, rfl, rfl⟩
    | exact ⟨rfl, rfl, rfl⟩
    | (apply keep_ite <;> intro _)
    | intro _
    | dsimp only
    | exact keep_of ‹Keep _ _› rfl rfl rfl rfl rfl rfl rfl rfl rfl
    | split

theorem keep_setConfigKeyEff {m : Mgmt} {key : BitVec 512} {counter : Nat} {sig : BitVec 512} (hk : Keep s0 s) :
    Keep s0 (setConfigKeyEff m key counter sig s) := by
  unfold setConfigKeyEff
  try dsimp only
  repeat' with_reducible first
    | assumption
    | apply keep_answer
    | apply keep_mgmtOp
    | apply keep_refuse
    | apply keep_putConfigKey
    | (apply keep_ite <;> intro _)
    | intro _
    | dsimp only
    | split

end Sys2Proof.Machine
end

