-- ==== Sys2Proof/Laws/Commands.lean ====
section
/-! SUPPORT. What a command's effect says of the next state: the tile it acts on, the field it writes, the log
entry and the message it leaves, and the register, predicate, memory and counter laws of an instruction. -/
namespace Sys2Proof.Machine

variable {s : State} {t : Tid} {ts : TileState}

theorem next_of {a b : State} (h : a = b) : (Host.Outcome.next a : Res) = .next b := congrArg _ h

theorem onlyTile_modTile {f : TileState → TileState} : OnlyTile t s (modTile s t f) :=
  ⟨rfl, fun _ h => tileOf_modTile_ne h⟩

/-! ## The log and what is sent -/

/-- An entry is in the log's history once it is written, whatever follows. -/
theorem logged_of {s1 u : State} {e : LogRec} (h1 : Keep s s1) (h2 : Keep (logRec s1 e) u) : Logged s u e := by
  obtain ⟨l, hl⟩ := h1.log
  obtain ⟨m, hm⟩ := h2.log
  rw [logRec_ring h1.canon.log, ringKeep_append, hl, List.append_assoc, ringKeep_append] at hm
  exact ⟨_, l, m, hm⟩

/-- The same for an entry of a code. -/
theorem loggedCode_of {s1 u : State} {c v a b e : Nat} {src : LogSrc} (h1 : Keep s s1)
    (h2 : Keep (logPut s1 c v src a b e) u) : LoggedCode s u c v :=
  ⟨_, logged_of h1 h2, rfl, rfl⟩

/-- The same with its parameters. -/
theorem loggedAs_of {s1 u : State} {c v a b e : Nat} {src : LogSrc} (h1 : Keep s s1)
    (h2 : Keep (logPut s1 c v src a b e) u) : LoggedAs s u c v a b e :=
  ⟨_, logged_of h1 h2, rfl, rfl, rfl, rfl, rfl⟩

/-- What is sent stays sent. -/
theorem sent_of {s1 u : State} {o : Out} (h1 : Keep s s1) (h2 : Keep (send s1 o) u) : Sent s u o := by
  obtain ⟨l, hl⟩ := h1.out
  obtain ⟨m, hm⟩ := h2.out
  refine ⟨l, m, hm.trans ?_⟩
  show s1.out ++ [o] ++ m = _
  rw [hl]
  simp only [List.append_assoc, List.singleton_append]

/-- The place of a field in its die or tile: block, offset and lowest bit. -/
def Fld.place (f : Fld) : Nat := ((f.blk * 65536 + f.off) * 32 + f.lo) % 2 ^ 29

/-- A write of a field leaves every field at another place of a block, whichever die or tile holds it. -/
theorem rget_rset_place {d x e y v : Nat} {f g : Fld}
    (h : g.place ≠ f.place) :
    rget (rset s d x f v) e y g = rget s e y g := by
  refine rget_rset_ne ?_
  intro q
  simp only [fkey] at q
  unfold Fld.place at h
  omega

/-- The stamp of a log entry does not depend on a register outside the timebase status. -/
theorem stamp_rset {d x v : Nat} {f : Fld}
    (h : R.TB_STAT_LOCKED.place
      ≠ f.place) : stamp (rset s d x f v) = stamp s := by
  unfold stamp unlocked pget
  rw [rget_rset_place h, show now (rset s d x f v) = now s from rfl]

theorem logEntry_tset {f : Fld} {v c n a b e : Nat} {src : LogSrc}
    (h : R.TB_STAT_LOCKED.place
      ≠ f.place) :
    logEntry (tset s t f v) c n src a b e = logEntry s c n src a b e := by
  unfold logEntry tset
  rw [stamp_rset h]

/-- A log entry changes no register outside the log block. -/
theorem rget_logRec {d x : Nat} {f : Fld} {e : LogRec}
    (h : f.place / 2 ^ 21 ≠ 0x39) : rget (logRec s e) d x f = rget s d x f := by
  obtain ⟨fb, fo, fl, fw⟩ := f
  simp only [Fld.place] at h
  have key : ∀ (s' : State) (g : Fld) (v : Nat), g = R.LOG_HEAD_SEQNO ∨ g = R.LOG_LOST_COUNT ∨ g = R.LOG_STAT_ALERT →
      rget (pset s' g v) d x ⟨fb, fo, fl, fw⟩ = rget s' d x ⟨fb, fo, fl, fw⟩ := by
    intro s' g v hg
    refine rget_rset_ne ?_
    intro e
    rcases hg with rfl | rfl | rfl <;>
      simp only [fkey, R.LOG_HEAD_SEQNO, R.LOG_LOST_COUNT, R.LOG_STAT_ALERT] at e <;> omega
  unfold logRec
  extract_lets n s1 s2 s3
  have e1 : rget s1 d x ⟨fb, fo, fl, fw⟩ = rget s d x ⟨fb, fo, fl, fw⟩ := key _ _ _ (.inl rfl)
  have e2 : rget s2 d x ⟨fb, fo, fl, fw⟩ = rget s1 d x ⟨fb, fo, fl, fw⟩ := by
    show rget (if _ then _ else _) d x _ = _
    split
    · exact key _ _ _ (.inr (.inl rfl))
    · rfl
  have e3 : rget s3 d x ⟨fb, fo, fl, fw⟩ = rget s d x ⟨fb, fo, fl, fw⟩ := e2.trans e1
  split
  · show rget (pset s3 R.LOG_STAT_ALERT 1) d x _ = _
    exact (key _ _ _ (.inr (.inr rfl))).trans e3
  · exact e3

theorem tget_logPut {f : Fld} {c v a b e : Nat} {src : LogSrc}
    (h : f.place / 2 ^ 21 ≠ 0x39) :
    tget (logPut s c v src a b e) t f = tget s t f := rget_logRec h

/-! ## Scalar instructions -/

theorem sregSet_eq {r : BitVec 5} {v : DWord} : sregSet ts r v = { ts with sregs := (sregSet ts r v).sregs } := by
  obtain ⟨l, h⟩ := @sregSet_same ts r v
  rw [h]

theorem predSet_eq {p : Nat} {v : Bool} : predSet ts p v = { ts with preds := (predSet ts p v).preds } := by
  unfold predSet
  split <;> rfl

/-- An instruction that writes a register changes that register, the counter and the waves, and nothing else. -/
theorem registerStep_write {r : BitVec 5} {v : DWord} (h : Canonical s) :
    RegisterStep s (writeReg s t r v 1) t r v := by
  unfold writeReg
  refine ⟨onlyTile_modTile, ?_, ?_, ?_⟩
  · rw [tileOf_modTile_self h.tiles, advance_sregGet]
    exact sregGet_sregSet_self (h.tileMem _).sregs
  · intro q hq
    rw [tileOf_modTile_self h.tiles, advance_sregGet]
    exact sregGet_sregSet_ne hq
  · rw [tileOf_modTile_self h.tiles]
    show advance (sregSet _ _ _) 1 = _
    conv => lhs; rw [sregSet_eq]
    rfl

theorem immBits8 {w : GWord} : immBits w 0 8 = w.imm.toNat % 256 := by unfold immBits bitsOf; simp
theorem immBits24 {w : GWord} : immBits w 8 24 = w.imm.toNat / 256 % 2 ^ 24 := rfl
theorem immBits20 {w : GWord} : immBits w 0 20 = w.imm.toNat % 2 ^ 20 := by unfold immBits bitsOf; simp

theorem waitOk_iff {v x : Word} : waitOk v x = true ↔ (v - x).toNat < 2 ^ 31 := by simp [waitOk]

/-- A counter reads what was written to it. -/
theorem ctrGet_ctrSet (h : kwf regDefault s.regs = true) {n : Nat} {v : Word} : ctrGet (ctrSet s t n v) t n = v := by
  unfold ctrGet ctrSet
  rw [tget_tset_self h]
  apply BitVec.eq_of_toNat_eq
  have : (R.TILE_CNT_VALUE.at n).w = 32 := rfl
  rw [this, BitVec.toNat_ofNat]
  have := v.isLt
  omega

/-! ## Byte memories -/

/-- The bytes stored at an address are the bytes read there. -/
theorem mbytes_mstore {m : List Host.Cell} {a n : Nat} {l : List Byte} (h : Memory.wf m = true) (hl : l.length = n) :
    mbytes (mstore m a l) a n = l := by
  have key : ∀ k, ∀ b, b + k = n → mbytes (mstore m a l) (a + b) k = l.drop b := by
    intro k
    induction k with
    | zero => intro b hb; rw [List.drop_eq_nil_of_le (by omega)]; rfl
    | succ k ih =>
      intro b hb
      have hb' : b < l.length := by omega
      rw [mbytes, mget_mstore_in h hb', show a + b + 1 = a + (b + 1) by omega, ih (b + 1) (by omega)]
      exact (List.drop_eq_getElem_cons hb').symm
  exact key n 0 (by omega)

theorem mread_mwrite {m : List Host.Cell} {a n v : Nat} (h : Memory.wf m = true) :
    mread (mwrite m a n v) a n = v % 256 ^ n := by
  rw [← leNat_leBytes]
  unfold mread mwrite
  congr 1
  exact mbytes_mstore h leBytes_length

/-- A slot wait adds 1 to READS or WRITES. -/
theorem slotField_take (h : Memory.wf ts.sdata = true) {slot : Nat} {rd : Bool} :
    slotField (slotTake ts slot rd) slot (if rd then 8 else 12) 4
      = (slotField ts slot (if rd then 8 else 12) 4 + 1) % 2 ^ 32 := mread_mwrite h

/-! ## Halting -/

/-- A halted tile runs no program and its queues wait. -/
theorem haltTile_stops (h : kwf blankTile s.tiles = true) {pc code : Nat} :
    (tileOf (haltTile s t pc code) t).running = false ∧ (tileOf (haltTile s t pc code) t).qstop = true := by
  unfold haltTile
  extract_lets s1 s2 s3 s4
  have hk : kwf blankTile s4.tiles = true := kwf_kset h
  have h4 : tileOf s4 t = { tileOf s t with running := false, qstop := true, wait := none, stall := none } :=
    kget_kset_self h
  split
  · next c _ =>
    have := (still_stopContext (c := c) (code := code) (Still.refl hk)).same t
    exact ⟨this.running.trans (by rw [h4]), this.qstop.trans (by rw [h4])⟩
  · rw [h4]; exact ⟨rfl, rfl⟩

end Sys2Proof.Machine
end

