-- ==== Sys2Proof/Laws/Effects.lean ====
section
/-! SUPPORT. What the shared operations leave: the head of a queue, a launched command, a log entry, a repair-map
entry, register fields after other writes, and loops that change tiles or messages alone. -/
namespace Sys2Proof.Machine

theorem queueOf_setQueue_self {ts : TileState} {q : Nat} {l : List QCmd} (h : kwf noQueue ts.queues = true) :
    queueOf (setQueue ts q l) q = l := kget_kset_self h

theorem queueOf_setQueue_ne {ts : TileState} {q k : Nat} {l : List QCmd} (h : k ≠ q) :
    queueOf (setQueue ts q l) k = queueOf ts k := kget_kset_ne h

theorem onlyTile_trans {t : Tid} {s u v : State} (a : OnlyTile t s u) (b : OnlyTile t u v) : OnlyTile t s v := by
  refine ⟨?_, fun k hk => (b.2 k hk).trans (a.2 k hk)⟩
  have h1 := a.1; have h2 := b.1
  rw [h2]
  generalize v.tiles = x
  rw [h1]

theorem takeHead_only {s : State} {t : Tid} {q : Nat} {rest : List QCmd} : OnlyTile t s (takeHead s t q rest) := onlyTile_modTile

theorem takeHead_tile {s : State} {t : Tid} {q : Nat} {rest : List QCmd} (h : kwf blankTile s.tiles = true) :
    tileOf (takeHead s t q rest) t = setQueue (tileOf s t) q rest := tileOf_modTile_self h

theorem takeHead_buf {s : State} {t : Tid} {q : Nat} {rest : List QCmd} (h : kwf blankTile s.tiles = true) :
    (tileOf (takeHead s t q rest) t).buf = (tileOf s t).buf := by rw [takeHead_tile h]; rfl

theorem takeHead_acc {s : State} {t : Tid} {q : Nat} {rest : List QCmd} (h : kwf blankTile s.tiles = true) :
    (tileOf (takeHead s t q rest) t).acc = (tileOf s t).acc := by rw [takeHead_tile h]; rfl

theorem launch_only {s : State} {t : Tid} {q a : Nat} {c : QCmd} : OnlyTile t s (launch s t q c a) := by
  unfold launch; exact onlyTile_modTile

theorem tileOf_launch {s : State} {t : Tid} {q a : Nat} {c : QCmd} (h : kwf blankTile s.tiles = true) :
    ∃ i n v, tileOf (launch s t q c a) t = { tileOf s t with inflight := i, newtTurn := n, newtUse := v } := by
  unfold launch; dsimp only; rw [tileOf_modTile_self h]; exact ⟨_, _, _, rfl⟩

theorem launch_buf {s : State} {t : Tid} {q a : Nat} {c : QCmd} (h : kwf blankTile s.tiles = true) : (tileOf (launch s t q c a) t).buf = (tileOf s t).buf := by
  obtain ⟨x, y, z, e⟩ := tileOf_launch (t := t) (q := q) (a := a) (c := c) h; rw [e]

theorem launch_acc {s : State} {t : Tid} {q a : Nat} {c : QCmd} (h : kwf blankTile s.tiles = true) : (tileOf (launch s t q c a) t).acc = (tileOf s t).acc := by
  obtain ⟨x, y, z, e⟩ := tileOf_launch (t := t) (q := q) (a := a) (c := c) h; rw [e]

theorem launch_lfsr {s : State} {t : Tid} {q a : Nat} {c : QCmd} {i j : Nat} (h : kwf blankTile s.tiles = true) : lfsrGet (tileOf (launch s t q c a) t) i j = lfsrGet (tileOf s t) i j := by
  obtain ⟨x, y, z, e⟩ := tileOf_launch (t := t) (q := q) (a := a) (c := c) h; rw [e]; rfl

theorem launch_grp {s : State} {t : Tid} {q a : Nat} {c : QCmd} {g : Nat} (h : kwf blankTile s.tiles = true) : grpOf (tileOf (launch s t q c a) t) g = grpOf (tileOf s t) g := by
  obtain ⟨x, y, z, e⟩ := tileOf_launch (t := t) (q := q) (a := a) (c := c) h; rw [e]; rfl

theorem launch_region {s : State} {t : Tid} {q a : Nat} {c : QCmd} {g : Nat} (h : kwf blankTile s.tiles = true) : regionOf (tileOf (launch s t q c a) t) g = regionOf (tileOf s t) g := by
  obtain ⟨x, y, z, e⟩ := tileOf_launch (t := t) (q := q) (a := a) (c := c) h; rw [e]; rfl

theorem launch_accGet {s : State} {t : Tid} {q a : Nat} {c : QCmd} {g i j : Nat} (h : kwf blankTile s.tiles = true) : accGet (tileOf (launch s t q c a) t) g i j = accGet (tileOf s t) g i j := by
  obtain ⟨x, y, z, e⟩ := tileOf_launch (t := t) (q := q) (a := a) (c := c) h; rw [e]; rfl

theorem flagIf_tiles {s : State} {t : Tid} {f : Fld} {n : Nat} : (flagIf s t f n).tiles = s.tiles := by unfold flagIf; split <;> rfl

theorem noteNum_tiles {s : State} {t : Tid} {e : NumEv} : (noteNum s t e).tiles = s.tiles := by
  unfold noteNum
  dsimp only
  have h : ∀ {c : Prop} [Decidable c] {a b : State}, a.tiles = s.tiles → b.tiles = s.tiles → (if c then a else b).tiles = s.tiles := by
    intro c _ a b ha hb; split
    · exact ha
    · exact hb
  have h4 : (flagIf (flagIf (flagIf (flagIf s t R.NUM_FLAGS_SPECIAL_IN e.special) t R.NUM_FLAGS_ACC_SAT e.accSat) t R.NUM_FLAGS_NEWT_SAT e.newtSat) t R.NUM_FLAGS_NEWT_INVALID e.invalid).tiles = s.tiles := by
    rw [flagIf_tiles, flagIf_tiles, flagIf_tiles, flagIf_tiles]
  have h5 := h (c := e.special = 0) h4 (show (tinc _ t R.NUM_SPECIAL_COUNT_COUNT e.special).tiles = s.tiles from h4)
  exact h h5 (show (tinc _ _ _ _).tiles = _ from h5)

theorem tileOf_noteNum {s : State} {t k : Tid} {e : NumEv} : tileOf (noteNum s t e) k = tileOf s k := by unfold tileOf; rw [noteNum_tiles]

theorem kget_filter {α : Type} {d : Nat → α} {m : List (Nat × α)} {p : Nat × α → Bool} {k : Nat} (h : ∀ v, p (k, v) = false) :
    kget d (m.filter p) k = d k := by
  induction m with
  | nil => rfl
  | cons e m ih =>
    rw [List.filter_cons]
    split
    · next hp =>
      rw [kget]
      by_cases e1 : k = e.1
      · have := h e.2; rw [e1] at this; rw [this] at hp; cases hp
      · rw [if_neg e1]; exact ih
    · exact ih

theorem setGrp_get {ts : TileState} {g : Nat} {v : Grp} (h : kwf noGrp ts.groups = true) : grpOf (setGrp ts g v) g = v := kget_kset_self h

theorem setRegion_get {ts : TileState} {g : Nat} {v : GridRegion} (h : kwf noRegion ts.regions = true) : kget noRegion (setRegion ts g v).regions g = v := kget_kset_self h

theorem checked_broken {s : State} {t : Tid} {q : Nat} {c : QCmd} {l : List Check} {ok : State → State} {r w : Nat} (h : firstBroken l = some (r, w)) :
    checked s t q c l ok = cmdFault s t q c r w := by
  unfold checked
  rw [h]

theorem bufWrite_in {ts : TileState} {a i : Nat} {bs : List Byte} (h : Memory.wf ts.buf = true) (hi : i < bs.length) :
    mget (bufWrite ts a bs).buf (a + i) = bs[i] := mget_mstore_in h hi

theorem bufWrite_out {ts : TileState} {a x : Nat} {bs : List Byte} (h : x < a ∨ a + bs.length ≤ x) :
    mget (bufWrite ts a bs).buf x = mget ts.buf x := mget_mstore_out h

theorem mbytes_length {m : List Host.Cell} {a n : Nat} : (mbytes m a n).length = n := by
  induction n generalizing a with
  | zero => rfl
  | succ n ih => simp [mbytes, ih]

theorem mbytes_get {m : List Host.Cell} {a n i : Nat} (h : i < (mbytes m a n).length) : (mbytes m a n)[i] = mget m (a + i) := by
  induction n generalizing a i with
  | zero => simp [mbytes] at h
  | succ n ih =>
    cases i with
    | zero => rfl
    | succ i =>
      show (mbytes m (a + 1) n)[i]'_ = _
      rw [ih]; congr 1; omega

theorem leBytes_get {n v i : Nat} (h : i < (leBytes n v).length) : (leBytes n v)[i] = BitVec.ofNat 8 (v / 256 ^ i) := by
  induction n generalizing v i with
  | zero => simp [leBytes] at h
  | succ n ih =>
    cases i with
    | zero =>
      show BitVec.ofNat 8 (v % 256) = _
      apply BitVec.eq_of_toNat_eq; simp
    | succ i =>
      show (leBytes n (v / 256))[i]'_ = _
      rw [ih, Nat.div_div_eq_div_mul, Nat.pow_succ']

theorem ctrInc_self {a b : State} {t : Tid} {n : Nat} {v : Word} (h : kwf regDefault a.regs = true) (e : ctrGet a t n = ctrGet b t n) :
    ctrGet (ctrInc a t n v) t n = ctrGet b t n + v := by
  unfold ctrInc; rw [ctrGet_ctrSet h, e]

theorem post_all {s : State} {l : List Tid} {f : Tid → CtrlMsg} : forEach l s (fun s t => post s (f t)) = { s with ctrl := s.ctrl ++ l.map f } := by
  induction l generalizing s with
  | nil => simp [forEach]
  | cons x l ih =>
    show forEach l (post s (f x)) _ = _
    rw [ih]; simp [post]

theorem setCrossing_get {s : State} {t : Tid} {d : Dir} {c : Crossing} (hc : Canonical s) :
    crossingOf (setCrossing s t d c) t d = c := by
  have h : kwf noCrossing (tileOf s t).crossings = true := (hc.tileMem (tkey t)).crossings
  unfold crossingOf setCrossing
  rw [tileOf_modTile_self hc.tiles]
  exact kget_kset_self h

theorem setStep_eff {s : State} {t : Tid} {n : Nat} (hc : kwf regDefault s.regs = true) (h : effStep s t ≠ n) :
    effStep (setStep s t n) t = n % 16 ∧ ctrGet (setStep s t n) t 250 = ctrGet s t 250 + 1 := by
  unfold setStep
  rw [if_neg h]
  refine ⟨?_, ?_⟩
  · unfold effStep
    have : tget (ctrInc (tset s t R.PACE_STEP_EFFECTIVE n) t 250 1) t R.PACE_STEP_EFFECTIVE = tget (tset s t R.PACE_STEP_EFFECTIVE n) t R.PACE_STEP_EFFECTIVE := tget_tset_ne (by decide)
    rw [this]; exact tget_tset_self hc
  · refine ctrInc_self (kwf_kset hc) ?_
    unfold ctrGet
    rw [tget_tset_ne (by decide)]

theorem rget_inc {s a : State} {d x n : Nat} {f : Fld} (h : kwf regDefault a.regs = true) (e : rget a d x f = rget s d x f) : rget (rinc a d x f n) d x f = min (rget s d x f + n) (2 ^ f.w - 1) := by
  unfold rinc; rw [rget_rset_self h, e, Nat.mod_eq_of_lt]
  have : 0 < 2 ^ f.w := Nat.two_pow_pos _
  omega

theorem rget_logPut {s : State} {d x : Nat} {f : Fld} {c v a b e : Nat} {src : LogSrc} (h : f.place / 2 ^ 21 ≠ 0x39) : rget (logPut s c v src a b e) d x f = rget s d x f := rget_logRec h

theorem logPut_parts {s : State} {c v a b e : Nat} {src : LogSrc} : ∃ r l p, logPut s c v src a b e = { s with regs := r, log := l, pins := p } := logRec_parts

theorem now_logPut {s : State} {c v a b e : Nat} {src : LogSrc} : now (logPut s c v src a b e) = now s := by
  obtain ⟨r, l, p, h⟩ := @logPut_parts s c v a b e src; rw [h]; rfl

theorem logged_then {s v u : State} {c n a b e : Nat} (h : LoggedAs s v c n a b e) (hk : Keep s v) (h2 : Keep v u) : LoggedAs s u c n a b e := by
  obtain ⟨r, ⟨m, x, y, h⟩, hr⟩ := h
  obtain ⟨l, hl⟩ := h2.log
  refine ⟨r, ⟨m, x, y ++ l, ?_⟩, hr⟩
  rw [hl, h, ringKeep_append]
  simp only [List.append_assoc, List.cons_append]

theorem rmAdd_same {s : State} {a b c e d x : Nat} : (rmAdd s a b c e).dies = s.dies ∧ (rmAdd s a b c e).tiles = s.tiles
    ∧ (∀ f : Fld, f.place / 2 ^ 21 ≠ 0x39 → rget (rmAdd s a b c e) d x f = rget s d x f) := by
  unfold rmAdd
  dsimp only
  split
  · obtain ⟨r, l, p, h⟩ := @logPut_parts (modStore s fun r => { r with overflow := r.overflow ++ [(⟨BitVec.ofNat 8 a, BitVec.ofNat 8 b, BitVec.ofNat 16 c, BitVec.ofNat 32 e⟩ : RmEntry)] }) 0x1119 sevWarning (s.store.overflow ++ [(⟨BitVec.ofNat 8 a, BitVec.ofNat 8 b, BitVec.ofNat 16 c, BitVec.ofNat 32 e⟩ : RmEntry)]).length 0 0 (svcSrc s)
    refine ⟨?_, ?_, ?_⟩
    · exact (congrArg State.dies h).trans rfl
    · exact (congrArg State.tiles h).trans rfl
    · intro f hf; exact (rget_logPut hf).trans rfl
  · exact ⟨rfl, rfl, fun _ _ => rfl⟩

theorem tbit_setBit {v i w : Nat} (h : i < w) : tbit (setBit v i % 2 ^ w) i = true := by
  have key : ∀ n, tbit (n % 2 ^ w) i = tbit n i := by
    intro n
    unfold tbit
    have e : 2 ^ w = 2 ^ i * (2 * 2 ^ (w - i - 1)) := by
      rw [← Nat.pow_succ', ← Nat.pow_add]; congr 1; omega
    rw [e, Nat.mod_mul_right_div_self, Nat.mod_mul_right_mod]
  rw [key]
  unfold setBit
  split
  · assumption
  · next hb =>
    unfold tbit at hb ⊢
    rw [Nat.add_div_right _ (Nat.two_pow_pos i)]
    simp at hb ⊢
    omega

theorem frameOf_modDie {v : State} {d f : Nat} {g : DieState → DieState} (h : kwf blankDie v.dies = true) (hg : ∀ x, (g x).frames = x.frames) :
    frameOf (modDie v d g) d f = frameOf v d f := by
  unfold frameOf
  rw [dieOf_modDie_self h, hg]

theorem dieOf_self {s : State} {d : Nat} {f : DieState → DieState} (h : kwf blankDie s.dies = true) : dieOf (modDie s d f) d = f (dieOf s d) := kget_kset_self h

theorem forEach_one {α : Type} {s : State} {f : State → α → State} {x : α} : forEach [x] s f = f s x := rfl

theorem forEach_tiles {α : Type} {l : List α} {s : State} {f : State → α → State} (h : ∀ a x, f a x = { a with tiles := (f a x).tiles }) :
    forEach l s f = { s with tiles := (forEach l s f).tiles } := by
  induction l generalizing s with
  | nil => rfl
  | cons x l ih =>
    have e := @ih (f s x)
    have h1 := h s x
    show forEach l (f s x) f = { s with tiles := (forEach l (f s x) f).tiles }
    generalize forEach l (f s x) f = w at e ⊢
    rw [e, h1]

theorem loggedAs_trans {s v u : State} {c n a b e : Nat} (h1 : Keep s v) (h2 : LoggedAs v u c n a b e) : LoggedAs s u c n a b e := by
  obtain ⟨r, ⟨m, x, y, h⟩, hr⟩ := h2
  obtain ⟨l, hl⟩ := h1.log
  refine ⟨r, ⟨m, l ++ x, y, ?_⟩, hr⟩
  rw [h, hl]
  simp only [List.append_assoc, ringKeep_append]

theorem coolStep_le {s : State} {d t e : Nat} {q : Rat} {n : Nat} : coolStep s d t e q n ≤ n := by
  induction n with
  | zero => exact Nat.le_refl _
  | succ n ih => unfold coolStep; split <;> omega

theorem calCap_le {s : State} {t : Tid} : calCap s t ≤ 15 := by
  have : ∀ (l : List Dir) (a : Nat), a ≤ 15 → l.foldl (fun a d => let own := min a (calMax s t d); match neighbour t d with | some n => min own (calMax s n (dirOpp d)) | none => own) a ≤ 15 := by
    intro l
    induction l with
    | nil => intro a h; exact h
    | cons x l ih =>
      intro a h
      refine ih _ ?_
      dsimp only
      split <;> omega
  exact this _ _ (Nat.le_refl _)

theorem capOf_le {s : State} {t : Tid} : capOf s t ≤ 15 := by
  have := @calCap_le s t
  unfold capOf protCap; dsimp only; omega

/-- What holds before a loop and is kept by its body holds after it. -/
theorem forEach_inv {α : Type} {l : List α} {s : State} {f : State → α → State} (P : State → Prop) (h0 : P s)
    (h : ∀ a x, P a → P (f a x)) : P (forEach l s f) := by
  induction l generalizing s with
  | nil => exact h0
  | cons x l ih => exact ih (h _ _ h0)

theorem forEach_ctrl {α : Type} {l : List α} {s : State} {f : State → α → State}
    (h : ∀ a x, f a x = { a with ctrl := (f a x).ctrl }) :
    forEach l s f = { s with ctrl := (forEach l s f).ctrl } := by
  induction l generalizing s with
  | nil => rfl
  | cons x l ih =>
    have e := @ih (f s x)
    have h1 := h s x
    show forEach l (f s x) f = { s with ctrl := (forEach l (f s x) f).ctrl }
    generalize forEach l (f s x) f = w at e ⊢
    rw [e, h1]

/-- A map of optional values reads what it has just had written. -/
theorem kget_some {α : Type} [DecidableEq α] {m : List (Nat × Option α)} {k : Nat} {v : α} :
    kget (fun _ => (none : Option α)) (kset (fun _ => none) m k (some v)) k = some v := by
  unfold kset
  rw [if_neg (by simp)]
  exact kget_kput_self

theorem ctxOf_modCtx {s : State} {c : Nat} {x : Context} {f : Context → Context} (h : ctxOf s c = some x) :
    ctxOf (modCtx s c f) c = some (f x) := by
  unfold modCtx
  rw [h]
  exact kget_some

/-! ## Management requests -/

theorem mgmtOp_up {s : State} {m : Mgmt} {p : State → Bool} {op : Nat} {f : State → State} (h : SessionUp s m) :
    mgmtOp p op m f s = if !(mgmtHeadOk m) then breakSession s m (sessionPort s m.session)
      else match m.other with
        | some n => reply s m n.toNat (if opCodes.contains n.toNat then stMalformed else stUnknownOp) []
        | none => if !(p s) then reply s m op stNotNow [] else if m.bodyOk then f s
          else reply s m op stMalformed [] := by
  unfold SessionUp at h
  unfold mgmtOp sessionPort
  cases e : sessionOf s m.session with
  | none => rw [e] at h; cases h
  | some y =>
    rw [e] at h
    have hp : portUp s y.port.val = true := h
    dsimp only
    rw [if_neg (by rw [hp]; decide)]
    rfl

theorem mgmtOp_allowed {s : State} {m : Mgmt} {p : State → Bool} {op : Nat} {f : State → State} (h : HasSession s m)
    (hp : p s = true) : mgmtOp p op m f s = f s := by
  rw [mgmtOp_up h.1]
  simp [h.2.1, h.2.2.1, h.2.2.2, hp]

theorem mgmtOp_refused {s : State} {m : Mgmt} {p : State → Bool} {op : Nat} {f : State → State} (h : HasSession s m)
    (hp : p s = false) : mgmtOp p op m f s = reply s m op stNotNow [] := by
  rw [mgmtOp_up h.1]
  simp [h.2.1, h.2.2.1, hp]

/-- What a port is given is sent, or waits there. -/
theorem given_sendOn {s v : State} {p prio : Nat} {o : Out} (h : Keep s v) : Given s (sendOn v p prio o) o := by
  unfold sendOn
  split
  · refine .inr ⟨p, prio, ?_⟩
    rw [portOf_modPort_self h.canon.ports]
    simp
  · exact .inl (sent_of h (Keep.refl (keep_send h).canon))

/-- It stays so through what leaves the queues of the ports. -/
theorem given_more {s v u : State} {o : Out} (h : Given s v o) (hk : Keep v u)
    (hp : ∀ p e, e ∈ (portOf v p).egress → e ∈ (portOf u p).egress) : Given s u o := by
  rcases h with ⟨a, b, h⟩ | ⟨p, prio, h⟩
  · obtain ⟨l, hl⟩ := hk.out
    exact .inl ⟨a, b ++ l, by rw [hl, h]; simp⟩
  · exact .inr ⟨p, prio, hp _ _ h⟩

theorem answered_reply {s v : State} {m : Mgmt} {op st : Nat} {l : List Byte} (h : Keep s v) :
    Answered s (reply v m op st l) m op st l := ⟨_, given_sendOn h⟩

/-! ## A register field after another write -/

section
variable {s : State} {d x : Nat} {g : Fld}

@[simp] theorem rget_modGroup {k : Nat} {f : WGroup → WGroup} : rget (modGroup s k f) d x g = rget s d x g := rfl
@[simp] theorem rget_setFrame {k n : Nat} {v : Option FrameRec} : rget (setFrame s k n v) d x g = rget s d x g := rfl

theorem rget_rinc_place {e y n : Nat} {f : Fld} (h : g.place ≠ f.place) : rget (rinc s e y f n) d x g = rget s d x g :=
  rget_rset_place h
theorem rget_rmax_place {e y n : Nat} {f : Fld} (h : g.place ≠ f.place) : rget (rmax s e y f n) d x g = rget s d x g :=
  rget_rset_place h
theorem rget_rinc_self {n : Nat} (h : kwf regDefault s.regs = true) :
    rget (rinc s d x g n) d x g = min (rget s d x g + n) (2 ^ g.w - 1) := rget_inc h rfl
theorem regs_rset {v : Nat} (h : kwf regDefault s.regs = true) : kwf regDefault (rset s d x g v).regs = true := kwf_kset h
theorem regs_rinc {n : Nat} (h : kwf regDefault s.regs = true) : kwf regDefault (rinc s d x g n).regs = true := kwf_kset h
theorem regs_logPut {c v a b e : Nat} {src : LogSrc} (h : kwf regDefault s.regs = true) :
    kwf regDefault (logPut s c v src a b e).regs = true := logRec_regs_kwf h

end

end Sys2Proof.Machine
end

