-- ==== Sys2Proof/Laws/Caps.lean ====
section
/-! SUPPORT. What a change of a tile's caps does: the tile's own caps and step alone change, one cut for each tile of a
loop, one raise for each; and what a grant writes. -/
namespace Sys2Proof.Machine

theorem protCap_le {s : State} {t : Tid} : protCap s t ≤ 15 := by
  have := @calCap_le s t
  unfold protCap; dsimp only; omega

theorem protCap_budget {s : State} {t : Tid} : protCap s t ≤ (tileOf s t).caps.budget := by
  unfold protCap; dsimp only; omega

theorem enforceCaps_tiles {s : State} {t : Tid} {P : State → Prop} (h1 : ∀ w, w.tiles = s.tiles → P w)
    (h2 : ∀ w, w.tiles = (modTile s t fun ts => { ts with raise := none, settled := true }).tiles → P w) : P (enforceCaps s t) := by
  unfold enforceCaps setStep
  dsimp only
  split <;> split <;> first | exact h1 _ rfl | exact h2 _ rfl | (split <;> first | exact h1 _ rfl | exact h2 _ rfl)

theorem tileOf_congr {v w : State} (n : Tid) (h : w.tiles = v.tiles) : tileOf w n = tileOf v n := by unfold tileOf; rw [h]

theorem enforceCaps_tileOf_ne {s : State} {t n : Tid} (h : n ≠ t) : tileOf (enforceCaps s t) n = tileOf s n :=
  enforceCaps_tiles (P := fun w => tileOf w n = tileOf s n) (fun w e => tileOf_congr n e) (fun w e => (tileOf_congr n e).trans (tileOf_modTile_ne h))

theorem enforceCaps_caps {s : State} {t : Tid} (hc : kwf blankTile s.tiles = true) : (tileOf (enforceCaps s t) t).caps = (tileOf s t).caps :=
  enforceCaps_tiles (P := fun w => (tileOf w t).caps = (tileOf s t).caps) (fun w e => congrArg _ (tileOf_congr t e))
    (fun w e => by rw [tileOf_congr t e, tileOf_modTile_self hc])

theorem enforceCaps_tiles_wf {s : State} {t : Tid} (hc : kwf blankTile s.tiles = true) : kwf blankTile (enforceCaps s t).tiles = true :=
  enforceCaps_tiles (P := fun w => kwf blankTile w.tiles = true) (fun _ e => by rw [e]; exact hc) (fun _ e => by rw [e]; exact kwf_kset hc)

theorem enforceCaps_form {s : State} {t : Tid} : ∃ v : State, v.regs = s.regs ∧ ((effStep s t ≤ protCap s t ∧ enforceCaps s t = v)
    ∨ (protCap s t < effStep s t ∧ ∃ m, enforceCaps s t = post (setStep v t (protCap s t)) m)) := by
  unfold enforceCaps
  dsimp only
  by_cases h : protCap s t < effStep s t
  · by_cases h2 : ((tileOf s t).raise.map fun r => decide (protCap s t < r)).getD false = true
    · refine ⟨(modTile s t fun ts => { ts with raise := none, settled := true }), rfl, .inr ⟨h, ?_⟩⟩
      rw [if_pos h2, if_pos (show protCap s t < effStep (modTile s t fun ts => { ts with raise := none, settled := true }) t from h)]
      exact ⟨_, rfl⟩
    · refine ⟨s, rfl, .inr ⟨h, ?_⟩⟩
      rw [if_neg h2, if_pos h]
      exact ⟨_, rfl⟩
  · by_cases h2 : ((tileOf s t).raise.map fun r => decide (protCap s t < r)).getD false = true
    · refine ⟨(modTile s t fun ts => { ts with raise := none, settled := true }), rfl, .inl ⟨by omega, ?_⟩⟩
      rw [if_pos h2, if_neg (show ¬ protCap s t < effStep (modTile s t fun ts => { ts with raise := none, settled := true }) t from h)]
    · refine ⟨s, rfl, .inl ⟨by omega, ?_⟩⟩
      rw [if_neg h2, if_neg h]

theorem rget_congr {v w : State} {d x : Nat} {f : Fld} (h : w.regs = v.regs) : rget w d x f = rget v d x f := by unfold rget; rw [h]

theorem enforceCaps_effStep {s : State} {t : Tid} (hr : kwf regDefault s.regs = true) : effStep (enforceCaps s t) t ≤ protCap s t := by
  obtain ⟨v, e, h | ⟨h, m, h2⟩⟩ := @enforceCaps_form s t
  · rw [h.2]; exact Nat.le_trans (Nat.le_of_eq (rget_congr e)) h.1
  · rw [h2]
    have ev : effStep v t = effStep s t := rget_congr e
    have := setStep_eff (s := v) (t := t) (n := protCap s t) (by rw [e]; exact hr) (by omega)
    have h16 := @protCap_le s t
    have h3 : effStep (post (setStep v t (protCap s t)) m) t = effStep (setStep v t (protCap s t)) t := rfl
    rw [h3, this.1]
    omega

/-- Registers other than the step and counter 250 of the tile. -/
theorem enforceCaps_rget {s : State} {t : Tid} {d x : Nat} {f : Fld} (h1 : fkey d x f ≠ fkey t.d.val t.t.val R.PACE_STEP_EFFECTIVE)
    (h2 : fkey d x f ≠ fkey t.d.val t.t.val (R.TILE_CNT_VALUE.at 250)) : rget (enforceCaps s t) d x f = rget s d x f := by
  obtain ⟨v, e, h | ⟨h, m, h3⟩⟩ := @enforceCaps_form s t
  · rw [h.2]; exact rget_congr e
  · rw [h3]
    have : rget (post (setStep v t (protCap s t)) m) d x f = rget v d x f := by
      show rget (setStep v t (protCap s t)) d x f = _
      unfold setStep
      split
      · rfl
      · unfold ctrInc ctrSet tset
        rw [rget_rset_ne h2, rget_rset_ne h1]
    rw [this]; exact rget_congr e

theorem withCaps_ne {s : State} {t n : Tid} {f : Caps → Caps} (h : n ≠ t) : tileOf (withCaps s t f) n = tileOf s n :=
  (enforceCaps_tileOf_ne h).trans (tileOf_modTile_ne h)

theorem withCaps_self {s : State} {t : Tid} {f : Caps → Caps} (hc : kwf blankTile s.tiles = true) : (tileOf (withCaps s t f) t).caps = f (tileOf s t).caps := by
  unfold withCaps
  rw [enforceCaps_caps (kwf_kset hc), tileOf_modTile_self hc]

theorem withCaps_effStep_ne {s : State} {t n : Tid} {f : Caps → Caps} (h : n ≠ t) : effStep (withCaps s t f) n = effStep s n := by
  refine enforceCaps_rget ?_ ?_
  all_goals
    intro e
    apply h
    obtain ⟨d, i⟩ := t
    obtain ⟨d', i'⟩ := n
    have hi := i.isLt
    have hi' := i'.isLt
    simp only [fkey, R.PACE_STEP_EFFECTIVE, R.TILE_CNT_VALUE, Fld.at] at e
    have h1 : d'.val = d.val := by omega
    have h2 : i'.val = i.val := by omega
    rw [Fin.ext h1, Fin.ext h2]

theorem withCaps_effStep {s : State} {t : Tid} {f : Caps → Caps} (hr : kwf regDefault s.regs = true) (hc : kwf blankTile s.tiles = true) :
    effStep (withCaps s t f) t ≤ (f (tileOf s t).caps).budget := by
  refine Nat.le_trans (enforceCaps_effStep hr) (Nat.le_trans protCap_budget ?_)
  exact Nat.le_of_eq (congrArg (fun x : TileState => x.caps.budget) (tileOf_modTile_self hc))

theorem withCaps_wf {s : State} {t : Tid} {f : Caps → Caps} (hc : kwf blankTile s.tiles = true) : kwf blankTile (withCaps s t f).tiles = true :=
  enforceCaps_tiles_wf (kwf_kset hc)

theorem setStep_regs {s : State} {t : Tid} {n : Nat} (hr : kwf regDefault s.regs = true) : kwf regDefault (setStep s t n).regs = true := by
  unfold setStep; split
  · exact hr
  · exact kwf_kset (kwf_kset hr)

theorem withCaps_regs {s : State} {t : Tid} {f : Caps → Caps} (hr : kwf regDefault s.regs = true) : kwf regDefault (withCaps s t f).regs = true := by
  unfold withCaps
  obtain ⟨v, e, h | ⟨h, m, h3⟩⟩ := @enforceCaps_form (modTile s t fun ts => { ts with caps := f ts.caps }) t
  · rw [h.2, e]; exact hr
  · rw [h3]; exact setStep_regs (by rw [e]; exact hr)

theorem enforceCaps_rest {s : State} {t : Tid} : enforceCaps s t = { s with tiles := (enforceCaps s t).tiles, regs := (enforceCaps s t).regs, ctrl := (enforceCaps s t).ctrl } := by
  unfold enforceCaps setStep
  dsimp only
  split <;> split <;> first | rfl | (split <;> rfl)

theorem withCaps_rest {s : State} {t : Tid} {f : Caps → Caps} : withCaps s t f = { s with tiles := (withCaps s t f).tiles, regs := (withCaps s t f).regs, ctrl := (withCaps s t f).ctrl } :=
  enforceCaps_rest

theorem forEach_withCaps {l : List Tid} {f : Caps → Caps} {b : Nat} (hf : ∀ c, (f c).budget = b) : ∀ {s : State}, kwf regDefault s.regs = true → kwf blankTile s.tiles = true →
    let u := forEach l s fun s t => withCaps s t f
    kwf regDefault u.regs = true ∧ kwf blankTile u.tiles = true ∧ u = { s with tiles := u.tiles, regs := u.regs, ctrl := u.ctrl }
    ∧ (∀ n, n ∈ l → (tileOf u n).caps.budget = b ∧ effStep u n ≤ b)
    ∧ (∀ n, n ∉ l → tileOf u n = tileOf s n ∧ effStep u n = effStep s n) := by
  induction l with
  | nil =>
    intro s hr hc
    dsimp only
    refine ⟨hr, hc, rfl, ?_, ?_⟩
    · intro n h; cases h
    · intro n _; exact ⟨rfl, rfl⟩
  | cons x l ih =>
    intro s hr hc
    have h := @ih (withCaps s x f) (withCaps_regs hr) (withCaps_wf hc)
    dsimp only at h ⊢
    obtain ⟨a1, a2, a3, a4, a5⟩ := h
    refine ⟨a1, a2, ?_, ?_, ?_⟩
    · have e := @withCaps_rest s x f
      change forEach l (withCaps s x f) _ = _
      show _ = { s with tiles := (forEach l (withCaps s x f) fun s t => withCaps s t f).tiles, regs := (forEach l (withCaps s x f) fun s t => withCaps s t f).regs, ctrl := (forEach l (withCaps s x f) fun s t => withCaps s t f).ctrl }
      generalize (forEach l (withCaps s x f) fun s t => withCaps s t f) = w at a3 ⊢
      rw [a3, e]
    · intro n hn
      by_cases hl : n ∈ l
      · exact a4 n hl
      · have hx : n = x := by
          cases hn with
          | head => rfl
          | tail _ h => exact absurd h hl
        subst hx
        have := a5 n hl
        show (tileOf (forEach l (withCaps s n f) _) n).caps.budget = b ∧ effStep (forEach l (withCaps s n f) _) n ≤ b
        rw [this.1, this.2]
        refine ⟨by rw [withCaps_self hc, hf], ?_⟩
        have := withCaps_effStep (t := n) (f := f) hr hc
        rw [hf] at this
        exact this
    · intro n hn
      have hx : n ≠ x := fun e => hn (by rw [e]; exact List.mem_cons_self)
      have hl : n ∉ l := fun e => hn (List.mem_cons_of_mem _ e)
      have := a5 n hl
      exact ⟨this.1.trans (withCaps_ne hx), this.2.trans (withCaps_effStep_ne hx)⟩

theorem mem_tilesOfDie {t n : Tid} (h : n.d = t.d) : n ∈ tilesOfDie t.d := by
  unfold tilesOfDie
  rw [List.mem_map]
  exact ⟨n.t, by unfold allTiles; exact List.mem_finRange _, by rw [← h]⟩

theorem die_of_mem_tilesOfDie {d : Fin 56} {n : Tid} (h : n ∈ tilesOfDie d) : n.d = d := by
  unfold tilesOfDie at h
  rw [List.mem_map] at h
  obtain ⟨a, _, rfl⟩ := h
  rfl

theorem nodup_tilesOfDie {d : Fin 56} : (tilesOfDie d).Nodup := by
  unfold tilesOfDie
  refine List.Pairwise.map _ ?_ (show allTiles.Nodup by unfold allTiles; exact List.nodup_finRange _)
  intro a b h e
  exact h (congrArg Tid.t e)

theorem foldl_max_bounds {α : Type} (f : α → Nat) : ∀ (l : List α) (a m : Nat), a ≤ m → (∀ x ∈ l, f x ≤ m) → l.foldl (fun a x => max a (f x)) a ≤ m ∧ a ≤ l.foldl (fun a x => max a (f x)) a ∧ (∀ x ∈ l, f x ≤ l.foldl (fun a x => max a (f x)) a) := by
  intro l
  induction l with
  | nil => intro a m h _; exact ⟨h, Nat.le_refl _, fun x h => by cases h⟩
  | cons x l ih =>
    intro a m h hx
    have hm : max a (f x) ≤ m := Nat.max_le.2 ⟨h, hx x List.mem_cons_self⟩
    obtain ⟨p, q, r⟩ := ih (max a (f x)) m hm fun y hy => hx y (List.mem_cons_of_mem _ hy)
    refine ⟨p, Nat.le_trans (Nat.le_max_left _ _) q, ?_⟩
    intro y hy
    cases hy with
    | head => exact Nat.le_trans (Nat.le_max_right _ _) q
    | tail _ h => exact r y h

theorem forEach_raise {l : List Tid} : ∀ {s : State}, l.Nodup → kwf blankTile s.tiles = true →
    let u := forEach l s fun s t => modTile s t fun ts => { ts with caps := { ts.caps with budget := ts.caps.budget + 1 } }
    u = { s with tiles := u.tiles } ∧ (∀ n, n ∈ l → (tileOf u n).caps.budget = (tileOf s n).caps.budget + 1) ∧ (∀ n, n ∉ l → tileOf u n = tileOf s n) := by
  induction l with
  | nil =>
    intro s _ _
    refine ⟨rfl, ?_, fun _ _ => rfl⟩
    intro n h
    cases h
  | cons x l ih =>
    intro s hn hc
    have hn' := List.nodup_cons.1 hn
    have h := @ih (modTile s x fun ts => { ts with caps := { ts.caps with budget := ts.caps.budget + 1 } }) hn'.2 (kwf_kset hc)
    dsimp only at h ⊢
    obtain ⟨a, b, c⟩ := h
    refine ⟨a, ?_, ?_⟩
    · intro n hm
      by_cases hl : n ∈ l
      · have hx : n ≠ x := fun e => hn'.1 (e ▸ hl)
        refine (b n hl).trans ?_
        exact congrArg (fun z => z.caps.budget + 1) (tileOf_modTile_ne hx)
      · have hx : n = x := by
          cases hm with
          | head => rfl
          | tail _ h => exact absurd h hl
        subst hx
        refine (congrArg (fun z => z.caps.budget) (c n hl)).trans ?_
        exact congrArg (fun z => z.caps.budget) (tileOf_modTile_self hc)
    · intro n hm
      have hx : n ≠ x := fun e => hm (by rw [e]; exact List.mem_cons_self)
      exact (c n fun e => hm (List.mem_cons_of_mem _ e)).trans (tileOf_modTile_ne hx)

theorem shortestSpan_congr {v s : State} {t : Tid} {a b : Nat} (hf : v.fields = s.fields) (ho : ∀ p, outstanding v t.d.val p = outstanding s t.d.val p) : shortestSpan v t a b = shortestSpan s t a b := by
  unfold shortestSpan
  congr 1
  funext n
  unfold spanFits budgetPeak budgetCont fieldOf
  dsimp only
  rw [ho, ho, hf]

theorem outstanding_congr {v s : State} {d : Nat} (h : dieOf v d = dieOf s d) (p : Nat → Bool) : outstanding v d p = outstanding s d p := by unfold outstanding; rw [h]

theorem grantSpan_rail {s : State} {t : Tid} {a n : Nat} {l : List Nat} (hr : kwf regDefault s.regs = true) : tget (grantSpan s t a n l) t R.MITTEN_TILE_RAIL = railTurning := by
  unfold grantSpan
  dsimp only
  exact tget_tset_self (kwf_kset hr)

theorem grantSpan_turnOns {s : State} {t : Tid} {a n : Nat} {l : List Nat} (hd : kwf blankDie s.dies = true) : (dieOf (grantSpan s t a n l) t.d.val).turnOns = (dieOf s t.d.val).turnOns.map fun y => if y.tile = t.t.val then { y with span := some n, capped := l } else y := by
  unfold grantSpan
  dsimp only
  show (dieOf (modTurnOn s t _) t.d.val).turnOns = _
  unfold modTurnOn
  rw [dieOf_self hd]

end Sys2Proof.Machine
end

