-- ==== Sys2Proof/WellFormed.lean ====
section
/-! DEFINITION. Commands whose operands keep the limits that their types do not. A command of another shape still
has a meaning in Machine/Dispatch.lean (a code that a list lacks reads 0, notes/assumptions/84). -/
namespace Sys2Proof

/-- A SERVE section holds at most 64 automata with 2^20 states in all (R299), and a draft description a window of at
most 8,192 tokens and a shortlist of at most 65,536 (R301). -/
def Serve.wf (v : Serve) : Bool :=
  v.grammars.length ≤ 64 && (v.grammars.map fun g => g.2.length).foldl (· + ·) 0 ≤ 2 ^ 20
    && v.draftWindow ≤ 8192 && v.shortlist.length ≤ 65536

/-- A command is well formed: a chunk has 1,048,576 bytes and a remote page 65,536 (R226, R314); a bank has 32
inputs (R391, R393); a calibration takes 64 samples of each reference and 8 of each of four DAC codes (R394); a life
record holds at most 8 lanes (R347); the ingress buffer holds bytes of 8 priorities (R340); a forecast window ends with a measurement of each tile of its die (R384);
an image's SERVE section keeps its limits. -/
def Instr.wf : Instr → Bool
  | .chunkReadComplete _ _ _ first more => first.length + more.length = 1048576
  | .pageInComplete _ _ page => page.text.length = 65536
  | .facilitySample codes => codes.length = 32
  | .sensorScan _ _ codes => codes.length = 32
  | .sliceCalibrate _ ground bandgap dac => ground.length = 64 && bandgap.length = 64 && dac.length = 32
  | .ethFrameReceive _ f => f.held.length = 8
  | .fecSecond _ _ held => held.length = 8
  | .lifeRecordHourly _ lanes bias => lanes ≤ 8 && bias.length = lanes
  | .loadExecute (some img) _ _ => img.serve.wf
  | .forecastWindow _ measured => measured.length = 24
  | _ => true

end Sys2Proof
end

