-- ==== Sys2Proof/Tests/Slice0.lean ====
section
/-! SUPPORT. Tests: terms that the well-formedness check refuses; for the hypotheses of each statement of
Certificates/Slice0/Obligations.lean a concrete state and operands that meet them together; and single commands whose
results the spec's tables and examples give. -/
namespace Sys2Proof.Machine.Test

/- The proofs here are evaluations by the kernel: one after another they need little memory. -/
set_option Elab.async false

/-! ## Small states -/

/-- The checks of `TileMem` as a Boolean. -/
def tileMemCheck (ts : TileState) : Bool :=
  Memory.wf ts.sdata && Memory.wf ts.buf && Memory.wf ts.side && Memory.wf ts.vreg0 && Memory.wf ts.vreg1
    && kwf zeroD ts.sregs && kwf zeroDesc ts.store && kwf noQueue ts.queues && kwf noGrp ts.groups
    && kwf noSum ts.acc && kwf noRegion ts.regions && kwf noCrossing ts.crossings

/-- The checks of `Canonical` as a Boolean. -/
def canon (s : State) : Bool :=
  kwf regDefault s.regs && kwf blankTile s.tiles && kwf blankDie s.dies && kwf blankPort s.ports
    && kwf fieldDefault s.fields && s.tiles.all (fun e => tileMemCheck e.2)
    && s.dies.all (fun e => Memory.wf e.2.mem) && s.log.length ≤ logCap

theorem tileMem_of_check {ts : TileState} (h : tileMemCheck ts = true) : TileMem ts := by
  simp only [tileMemCheck, Bool.and_eq_true, and_assoc] at h
  obtain ⟨h1, h2, h3, h4, h5, h6, h7, h8, h9, h10, h11, h12⟩ := h
  exact ⟨h1, h2, h3, h4, h5, h6, h7, h8, h9, h10, h11, h12⟩

theorem kget_all {α : Type} {d : Nat → α} {P : α → Prop} (hd : ∀ k, P (d k)) {l : List (Nat × α)}
    (h : ∀ e ∈ l, P e.2) (k : Nat) : P (kget d l k) := by
  induction l with
  | nil => exact hd k
  | cons e r ih =>
    obtain ⟨k', v⟩ := e
    show P (if k = k' then v else kget d r k)
    split
    · exact h (k', v) (by simp)
    · exact ih fun x hx => h x (by simp [hx])

theorem canonical_of_check {s : State} (h : canon s = true) : Canonical s := by
  simp only [canon, Bool.and_eq_true, and_assoc, List.all_eq_true, decide_eq_true_eq] at h
  obtain ⟨h1, h2, h3, h4, h5, h6, h7, h8⟩ := h
  exact ⟨h1, h2, h3, h4, h5, kget_all (fun _ => tileMem_of_check (show tileMemCheck TileState.reset = true by decide)) fun e he => tileMem_of_check (h6 e he),
    kget_all (P := fun x : DieState => Memory.wf x.mem = true)
      (fun _ => show Memory.wf DieState.reset.mem = true by decide) h7, h8⟩

def t0 : Tid := ⟨0, 0⟩
def t1 : Tid := ⟨0, 1⟩

/-- A Gecko word with a true guard. -/
def gw (op rd ra rb fn imm : Nat) : GWord :=
  ⟨BitVec.ofNat 8 op, 0, false, BitVec.ofNat 5 rd, BitVec.ofNat 5 ra, BitVec.ofNat 5 rb, BitVec.ofNat 5 fn,
    BitVec.ofNat 32 imm⟩

/-- The state after reset with tile 0 of die 0 changed, and running. -/
def sT (f : TileState → TileState) : State := modTile State.reset t0 fun ts => f { ts with running := true }
def sG : State := sT id

/-! ## The hypotheses of the statements can be met

One theorem for each statement that has hypotheses, in the order of the statements; O1 to O7 take any canonical state
with the command in front, as State.reset with a command queued is. -/

theorem meets_O1_O2_O4_to_O7 : Canonical State.reset ∧ (∃ u, step State.reset = .next u)
    ∧ (∃ c rest, ({ State.reset with pending := [.tbNowRead] } : State).pending = c :: rest
      ∧ ∃ u, step { State.reset with pending := [.tbNowRead] } = .next u)
    ∧ (∃ u, exec .tbNowRead State.reset = .next u) :=
  ⟨canonical_of_check (by decide +kernel), ⟨_, rfl⟩, ⟨_, _, rfl, _, rfl⟩, _, rfl⟩

theorem runs_of {s : State} {t : Tid} {w : GWord} {op : Nat}
    (h : (canIssue s t && decide (w.op.toNat = op) && encodingOk (tileOf s t) w && guardOk (tileOf s t) w) = true) :
    Runs s t w op := by
  simp only [Bool.and_eq_true, and_assoc, decide_eq_true_eq] at h
  exact h

theorem meets_O8 : Canonical sG ∧ Runs sG t0 (gw 0x01 1 2 3 0 0) 0x01 ∧ Runs sG t0 (gw 0x02 0 2 0 1 0xFFFFFFFF) 0x02
    ∧ Runs sG t0 (gw 0x03 31 0 0 0 7) 0x03 :=
  ⟨canonical_of_check (by decide +kernel), runs_of (by decide +kernel), runs_of (by decide +kernel),
    runs_of (by decide +kernel)⟩

theorem meets_O9 : Canonical sG
    ∧ (Runs sG t0 (gw 0x08 1 0 0 0 8) 0x08 ∧ sdataOk (sdataAddr (tileOf sG t0) (gw 0x08 1 0 0 0 8)) 8 = true)
    ∧ (Runs sG t0 (gw 0x09 1 0 0 0 4) 0x09 ∧ sdataOk (sdataAddr (tileOf sG t0) (gw 0x09 1 0 0 0 4)) 4 = true)
    ∧ Runs sG t0 (gw 0x22 1 0 0 0 255) 0x22 ∧ Runs sG t0 (gw 0x38 1 0 0 0 7) 0x38
    ∧ (Runs sG t0 (gw 0x08 1 0 0 0 4) 0x08 ∧ sdataOk (sdataAddr (tileOf sG t0) (gw 0x08 1 0 0 0 4)) 8 = false)
    ∧ (Runs sG t0 (gw 0x09 1 0 0 0 2) 0x09 ∧ sdataOk (sdataAddr (tileOf sG t0) (gw 0x09 1 0 0 0 2)) 4 = false) :=
  ⟨canonical_of_check (by decide +kernel), ⟨runs_of (by decide +kernel), by decide +kernel⟩,
    ⟨runs_of (by decide +kernel), by decide +kernel⟩, runs_of (by decide +kernel), runs_of (by decide +kernel),
    ⟨runs_of (by decide +kernel), by decide +kernel⟩, ⟨runs_of (by decide +kernel), by decide +kernel⟩⟩

theorem meets_O10 : Canonical sG ∧ Runs sG t0 (gw 0x04 0 2 3 5 0) 0x04 ∧ Runs sG t0 (gw 0x05 7 2 0 0 9) 0x05
    ∧ Runs sG t0 (gw 0x06 1 2 0 4 0) 0x06 :=
  ⟨canonical_of_check (by decide +kernel), runs_of (by decide +kernel), runs_of (by decide +kernel),
    runs_of (by decide +kernel)⟩

theorem meets_O11 : Canonical sG
    ∧ (Runs sG t0 (gw 0x0A 0 0 1 0 8) 0x0A ∧ sdataOk (sdataAddr (tileOf sG t0) (gw 0x0A 0 0 1 0 8)) 8 = true)
    ∧ (Runs sG t0 (gw 0x0B 0 0 1 0 4) 0x0B ∧ sdataOk (sdataAddr (tileOf sG t0) (gw 0x0B 0 0 1 0 4)) 4 = true)
    ∧ (Runs sG t0 (gw 0x0A 0 0 1 0 4) 0x0A ∧ sdataOk (sdataAddr (tileOf sG t0) (gw 0x0A 0 0 1 0 4)) 8 = false)
    ∧ (Runs sG t0 (gw 0x0B 0 0 1 0 2) 0x0B ∧ sdataOk (sdataAddr (tileOf sG t0) (gw 0x0B 0 0 1 0 2)) 4 = false) :=
  ⟨canonical_of_check (by decide +kernel), ⟨runs_of (by decide +kernel), by decide +kernel⟩,
    ⟨runs_of (by decide +kernel), by decide +kernel⟩, ⟨runs_of (by decide +kernel), by decide +kernel⟩,
    ⟨runs_of (by decide +kernel), by decide +kernel⟩⟩

theorem meets_O12 : Canonical sG ∧ Runs sG t0 (gw 0x32 0 0 1 0 64) 0x32
    ∧ sdataOk (sdataAddr (tileOf sG t0) (gw 0x32 0 0 1 0 64)) 64 = true :=
  ⟨canonical_of_check (by decide +kernel), runs_of (by decide +kernel), by decide +kernel⟩

/-- Register s1 of the tile holds `v`. -/
def sR (v : DWord) : State := sT fun ts => sregSet ts 1 v

theorem meets_O13 : Canonical (sR 0x20000) ∧ Runs (sR 0x20000) t0 (gw 0x00 0 0 0 0 0) 0x00
    ∧ Runs (sR 0x20000) t0 (gw 0x10 0 0 0 0 0x1FFFF) 0x10 ∧ Runs (sR 0x20000) t0 (gw 0x11 1 0 0 0 5) 0x11
    ∧ (Runs (sR 0x20000) t0 (gw 0x12 0 2 0 0 0) 0x12 ∧ (sregGet (tileOf (sR 0x20000) t0) 2).toNat ≤ 0x1FFFF)
    ∧ (Runs (sR 0x20000) t0 (gw 0x12 0 1 0 0 0) 0x12 ∧ 0x1FFFF < (sregGet (tileOf (sR 0x20000) t0) 1).toNat)
    ∧ Runs (sR 0x20000) t0 (gw 0x13 0 1 0 0 9) 0x13 :=
  ⟨canonical_of_check (by decide +kernel), runs_of (by decide +kernel), runs_of (by decide +kernel),
    runs_of (by decide +kernel), ⟨runs_of (by decide +kernel), by decide +kernel⟩,
    ⟨runs_of (by decide +kernel), by decide +kernel⟩, runs_of (by decide +kernel)⟩

/-- Tiles 0 and 1 of die 0 serve context 0. -/
def inCtx (s : State) : State :=
  tset (tset s t0 R.TILE_STAT_CTX_VALID 1) t1 R.TILE_STAT_CTX_VALID 1

/-- Signals: no counter named, the own counter 5, counter 5 of tile 1, and a reserved bit set. -/
def sSig (v : DWord) : State := inCtx (sR v)

theorem meets_O14 : Canonical (sSig 0) ∧ Runs (sSig 0) t0 (gw 0x20 0 1 0 0 239) 0x20
    ∧ Runs (sSig 0) t0 (gw 0x21 0 1 0 0 5) 0x21 ∧ Runs (sSig 0) t0 (gw 0x21 0 0 0 1 0x105) 0x21
    ∧ (Runs (sSig 0) t0 (gw 0x24 0 1 0 0 3) 0x24 ∧ csigBad (sSig 0) t0 (crefOf 0) = false ∧ (crefOf 0).v = false)
    ∧ (Canonical (sSig 0x80000005) ∧ Runs (sSig 0x80000005) t0 (gw 0x24 0 1 0 0 3) 0x24
      ∧ csigBad (sSig 0x80000005) t0 (crefOf 0x80000005) = false ∧ (crefOf 0x80000005).v = true
      ∧ (crefOf 0x80000005).remote = false)
    ∧ (Canonical (sSig 0xC0000105) ∧ Runs (sSig 0xC0000105) t0 (gw 0x24 0 1 0 0 3) 0x24
      ∧ csigBad (sSig 0xC0000105) t0 (crefOf 0xC0000105) = false ∧ (crefOf 0xC0000105).remote = true
      ∧ (crefOf 0xC0000105).tile ≠ widx t0)
    ∧ (Canonical (sSig 0x80080005) ∧ Runs (sSig 0x80080005) t0 (gw 0x24 0 1 0 0 3) 0x24
      ∧ csigBad (sSig 0x80080005) t0 (crefOf 0x80080005) = true) :=
  ⟨canonical_of_check (by decide +kernel), runs_of (by decide +kernel), runs_of (by decide +kernel),
    runs_of (by decide +kernel), ⟨runs_of (by decide +kernel), by decide +kernel⟩,
    ⟨canonical_of_check (by decide +kernel), runs_of (by decide +kernel), by decide +kernel⟩,
    ⟨canonical_of_check (by decide +kernel), runs_of (by decide +kernel), by decide +kernel⟩,
    ⟨canonical_of_check (by decide +kernel), runs_of (by decide +kernel), by decide +kernel⟩⟩

/-- One slot declared, at the start of scalar data memory. -/
def sSlot (x : List Host.Cell) : State := sT fun ts => { ts with slotCount := 1, sdata := x }

theorem meets_O15 : Canonical sG
    ∧ (Runs sG t0 (gw 0x23 0 0 0 0 0) 0x23 ∧ (ctrGet sG t0 0 - (0 : Word)).toNat < 2 ^ 31)
    ∧ (Runs sG t0 (gw 0x23 0 0 0 0 0x100) 0x23 ∧ ¬ (ctrGet sG t0 0 - (1 : Word)).toNat < 2 ^ 31)
    ∧ Canonical (sSlot []) ∧ Canonical (sSlot [(4, 1)])
    ∧ (Runs (sSlot []) t0 (gw 0x25 0 0 0 0 0) 0x25
      ∧ (ctrGet (sSlot []) t0 (slotTarget (tileOf (sSlot []) t0) 0 true).1
        - (slotTarget (tileOf (sSlot []) t0) 0 true).2).toNat < 2 ^ 31)
    ∧ (Runs (sSlot [(4, 1)]) t0 (gw 0x25 0 0 0 0 0) 0x25
      ∧ ¬ (ctrGet (sSlot [(4, 1)]) t0 (slotTarget (tileOf (sSlot [(4, 1)]) t0) 0 true).1
        - (slotTarget (tileOf (sSlot [(4, 1)]) t0) 0 true).2).toNat < 2 ^ 31)
    ∧ Canonical (sSlot [(2, 1)])
    ∧ (Runs (sSlot [(2, 1)]) t0 (gw 0x26 0 0 0 0 0) 0x26
      ∧ (ctrGet (sSlot [(2, 1)]) t0 (slotTarget (tileOf (sSlot [(2, 1)]) t0) 0 false).1
        - (slotTarget (tileOf (sSlot [(2, 1)]) t0) 0 false).2).toNat < 2 ^ 31)
    ∧ (Runs (sSlot []) t0 (gw 0x26 0 0 0 0 0) 0x26
      ∧ ¬ (ctrGet (sSlot []) t0 (slotTarget (tileOf (sSlot []) t0) 0 false).1
        - (slotTarget (tileOf (sSlot []) t0) 0 false).2).toNat < 2 ^ 31) :=
  ⟨canonical_of_check (by decide +kernel), ⟨runs_of (by decide +kernel), by decide +kernel⟩,
    ⟨runs_of (by decide +kernel), by decide +kernel⟩, canonical_of_check (by decide +kernel),
    canonical_of_check (by decide +kernel), ⟨runs_of (by decide +kernel), by decide +kernel⟩,
    ⟨runs_of (by decide +kernel), by decide +kernel⟩, canonical_of_check (by decide +kernel),
    ⟨runs_of (by decide +kernel), by decide +kernel⟩, ⟨runs_of (by decide +kernel), by decide +kernel⟩⟩

/-- A wait on counter 3 that 0 satisfies. -/
def sW (k : WaitKind) : State := sT fun ts => { ts with wait := some ⟨k, 3, 0, 0⟩ }

/-- A wait on counter 3 that 0 does not satisfy. -/
def sWait (k : WaitKind) : State := sT fun ts => { ts with wait := some ⟨k, 3, 1, 0⟩ }

theorem meets_O16 : ∀ k ∈ [WaitKind.plain, .idle, .slotRead, .slotWrite],
    (Canonical (sW k) ∧ (tileOf (sW k) t0).wait = some ⟨k, 3, 0, 0⟩ ∧ (tileOf (sW k) t0).running = true
      ∧ waving (sW k) t0 = true ∧ (ctrGet (sW k) t0 3 - 0).toNat < 2 ^ 31)
    ∧ Canonical (sWait k) ∧ (tileOf (sWait k) t0).wait = some ⟨k, 3, 1, 0⟩ ∧ (tileOf (sWait k) t0).running = true
      ∧ waving (sWait k) t0 = true ∧ ¬ (ctrGet (sWait k) t0 3 - 1).toNat < 2 ^ 31 := by
  intro k hk
  refine ⟨⟨canonical_of_check ?_, ?_⟩, canonical_of_check ?_, ?_⟩ <;> revert k hk <;> decide +kernel

def blankDesc : Desc := ⟨0, 0, 0, 0, 0, 0, 0, 0⟩
def qc (d : Desc) : QCmd := ⟨d, 0, 0, []⟩

/-- Queue `q` holds `n` commands. -/
def sQ (q n : Nat) : State := sT fun ts => setQueue ts q (List.replicate n (qc blankDesc))
/-- An instruction stalls on queue 4. -/
def sStall : State := sT fun ts => { ts with stall := some (4, qc blankDesc) }

theorem meets_O17 :
    (Canonical (sQ 5 1) ∧ Runs (sQ 5 1) t0 (gw 0x30 5 0 0 0 64) 0x30
      ∧ sdataOk (sdataAddr (tileOf (sQ 5 1) t0) (gw 0x30 5 0 0 0 64)) 64 = true
      ∧ (queueOf (tileOf (sQ 5 1) t0) 5).length < queueDepth 5 ∧ Runs (sQ 5 1) t0 (gw 0x31 5 0 0 0 0x9001) 0x31)
    ∧ (Canonical (sQ 5 (queueDepth 5)) ∧ Runs (sQ 5 (queueDepth 5)) t0 (gw 0x30 5 0 0 0 64) 0x30
      ∧ Runs (sQ 5 (queueDepth 5)) t0 (gw 0x31 5 0 0 0 1) 0x31
      ∧ queueDepth 5 ≤ (queueOf (tileOf (sQ 5 (queueDepth 5)) t0) 5).length)
    ∧ (Canonical sStall ∧ (tileOf sStall t0).stall = some (4, qc blankDesc) ∧ (tileOf sStall t0).running = true
      ∧ waving sStall t0 = true ∧ (queueOf (tileOf sStall t0) 4).length < queueDepth 4) :=
  ⟨⟨canonical_of_check (by decide +kernel), runs_of (by decide +kernel), by decide +kernel, by decide +kernel,
      runs_of (by decide +kernel)⟩,
    ⟨canonical_of_check (by decide +kernel), runs_of (by decide +kernel), runs_of (by decide +kernel),
      by decide +kernel⟩,
    canonical_of_check (by decide +kernel), by decide +kernel⟩

theorem meets_O18 : Canonical sG ∧ Runs sG t0 (gw 0x39 0 0 0 0 0) 0x39 ∧ Runs sG t0 (gw 0x3F 0 0 0 0 0) 0x3F :=
  ⟨canonical_of_check (by decide +kernel), runs_of (by decide +kernel), runs_of (by decide +kernel)⟩

/-- A word of opcode `op` whose guard is false, of fields that every opcode allows. -/
def falseWord (op : Nat) : GWord :=
  { gw op 0 0 0 0 (if op = 0x23 then 240 else 0) with gn := true }

theorem meets_O19 : Canonical (sSlot []) ∧ ∀ r ∈ (geckoRows t0 (gw 0 0 0 0 0 0)).map (·.1),
    canIssue (sSlot []) t0 = true ∧ (falseWord r).op.toNat = r
      ∧ encodingOk (tileOf (sSlot []) t0) (falseWord r) = true
      ∧ guardOk (tileOf (sSlot []) t0) (falseWord r) = false :=
  ⟨canonical_of_check (by decide +kernel), by decide +kernel⟩

theorem meets_O20 : Canonical sG ∧ ∀ r ∈ (geckoRows t0 (gw 0 0 0 0 0 0)).map (·.1),
    canIssue sG t0 = true ∧ (gw r 31 31 31 31 0xFFFFFFFF).op.toNat = r
      ∧ encodingOk (tileOf sG t0) (gw r 31 31 31 31 0xFFFFFFFF) = false :=
  ⟨canonical_of_check (by decide +kernel), by decide +kernel⟩

/-! ### Commands of the engines -/

theorem heads_of {s : State} {t : Tid} {q op : Nat} {c : QCmd} {rest : List QCmd}
    (h : (decide (queueOf (tileOf s t) q = c :: rest) && decide (descOp c.desc = op) && !(tileOf s t).qstop
      && waving s t && engineFree s t q op (cmdGrp q c.desc)) = true) : HeadStarts s t q op c rest := by
  simp only [Bool.and_eq_true, and_assoc, decide_eq_true_eq, Bool.not_eq_true'] at h
  exact h

theorem passes_of {s : State} {t : Tid} {q : Nat} {rest : List QCmd} {checks : State → List Check}
    (h : firstBroken (checks (takeHead s t q rest)) = none) : Passes s t q rest checks := h

/-- A descriptor of an opcode, with FLAGS and words 1 to 6. -/
def dsc (op flags w1 w2 w3 w4 w5 w6 : Nat) : Desc :=
  ⟨BitVec.ofNat 64 (op * 2 ^ 56 + flags * 2 ^ 48), BitVec.ofNat 64 w1, BitVec.ofNat 64 w2, BitVec.ofNat 64 w3,
    BitVec.ofNat 64 w4, BitVec.ofNat 64 w5, BitVec.ofNat 64 w6, 0⟩

/-- The head of queue `q` is a command, in a tile changed by `f`. -/
def sC (q : Nat) (d : Desc) (f : TileState → TileState) : State := sT fun ts => f (setQueue ts q [qc d])

/-- The hypotheses that every statement about a command of an engine shares. -/
def meets (s : State) (q op : Nat) (d : Desc) (checks : State → List Check) : Prop :=
  Canonical s ∧ HeadStarts s t0 q op (qc d) [] ∧ Passes s t0 q [] checks

def dSeed (table : Nat) : Desc := dsc 0x10 table (if table = 1 then 4 else 0xFFFFFFFF) 0 0 0 0 0
def dOpen (init : Nat) : Desc := dsc 0x11 (8 * init) 0 0 0 0 0 0
/-- K elements at one position, one feature block and one slice; weights in the buffer (WBUF) or on the stack. -/
def dStream (wbuf k : Nat) : Desc := dsc 0x12 (64 * wbuf) 0 0x100 (k * 2 ^ 34) 0x010101 0 0
def dDrain (flags : Nat) : Desc := dsc 0x13 flags ((1 * 2 ^ 41) + 2 ^ 17) 0x3F8000003F800000 0 0 0 0

def openGroup (ts : TileState) : TileState := setGrp ts 0 ⟨true, false, none, 0, 0, false, [], []⟩
/-- Virtual page 0 is mapped, writable and local. -/
def mapped (s : State) : State :=
  modDie s 0 fun x => { x with l1 := kset zeroE x.l1 0 (BitVec.ofNat 64 (2 ^ 63))
                               l2 := kset zeroE x.l2 0 (mkPte true false 0 0) }

/-- Errors of buffer words, and a command that meets none. -/
theorem meets_reads : OfBuffer [.bufSingle 0 0, .bufDouble 98303 31] ∧ CleanReads (sC 0 (dSeed 0) id) t0 [] := by
  refine ⟨fun e he => ?_, rfl, by decide +kernel⟩
  simp only [List.mem_cons, List.not_mem_nil, or_false] at he
  rcases he with rfl | rfl
  · exact ⟨_, _, .inl rfl⟩
  · exact ⟨_, _, .inr rfl⟩

/-- A streaming command is held by empty stream buffers. -/
def sHeld (wbuf : Nat) : State := mapped (sT fun ts => openGroup { ts with
  inflight := [⟨0, 0x12, 0, 0, 0, [], 0, 0, 0, [], some (qc (dStream wbuf 16)), none, 0⟩] })

theorem meets_O21_held : ∀ i ∈ [0, 1], Canonical (sHeld i)
    ∧ (tileOf (sHeld i) t0).inflight.findSome? (·.held) = some (qc (dStream i 16)) ∧ waving (sHeld i) t0 = true
    ∧ ((streamOps (dStream i 16)).wbuf = true ∨ (transAll t0 false 0
      (weightPages (dStream i 16) (streamOps (dStream i 16))) (dropHeld (sHeld i) t0)).1 = ⟨none, []⟩) := by
  intro i hi
  refine ⟨canonical_of_check ?_, ?_⟩ <;> revert i hi <;> decide +kernel

theorem meets_O21 :
    (∀ i ∈ [0, 1], meets (sC 0 (dSeed i) id) 0 0x10 (dSeed i) fun v => seedChecks v t0 (dSeed i))
    ∧ (∀ i ∈ [0, 1], meets (sC 0 (dOpen i) id) 0 0x11 (dOpen i) fun v => openChecks v t0 (dOpen i))
    ∧ (∀ i ∈ [0, 1], ∀ k ∈ [0, 16],
      (tileOf (mapped (sC 0 (dStream i k) openGroup)) t0).inflight.findSome? (·.held) = none)
    ∧ (meets (sC 0 (dStream 1 0) openGroup) 0 0x12 (dStream 1 0) fun v => streamChecks v t0 (dStream 1 0))
    ∧ (streamOps (dStream 1 0)).k = 0
    ∧ (meets (sC 0 (dStream 1 16) openGroup) 0 0x12 (dStream 1 16) fun v => streamChecks v t0 (dStream 1 16))
    ∧ (streamOps (dStream 1 16)).wbuf = true
    ∧ (meets (mapped (sC 0 (dStream 0 16) openGroup)) 0 0x12 (dStream 0 16) fun v => streamChecks v t0 (dStream 0 16))
    ∧ (transAll t0 false 0 (weightPages (dStream 0 16) (streamOps (dStream 0 16)))
        (takeHead (mapped (sC 0 (dStream 0 16) openGroup)) t0 0 [])).1 = ⟨none, []⟩
    ∧ (∀ i ∈ [0, 8, 0x38], meets (sC 0 (dDrain i) openGroup) 0 0x13 (dDrain i) fun v => drainChecks v t0 (dDrain i)) := by
  refine ⟨fun i hi => ⟨canonical_of_check ?_, heads_of ?_, passes_of ?_⟩, fun i hi => ⟨canonical_of_check ?_, heads_of ?_, passes_of ?_⟩,
    ?_, ⟨canonical_of_check ?_, heads_of ?_, passes_of ?_⟩, ?_, ⟨canonical_of_check ?_, heads_of ?_, passes_of ?_⟩, ?_,
    ⟨canonical_of_check ?_, heads_of ?_, passes_of ?_⟩, ?_, fun i hi => ⟨canonical_of_check ?_, heads_of ?_, passes_of ?_⟩⟩
  all_goals first | decide +kernel | (revert i hi; decide +kernel)

/-- An FP32 operand in the buffer: its first line. -/
def vr (line : Nat) : Nat := 2 ^ 63 + line
def dVec : Nat → Desc
  | 0x20 => dsc 0x20 2 2 (vr 0) (vr 1) (vr 2) (vr 3) 0
  | 0x21 => dsc 0x21 3 2 (vr 0) 0 0 (vr 3) 0
  | 0x22 => ⟨BitVec.ofNat 64 (0x22 * 2 ^ 56), 2, BitVec.ofNat 64 (vr 0), 5, BitVec.ofNat 64 (vr 1), 0, 0,
      BitVec.ofNat 64 (vr 3)⟩
  | 0x23 => dsc 0x23 1 (2 ^ 16 * 2 + 1) (vr 0) (vr 1) (vr 3) 0 0
  | 0x24 => dsc 0x24 0 (2 ^ 16 * 2 + 1) (vr 0) (2 ^ 17 * 7 + 8) 0 (vr 3) 0
  | _ => dsc 0x25 0 (2 ^ 24 + 16) (vr 0) (2 ^ 34 * 12 + 2 ^ 17 * 11 + 10) (2 ^ 17 * 14 + 13) 0 0x3F800000
/-- The record of 2 values that NV.NORM reads, on line 5. -/
def withRecord (ts : TileState) : TileState := bufWrite ts (5 * 256) [2]

theorem meets_O22 : ∀ core ∈ [(0 : Fin 2), 1],
    ∀ r ∈ [(0x20, fun v => mapChecks v t0 (dVec 0x20)), (0x21, fun v => redChecks v t0 (dVec 0x21)),
      (0x22, fun v => normChecks v t0 (dVec 0x22)), (0x23, fun v => ropeChecks v t0 (dVec 0x23)),
      (0x24, fun v => smaxChecks v t0 (dVec 0x24)), (0x25, fun v => quantChecks v t0 (dVec 0x25))],
    meets (sC (core.val + 1) (dVec r.1) withRecord) (core.val + 1) r.1 (dVec r.1) r.2 := by
  intro core hc r hr
  simp only [List.mem_cons, List.not_mem_nil, or_false] at hc hr
  rcases hc with rfl | rfl <;> rcases hr with rfl | rfl | rfl | rfl | rfl | rfl
  all_goals
    exact ⟨canonical_of_check (by decide +kernel), heads_of (by decide +kernel), passes_of (by decide +kernel)⟩

def dGrid : Nat → Desc
  | 0x40 => dsc 0x40 1 0 (2 ^ 17 * 1) 0 0 0 0
  | 0x41 => dsc 0x41 1 0 (2 ^ 17 * 1) (2 ^ 17 * 2 + 9) 0 0 0
  | _ => dsc 0x42 1 0 0 0 0 0 0
def withRegion (ts : TileState) : TileState := setRegion ts 1 ⟨0, 0, 1, 1, 1⟩

theorem meets_O23 :
    ∀ r ∈ [(0x40, fun v => tgCfgChecks v t0 (dGrid 0x40)), (0x41, fun v => tgRunChecks v t0 (dGrid 0x41)),
      (0x42, fun v => tgFreeChecks v t0 (dGrid 0x42))],
    meets (sC 3 (dGrid r.1) withRegion) 3 r.1 (dGrid r.1) r.2 := by
  intro r hr
  simp only [List.mem_cons, List.not_mem_nil, or_false] at hr
  rcases hr with rfl | rfl | rfl
  all_goals
    exact ⟨canonical_of_check (by decide +kernel), heads_of (by decide +kernel), passes_of (by decide +kernel)⟩

/-- A fill of `n` lines that ends with the last line, and a copy of `n` lines. -/
def dFill (n : Nat) : Desc := dsc 0x51 0 (98304 - n) n 5 0 0 0
def dCopy (n : Nat) : Desc := dsc 0x52 0 1 (98304 - n) n 0 0 0

theorem meets_O24 : ∀ n ∈ [0, 1], (meets (sC 4 (dFill n) id) 4 0x51 (dFill n) fun v => fillChecks v t0 (dFill n))
    ∧ meets (sC 4 (dCopy n) id) 4 0x52 (dCopy n) fun v => copyChecks v t0 (dCopy n) := by
  intro n hn
  simp only [List.mem_cons, List.not_mem_nil, or_false] at hn
  rcases hn with rfl | rfl <;>
    exact ⟨⟨canonical_of_check (by decide +kernel), heads_of (by decide +kernel), passes_of (by decide +kernel)⟩,
      canonical_of_check (by decide +kernel), heads_of (by decide +kernel), passes_of (by decide +kernel)⟩

/-- A move of 2 lines from the buffer to page 0 of the stack, and to the buffer of tile 1. -/
def dMove : Desc := dsc 0x50 0 3 (2 * 2 ^ 60) 2 0 0 0
def dSend : Desc := dsc 0x50 0 3 (2 ^ 60 + 2 ^ 17 * 1 + 7) 2 0 0 0

/-- The entry of a virtual page of die 0, and of one that lies in the remote pool. -/
def withPage (s : State) (vpn : Nat) (e : DWord) : State :=
  modDie s 0 fun x => { x with
    l1 := kset zeroE x.l1 (vpn / 65536) (BitVec.ofNat 64 (2 ^ 63)), l2 := kset zeroE x.l2 vpn e }
def remoteE : DWord := mkRemote (mkPte true false 0 0) 5

theorem meets_O25 : let s := mapped (sC 4 dMove id)
    (meets s 4 0x50 dMove fun v => moveChecks v t0 dMove) ∧ moveLines dMove ≠ 0
      ∧ (transAll t0 false 1 (sidePages dMove.w1 (moveLines dMove)) (takeHead s t0 4 [])).1 = ⟨none, []⟩
      ∧ (transAll t0 true 1 (sidePages dMove.w2 (moveLines dMove))
          (transAll t0 false 1 (sidePages dMove.w1 (moveLines dMove)) (takeHead s t0 4 [])).2).1 = ⟨none, []⟩
      ∧ meshDest (takeHead s t0 4 []) t0 dMove.w2 = none ∧ CleanReads s t0 [] :=
  ⟨⟨canonical_of_check (by decide +kernel), heads_of (by decide +kernel), passes_of (by decide +kernel)⟩,
    by decide +kernel, by decide +kernel, by decide +kernel, by decide +kernel, rfl, by decide +kernel⟩

theorem meets_O25_mesh : let s := inCtx (sC 4 dSend id)
    (meets s 4 0x50 dSend fun v => moveChecks v t0 dSend) ∧ moveLines dSend ≠ 0
      ∧ (transAll t0 false 1 (sidePages dSend.w1 (moveLines dSend)) (takeHead s t0 4 [])).1 = ⟨none, []⟩
      ∧ (transAll t0 true 1 (sidePages dSend.w2 (moveLines dSend))
          (transAll t0 false 1 (sidePages dSend.w1 (moveLines dSend)) (takeHead s t0 4 [])).2).1 = ⟨none, []⟩
      ∧ (meshDest (takeHead s t0 4 []) t0 dSend.w2).isSome = true :=
  ⟨⟨canonical_of_check (by decide +kernel), heads_of (by decide +kernel), passes_of (by decide +kernel)⟩,
    by decide +kernel, by decide +kernel, by decide +kernel, by decide +kernel⟩

theorem meets_O25_away : let s := withPage (sC 4 dMove id) 0 remoteE
    (meets s 4 0x50 dMove fun v => moveChecks v t0 dMove)
      ∧ (transAll t0 false 1 (sidePages dMove.w1 (moveLines dMove)) (takeHead s t0 4 [])).1 = ⟨none, []⟩
      ∧ (transAll t0 true 1 (sidePages dMove.w2 (moveLines dMove))
          (transAll t0 false 1 (sidePages dMove.w1 (moveLines dMove)) (takeHead s t0 4 [])).2).1 = ⟨none, [(3, 0)]⟩ :=
  ⟨⟨canonical_of_check (by decide +kernel), heads_of (by decide +kernel), passes_of (by decide +kernel)⟩,
    by decide +kernel, by decide +kernel⟩

/-! ### A context on die 0: one layer with a FULL cache of one head, and slot 0 -/

/-- Bytes of a little-endian number. -/
def le (n v : Nat) : List Byte := leBytes n v

/-- A section table entry: type, index, offset and length. -/
def secRow (type i off len : Nat) : List Byte := le 2 type ++ le 2 i ++ le 4 0 ++ le 8 off ++ le 8 len ++ le 8 0

/-- The bytes of an image: 15 sections, of which CAPS and SIGNATURE have contents. -/
def imgBytes (required optional layers draft : Nat) : List Byte :=
  le 4 0x594E504B ++ le 2 1 ++ le 2 0 ++ le 8 960 ++ le 2 15 ++ le 2 0 ++ le 4 0 ++ List.replicate 32 0
    ++ List.replicate 40 0 ++ List.replicate 160 0
    ++ (secRow 1 0 768 64 ++ ([2, 3, 4, 5, 6, 7, 8, 9, 10, 11, 13, 14, 15].map fun k => secRow k 0 832 0).flatten
      ++ secRow 0xFFFF 0 832 128)
    ++ List.replicate 32 0
    ++ le 4 required ++ le 4 optional ++ le 2 0 ++ le 2 1 ++ le 2 layers ++ le 2 draft ++ le 4 4 ++ List.replicate 44 0
    ++ List.replicate 128 0

def img0 : Image where
  bytes := []
  templates := []
  kvplan := [⟨1, 1, 0, 0, 0, 0⟩]
  serve := ⟨16, 0, 0, 4, [], [], 0, 0, [], 0, 0, 0, [], []⟩
  tadpole := []
  packReport := 0

def caps0 : CapDecl := ⟨0, 0, 0, 1, 1, 0, 4⟩

def man0 : ManifestEntry := ⟨0, 0, 0, 0, 0, [], [], 0⟩

def cx0 : Context where
  entry := 0
  image := img0
  caps := caps0
  manifest := man0
  dies := [0]
  dieSet := [0]
  pair := 0
  tiles := 1
  perDie := 1
  slots := [0]
  place := [(0, t0)]
  moved := []
  rho := 28
  density := 0
  satThr := 0
  flushThr := 0
  ratio := 0
  variants := []
  disabled := 0
  left := []
  tries := []
  replacing := none
  keys := []
  heads := []
  sigSkipped := false
  seats := 0
  since := 0
  total := 0
  endedSeqs := 0
  refetch := []

/-- Context 0 is there, its tile belongs to it, and the record of slot 0 has `res` frames reserved. -/
def sX (q : Nat) (d : Desc) (res : Nat) : State :=
  setWalker (setCtx (tset (sC q d id) t0 R.TILE_STAT_CTX_VALID 1) 0 (some cx0)) 0 (rangeNo 0 0)
    (some { freshWRec res with grant := 4 })
def at0 : KvAt := ⟨0, cx0, rangeNo 0 0, kvPlanOf cx0 0⟩

/-- An append of `n` positions from position 0 of head 0. -/
def dApp (n : Nat) : Desc := dsc 0x60 0 (n * 2 ^ 48) 1 (2 ^ 17 + 2) 3 0 0
def dLen : Desc := dsc 0x61 0 0 0 0 0 0 0
def dFree : Desc := dsc 0x62 0 0 0 0 0 0 0

/-- The same, with a frame of the range on its way to the pool. -/
def sXw : State :=
  queueReturn (sX 5 (dApp 1) 0) 0 ⟨7, 0, some (rangeNo 0 0), none⟩

theorem meets_O26 :
    (∀ n ∈ [0, 1], Canonical (sX 5 (dApp n) 1) ∧ HeadStarts (sX 5 (dApp n) 1) t0 5 0x60 (qc (dApp n)) []
      ∧ firstBroken (appendFirst (takeHead (sX 5 (dApp n) 1) t0 5 []) t0 (dApp n)) = none
      ∧ kvAt (takeHead (sX 5 (dApp n) 1) t0 5 []) t0 0 0 = some at0 ∧ (appendOps (dApp n)).count = n)
    ∧ (firstBroken (appendSecond { freshWRec 1 with grant := 4 } at0.plan (appendOps (dApp 1))) = none
      ∧ waitsRound (takeHead (sX 5 (dApp 1) 1) t0 5 []) 0 at0.x.rho at0.n at0.plan (maskHeads 1) 0 1 = false)
    ∧ (Canonical sXw ∧ HeadStarts sXw t0 5 0x60 (qc (dApp 1)) []
      ∧ firstBroken (appendFirst (takeHead sXw t0 5 []) t0 (dApp 1)) = none
      ∧ kvAt (takeHead sXw t0 5 []) t0 0 0 = some at0
      ∧ waitsRound (appendCut (takeHead sXw t0 5 []) 0 at0 { freshWRec 0 with grant := 4 } 0) 0 at0.x.rho at0.n at0.plan
        (maskHeads 1) 0 1 = true)
    ∧ (meets (sX 5 dLen 1) 5 0x61 dLen fun v => setlenChecks v t0 dLen)
    ∧ kvAt (takeHead (sX 5 dLen 1) t0 5 []) t0 0 0 = some at0
    ∧ (meets (sX 5 dFree 1) 5 0x62 dFree fun v => kvFreeChecks v t0 dFree)
    ∧ kvAt (takeHead (sX 5 dFree 1) t0 5 []) t0 0 0 = some at0
    ∧ rangeInTransfer (takeHead (sX 5 dFree 1) t0 5 []) 0 at0.x.rho at0.n = false
    ∧ (transAll t0 true reqWalker (appendAddrs (takeHead (sX 5 (dApp 1) 1) t0 5 []) 0 at0 (appendOps (dApp 1)) 0)
        (takeHead (sX 5 (dApp 1) 1) t0 5 [])).1 = ⟨none, []⟩ := by
  refine ⟨fun n hn => ⟨canonical_of_check ?_, heads_of ?_, ?_⟩, ?_, ⟨canonical_of_check ?_, heads_of ?_, ?_⟩,
    ⟨canonical_of_check ?_, heads_of ?_, passes_of ?_⟩, ?_, ⟨canonical_of_check ?_, heads_of ?_, passes_of ?_⟩, ?_⟩
  all_goals first | decide +kernel | (revert n hn; decide +kernel)

/-- The slot holds 17 positions, whose value pages lie in the remote pool; a command that asks for the first. -/
def vp0 : Nat := planeVpn at0.x.rho at0.n at0.plan .ve 0 0
def sAway (d : Desc) : State :=
  setWalker (withPage (sX 5 d 1) vp0 remoteE) 0 at0.n (some { freshWRec 1 with grant := 4, len := 17 })
def dLen1 : Desc := dsc 0x61 0 0 1 0 0 0 0
/-- The same, with a page of the range on its way to the pool. -/
def sOut : State := modDie (sX 5 dFree 1) 0 fun x => { x with
  pageOuts := [⟨BitVec.ofNat 32 vp0, 7, 0, 0, 0, [], false⟩] }

theorem meets_O26_away :
    (Canonical (sAway (dApp 1)) ∧ HeadStarts (sAway (dApp 1)) t0 5 0x60 (qc (dApp 1)) []
      ∧ firstBroken (appendFirst (takeHead (sAway (dApp 1)) t0 5 []) t0 (dApp 1)) = none
      ∧ kvAt (takeHead (sAway (dApp 1)) t0 5 []) t0 0 0 = some at0
      ∧ firstBroken (appendSecond { freshWRec 1 with grant := 4, len := 17 } at0.plan (appendOps (dApp 1))) = none
      ∧ (transAll t0 true reqWalker (appendAddrs (takeHead (sAway (dApp 1)) t0 5 []) 0 at0 (appendOps (dApp 1)) 17)
          (takeHead (sAway (dApp 1)) t0 5 [])).1 = ⟨none, [(3, vp0)]⟩)
    ∧ ((meets (sAway dLen1) 5 0x61 dLen1 fun v => setlenChecks v t0 dLen1)
      ∧ kvAt (takeHead (sAway dLen1) t0 5 []) t0 0 0 = some at0
      ∧ clampLen { freshWRec 1 with grant := 4, len := 17 } (dbits dLen1.w2 0 21) % 16 ≠ 0
      ∧ (transAll t0 true reqWalker (((tailVpn at0.x.rho at0.n at0.plan :: valuePages at0.x.rho at0.n at0.plan
            (clampLen { freshWRec 1 with grant := 4, len := 17 } (dbits dLen1.w2 0 21) - 1)).filter
            fun p => pteV (l2Of (takeHead (sAway dLen1) t0 5 []) 0 p)).map (· * frameBytes))
          (takeHead (sAway dLen1) t0 5 [])).1 = ⟨none, [(3, vp0)]⟩)
    ∧ ((meets sOut 5 0x62 dFree fun v => kvFreeChecks v t0 dFree)
      ∧ kvAt (takeHead sOut t0 5 []) t0 0 0 = some at0
      ∧ rangeInTransfer (takeHead sOut t0 5 []) 0 at0.x.rho at0.n = true) := by
  refine ⟨⟨canonical_of_check ?_, heads_of ?_, ?_⟩, ⟨⟨canonical_of_check ?_, heads_of ?_, passes_of ?_⟩, ?_⟩,
    ⟨canonical_of_check ?_, heads_of ?_, passes_of ?_⟩, ?_⟩
  all_goals decide +kernel

/-- A command in flight that names counter `n` of its tile, and two more that name none. -/
def flying (cref : Nat) : InFlight := ⟨0, 0x11, 0, BitVec.ofNat 32 cref, 1, [t0], 0, 0, 0, [], none, none, 0⟩
def sF : State := sT fun ts => { ts with inflight := [flying 0, flying 0x80000005] }

theorem meets_O27 : Canonical sF
    ∧ ((tileOf sF t0).inflight[0]? = some (flying 0) ∧ (crefOf (flying 0).cref.toNat).v = false
      ∧ (flying 0).members = [] ∧ (crefOf (flying 0).src.toNat).v = false ∧ (flying 0).held = none
      ∧ (flying 0).left = 0 ∧ waving sF t0 = true)
    ∧ ((tileOf sF t0).inflight[1]? = some (flying 0x80000005) ∧ (flying 0x80000005).homes = [t0]
      ∧ (crefOf (flying 0x80000005).cref.toNat).v = true) :=
  ⟨canonical_of_check (by decide +kernel), by decide +kernel⟩

/-- For each row of O28 a descriptor with a reserved bit of word 0 set. -/
def dBad (op : Nat) : Desc := ⟨BitVec.ofNat 64 (op * 2 ^ 56 + 2 ^ 32), 0, 0, 0, 0, 0, 0, 0⟩

theorem meets_O28 :
    ∀ x ∈ [(0, 0x10, fun v => seedChecks v t0 (dBad 0x10)), (0, 0x11, fun v => openChecks v t0 (dBad 0x11)),
      (0, 0x13, fun v => drainChecks v t0 (dBad 0x13)), (3, 0x40, fun v => tgCfgChecks v t0 (dBad 0x40)),
      (3, 0x41, fun v => tgRunChecks v t0 (dBad 0x41)), (3, 0x42, fun v => tgFreeChecks v t0 (dBad 0x42)),
      (4, 0x50, fun v => moveChecks v t0 (dBad 0x50)), (4, 0x51, fun v => fillChecks v t0 (dBad 0x51)),
      (4, 0x52, fun v => copyChecks v t0 (dBad 0x52)), (5, 0x60, fun v => appendFirst v t0 (dBad 0x60)),
      (5, 0x61, fun v => setlenChecks v t0 (dBad 0x61)), (5, 0x62, fun v => kvFreeChecks v t0 (dBad 0x62)),
      (0, 0x12, fun v => streamChecks v t0 (dBad 0x12))],
    Canonical (sC x.1 (dBad x.2.1) id) ∧ HeadStarts (sC x.1 (dBad x.2.1) id) t0 x.1 x.2.1 (qc (dBad x.2.1)) []
      ∧ firstBroken (x.2.2 (takeHead (sC x.1 (dBad x.2.1) id) t0 x.1 [])) = some (reasonReserved, 0) := by
  intro x hx
  simp only [List.mem_cons, List.not_mem_nil, or_false] at hx
  rcases hx with rfl | rfl | rfl | rfl | rfl | rfl | rfl | rfl | rfl | rfl | rfl | rfl | rfl
  all_goals exact ⟨canonical_of_check (by decide +kernel), heads_of (by decide +kernel), by decide +kernel⟩

theorem meets_O28_vector :
    ∀ x ∈ [(1, 0x20, fun v => mapChecks v t0 (dBad 0x20)),
      (2, 0x21, fun v => redChecks v t0 (dBad 0x21)), (1, 0x22, fun v => normChecks v t0 (dBad 0x22)),
      (2, 0x23, fun v => ropeChecks v t0 (dBad 0x23)), (1, 0x24, fun v => smaxChecks v t0 (dBad 0x24)),
      (2, 0x25, fun v => quantChecks v t0 (dBad 0x25))],
    Canonical (sC x.1 (dBad x.2.1) id) ∧ HeadStarts (sC x.1 (dBad x.2.1) id) t0 x.1 x.2.1 (qc (dBad x.2.1)) []
      ∧ firstBroken (x.2.2 (takeHead (sC x.1 (dBad x.2.1) id) t0 x.1 [])) = some (2, 2) := by
  intro x hx
  simp only [List.mem_cons, List.not_mem_nil, or_false] at hx
  rcases hx with rfl | rfl | rfl | rfl | rfl | rfl
  all_goals exact ⟨canonical_of_check (by decide +kernel), heads_of (by decide +kernel), by decide +kernel⟩

/-- An append at position 1 of an empty slot. -/
def dSkip : Desc := dsc 0x60 0 (2 ^ 48 + 2 ^ 28) 1 (2 ^ 17 + 2) 3 0 0

theorem meets_O28_second : Canonical (sX 5 dSkip 1) ∧ HeadStarts (sX 5 dSkip 1) t0 5 0x60 (qc dSkip) []
    ∧ firstBroken (appendFirst (takeHead (sX 5 dSkip 1) t0 5 []) t0 dSkip) = none
    ∧ kvAt (takeHead (sX 5 dSkip 1) t0 5 []) t0 (appendOps dSkip).slot (appendOps dSkip).layer = some at0
    ∧ (appendOps dSkip).count = 1 ∧ firstBroken (appendSecond
      ((walkerOf (takeHead (sX 5 dSkip 1) t0 5 []) 0 at0.n).getD (freshWRec 0)) at0.plan (appendOps dSkip))
      = some (reasonRange, 1) :=
  ⟨canonical_of_check (by decide +kernel), heads_of (by decide +kernel), by decide +kernel⟩

/-! ### Buffers, fences, lanes and barriers -/

/-- The site converters deliver the die inputs. -/
def powered (s : State) : State := modPlane s fun p => { p with powered := true }
/-- Tile 0 of die 0 is powered and runs. -/
def sP (f : TileState → TileState) : State := powered (sT f)

theorem meets_O29 : (let s := sP fun ts => { ts with writeBacks := [(98303, 31)] }
      Canonical s ∧ ((98303 : BitVec 17).toNat, (31 : BitVec 5).toNat) ∈ (tileOf s t0).writeBacks)
    ∧ (Canonical (sP id) ∧ railOn (sP id) t0 = true ∧ (98303 : BitVec 17).toNat < 98304)
    ∧ (let s := sP fun ts => { ts with bufNotices := [(0, 0)] }
      Canonical s ∧ (tileOf s t0).bufNotices = ((0 : BitVec 17).toNat, (0 : BitVec 5).toNat) :: []) :=
  ⟨⟨canonical_of_check (by decide +kernel), by decide +kernel⟩, ⟨canonical_of_check (by decide +kernel), by decide +kernel⟩,
    canonical_of_check (by decide +kernel), by decide +kernel⟩

/-- 2^16 waves have passed since the last rotation, and core `u` alone was used. -/
def sWaves (u : BitVec 2) : State := sT fun ts => { ts with waves := 2 ^ 16, newtUse := u }

theorem meets_O30 : ∀ u ∈ [(0 : BitVec 2), 1, 2, 3], Canonical (sWaves u)
    ∧ 2 ^ 16 ≤ (wavesNow (sWaves u) t0).toNat - (tileOf (sWaves u) t0).quadWave.toNat
    ∧ anyOpen (tileOf (sWaves u) t0) = false
    ∧ 2 ^ 16 ≤ (wavesNow (sWaves u) t0).toNat - (tileOf (sWaves u) t0).newtWave.toNat
    ∧ tget (sWaves u) t0 R.TILE_STAT_NEWT_FENCE = 0 ∧ inFlightOf (tileOf (sWaves u) t0) 1 = []
    ∧ inFlightOf (tileOf (sWaves u) t0) 2 = [] := by
  intro u hu
  refine ⟨canonical_of_check ?_, ?_⟩ <;> revert u hu <;> decide +kernel

/-- A TG.RUN in flight over region 1. -/
def gridRun : InFlight := ⟨3, 0x41, 0, 0, 0, [], 0, 0, 1, [], none, none, 0⟩
def sGrid : State := sP fun ts => { withRegion ts with inflight := [gridRun] }
def sPend : State := sP fun ts => { ts with fencePend := some .phases }

theorem meets_O31 :
    (Canonical sGrid ∧ roleOf sGrid t0 ≠ roleDark ∧ gridRun ∈ (tileOf sGrid t0).inflight ∧ gridRun.queue.val = 3
      ∧ gridRun.op = 0x41 ∧ regionOf (tileOf sGrid t0) gridRun.grp = some ⟨0, 0, 1, 1, 1⟩
      ∧ rectHas ⟨0, 0, 1, 1, 1⟩ (logicalCore (tileOf sGrid t0).gridOrient 0 0).1
        (logicalCore (tileOf sGrid t0).gridOrient 0 0).2 = true)
    ∧ (Canonical sPend ∧ roleOf sPend t0 ≠ roleDark ∧ (tileOf sPend t0).fencePend = some .phases)
    ∧ (Canonical (sP id) ∧ roleOf (sP id) t0 ≠ roleDark ∧ tget (sP id) t0 R.MITTEN_TILE_RAIL ≠ 3
      ∧ (sP id).plane.powered = true ∧ (sP id).plane.cpHeld = false ∧ pget (sP id) R.RS_STAT_STATE < 2) :=
  ⟨⟨canonical_of_check (by decide +kernel), by decide +kernel⟩, ⟨canonical_of_check (by decide +kernel), by decide +kernel⟩,
    canonical_of_check (by decide +kernel), by decide +kernel⟩

/-- Context 0, as `f` changes it, serves on die 0. -/
def serving (f : Context → Context) (s : State) : State :=
  setCtxState (setCtx (tset (powered s) t0 R.TILE_STAT_CTX_VALID 1) 0 (some (f cx0))) 0 2
def sV (f : Context → Context) (g : State → State) : State := serving f (g (sT id))

/-- It uses one draft-model tile. -/
def drafts (x : Context) : Context := { x with caps := { x.caps with draftLayers := 1, optional := 4 }, seats := 3 }

theorem meets_O32 :
    (let s := sV drafts (setLane · 0 (some ⟨0, [t0], 3, [], false⟩));
      Canonical s ∧ laneOf s 0 = some ⟨0, [t0], 3, [], false⟩ ∧ [t0].contains t0 = true ∧ roleOf s t0 ≠ roleLane)
    ∧ (let s := sV drafts (fun s => tset s t1 R.TILE_STAT_ROLE roleSpare)
      Canonical s ∧ ctxServing s 0 = true ∧ ctxOf s 0 = some (drafts cx0) ∧ usesDraft (drafts cx0) = true
        ∧ (drafts cx0).caps.draftLayers.toNat ≤ (freeSpares s (drafts cx0)).length ∧ freeLaneNo s = some 0) :=
  ⟨⟨canonical_of_check (by decide +kernel), by decide +kernel⟩, canonical_of_check (by decide +kernel), by decide +kernel⟩

/-- Group 7 at layer 0 of context 0. -/
def grp0 (bubble inside : Bool) : WGroup := ⟨7, 0, false, false, bubble, [], 0, inside, false, false, false, 0, [], []⟩
def withGroup (g : WGroup) (s : State) : State := modServing s fun v => { v with groups := [g] }
/-- The layer has a second tile. -/
def twoTiles (x : Context) : Context := { x with place := [(0, t0), (1, t1)] }

/-- There is a second layer. -/
def twoLayers (x : Context) : Context :=
  { x with caps := { x.caps with layers := 2 }, perDie := 2, place := [(0, t0), (64, t1)] }
/-- A group that has left the layer group and whose projection work waits there. -/
def gProj : WGroup := { grp0 false false with layer := 1, proj := [(0, 0)] }

theorem meets_O33 :
    (∀ b ∈ [false, true], let s := sV id (withGroup (grp0 b false))
      Canonical s ∧ ctxOf s 0 = some cx0 ∧ 0 < ctxLayers cx0 ∧ admissionOpen s 0 = true ∧ unitClosed cx0 0 = false
        ∧ layerBusy s 0 0 = false ∧ sliceIn s (layerTiles cx0 0) = false
        ∧ bestGroup (waitingAt s 0 cx0 0) = some (grp0 b false) ∧ canEnter s 0 cx0 0 (grp0 b false) = true)
    ∧ (let s := sV id (withGroup gProj)
      Canonical s ∧ ctxOf s 0 = some cx0 ∧ 0 < ctxLayers cx0 ∧ admissionOpen s 0 = true ∧ unitClosed cx0 0 = false
        ∧ layerBusy s 0 0 = false ∧ sliceIn s (layerTiles cx0 0) = false
        ∧ bestGroup (waitingAt s 0 cx0 0) = some gProj ∧ canEnter s 0 cx0 0 gProj = false)
    ∧ (let s := sV id (withGroup (grp0 true true))
      Canonical s ∧ ctxOf s 0 = some cx0
        ∧ s.serving.groups.find? (fun g => g.bubble && g.ctx = 0 && g.inside && g.layer = 0) = some (grp0 true true)
        ∧ ctxLayers cx0 ≤ 0 + 1 ∧ 0 + 1 < ctxLayers (twoLayers cx0))
    ∧ (let s := { sV id (withGroup (grp0 false true)) with ctrl := [.admitted t0 7 0] }
      Canonical s ∧ (arrived s.ctrl).find? (admitTo t0) = some (.admitted t0 7 0)
        ∧ s.serving.groups.find? (fun g => g.id = 7) = some (grp0 false true) ∧ railOn s t0 = true)
    ∧ (let s := sV twoTiles (fun s => withGroup (grp0 false true) (modTile s t0 fun ts => { ts with gdone := some (0, 0) }))
      Canonical s ∧ (tileOf s t0).gdone = some (0, 0) ∧ groupAt s t0 = some (grp0 false true)
        ∧ gdoneReady s t0 0 0 = true ∧ noticePending s t0 = false ∧ (grp0 false true).bubble = false
        ∧ (layerTiles (twoTiles cx0) 0).all (([] : List Tid) ++ [t0]).contains = false)
    ∧ (let s := sV twoLayers (fun s => withGroup (grp0 false true) (modTile s t0 fun ts => { ts with gdone := some (0, 0) }))
      Canonical s ∧ ctxOf s 0 = some (twoLayers cx0) ∧ (tileOf s t0).gdone = some (0, 0)
        ∧ groupAt s t0 = some (grp0 false true) ∧ gdoneReady s t0 0 0 = true ∧ noticePending s t0 = false
        ∧ (layerTiles (twoLayers cx0) 0).all (([] : List Tid) ++ [t0]).contains = true
        ∧ 0 + 1 < ctxLayers (twoLayers cx0) ∧ (grp0 false true).prefill = false) := by
  refine ⟨?_, ⟨canonical_of_check ?_, ?_⟩, ⟨canonical_of_check ?_, ?_⟩, ⟨canonical_of_check ?_, ?_⟩, ⟨canonical_of_check ?_, ?_⟩, canonical_of_check ?_, ?_⟩
  · intro b hb
    refine ⟨canonical_of_check ?_, ?_⟩ <;> revert b hb <;> decide +kernel
  all_goals decide +kernel

/-- A message in the control channel. -/
def sM (m : CtrlMsg) : State := { sP id with ctrl := [m] }

theorem meets_O34 :
    (Canonical (sM (.signal t1 t0 239 1 0)) ∧ railOn (sM (.signal t1 t0 239 1 0)) t0 = true
      ∧ (arrived (sM (.signal t1 t0 239 1 0)).ctrl).find? (signalFrom t1 t0) = some (.signal t1 t0 239 1 0))
    ∧ (∀ o ∈ [Order.paceTarget 15, .paceCut 0, .fence, .testSlice, .reset, .invalidate 0],
      Canonical (sM (.order t0 o)) ∧ railOn (sM (.order t0 o)) t0 = true
        ∧ (arrived (sM (.order t0 o)).ctrl).find? (orderTo t0) = some (.order t0 o))
    ∧ Canonical (sM (.report t0 .breach)) ∧ (arrived (sM (.report t0 .breach)).ctrl).find? (reportFrom t0) = some (.report t0 .breach) := by
  refine ⟨⟨canonical_of_check (by decide +kernel), by decide +kernel⟩, ?_, canonical_of_check (by decide +kernel), by decide +kernel⟩
  intro o ho
  refine ⟨canonical_of_check ?_, ?_⟩ <;> revert o ho <;> decide +kernel

/-! ### Crossings, pace, windows and the timebase -/

/-- The crossing from tile 1 to tile 0 of die 0, as tile 0 holds it, and what tile 1 holds for it. -/
def sCr (c : Crossing) (l : List (Nat × Nat × Packet)) : State :=
  setCrossing (modTile (sP id) t1 fun ts => { ts with staging := l }) t0 .e c
def pk : Packet := ⟨some t1, 0, 7, [widx t0], none, List.replicate 256 5⟩
/-- A line that goes on from tile 0 to tile 4, south of it. -/
def pkOn : Packet := { pk with via := [widx t0, widx ⟨0, 6⟩] }
def noCr : Crossing := ⟨[], [], false, none, none⟩
/-- A slice loops the crossing. -/
def sLoop : State := modTile (sCr noCr [(dirNum .w, 4, pk)]) t0 fun ts => { ts with slice := some ⟨⟨3, 1⟩, 0, false⟩ }

theorem meets_O35 :
    (∀ c ∈ [noCr, ⟨List.replicate 7 pk, List.replicate 8 (0, pk), true, some 0, none⟩,
        ⟨List.replicate 16 pk, [], false, none, none⟩, ⟨[], List.replicate 16 (0, pk), false, none, none⟩,
        ⟨[], [(0, pkOn)], false, none, none⟩],
      Canonical (sCr c [(dirNum .w, 4, pk)]) ∧ crossingOf (sCr c [(dirNum .w, 4, pk)]) t0 .e = c)
    ∧ neighbour t1 .w = some t0 ∧ neighbour t0 (dirOpp .w) = some t1
    ∧ dieOn (sCr noCr []) t0.d.val = true ∧ dieOn (sCr noCr []) t1.d.val = true
    ∧ nextPort [(dirNum .w, 4, pk)] .w 4 = some 4 ∧ takeStaged [(dirNum .w, 4, pk)] .w 4 = some (pk, [])
    ∧ looped (sCr noCr [(dirNum .w, 4, pk)]) t0 (dirOpp .w) = false
    ∧ (Canonical sLoop ∧ looped sLoop t0 (dirOpp .w) = true ∧ (crossingOf sLoop t0 (dirOpp .w)).held = none)
    ∧ (stagingRoom (tileOf (sCr noCr []) t0) = true ∧ aheadOf t0 pk.via = [] ∧ railOn (sCr noCr []) t0 = true
      ∧ (aheadOf t0 pkOn.via).head? = some (widx ⟨0, 6⟩) ∧ (dirTo t0 (widx ⟨0, 6⟩)).isSome = true)
    ∧ (neighbour ⟨2, 0⟩ .n = none ∧ (edgeDie ⟨2, 0⟩ .n).isSome = true ∧ dieOn (sCr noCr []) 2 = true
      ∧ looped (sCr noCr []) ⟨2, 0⟩ .n = false ∧ (crossingOf (sCr noCr []) ⟨2, 0⟩ .n).flight.length = 0)
    ∧ (let s := modDie (sP id) 55 fun x => { x with skids := [(0, fieldOf (sP id) F.MESH_SKID_LOG + 1)] }
      Canonical s ∧ fieldOf s F.MESH_SKID_LOG < (dieOf s 55).skids.foldl (fun a e => a + e.2) 0) := by
  refine ⟨?_, ?_, ?_, ?_, ?_, ?_, ?_, ?_, ⟨canonical_of_check ?_, ?_⟩, ?_, ?_, canonical_of_check ?_, ?_⟩
  · intro c hc
    refine ⟨canonical_of_check ?_, ?_⟩ <;> revert c hc <;> decide +kernel
  all_goals decide +kernel

/-- Tile 0 runs at step 4, with target step `n`. -/
def sStep (n : Nat) (f : TileState → TileState) : State :=
  tset (tset (sP f) t0 R.PACE_STEP_EFFECTIVE 4) t0 R.PACE_STEP_TARGET n

theorem meets_O36 :
    (Canonical (sStep 0 id) ∧ railOn (sStep 0 id) t0 = true ∧ roleOf (sStep 0 id) t0 ≠ roleSpare
      ∧ wantedStep (sStep 0 id) t0 < effStep (sStep 0 id) t0 ∧ groupAt (sStep 0 id) t0 = none)
    ∧ (Canonical (sStep 5 id) ∧ railOn (sStep 5 id) t0 = true ∧ roleOf (sStep 5 id) t0 ≠ roleSpare
      ∧ effStep (sStep 5 id) t0 < wantedStep (sStep 5 id) t0 ∧ (tileOf (sStep 5 id) t0).raise = none)
    ∧ (let s := sStep 5 fun ts => { ts with raise := some 5, settled := true }
      Canonical s ∧ railOn s t0 = true ∧ roleOf s t0 ≠ roleSpare ∧ effStep s t0 < wantedStep s t0
        ∧ (tileOf s t0).raise = some 5 ∧ (tileOf s t0).settled = true ∧ (tileOf s t0).stretch = false
        ∧ groupAt s t0 = none)
    ∧ (let s := sStep 5 fun ts => { ts with raise := some 5, settled := false }
      Canonical s ∧ (tileOf s t0).raise.isSome = true ∧ (tileOf s t0).settled = false ∧ (tileOf s t0).stretch = false)
    ∧ (Canonical (sP id) ∧ railOn (sP id) t0 = true ∧ (tileOf (sP id) t0).stretch = false)
    ∧ (let s := sP fun ts => { ts with stretch := true }
      Canonical s ∧ (tileOf s t0).stretch = true) :=
  ⟨⟨canonical_of_check (by decide +kernel), by decide +kernel⟩, ⟨canonical_of_check (by decide +kernel), by decide +kernel⟩,
    ⟨canonical_of_check (by decide +kernel), by decide +kernel⟩, ⟨canonical_of_check (by decide +kernel), by decide +kernel⟩,
    ⟨canonical_of_check (by decide +kernel), by decide +kernel⟩, canonical_of_check (by decide +kernel), by decide +kernel⟩

/-- Tile 0 alone of die 0 is no spare. -/
def sOnly : State := forEach (List.range 23) (sP id) fun s i => tset s ⟨0, tileNo (i + 1)⟩ R.TILE_STAT_ROLE roleSpare
/-- The die's budget is as large as the leakage of tile 0 at step `k`, whatever that is. -/
def sLeak (k : Nat) : State := { sOnly with fields := [(F.PW_DIE_CONT_W, Config.leak 0 0 k + 1000)] }

theorem canonical_fields {s : State} {l : List (Nat × Nat)} (h : Canonical s) (hl : kwf fieldDefault l = true) :
    Canonical { s with fields := l } := { h with fields := hl }

theorem canonical_sLeak (k : Nat) : Canonical (sLeak k) := by
  refine canonical_fields (s := sOnly) (canonical_of_check (by decide +kernel)) ?_
  have hd : fieldDefault F.PW_DIE_CONT_W = 420 := by decide +kernel
  simp only [kwf, kabove, hd]
  simp

theorem fits_sLeak (k : Nat) : sumPower 0 [(0, 0, k)] ≤ ((fieldOf (sLeak k) F.PW_DIE_CONT_W : Int) : Rat) := by
  have hf : fieldOf (sLeak k) F.PW_DIE_CONT_W = Config.leak 0 0 k + 1000 := by
    simp [fieldOf, sLeak, kget]
  have hs : sumPower 0 [(0, 0, k)] = (Config.leak 0 0 k : Rat) / 1000 := by
    simp only [sumPower, tilePower, List.foldl_cons, List.foldl_nil]
    grind
  rw [hf, hs]
  generalize Config.leak 0 0 k = n
  have h0 : (0 : Rat) ≤ (n : Rat) := by exact_mod_cast Nat.zero_le n
  have h1 : (((n + 1000 : Nat) : Int) : Rat) = (n : Rat) + 1000 := by
    rw [Rat.intCast_natCast, Rat.natCast_add]
    rfl
  rw [h1]
  grind

/-- A storm window of 100 blocks in progress, of which `f` fell back. -/
def sWin (f : Nat) : State := sP fun ts => { ts with winBlocks := 100, winFalls := f }
def capOfRow (l : List CaptureRow) : Capture := ⟨[], 0x3F800000, 0x3F800000, 0, 0, l, []⟩
def sCap (l : List CaptureRow) : State := sP fun ts => { ts with capture := some (capOfRow l) }

/-- A check whose weights lie in page 0 of the stack, which no table maps. -/
def capFar : Capture := ⟨[⟨0, 0, true, false, 16, 0, []⟩], 0x3F800000, 0x3F800000, 0, 0, [⟨0, 0, 0x3F800000, 0⟩], []⟩
def sFar : State := inCtx (sP fun ts => { ts with capture := some capFar })

/-- Every clause, but that the first one's target is a step whose temperature is free: tile 0 is idle there. -/
theorem meets_O37 :
    (Canonical (sLeak 4) ∧ dieOn (sLeak 4) 0 = true ∧ dieUp (sLeak 4) 0 = true
      ∧ ((List.range 24).filter fun i => railOn (sLeak 4) ⟨0, tileNo i⟩
        && (roleOf (sLeak 4) ⟨0, tileNo i⟩ = roleActive || roleOf (sLeak 4) ⟨0, tileNo i⟩ = roleLane)) = [0]
      ∧ tileEnergy (sLeak 4) t0 = 0 ∧ 4 = min (fieldOf (sLeak 4) F.TH_IDLE_STEP) (capOf (sLeak 4) t0)
      ∧ sumPower 0 [(0, 0, 4)] ≤ ((fieldOf (sLeak 4) F.PW_DIE_CONT_W : Int) : Rat))
    ∧ (Canonical (sWin 100) ∧ railOn (sWin 100) t0 = true ∧ 0 < (tileOf (sWin 100) t0).winBlocks
      ∧ fieldOf (sWin 100) F.QC_STORM_PERCENT * (tileOf (sWin 100) t0).winBlocks < 100 * (tileOf (sWin 100) t0).winFalls
      ∧ (tileOf (sWin 100) t0).winPercent = none ∧ dget (sWin 100) 0 R.QC_DIE_STAT_STORM = 0)
    ∧ (Canonical (sWin 0) ∧ railOn (sWin 0) t0 = true ∧ 0 < (tileOf (sWin 0) t0).winBlocks
      ∧ 100 * (tileOf (sWin 0) t0).winFalls ≤ fieldOf (sWin 0) F.QC_STORM_PERCENT * (tileOf (sWin 0) t0).winBlocks
      ∧ (tileOf (sWin 0) t0).winPercent = none ∧ (tileOf (sWin 0) t0).inEpisode = false)
    ∧ (Canonical (sCap []) ∧ (tileOf (sCap []) t0).capture = some (capOfRow [])
      ∧ (transAll t0 false reqCheck (checkAddrs (capOfRow [])) (sCap [])).1 = ⟨none, []⟩
      ∧ firstBreach (sCap []) t0 (capOfRow []) = none)
    ∧ (Canonical (sCap [⟨0, 0, 0x3F800000, 0⟩])
      ∧ (tileOf (sCap [⟨0, 0, 0x3F800000, 0⟩]) t0).capture = some (capOfRow [⟨0, 0, 0x3F800000, 0⟩])
      ∧ firstBreach (sCap [⟨0, 0, 0x3F800000, 0⟩]) t0 (capOfRow [⟨0, 0, 0x3F800000, 0⟩])
        = some (0, ⟨0, 0, 0x3F800000, 0⟩, 0))
    ∧ (Canonical sFar ∧ (tileOf sFar t0).capture = some capFar)
    ∧ (Canonical (withPage sFar 0 remoteE) ∧ (tileOf (withPage sFar 0 remoteE) t0).capture = some capFar)
    ∧ (transAll t0 false reqCheck (checkAddrs capFar) sFar).1 = ⟨some (1, 0), []⟩
    ∧ (transAll t0 false reqCheck (checkAddrs capFar) (withPage sFar 0 remoteE)).1 = ⟨none, [(3, 0)]⟩ :=
  ⟨⟨canonical_sLeak 4, by decide +kernel, by decide +kernel, by decide +kernel, by decide +kernel, by decide +kernel,
      fits_sLeak 4⟩,
    ⟨canonical_of_check (by decide +kernel), by decide +kernel⟩, ⟨canonical_of_check (by decide +kernel), by decide +kernel⟩,
    ⟨canonical_of_check (by decide +kernel), by decide +kernel⟩, ⟨canonical_of_check (by decide +kernel), by decide +kernel⟩,
    ⟨canonical_of_check (by decide +kernel), by decide +kernel⟩, ⟨canonical_of_check (by decide +kernel), by decide +kernel⟩,
    by decide +kernel, by decide +kernel⟩

def sLock (v : Nat) : State := modTime (pset State.reset R.TB_STAT_LOCKED v) fun x => { x with lossTold := true }

theorem meets_O38 : (Canonical (sLock 1) ∧ unlocked (sLock 1) = false)
    ∧ (Canonical (sLock 0) ∧ unlocked (sLock 0) = true ∧ (sLock 0).time.lossTold = true)
    ∧ Canonical State.reset ∧ State.reset.plane.primary = false ∧ State.reset.plane.standbyOk = true :=
  ⟨⟨canonical_of_check (by decide +kernel), by decide +kernel⟩, ⟨canonical_of_check (by decide +kernel), by decide +kernel⟩,
    canonical_of_check (by decide +kernel), by decide +kernel⟩

theorem meets_O39 : let s := modDie (sP id) 55 fun x => { x with swap := some (23, 9) }
    Canonical s ∧ dieUp s 55 = true ∧ (49151 : BitVec 16).toNat < colFrames ∧ (dieOf s 55).swap = some (23, 9) :=
  ⟨canonical_of_check (by decide +kernel), by decide +kernel⟩

/-! ### Pages, grants and serving -/

/-- Tile 0 of die 0 serves a context; die 0 is changed by `f`. -/
def sD (f : DieState → DieState) : State := modDie (inCtx (sP id)) 0 f
/-- A pool of port die 0, with one remote page of die 0 in it. -/
def withPool (draining : Bool) (s : State) : State :=
  modPort s 0 fun x => { x with
    pools := [(0, some ⟨⟨0, 0, 0, 0, 16⟩, 1, draining, 0⟩)], remote := [(0, some ⟨0, 5, 0⟩)] }
def po (w : List Nat) : PageOut := ⟨5, 0, 0, 0, 0, w, false⟩
def pi_ (n : Nat) : PageIn := ⟨5, 0, 0, 0, n, 2, false, false⟩
/-- The page is written to the pool of port die 0, and comes back from it. -/
def sPo (w : List Nat) : State := withPool false (sD fun x => { x with pageOuts := [po w] })
def sPi (n : Nat) : State := withPool false (sD fun x => { x with pageIns := [pi_ n] })
/-- The remote page's entry, with `n` frames held back. -/
def sDrain (n : Nat) : State := withPool true (withPage (sD fun x => { x with reserve := n }) 5 (mkRemote (mkPte true false 2 0) 0))

theorem meets_O40 :
    (Canonical (sD id) ∧ railOn (sD id) t0 = true ∧ (tileCtx (sD id) t0).isSome = true
      ∧ tlbFind (tileOf (sD id) t0) ((0 : BitVec 48).toNat / frameBytes) = none)
    ∧ (let s := sD fun x => { x with returnQ := [⟨0, 0, none, none⟩] }
      Canonical s ∧ (dieOf s 0).round = none ∧ (dieOf s 0).returnQ ≠ [] ∧ dieTilesOf s 0 ≠ [])
    ∧ (let s := sD fun x => { x with round := some ⟨[], [0, 1]⟩, pageOuts := [po [0, 1]] }
      Canonical s ∧ (dieOf s 0).round = some ⟨[], [0, 1]⟩ ∧ t0.t.val ∈ [0, 1] ∧ ordersPending s t0 = false
        ∧ (∃ i ∈ [0, 1], i ≠ t0.t.val)
        ∧ ∀ e ∈ (dieOf s 0).pageOuts, t0.t.val ∈ e.waiting → ∃ i ∈ e.waiting, i ≠ t0.t.val)
    ∧ (Canonical (sPo [0]) ∧ po [0] ∈ (dieOf (sPo [0]) 0).pageOuts ∧ ordersPending (sPo [0]) t0 = false
      ∧ (dieOf (sPo [0]) 0).round = none)
    ∧ (Canonical (sPo []) ∧ (dieOf (sPo []) 0).pageOuts.find? (fun e => e.vpn = 5) = some (po []))
    ∧ (∀ n ∈ [0, 1, 2], Canonical (sPi n) ∧ (dieOf (sPi n) 0).pageIns.find? (fun e => e.vpn = 5) = some (pi_ n)
      ∧ (n < (pi_ n).limit ∨ (n = 2 ∧ (pi_ n).limit ≤ n)))
    ∧ (Canonical (sDrain (2 ^ 30)) ∧ drainingPool (sDrain (2 ^ 30)) 0 = some 0 ∧ drainBusy (sDrain (2 ^ 30)) 0 0 = false
        ∧ lowestSlot (drainPages (sDrain (2 ^ 30)) 0 0) = some (0, 0, 0, 5) ∧ available (sDrain (2 ^ 30)) 0 = 0
        ∧ (portOf (sDrain (2 ^ 30)) 0).drainWait = false)
    ∧ (Canonical (sDrain 0) ∧ drainingPool (sDrain 0) 0 = some 0 ∧ drainBusy (sDrain 0) 0 0 = false
        ∧ lowestSlot (drainPages (sDrain 0) 0 0) = some (0, 0, 0, 5) ∧ available (sDrain 0) 0 ≠ 0
        ∧ (portOf (sDrain 0) 0).drainWait = false ∧ findRemote (sDrain 0) 0 5 = some (0, 0)
        ∧ (takeFrame (sDrain 0) 0 (cacheRec (sDrain 0) 0 5)).isSome = true
        ∧ ∀ y ∈ (dieOf (sDrain 0) 0).pageIns, y.vpn.toNat ≠ 5)
    ∧ (let s := modPort State.reset 1 fun x => { x with drainWait := true }
      Canonical s ∧ (portOf s 1).drainWait = true ∧ drainingPool s 1 = none) := by
  refine ⟨⟨canonical_of_check ?_, ?_⟩, ⟨canonical_of_check ?_, ?_⟩, ⟨canonical_of_check ?_, ?_⟩, ⟨canonical_of_check ?_, ?_⟩,
    ⟨canonical_of_check ?_, ?_⟩, fun n hn => ⟨canonical_of_check ?_, ?_⟩, ⟨canonical_of_check ?_, ?_⟩,
    ⟨canonical_of_check ?_, ?_⟩, canonical_of_check ?_, ?_⟩
  all_goals first | decide +kernel | (revert n hn; decide +kernel)

/-- A page image whose tag verifies and one whose tag does not, under any key. -/
theorem meets_O40_tags (key : BitVec 128) (iv : BitVec 96) :
    (∃ bytes, gcmOpen key iv [] [] (gcmTag key iv [] []) = some bytes)
    ∧ gcmOpen key iv [] [] (gcmTag key iv [] [] + 1) = none := by
  unfold gcmOpen
  generalize gcmTag key iv [] [] = x
  refine ⟨⟨_, if_pos rfl⟩, if_neg ?_⟩
  bv_omega


/-- A requester at a link-local address. -/
def sess0 : Session := ⟨BitVec.ofNat 128 (0xFE80 * 2 ^ 112 + 1), 2, 0⟩
def samp0 : Sampling := ⟨0, 1, 0, 0, 0, 0, [], [], 0, none⟩
def step0 : SeqStep := ⟨0, 1, [], false, false, false, false, 0, (7, 8, 64)⟩
/-- A sequence of tenant 1, request 9, with a prompt of one token. -/
def sq0 : Seq where
  uid := 0
  tenant := 1
  req := 9
  sess := sess0
  ctx := 0
  cls := 0
  st := .decoding
  back := .decoding
  slot := some 0
  was := none
  keep := false
  kept := false
  noSpec := false
  maxNew := 8
  samp := samp0
  clamped := 0
  base := 0
  prompt := [3]
  gen := []
  recNo := 0
  records := []
  ended := none
  cancelWait := []
  doomed := none
  leaving := false
  drain := false
  step := none
  dLen := 0
  allRej := 0
  offLeft := 0
  seat := none
  draftLen := 0
  catchup := false

def withSeq (q : Seq) (s : State) : State := modServing s fun v => { v with seqs := [q] }
/-- No layer of the context holds a FULL cache. -/
def noFull (x : Context) : Context := { x with image := { x.image with kvplan := [⟨0, 1, 0, 0, 0, 0⟩] } }
def stepped : Seq := { sq0 with step := some step0 }
def sGrant : State := sV noFull (withSeq stepped)
def sPark : State :=
  modDie (sV id (withSeq { stepped with st := .parked })) 0 fun x => { x with parkQ := [⟨0, 7, 0, 0⟩] }

theorem meets_O41 :
    (Canonical sGrant ∧ seqBySlot sGrant 0 = some stepped ∧ ctxOf sGrant 0 = some (noFull cx0) ∧ isLive stepped = true
      ∧ step0.granted = false ∧ stepped.st ≠ .parked ∧ anyJob sGrant 0 = false ∧ seqNow sGrant stepped = some stepped
      ∧ ∀ d ∈ (noFull cx0).dies, fullLayers (noFull cx0) d = [])
    ∧ Canonical sPark ∧ seqBySlot sPark 0 = some { stepped with st := .parked } ∧ ctxOf sPark 0 = some cx0
    ∧ longestPark sPark 0 = some (0, 7) :=
  ⟨⟨canonical_of_check (by decide +kernel), by decide +kernel⟩, canonical_of_check (by decide +kernel), by decide +kernel⟩

/-- Messages: the bytes before the TAG field, the tag under the tenant's key (`d` too large), the body. -/
def ten0 : Tenant := ⟨0, 4, 1, 0, 0, [], 0⟩
def tagged (d : BitVec 128) (hd body : List Byte) : List Byte :=
  hd ++ (leBytes 16 (tagOf ten0.key (hd ++ List.replicate 16 0 ++ body) + d).toNat).reverse ++ body
/-- A head of a type and length for tenant 1, nonce 5 of boot 0, request 9. -/
def head0 (type len : Nat) : List Byte :=
  [0x52, 0x53, 1, BitVec.ofNat 8 type, 0, 1, 0, BitVec.ofNat 8 len, 0, 0, 0, 0, 0, 0, 0, 5, 0, 0, 0, 0, 0, 0, 0, 9]
def msg0 (type : Nat) (body : List Byte) : List Byte := tagged 0 (head0 type (40 + body.length)) body

/-- The same with a bad tag. -/
def badMsg (type : Nat) (body : List Byte) : List Byte := tagged 1 (head0 type (40 + body.length)) body

theorem tag_bytes (x : BitVec 128) : BitVec.ofNat 128 (leNat (leBytes 16 x.toNat)) = x := by
  rw [leNat_leBytes]
  have hb : x.toNat < 2 ^ 128 := x.isLt
  have hm : x.toNat % 256 ^ 16 = x.toNat := Nat.mod_eq_of_lt (by omega)
  rw [hm, BitVec.ofNat_toNat, BitVec.setWidth_eq]

theorem add_eq_self (x d : BitVec 128) : x = x + d ↔ d = 0 := by
  constructor
  · intro h
    have h1 := congrArg (x + d - ·) h
    have h2 : x + d - x = d := by rw [BitVec.add_comm, BitVec.add_sub_cancel]
    rw [← h2, h1, BitVec.sub_self]
    rfl
  · rintro rfl
    exact (BitVec.add_zero x).symm

/-- A message with 16 bytes `m` in its TAG field. -/
theorem untagged_at {hd m body : List Byte} (hl : hd.length = 24) (hm : m.length = 16) :
    untagged (hd ++ m ++ body) = hd ++ List.replicate 16 0 ++ body := by
  have h1 : (hd ++ m ++ body).take 24 = hd := by
    rw [List.append_assoc, List.take_append_of_le_length (by omega), List.take_of_length_le (by omega)]
  have h2 : (hd ++ m ++ body).drop 40 = body := by
    rw [List.drop_append_of_le_length (by simp [hm, hl]), List.drop_of_length_le (by simp [hm, hl]), List.nil_append]
  unfold untagged headBytes
  rw [h1, h2]

theorem beNat_reverse {l : List Byte} : beNat l.reverse = leNat l := by
  unfold beNat
  rw [List.foldl_reverse]
  induction l with
  | nil => rfl
  | cons x r ih => rw [List.foldr_cons, ih, leNat]; omega

theorem tag_at {hd m body : List Byte} (hl : hd.length = 24) (hm : m.length = 16) :
    fieldAt (hd ++ m ++ body) 24 16 = leNat m.reverse := by
  have h3 : ((hd ++ m ++ body).drop 24).take 16 = m := by
    rw [List.append_assoc, List.drop_append_of_le_length (by omega), List.drop_of_length_le (by omega), List.nil_append,
      List.take_append_of_le_length (by omega), List.take_of_length_le (by omega)]
  unfold fieldAt
  rw [h3, ← beNat_reverse, List.reverse_reverse]

theorem tagGood_iff {tn : Tenant} {b : List Byte} :
    tagGood tn b = true ↔ tagOf tn.key (untagged b) = BitVec.ofNat 128 (fieldAt b 24 16) := decide_eq_true_iff

theorem tagGood_tagged {d : BitVec 128} {hd body : List Byte} (hl : hd.length = 24) :
    tagGood ten0 (tagged d hd body) = true ↔ d = 0 := by
  rw [tagGood_iff, tagged, untagged_at hl (by rw [List.length_reverse, leBytes_length]),
    tag_at hl (by rw [List.length_reverse, leBytes_length]), List.reverse_reverse, tag_bytes]
  exact add_eq_self _ d

theorem tagGood_msg0 (type : Nat) (body : List Byte) : tagGood ten0 (msg0 type body) = true := (tagGood_tagged rfl).mpr rfl

theorem tagGood_badMsg (type : Nat) (body : List Byte) : tagGood ten0 (badMsg type body) = false := by
  refine Bool.eq_false_iff.mpr fun h => ?_
  exact absurd ((tagGood_tagged rfl).mp h) (by decide)

/-- The fixed body of a REQUEST to context `c` with no prompt, bias or stop sequence. -/
def body0 (c : Nat) : List Byte := BitVec.ofNat 8 c :: List.replicate 63 0
/-- Both ports carry traffic, and tenant 1 is there. -/
def sMsg (s : State) : State :=
  modStore (setTenant (portSet (portSet s 0 R.PT_STAT_UP 1) 1 R.PT_STAT_UP 1) 1 (some ten0)) fun r => { r with
    grade := { r.grade with ports := 3 } }
def asm0 : Assembly := ⟨sess0, 1, 9, [], 3, [], 0⟩
def withAsm (s : State) : State := modServing s fun v => { v with assembling := [asm0] }
/-- A record that the device holds. -/
def rec0 : TokRec := ⟨0, 0, [3], 0⟩

theorem authentic_of {s : State} {type : Nat} {body : List Byte} (h : (portUp s sess0.port.val
    && decide ((msg0 type body).length ≤ serveMax s sess0.port.val sess0.addr) && decide (msgType (msg0 type body) = type)
    && decide (headBytes ≤ (msg0 type body).length) && decide (fieldAt (msg0 type body) 0 2 = serveMagic)
    && decide (fieldAt (msg0 type body) 2 1 = 1) && decide (tenantOf s (msgTenant (msg0 type body)) = some ten0)
    && decide (msgNonce (msg0 type body) / 2 ^ 32 = s.serving.boot.toNat)
    && nonceOk ten0 (msgNonce (msg0 type body))) = true) : Authentic s sess0 (msg0 type body) type ten0 := by
  simp only [Bool.and_eq_true, decide_eq_true_eq] at h
  obtain ⟨⟨⟨⟨⟨⟨⟨⟨h1, h0⟩, h2⟩, h3⟩, h4⟩, h5⟩, h6⟩, h7⟩, h8⟩ := h
  exact ⟨h1, h0, h2, h3, h4, h5, h6, tagGood_msg0 type body, h7, h8⟩

/-- `Reaches` as a Boolean. -/
def reaches (s : State) (x : Session) : Bool := portUp s x.port.val && (wayTo s x.port.val .serve x.addr).isSome
theorem reaches_of {s : State} {x : Session} (h : reaches s x = true) : Reaches s x := by
  unfold reaches at h
  rwa [Bool.and_eq_true] at h

/-- Port 0 carries packets of 100 bytes at most. -/
def sSmall : State := modPort (sMsg (sV id id)) 0 fun x => { x with cfg := kset fieldDefault x.cfg F.PT_MTU 100 }

theorem meets_O42_long : Canonical sSmall ∧ portUp sSmall 0 = true
    ∧ serveMax sSmall 0 sess0.addr < (badMsg 1 (body0 0)).length ∧ msgType (badMsg 1 (body0 0)) = 1 :=
  ⟨canonical_of_check (by decide +kernel), by decide +kernel⟩

/-- Requests to a context that serves (0) and to one that does not (3); a part; a cancel of a request in assembly and of
an unknown one; a resend. The tag of each message is right, whatever the tenant's key is. -/
theorem meets_O42 :
    (let s := sMsg (sV id id);
      portUp s 0 = true ∧ (badMsg 1 (body0 0)).length ≤ serveMax s 0 sess0.addr ∧ headBytes ≤ (badMsg 1 (body0 0)).length ∧ fieldAt (badMsg 1 (body0 0)) 0 2 = serveMagic
        ∧ msgType (badMsg 1 (body0 0)) = 1 ∧ tenantOf s (msgTenant (badMsg 1 (body0 0))) = some ten0
        ∧ tagGood ten0 (badMsg 1 (body0 0)) = false)
    ∧ (let s := sMsg (sV id id)
      Canonical s ∧ reaches s sess0 = true ∧ (∀ k ∈ [0, 3], Authentic s sess0 (msg0 1 (body0 k)) 1 ten0)
        ∧ seqOf (nonceTaken s (msg0 1 (body0 0)) ten0) 1 9 = none ∧ assemblyOf (nonceTaken s (msg0 1 (body0 0)) ten0) 1 9 = none
        ∧ ∀ k ∈ [0, 3], fieldAt (msg0 1 (body0 k)) 6 2 = (msg0 1 (body0 k)).length
          ∧ fieldAt (msgBody (msg0 1 (body0 k))) 46 2 = 0
          ∧ ∃ r, parseBody (msgBody (msg0 1 (body0 k))) (msgBody (msg0 1 (body0 k))).length = .ok r
            ∧ (k = 0 → refusal (nonceTaken s (msg0 1 (body0 0)) ten0) 1 (acceptNonce ten0 5) r = none)
            ∧ (k = 3 → refusal (nonceTaken s (msg0 1 (body0 3)) ten0) 1 (acceptNonce ten0 5) r = some (1, 3)))
    ∧ (let s := withAsm (sMsg (sV id id))
      Canonical s ∧ Authentic s sess0 (msg0 2 [0, 2, 0, 0]) 2 ten0
        ∧ assemblyOf (nonceTaken s (msg0 2 [0, 2, 0, 0]) ten0) 1 9 = some asm0
        ∧ fieldAt (msgBody (msg0 2 [0, 2, 0, 0])) 0 2 = 2 ∧ nonzeroAt (msgBody (msg0 2 [0, 2, 0, 0])) 2 2 = none
        ∧ (∀ p ∈ asm0.parts, p.1 ≠ 2) ∧ asm0.parts.length + 1 < asm0.count ∧ 2 ≤ asm0.count
        ∧ Authentic s sess0 (msg0 3 []) 3 ten0 ∧ seqOf (nonceTaken s (msg0 3 []) ten0) 1 9 = none
        ∧ assemblyOf (nonceTaken s (msg0 3 []) ten0) 1 9 = some asm0 ∧ reaches s asm0.sess = true)
    ∧ (let s := sMsg (sV id id)
      Authentic s sess0 (msg0 3 []) 3 ten0 ∧ seqOf (nonceTaken s (msg0 3 []) ten0) 1 9 = none
        ∧ assemblyOf (nonceTaken s (msg0 3 []) ten0) 1 9 = none ∧ cancelledBefore (nonceTaken s (msg0 3 []) ten0) 1 9 = false)
    ∧ (let s := sMsg (sV id (withSeq { sq0 with records := [rec0], recNo := 1 }))
      Canonical s ∧ Authentic s sess0 (msg0 4 [0, 0, 0, 0]) 4 ten0
        ∧ seqOf (nonceTaken s (msg0 4 [0, 0, 0, 0]) ten0) 1 9 = some { sq0 with records := [rec0], recNo := 1 }
        ∧ reaches s sq0.sess = true ∧ oldestRecord { sq0 with records := [rec0], recNo := 1 } ≤ 0) := by
  refine ⟨⟨?_, ?_, ?_, ?_, ?_, ?_, tagGood_badMsg _ _⟩, ⟨canonical_of_check ?_, ?_, ?aut, ?_, ?_, ?lay⟩, ⟨canonical_of_check ?_, authentic_of ?_, ?_, ?_, ?_, ?_, ?_, ?_, authentic_of ?_, ?_⟩,
    ⟨authentic_of ?_, ?_⟩, canonical_of_check ?_, authentic_of ?_, ?_⟩
  case aut =>
    intro k hk
    simp only [List.mem_cons, List.not_mem_nil, or_false] at hk
    rcases hk with rfl | rfl <;> exact authentic_of (by decide +kernel)
  case lay =>
    intro k hk
    simp only [List.mem_cons, List.not_mem_nil, or_false] at hk
    rcases hk with rfl | rfl
    · exact ⟨by decide +kernel, by decide +kernel, _, rfl, fun _ => by decide +kernel, fun h => absurd h (by decide)⟩
    · exact ⟨by decide +kernel, by decide +kernel, _, rfl, fun h => absurd h (by decide), fun _ => by decide +kernel⟩
  all_goals decide +kernel

theorem meets_O43 :
    (Canonical (withAsm (sMsg State.reset)) ∧ assemblyOf (withAsm (sMsg State.reset)) 1 9 = some asm0
      ∧ tenantOf (withAsm (sMsg State.reset)) 1 = some ten0 ∧ reaches (withAsm (sMsg State.reset)) asm0.sess = true)
    ∧ (let q := { sq0 with st := SeqSt.ended, ended := some ⟨0, 0, 1, 0, 0⟩, records := [rec0] }
      Canonical (withSeq q State.reset) ∧ seqOf (withSeq q State.reset) 1 9 = some q ∧ isLive q = false ∧ q.kept = false)
    ∧ (let s := modServing State.reset fun v => { v with authFails := burstLimit + 1 }
      Canonical s ∧ burstLimit < s.serving.authFails) :=
  ⟨⟨canonical_of_check (by decide +kernel), by decide +kernel⟩, ⟨canonical_of_check (by decide +kernel), by decide +kernel⟩,
    canonical_of_check (by decide +kernel), by decide +kernel⟩

def waiting : Seq := { sq0 with st := .queued, slot := none }
def sQueued : State := sV id (withSeq waiting)
def sReady : State := sV id (withSeq { sq0 with step := some { step0 with granted := true } })
def com0 : Commit := ⟨0, [2], step0, false, (0, 0, 0), false⟩
def sCommit : State := sMsg (sV id fun s => modServing (withSeq sq0 s) fun v => { v with commits := [com0] })
def formed (s : State) (c : Fin 4) : Forming :=
  formLoop c (fieldOf s F.SV_GROUP_MAX_POS) (fun k => fieldOf s (F.SV_CLASS_WEIGHT + k) * fieldOf s F.SV_QUANTUM) formFuel
    { items := readyItems s false, taken := [], deficit := s.serving.deficit, ptr := s.serving.scanPtr, moved := false }

theorem meets_O44 :
    (Canonical sQueued ∧ ctxOf sQueued 0 = some cx0 ∧ seqOf sQueued 1 9 = some waiting ∧ admissionOpen sQueued 0 = true
      ∧ reserveFits sQueued cx0 = true ∧ freeSlotNo sQueued cx0 = some 0)
    ∧ (Canonical sReady ∧ ctxOf sReady 0 = some cx0 ∧ admissionOpen sReady 0 = true ∧ slotFree sReady 0 cx0 false = true
      ∧ (formed sReady 0).taken ≠ [])
    ∧ (Canonical sCommit ∧ ctxOf sCommit 0 = some cx0 ∧ sCommit.serving.commits.find? (fun c => c.slot = 0) = some com0
      ∧ seqBySlot sCommit 0 = some sq0 ∧ isLive sq0 = true ∧ sq0.doomed = none ∧ com0.flagged = false
      ∧ com0.step.noPage = false ∧ tenantOf sCommit sq0.tenant = some ten0 ∧ reaches sCommit sq0.sess = true) :=
  ⟨⟨canonical_of_check (by decide +kernel), by decide +kernel⟩, ⟨canonical_of_check (by decide +kernel), by decide +kernel⟩,
    canonical_of_check (by decide +kernel), by decide +kernel⟩

/-- Group 7 holds slot 0 at the projection of context 0. -/
def mem0 : Member := ⟨0, step0⟩
def grpP : WGroup := { grp0 false true with layer := 1, members := [mem0], proj := [(0, 1)] }
def part0 : Partial := ⟨0, 0, 0, 0, []⟩
def sProj (l : List PartialAt) : State :=
  sV id fun s => modServing (withGroup grpP (withSeq stepped s)) fun v => { v with partials := l }
def seated (catchup : Bool) : Seq := { sq0 with seat := some 31, dLen := 1, catchup := catchup }
def lane31 : Lane := ⟨0, [t0], 1, [0], false⟩
def sLane (c : Bool) : State := sV drafts fun s => setLane (withSeq (seated c) s) 31 (some lane31)

theorem meets_O45 :
    (Canonical (sProj []) ∧ seqBySlot (sProj []) 0 = some stepped ∧ atProjection (sProj []) 0 = some (grpP, mem0, cx0)
      ∧ dieAt cx0 0 = some 0 ∧ 0 < projected mem0
      ∧ grpP.proj.contains (0, 1) = true
      ∧ ([] : List Word).length = (projSlice cx0 0).2 ∧ partialAt (sProj []) 0 0 0 = none)
    ∧ (let s := sProj [⟨0, 0, 0, false, part0⟩]
      Canonical s ∧ seqBySlot s 0 = some stepped ∧ atProjection s 0 = some (grpP, mem0, cx0) ∧ dieAt cx0 0 = some 0
        ∧ partialAt s 0 0 0 = some ⟨0, 0, 0, false, part0⟩ ∧ treeChildren 1 0 = [])
    ∧ (let s := sProj [⟨0, 0, 0, true, part0⟩]
      Canonical s ∧ seqBySlot s 0 = some stepped ∧ atProjection s 0 = some (grpP, mem0, cx0)
        ∧ (List.range (projected mem0)).map (fun j => (partialAt s (dieOfRank cx0 0) 0 j).bind fun p =>
          if p.merged then some p.body else none) = [part0].map some ∧ undelivered s 0 = false)
    ∧ (Canonical (sLane false) ∧ laneHead (sLane false) 31 0 = some (lane31, seated false)
      ∧ ctxOf (sLane false) 0 = some (drafts cx0) ∧ [([] : List Word)].length = passLen (sLane false) (seated false)
      ∧ ∀ r ∈ [([] : List Word)], r.length = (drafts cx0).image.serve.shortlist.length)
    ∧ Canonical (sLane true) ∧ laneHead (sLane true) 31 0 = some (lane31, seated true)
    ∧ ctxOf (sLane true) 0 = some (drafts cx0) := by
  refine ⟨⟨canonical_of_check ?_, ?_⟩, ⟨canonical_of_check ?_, ?_⟩, ⟨canonical_of_check ?_, ?_⟩, ⟨canonical_of_check ?_, ?_⟩,
    canonical_of_check ?_, ?_⟩
  all_goals decide +kernel

/-! ### The loader -/

/-- Management session 4 is open over port 0, which is up, and the device is READY. -/
def mg : Mgmt := ⟨4, 1, [], 0, none, true⟩
def ready (s : State) : State := pset s R.BU_STAT_STATE buReadyState
def sOpen (s : State) : State := { sMsg s with sessions := [⟨4, 0, 0, 60⟩] }
def sMg : State := sOpen (ready State.reset)
def src0 : Source := ⟨1, 0, 0, 0, 0, 0, 0⟩
def con0 : Container := ⟨0, 0, 0, 1, 0, 0⟩
def ent0 : ManifestEntry := ⟨0, 0, 0, 0, 0, [src0], [con0], 0⟩

/-- `HasSession` as a Boolean. -/
def heard (s : State) (m : Mgmt) : Bool :=
  ((sessionOf s m.session).any fun x => portUp s x.port.val) && mgmtHeadOk m && m.other.isNone && m.bodyOk
theorem heard_of {s : State} {m : Mgmt} (h : heard s m = true) : HasSession s m := by
  simp only [heard, Bool.and_eq_true, and_assoc, Option.isNone_iff_eq_none] at h
  exact h

/-- Whether the entry's signature verifies is the value of Config.sm2Verify, which is free: either case of the statement. -/
theorem meets_O46 : (Canonical sMg ∧ heard sMg mg = true ∧ loadOpen sMg = true ∧ isReady sMg = true ∧ entryShapeOk ent0 = true)
    ∧ (let s := sOpen (ready (sV id id))
      Canonical s ∧ heard s mg = true ∧ isReady s = true ∧ ctxOf s 0 = some cx0
        ∧ ctxState s 0 ≠ 4 ∧ ctxState s 0 ≠ 1
        ∧ ∀ q ∈ s.serving.seqs, q.ctx.val = 0 → isLive q = false ∧ q.kept = false)
    ∧ (let s := sOpen State.reset
      Canonical s ∧ heard s mg = true ∧ isReady s = false ∧ loadOpen s = false) :=
  ⟨⟨canonical_of_check (by decide +kernel), by decide +kernel⟩,
    ⟨canonical_of_check (by decide +kernel), by decide +kernel⟩,
    canonical_of_check (by decide +kernel), by decide +kernel⟩

/-- An image of every section that a pair with one slice and one route variant asks for. -/
def img1 : Image :=
  { img0 with
    bytes := imgBytes 0 0 1 0
    templates := [{ noTemplate with
      slices := [⟨0, 0, 0, 0, 0, [0], 0, [], 2056, 0, [], 0, [], [], 16, 0, []⟩]
      routes := [⟨0, 1, 0, [⟨0, [], [], 0, []⟩]⟩] }]
    serve := { img0.serve with chunk := 128 } }
def ent1 : ManifestEntry := { man0 with imageDigest := imgDigest img1 }
def cx1 : Context := { cx0 with image := img1, caps := capsOf img1 }
def sRep : State :=
  modStore (serving (fun _ => cx1) { sT id with
      loader := { State.reset.loader with queue := [.replace 0 5] }, fields := [(F.LD_REQUIRE_OWNER_SIG, 0)] })
    fun x => { x with manifest := [(5, some ent1)] }
def key0 : Word × Word := (0, 0)
/-- The tag of an empty text under key 0 for chunk 0 of container 0. -/
def chead0 : ContainerHead := ⟨[], beBytes 16 (gcmTag 0 (chunkIv 0 0) (chunkAad 0 0) []).toNat⟩
/-- The context loads, or replaces, or fetches again its only chunk; `n` retries are spent. -/
def fetching (use : ChunkUse) (n : Nat) : Context :=
  { cx0 with
    manifest := ent0
    keys := [0]
    heads := [chead0]
    left := if use = .load then [key0] else []
    tries := [(0, 0, n)]
    refetch := if use = .refetch 0 false then [(0, false, key0)] else []
    replacing := if use = .replace then some ⟨5, img0, man0, 0, 0, 1, [key0], true, false, false, [], []⟩ else none }
def sFetch (use : ChunkUse) (n : Nat) : State :=
  modPort (setCtxState (sMsg (sV (fun _ => fetching use n) id)) 0 (if use = .load then 1 else if use = .replace then 3 else 2))
    0 fun x => { x with chunks := [key0] }
def rep0 (img : Image) : Replacing := ⟨5, img, man0, 0, 0, 1, [], false, false, false, [], []⟩
/-- The new image has one weight page, of layer 0 on the first die. -/
def img2 : Image := { img0 with templates := [{ noTemplate with weights := [⟨0, 0, 0, 0, 0, 0⟩] }] }
def cxRep : Context := { cx0 with replacing := some (rep0 img2) }
def sUnl : State := setCtxState (sV id id) 0 4

/-- The first clause but for the signature of the entry, whose verification is free. -/
theorem meets_O47 :
    (Canonical sRep ∧ sRep.loader.paused = false ∧ sRep.loader.queue = [.replace 0 5] ∧ sRep.plane.cpHeld = false
      ∧ loaderBusy sRep = false
      ∧ (let v := { sRep with loader := { sRep.loader with queue := [] } }
        manifestOf v 5 = some ent1 ∧ checkEntry v ent1 img1 = none ∧ ctxOf v 0 = some cx1 ∧ ctxState v 0 = 2
          ∧ sameImage cx1.image img1 = true ∧ fieldOf sRep (F.WT_REPLACE_POLICY + 0) ≠ 1
          ∧ checkWeights v ent1 img1 (templateOf cx1 img1) [] (keysHeld v) = none))
    ∧ (∀ o ∈ [LoadOp.load 0 5 [0] [], .replace 0 5],
      let s := { State.reset with loader := { State.reset.loader with queue := [o] } }
      Canonical s ∧ s.loader.paused = false ∧ s.loader.queue = [o] ∧ s.plane.cpHeld = false ∧ loaderBusy s = false
        ∧ manifestOf { s with loader := { s.loader with queue := [] } } 5 = none)
    ∧ (∀ w ∈ [ChunkUse.load, .replace, .refetch 0 false], ∀ n ∈ [0, 255],
      Canonical (sFetch w n) ∧ (sFetch w n).loader.paused = false
        ∧ wantedAt (refill (sFetch w n)) 0 key0 = some ⟨0, w, key0, chunkDie (fetching w n)
          (useImage (refill (sFetch w n)) 0 (fetching w n) w) key0⟩
        ∧ ctxOf (refill (sFetch w n)) 0 = some (fetching w n) ∧ (fetching .load n).left.erase key0 = []
        ∧ (w ≠ .replace → (decryptChunk (refill (sFetch w n)) 0 (fetching w n) w key0 []).isSome = true)
        ∧ decryptChunk (refill (sFetch w n)) 0 (fetching w n) w key0 [0] = none
        ∧ (n = 0 → triesOf (fetching w n) key0 < fieldOf (sFetch w n) F.WT_FETCH_RETRIES)
        ∧ (n = 255 → fieldOf (sFetch w n) F.WT_FETCH_RETRIES ≤ triesOf (fetching w n) key0))
    ∧ (let s := sV (fun _ => cxRep) id
      Canonical s ∧ s.loader.paused = false ∧ ctxOf s 0 = some cxRep ∧ cxRep.replacing = some (rep0 img2)
        ∧ (rep0 img2).writing = false ∧ unitDrained s 0 cxRep 0 = true ∧ 0 ≤ ctxLayers cxRep
        ∧ chunksOfRows ((usedWeights (templateOf cxRep img2) cxRep.dies.length).filter fun w => w.unit = 0) ≠ [])
    ∧ (Canonical sUnl ∧ sUnl.loader.paused = false ∧ ctxOf sUnl 0 = some cx0 ∧ ctxState sUnl 0 = 4
      ∧ unloadIdle sUnl 0 = true) := by
  refine ⟨⟨canonical_of_check ?_, ?_⟩, fun o ho => ⟨canonical_of_check ?_, ?_⟩, fun w hu n hn => ⟨canonical_of_check ?_, ?_⟩,
    ⟨canonical_of_check ?_, ?_⟩, canonical_of_check ?_, ?_⟩
  all_goals first | decide +kernel | (revert o ho; decide +kernel) | (revert w hu n hn; decide +kernel)

/-! ### Ports and modules -/

def mod0 : ModuleInfo := ⟨0x1E, 0x52, 0, 0, 0, [(1, 1), (2, 2), (3, 3)], true, none⟩
/-- A module of a revision that is not accepted. -/
def mod4 : ModuleInfo := { mod0 with cmis := 0x40 }
def rec1 : LifeRec := ⟨0, 0, 7, 0, 0, 0, 60, 0, false, false, List.replicate 8 0, List.replicate 8 0, 0⟩
def withLife (s : State) : State := modStore s fun x => { x with life0 := [(0, lifeBytes rec1)], life1 := [(63, lifeBytes rec1)] }
/-- The module of port 1 is ready, and `f` changes the port die. -/
def sPort (f : PortState → PortState) : State :=
  modPort (portSet State.reset 1 R.PT_OPT_STAT_READY 1) 1 fun x => f { x with moduleIn := some mod0 }
/-- The port is up in mode 1.6T. -/
def sUp (f : PortState → PortState) : State :=
  portSet (portSet (sPort f) 1 R.PT_STAT_UP 1) 1 R.PT_STAT_MODE 3
/-- Every lower group has been tried. -/
def triedAll : List (Nat × Nat) := (mode16T, 0) :: lowerGroups

theorem meets_O48 :
    (∀ g ∈ [(mode16T, 0), (2, 4), (1, 6)], let s := sPort fun x => { x with attempt := some g, tried := [g] }
      Canonical s ∧ (portOf s 1).attempt = some g ∧ moduleReady s 1 = some mod0 ∧ portOn s 1 = true ∧ isUp s 1 = false
        ∧ (appOf mod0 g.1).isSome = true ∧ lanesIn (groupMask g) (255 : Byte).toNat = true
        ∧ (nextGroup (if g.1 = mode16T then portSet s 1 R.PT_STAT_TRAINED 255 else s) 1 mod0).isSome = (g.1 = mode16T))
    ∧ (let s := sPort fun x => { x with attempt := some (1, 6), tried := triedAll }
      Canonical s ∧ nextGroup s 1 mod0 = none ∧ mod0.apps ≠ [])
    ∧ (let s := sPort fun x => { x with retryAt := true }
      Canonical s ∧ (portOf s 1).retryAt = true ∧ portOn (latchFields s 1 trainFields) 1 = true)
    ∧ (Canonical (ready (sUp id)) ∧ isUp (ready (sUp id)) 1 = true ∧ portOn (ready (sUp id)) 1 = true
      ∧ isReady (ready (sUp id)) = true ∧ fieldOf (ready (sUp id)) F.PT_FEC_LIMIT < 2 ^ 32)
    ∧ (Canonical (ready (sPort id)) ∧ portOn (ready (sPort id)) 1 = true ∧ isReady (ready (sPort id)) = true
      ∧ isUp (ready (sPort id)) 1 = false ∧ portOn (latchFields (ready (sPort id)) 1 trainFields) 1 = true)
    ∧ (let s := ready (sPort fun x => { x with cfg := [(F.PT_ENABLE + 1, 0)] })
      Canonical s ∧ portOn s 1 = false ∧ isReady s = true ∧ portOn (latchFields s 1 trainFields) 1 = true) := by
  refine ⟨fun g hg => ⟨canonical_of_check ?_, ?_⟩, ⟨canonical_of_check ?_, ?_⟩, ⟨canonical_of_check ?_, ?_⟩,
    ⟨canonical_of_check ?_, ?_⟩, ⟨canonical_of_check ?_, ?_⟩, canonical_of_check ?_, ?_⟩
  all_goals first | decide +kernel | (revert g hg; decide +kernel)

/-- A frame of priority `prio`; `held` bytes of every priority are in the buffer before it. -/
def frm (fcs : Bool) (prio : BitVec 3) (proto len held : Nat) : EthFrame :=
  ⟨fcs, some (prio, 0), len, proto, 0, false, List.replicate 8 held, 0, false⟩
/-- The bytes with the frame in. -/
def heldWith (f : EthFrame) (prio : Nat) : List Nat :=
  f.held.zipIdx.map fun e => if e.2 = prio then e.1 + frameBytesOn f else e.1
/-- A lossless and a lossy priority of the default mask. -/
def lossless (s : State) : BitVec 3 := BitVec.ofNat 3 (((List.range 8).find? fun i => tbit (portField s 1 F.PT_PFC_MASK) i).getD 0)
def lossy (s : State) : BitVec 3 := BitVec.ofNat 3 (((List.range 8).find? fun i => !(tbit (portField s 1 F.PT_PFC_MASK) i)).getD 0)
/-- A page-out, a page-in and a chunk are in progress on port 1. -/
def sOps (n : Nat) : State :=
  let s := modDie (sUp fun x => { x with qps := [(255, ⟨100000, some 0, none, n⟩)], chunks := [key0] }) 0 fun x =>
    { x with pageOuts := [⟨3, 0, 1, 0, 0, [], false⟩], pageIns := [⟨4, 0, 1, 0, 3, 3, false, false⟩] }
  setCtxState (setCtx s 0 (some { fetching .load 0 with caps := ⟨1, 0, 0, 1, 1, 0, 4⟩ })) 0 1

theorem meets_O49 :
    (Canonical (sUp id) ∧ isUp (sUp id) 1 = true ∧ (frm false 0 4 64 0).fcsOk = false)
    ∧ (portField (sUp id) 1 F.PT_MTU < (frm true 0 4 (2 ^ 14) 0).ipLen ∧ frameServed (sUp id) 1 (frm true 0 6 64 0) = false
      ∧ framePrio (sUp id) 1 { frm true 0 4 64 0 with vlan := some (0, 4095) } = none)
    ∧ (∀ held ∈ [0, lossyShare], ∀ proto ∈ [4, 5],
      let f := frm true (lossy (sUp id)) proto 64 held
      framePrio (sUp id) 1 f = some (lossy (sUp id)).toNat ∧ f.ipLen ≤ portField (sUp id) 1 F.PT_MTU
        ∧ frameServed (sUp id) 1 f = true ∧ tbit (portField (sUp id) 1 F.PT_PFC_MASK) (lossy (sUp id)).toNat = false
        ∧ (lossyShare < lossyHeld (sUp id) 1 (heldWith f (lossy (sUp id)).toNat) ↔ held = lossyShare) ∧ 3 ≤ f.proto ∧ f.proto ≤ 5)
    ∧ (let f := frm true (lossless (sUp id)) 4 64 (losslessShare * 3 / 4)
      framePrio (sUp id) 1 f = some (lossless (sUp id)).toNat ∧ f.ipLen ≤ portField (sUp id) 1 F.PT_MTU
        ∧ frameServed (sUp id) 1 f = true ∧ tbit (portField (sUp id) 1 F.PT_PFC_MASK) (lossless (sUp id)).toNat = true
        ∧ losslessShare * 3 / 4 < ((heldWith f (lossless (sUp id)).toNat)[(lossless (sUp id)).toNat]?).getD 0
        ∧ tbit (portOf (sUp id) 1).xoff.toNat (lossless (sUp id)).toNat = false)
    ∧ (let s := sUp fun x => { x with paused := 0x80, egress := [(7, .cmis 1 .highPower)] }
      Canonical s ∧ isUp s 1 = true ∧ tbit (portOf s 1).paused.toNat (7 : BitVec 3).toNat = true
        ∧ tbit (portOf s 1).stormTold.toNat (7 : BitVec 3).toNat = false
        ∧ ((7 : BitVec 3).toNat, .cmis 1 .highPower) ∈ (portOf s 1).egress)
    ∧ (∀ n ∈ [6, 7], Canonical (sOps n) ∧ isUp (sOps n) 1 = true ∧ gapOver (sOps n) (qpOf (sOps n) 1 255).lastCut = false
      ∧ gapOver (sOps n) (qpOf (sOps n) 1 0).lastCut = true
      ∧ (qpOf (sOps n) 1 255).rate < macRate (portGet (sOps n) 1 R.PT_STAT_MODE) ∧ (qpOf (sOps n) 1 255).resends = n
      ∧ (∀ use ∈ [RdmaUse.pageOut 0 3, .pageIn 0 4, .chunk 0 0], opOutstanding (sOps n) 1 use = true)
      ∧ (dieOf (sOps n) 0).pageOuts.find? (fun e => e.vpn = (3 : Word)) = some ⟨3, 0, 1, 0, 0, [], false⟩
      ∧ (dieOf (sOps n) 0).pageIns.find? (fun e => e.vpn = (4 : Word)) = some ⟨4, 0, 1, 0, 3, 3, false, false⟩)
    ∧ (let w := wantedAt (sOps 7) 1 key0
      w.isSome = true ∧ w.map (·.ctx) = some 0 ∧ ∃ y, ctxOf (sOps 7) 0 = some y
        ∧ triesOf y key0 < fieldOf (sOps 7) F.WT_FETCH_RETRIES) := by
  refine ⟨⟨canonical_of_check ?_, ?_⟩, ?_, ?_, ?_, ⟨canonical_of_check ?_, ?_⟩, fun n hn => ⟨canonical_of_check ?_, ?_⟩,
    ?_, ?_, _, rfl, ?_⟩
  all_goals first | decide +kernel | (revert n hn; decide +kernel)

theorem meets_O50 :
    (Canonical (withLife State.reset) ∧ portOn (withLife State.reset) 1 = true
      ∧ portOn (latchFields (withLife State.reset) 1 trainFields) 1 = true ∧ (portOf (withLife State.reset) 1).moduleIn = none
      ∧ cmisOk mod0 = true ∧ cmisOk mod4 = false)
    ∧ (∀ n ∈ [1, 2], let s := sPort fun x => { x with missed := n }
      Canonical s ∧ portOn s 1 = true ∧ (portOf s 1).moduleIn = some mod0 ∧ (n = 1 → (portOf s 1).missed + 1 < 3)
        ∧ (n = 2 → 3 ≤ (portOf s 1).missed + 1))
    ∧ (let s := modPort State.reset 1 fun x => { x with moduleIn := some mod0 }
      Canonical s ∧ (portOf s 1).moduleIn = some mod0 ∧ cmisOk mod0 = true ∧ portGet s 1 R.PT_OPT_STAT_READY ≠ 1)
    ∧ (Canonical (sPort id) ∧ portOn (sPort id) 1 = true ∧ ¬ ((portOf (sPort id) 1).modFlags = (1 : Word) ∧ (portOf (sPort id) 1).laneFlags = (0 : Word)))
    ∧ (let s := withLife (portSet (sPort id) 1 R.PT_OPT_STAT_RECORD 63)
      Canonical s ∧ portOn s 1 = true ∧ (portOf s 1).moduleIn = some mod0 ∧ portGet s 1 R.PT_OPT_STAT_RECORD < 64
        ∧ lifeOf s (portGet s 1 R.PT_OPT_STAT_RECORD) = some rec1)
    ∧ (∀ n ∈ [(0 : Byte), 63], Canonical (withLife sMg) ∧ heard (withLife sMg) mg = true ∧ isReady (withLife sMg) = true
      ∧ n.toNat < lifeRecords ∧ lifeOf (withLife sMg) n.toNat = some rec1) := by
  refine ⟨⟨canonical_of_check ?_, ?_⟩, fun n hn => ⟨canonical_of_check ?_, ?_⟩, ⟨canonical_of_check ?_, ?_⟩,
    ⟨canonical_of_check ?_, ?_⟩, ⟨canonical_of_check ?_, ?_⟩, fun n hn => ⟨canonical_of_check ?_, ?_⟩⟩
  all_goals first | decide +kernel | (revert n hn; decide +kernel)

/-! ### Power -/

/-- Tile 0 of die 0, powered, at step `k`; `f` changes its die. -/
def sPw (k : Nat) (f : DieState → DieState) : State := tset (modDie (sP id) 0 f) t0 R.PACE_STEP_EFFECTIVE k
/-- Tile 0 is off. -/
def sOff (f : DieState → DieState) : State := tset (sPw 0 f) t0 R.MITTEN_TILE_RAIL 0
def turn (span : Option Nat) : TurnOn := ⟨0, 0, span, []⟩

/-- The condition on every other tile of the die is met by the steps at reset. -/
theorem meets_O51 :
    (Canonical (sPw 15 id) ∧ dieOn (sPw 15 id) 0 = true
      ∧ powerAbove (histWith (sPw 15 id) 0 (budgetCont (sPw 15 id))) (budgetCont (sPw 15 id)) = false
      ∧ powerAbove (histWith (sPw 15 id) 0 (budgetPeak (sPw 15 id) + 1)) (budgetPeak (sPw 15 id)) = true
      ∧ cutDue (sPw 15 id) 0 = true ∧ railOn (sPw 15 id) t0 = true ∧ 0 < effStep (sPw 15 id) t0 ∧ effStep (sPw 15 id) t0 ≤ 15
      ∧ ∀ n ∈ tilesOfDie 0, railOn (sPw 15 id) n = true → effStep (sPw 15 id) n ≤ effStep (sPw 15 id) t0)
    ∧ (let s := sPw 1 fun x => { x with powerHist := [1] }
      Canonical s ∧ dieOn s 0 = true ∧ (dieOf s 0).powerHist ≠ []
        ∧ 100 * sumNat (dieOf s 0).powerHist < 95 * budgetCont s * (dieOf s 0).powerHist.length)
    ∧ (Canonical (sOff id) ∧ dieOn (sOff id) 0 = true ∧ mayTurnOn (sOff id) t0 = true ∧ (dieOf (sOff id) 0).turnOns = []
      ∧ (shortestSpan (sOff id) t0 0 0).isSome = true ∧ shortestSpan (sOff id) t0 (10 ^ 6) (10 ^ 6) = none)
    ∧ (let s := sOff fun x => { x with turnOns := [turn none] }
      Canonical s ∧ dieOn s 0 = true ∧ oldestTurnOn s 0 = some (turn none) ∧ (turn none).tile = t0.t.val
        ∧ (shortestSpan s t0 0 0).isSome = true ∧ shortestSpan s t0 (10 ^ 6) (10 ^ 6) = none)
    ∧ (∀ n ∈ spans, let s := sOff fun x => { x with turnOns := [turn (some n)] }
      Canonical s ∧ dieOn s 0 = true ∧ (dieOf s 0).turnOns.find? (fun y => y.tile = t0.t.val) = some (turn (some n))) := by
  refine ⟨⟨canonical_of_check ?_, ?_⟩, ⟨canonical_of_check ?_, ?_⟩, ⟨canonical_of_check ?_, ?_⟩,
    ⟨canonical_of_check ?_, ?_⟩, fun n hn => ⟨canonical_of_check ?_, ?_⟩⟩
  all_goals first | decide +kernel | (revert n hn; decide +kernel)

/-- `k` phases of tile 0 have failed. -/
def sPh (k : Nat) : State := (List.range k).foldl (fun s p => tset s t0 (R.MITTEN_STAT_FAILED.at p) 1) (sP id)
def sTrip : State := dset (sP id) 0 R.PW_DIE_STAT_SITE siteTripped

theorem meets_O52 :
    (∀ k ∈ [0, 1], Canonical (sPh k) ∧ railLive (sPh k) t0 = true ∧ dieOn (sPh k) 0 = true ∧ phaseFailed (sPh k) t0 15 = false ∧ failedPhases (sPh k) t0 = k)
    ∧ (Canonical (sPh 2) ∧ dieOn (sPh 2) 0 = true ∧ tget (sPh 2) t0 R.MITTEN_TILE_RAIL ≠ railIsolated ∧ [(15 : Fin 16)].Nodup
      ∧ (∀ p ∈ [(15 : Fin 16)], phaseFailed (sPh 2) t0 p.val = false) ∧ [(15 : Fin 16)] ≠ [] ∧ 3 ≤ failedPhases (sPh 2) t0 + [(15 : Fin 16)].length)
    ∧ (Canonical (sP id) ∧ dieOn (sP id) 0 = true)
    ∧ (Canonical sTrip ∧ sTrip.plane.powered = true ∧ dget sTrip 0 R.PW_DIE_STAT_SITE = siteTripped ∧ dieUnnamed sTrip 0 = true) := by
  refine ⟨fun k hk => ⟨canonical_of_check ?_, ?_⟩, ⟨canonical_of_check ?_, ?_⟩, ⟨canonical_of_check ?_, ?_⟩, canonical_of_check ?_, ?_⟩
  all_goals first | decide +kernel | (revert k hk; decide +kernel)

/-- READY in Run, powered, with PG_IN; and bring-up at step 5. -/
def sRun : State := modPins (ready (sP id)) fun x => { x with pgIn := true }
def sStep5 : State := pset (sP id) R.BU_STAT_STEP 5

theorem meets_O53 :
    (Canonical sRun ∧ sRun.plane.vaux = true ∧ sRun.plant.vinLow = false
      ∧ (0 : Half).toNat < 10 * fieldOf sRun F.PW_VIN_WARN ∧ (3999 : Half).toNat < 4000 ∧ 5800 < (5801 : Half).toNat
      ∧ 10 * fieldOf sRun F.PW_VIN_WARN ≤ (5800 : Half).toNat
      ∧ sRun.plane.powered = true ∧ inPowerSteps sRun = false ∧ sRun.plant.lossTold = false ∧ powerState sRun ≠ psRest
      ∧ sRun.pins.pgIn = true ∧ sRun.plant.vinLost = false)
    ∧ Canonical sStep5 ∧ sStep5.plane.vaux = true ∧ sStep5.plane.powered = true ∧ inPowerSteps sStep5 = true :=
  ⟨⟨canonical_of_check (by decide +kernel), by decide +kernel⟩, canonical_of_check (by decide +kernel), by decide +kernel⟩

/-! ### Temperature, converters and coolant -/

/-- Both diodes of tile 0 read 25 °C (200 × 0.125), the estimate is `e`. -/
def sHot (e sus : Nat) (f : TileState → TileState) : State :=
  let s := tset (tset (sP f) t0 R.TH_DIODE_A_VALID 1) t0 R.TH_DIODE_DIODE_A 200
  let s := tset (tset s t0 R.TH_DIODE_B_VALID 1) t0 R.TH_DIODE_DIODE_B 200
  tset (tset s t0 R.TH_HOT_ESTIMATE e) t0 R.TH_HOT_SUSPECT sus
def sStack (st n : Nat) : State := pset (dset (sP id) 0 R.TH_DIE_STAT_STACK_TEMP n) R.RS_STAT_STATE st

theorem meets_O54 :
    (∀ e ∈ [200, 2047], Canonical (sHot e 0 id) ∧ railOn (sHot e 0 id) t0 = true ∧ tget (sHot e 0 id) t0 R.TH_HOT_SUSPECT = 0
      ∧ readsSuspect (tset (sHot e 0 id) t0 R.TH_HOT_ESTIMATE e) t0 = (e = 2047))
    ∧ (Canonical (sHot 200 1 id) ∧ tget (sHot 200 1 id) t0 R.TH_HOT_SUSPECT = 1 ∧ readsSuspect (sHot 200 1 id) t0 = false)
    ∧ (∀ k ∈ [0, 9, 13, 15], let s := sHot 200 0 fun ts =>
        { ts with caps := { ts.caps with thermal := k }, capHot := true, capStack := true }
      Canonical s ∧ dieOn s 0 = true ∧ (tileOf s t0).caps.thermal = k ∧ hot2 s t0 ≤ 2 * (limitL s - 24)
        ∧ stackTemp s 0 ≤ limitK s - 24)
    ∧ (let s := tset (sHot 200 0 fun ts => { ts with caps := { ts.caps with thermal := 0 } }) t0 R.TH_DIODE_DIODE_A 2000
      Canonical s ∧ ¬ hot2 s t0 ≤ 2 * (limitL s + 80))
    ∧ (Canonical (sStack psHold 2047) ∧ powerState (sStack psHold 2047) = psHold ∧ dieOn (sStack psHold 2047) 0 = true
      ∧ 8 * (fieldOf (sStack psHold 2047) F.TH_STACK_SR_C : Int) < stackTemp (sStack psHold 2047) 0) := by
  refine ⟨fun e he => ⟨canonical_of_check ?_, ?_⟩, ⟨canonical_of_check ?_, ?_⟩, fun k hk => ⟨canonical_of_check ?_, ?_⟩,
    ⟨canonical_of_check ?_, ?_⟩, canonical_of_check ?_, ?_⟩
  all_goals first | decide +kernel | (revert e he; decide +kernel) | (revert k hk; decide +kernel)

/-- Slices of die `d` have gain 1 and are calibrated as `cal` says; `tol` is the tolerance of the references. -/
def sAdc (d cal : Nat) (fields : List (Nat × Nat)) : State :=
  let s := (List.range (sliceCount d)).foldl (fun s i => adcSet s d (R.ADC_SLICE_GAIN.at i) 16384)
    (startConverters (sP id) d)
  { modDie s d fun x => { x with calibrated := cal, adcWarm := true } with fields := fields }
/-- A tolerance that every bandgap code meets, whatever the bandgap is. -/
def wide (d : Nat) : List (Nat × Nat) := [(F.ADC_DAC_TOL_LSB, Config.vbg d + 5000)]

theorem corrected_le {s : State} {d i r : Nat} : corrected s d i r ≤ 4095 := by
  unfold corrected correct
  omega

theorem passes_wide {s : State} {d i : Nat} {codes : List (BitVec 12)} (h : adcTol s = Config.vbg d + 5000) :
    scanPasses s d i codes = true := by
  have hg : corrected s d i (rawAt codes 28) ≤ 4095 := corrected_le
  have hb : corrected s d i (rawAt codes 29) ≤ 4095 := corrected_le
  unfold scanPasses refsPass nearR bandgapTarget
  rw [h]
  generalize corrected s d i (rawAt codes 28) = g at hg ⊢
  generalize corrected s d i (rawAt codes 29) = b at hb ⊢
  generalize Config.vbg d = v
  have h0 : (0 : Rat) ≤ (v : Rat) := by exact_mod_cast Nat.zero_le v
  have h1 : (0 : Rat) ≤ (b : Rat) := by exact_mod_cast Nat.zero_le b
  have h2 : (b : Rat) ≤ 4095 := by exact_mod_cast hb
  have h3 : ((v + 5000 : Nat) : Rat) = (v : Rat) + 5000 := by
    rw [Rat.natCast_add]
    rfl
  simp only [Bool.and_eq_true, decide_eq_true_eq, h3]
  refine ⟨by omega, ?_, ?_⟩ <;> grind

theorem canonical_wide {s : State} {d : Nat} (h : canon s = true) : Canonical { s with fields := wide d } := by
  refine { canonical_of_check h with fields := ?_ }
  have hd : fieldDefault F.ADC_DAC_TOL_LSB = 8 := by decide +kernel
  simp only [wide, kwf, kabove, hd]
  simp

def sWide : State := { sAdc 57 7 [] with fields := wide 57 }
def sFail : State := modDie (sAdc 57 3 []) 57 fun x => { x with calFails := [(2, 1)] }
def ones : List (BitVec 12) := List.replicate 64 0xFFF

/-- Not shown: a calibration that passes and a rotation that is given up, which need the device's own bandgap voltage
(Config.vbg, free). -/
theorem meets_O55 :
    (Canonical sWide ∧ adcOn sWide 57 = true ∧ servingSlice sWide 57 0 = some 0 ∧ (dieOf sWide 57).adcWarm = true ∧ isCalibrated sWide 57 0 = true
      ∧ 0 < bankCount 57 ∧ 57 ≠ 56 + b2n sWide.plane.primary ∧ scanPasses sWide 57 0 [] = true)
    ∧ (Canonical (sAdc 57 7 []) ∧ adcOn (sAdc 57 7 []) 57 = true ∧ servingSlice (sAdc 57 7 []) 57 1 = some 1
      ∧ isCalibrated (sAdc 57 7 []) 57 1 = true ∧ scanPasses (sAdc 57 7 []) 57 1 ones = false
      ∧ kget noServed (dieOf (sAdc 57 7 []) 57).scanFails 1 < 2)
    ∧ (Canonical (sAdc 57 3 []) ∧ adcOn (sAdc 57 3 []) 57 = true ∧ calSlice (sAdc 57 3 []) 57 = some 2
      ∧ calPasses (sAdc 57 3 []) 57 (codesNat ones) [] [] = false ∧ kget noServed (dieOf (sAdc 57 3 []) 57).calFails 2 = 0)
    ∧ (Canonical sFail ∧ adcOn sFail 57 = true ∧ calSlice sFail 57 = some 2
      ∧ calPasses sFail 57 (codesNat ones) [] [] = false ∧ 1 ≤ kget noServed (dieOf sFail 57).calFails 2)
    ∧ (oldestServing sWide 57 = some 0
      ∧ (List.range (sliceCount 57)).find? (fun i => sliceState sWide 57 i = slSpare && isCalibrated sWide 57 i) = some 2
      ∧ (workingSlices sWide 57).length = sliceCount 57 ∧ checkRuns sWide 57 = false
      ∧ servingSlice sWide 57 (sliceBank sWide 57 0) = some 0 ∧ sliceBank sWide 57 0 < bankCount 57
      ∧ scanPasses sWide 57 0 [] = true ∧ rotateGap sWide 57 2 0 [] [] ≤ adcTol sWide)
    ∧ (bitsOf (2048 : Word).toNat 10 3 ∈ workingSlices sWide 57
      ∧ isCalibrated sWide 57 (bitsOf (2048 : Word).toNat 10 3) = true
      ∧ dacBusy sWide 57 (bitsOf (2048 : Word).toNat 10 3) = false)
    ∧ (let s := startConverters (sP fun ts => { ts with slice := some ⟨⟨5, 0⟩, 0, false⟩ }) 0
      Canonical s ∧ adcOn s 0 = true ∧ dacBusy s 0 (bitsOf (0 : Word).toNat 10 3) = true) := by
  have hw : canon (sAdc 57 7 []) = true := by decide +kernel
  refine ⟨⟨canonical_wide hw, ?_, ?_, ?_, ?_, ?_, ?_, passes_wide rfl⟩, ⟨canonical_of_check hw, ?_⟩, ⟨canonical_of_check ?_, ?_⟩,
    ⟨canonical_of_check ?_, ?_⟩, ⟨?_, ?_, ?_, ?_, ?_, ?_, passes_wide rfl, ?gap⟩, ?_, canonical_of_check ?_, ?_⟩
  case gap =>
    have hg : rotateGap sWide 57 2 0 [] [] = 0 := by decide +kernel
    rw [hg]
    exact Nat.zero_le _
  all_goals decide +kernel

/-- SD[0] reads the facility sensors by slice 0, with the wide tolerance; with `low`, circuit 0 has shown no flow. -/
def sFac0 (low : Bool) : State :=
  modPlant (ready (sAdc 56 7 [])) fun x => { x with flow0 := if low then [1] else [] }
def sFac (low : Bool) : State := { sFac0 low with fields := wide 56 }
def zeros : List (BitVec 12) := []
def nominal : List (BitVec 12) := [2730, 2730]
/-- The state that a sample leaves before the sudden stop is judged. -/
def noted (low : Bool) (codes : List (BitVec 12)) : State :=
  noteFlows (fun n => corrected (sFac low) 56 0 (rawAt codes n)) (dacFree (scanBank (sFac low) 56 0 codes) 56)

theorem sFac_serves (low : Bool) : servingSlice (sFac low) 56 0 = some 0 ∧ adcOn (sFac low) 56 = true
    ∧ isCalibrated (sFac low) 56 0 = true ∧ (dieOf (sFac low) 56).adcWarm = true := by
  revert low
  decide +kernel

/-- What a scan that passes stores. -/
theorem scanBank_sFac (low : Bool) (codes : List (BitVec 12)) : scanBank (sFac low) 56 0 codes
    = storeScan (modDie (sFac low) 56 fun x => { x with scanFails := kset noServed x.scanFails 0 0 }) 56 0 0
      fun n => corrected (sFac low) 56 0 (rawAt codes n) := by
  obtain ⟨h1, h2, h3, h4⟩ := sFac_serves low
  unfold scanBank
  simp [h1, h2, h3, h4, passes_wide (s := sFac low) (d := 56) (i := 0) (codes := codes) rfl]

def sCool (f : Plant → Plant) : State := modPlant (ready (sP id)) f
/-- The flow in the units of the samples that `n` % of nominal makes, plus 1. -/
def pct (n : Nat) : Nat := 4096 * flowNom State.reset 0 * n / 100 + 1
/-- The device holds after a sudden stop that ended `TH_RESUME_S` ago. -/
def sHold (l : List Seq) : State :=
  let s := modServing (pset (sCool fun x => { x with
    flow0 := [pct 100], flow1 := [4096 * flowNom State.reset 1 + 1], stopped := true, flowOkSince := some 0 }) R.RS_STAT_STATE psHold)
    fun v => { v with seqs := l }
  sOpen (modTime s fun x => { x with count := 1000 * secNs })

theorem meets_O56 :
    ((∀ low, Canonical (sFac low) ∧ servingSlice (sFac low) 56 0 = some 0 ∧ (dieOf (sFac low) 56).adcWarm = true ∧ (sFac low).plane.vaux = true
        ∧ (sFac low).plane.primary = false ∧ isCalibrated (sFac low) 56 0 = true ∧ ∀ codes, scanPasses (sFac low) 56 0 codes = true)
      ∧ (stopRule (noted false nominal) 0 = none ∧ stopRule (noted false nominal) 1 = none)
      ∧ (stopRule (noted true zeros) 0 = some 0 ∧ (noted true zeros).plant.stopped = false
        ∧ (noted true zeros).plane.powered = true ∧ powerState (noted true zeros) ≠ psRest
        ∧ fieldOf (noted true zeros) F.TH_HOLD_END_S ≠ 0))
    ∧ (Canonical (sP id) ∧ (sP id).plane.vaux = true ∧ flowLost (sP id) 1 = false)
    ∧ (∀ b ∈ [true, false], let s := pset (sP id) R.TH_COOL_TEMP_INLET (if b then 199 else 2047)
      Canonical s ∧ s.plane.vaux = true ∧ (b = true → temp12 (pget s R.TH_COOL_TEMP_INLET) < 200)
        ∧ (b = false → 8 * (fieldOf s F.TH_INLET_MAX_C : Int) < temp12 (pget s R.TH_COOL_TEMP_INLET)))
    ∧ (let s := sCool fun x => { x with flow0 := [pct 50] }
      Canonical s ∧ ((flowWorst s).any fun e => e.1 = 0 && e.2 < 90
          && (capForFlow e.2).any fun cap => cap < pget s R.TH_COOL_STAT_FLOW_CAP) = true
        ∧ s.plant.warnEpisode = false ∧ s.plant.stopped = false)
    ∧ (let s := pset (sCool fun x => { x with flow0 := [pct 100] }) R.TH_COOL_STAT_FLOW_CAP 14
      Canonical s ∧ s.plant.stopped = false ∧ pget s R.TH_COOL_STAT_FLOW_CAP = 14
        ∧ ((flowWorst s).any fun e => e.1 = 0 && ((92 - 5 * (15 - 14 : Nat) : Int) : Rat) ≤ e.2) = true)
    ∧ (Canonical (sHold [sq0]) ∧ inStopHold (sHold [sq0]) = true ∧ (sHold [sq0]).serving.seqs.filter isLive = sq0 :: []
      ∧ seqNow (sHold [sq0]) sq0 = some sq0 ∧ fieldOf (sHold [sq0]) F.TH_AUTO_RESUME = 1 ∧ flowRestored (sHold [sq0]) = true)
    ∧ (heard (sHold []) mg = true ∧ isReady (sHold []) = true ∧ (inStopHold (sHold []) && restoredLong (sHold [])) = true)
    ∧ (Canonical sMg ∧ heard sMg mg = true ∧ isReady sMg = true ∧ (inStopHold sMg && restoredLong sMg) = false) := by
  refine ⟨⟨fun low => ⟨canonical_wide ?can, (sFac_serves low).1, ?_, ?_, ?_, (sFac_serves low).2.2.1, fun codes => passes_wide rfl⟩,
      ⟨?_, ?_⟩, ?_, ?_, ?_, ?_, ?_⟩, ⟨canonical_of_check ?_, ?_⟩, fun b hb => ⟨canonical_of_check ?_, ?_⟩,
    ⟨canonical_of_check ?_, ?_⟩, ⟨canonical_of_check ?_, ?_⟩, ⟨canonical_of_check ?_, ?_⟩,
    ?_, canonical_of_check ?_, ?_⟩
  case can => revert low; decide +kernel
  all_goals first
    | decide +kernel
    | (revert low; decide +kernel)
    | (revert b hb; decide +kernel)
    | (unfold noted; rw [scanBank_sFac]; decide +kernel)

/-! ### Bring-up, resets, tests and management -/

/-- Powered, in Run, at step `n` of bring-up. -/
def sBu (n : Nat) : State := pset (modPins (sP id) fun x => { x with pgIn := true }) R.BU_STAT_STEP n
/-- An eastern tile of die 0, whose link goes to die 1. -/
def tE : Tid := ⟨0, 5⟩
/-- Lanes that showed errors in every training. -/
def bad (n : Nat) : List (Nat × Nat) := (List.range n).map fun i => (i, 16)
/-- Nine bad lanes in sublink 0, or three bad control lanes. -/
def linkNine : LinkResult := ⟨tE, .e, [bad 9], []⟩
def linkFails : LinkResult := ⟨tE, .e, [], bad 3⟩
def subsOf (l : List (List Nat)) : List (List Nat × Bool × Bool) := (List.range 4).map fun i => sublinkOf ((l[i]?).getD [])
def bad0 : SliceResult := ⟨true, 0, [0], [], List.replicate 6 0xFFF, [], 0⟩

/-- Not shown: which images verify at step 3, which rests on signatures (Config.sm2Verify, free). -/
theorem meets_O57 :
    (Canonical State.reset ∧ atStep State.reset 3 = true)
    ∧ (Canonical (sBu 4) ∧ atStep (sBu 4) 4 = true)
    ∧ (Canonical (sBu 5) ∧ atStep (sBu 5) 5 = true ∧ supplyGood (sBu 5) = true ∧ powerState (sBu 5) = psRun
      ∧ dieActive (sBu 5) 0 = true ∧ dieFailed (sBu 5) 0 = false)
    ∧ (Canonical (sBu 6) ∧ atPowerStep (sBu 6) 6 = true ∧ linkTo tE .e = some 1 ∧ dieActive (sBu 6) 0 = true
      ∧ dieActive (sBu 6) 1 = true ∧ (dieUp (sBu 6) 0 && dieUp (sBu 6) 1) = true
      ∧ (let r := resultOf (sBu 6) [linkNine] tE .e
        (subsOf r.1).any (·.2.2) = false ∧ ((List.range 4).filter fun i => ((subsOf r.1)[i]?).any (·.2.1)) = [0]
          ∧ ¬ 2 < ((r.2.filter (· < 18)).eraseDups).length)
      ∧ 2 < (((resultOf (sBu 6) [linkFails] tE .e).2.filter (· < 18)).eraseDups).length)
    ∧ (Canonical (sBu 7) ∧ atPowerStep (sBu 7) 7 = true ∧ dieOn (sBu 7) 0 = true ∧ calMaxOf 100000 < 15)
    ∧ (Canonical (sBu 8) ∧ atPowerStep (sBu 8) 8 = true ∧ (sBu 8).plane.resend = [])
    ∧ (let s := modPlane (ready (sP id)) fun x => { x with fwCheck := true }
      Canonical s ∧ isReady s = true ∧ s.plane.fwCheck = true ∧ s.plane.powered = true ∧ s.plane.cpHeld = false
        ∧ powerState s ≤ psDoze ∧ s.plane.resend = [])
    ∧ (∀ n ∈ [0, 1, 2], ∀ bowler : Bool, let key := if bowler then bowlerKey t0.d.val else tkey t0
      let s := modPlane (sBu 8) fun x => { x with resend := [(key, n)] }
      Canonical s ∧ atPowerStep s 8 = true ∧ (s.plane.resend.find? fun e => e.1 = key) = some (key, n))
    ∧ (∀ k ∈ [0, 24], let s := dset (sBu 9) 55 R.STK_STAT_SPARES_LEFT k
      Canonical s ∧ atPowerStep s 9 = true ∧ dieOn s 55 = true ∧ dieUp s 55 = true ∧ chRetired s 55 23 9 = false
        ∧ dget s 55 R.STK_STAT_SPARES_LEFT = k)
    ∧ (Canonical (sBu 10) ∧ atPowerStep (sBu 10) 10 = true ∧ portOn (latchFields (sBu 10) 1 trainFields) 1 = true ∧ railOn (sBu 10) t0 = true
      ∧ ∀ k ∈ [(⟨1, 63⟩ : SliceId), ⟨4, 0⟩], sliceValid t0 k = true ∧ sliceFails (sBu 10) t0 k bad0 = true)
    ∧ (Canonical (sBu 11) ∧ atPowerStep (sBu 11) 11 = true ∧ portTrains (sBu 11) 0 = false ∧ portTrains (sBu 11) 1 = false
      ∧ (sBu 11).plane.vaux = true ∧ isReady (sBu 11) = false ∧ pget (sBu 11) R.BU_STAT_LATE ≠ 1
      ∧ 1000 * fieldOf (sBu 11) F.BU_READY_LATE_S ≤ (0xFFFFFFFF : Word).toNat) := by
  refine ⟨⟨canonical_of_check ?_, ?_⟩, ⟨canonical_of_check ?_, ?_⟩, ⟨canonical_of_check ?_, ?_⟩, ⟨canonical_of_check ?_, ?_⟩,
    ⟨canonical_of_check ?_, ?_⟩, ⟨canonical_of_check ?_, ?_⟩, ⟨canonical_of_check ?_, ?_⟩,
    fun n hn b => ⟨canonical_of_check ?_, ?_⟩,
    fun k hk => ⟨canonical_of_check ?_, ?_⟩, ⟨canonical_of_check ?_, ?_⟩, canonical_of_check ?_, ?_⟩
  all_goals first | decide +kernel | (revert n hn b; decide +kernel) | (revert k hk; decide +kernel)

/-- Powered and READY, in power state `st`, with a management session. -/
def sSt (st : Nat) : State := sOpen (pset (ready (sP id)) R.RS_STAT_STATE st)
def sHolds (st : Nat) : State := modPlane (sSt st) fun x => { x with cpHeld := true }

theorem meets_O58 :
    (Canonical (sP id) ∧ (sP id).pins.modResetN = true ∧ (sP id).plane.vaux = true)
    ∧ (let s := modPins (sP id) fun x => { x with modResetN := false }
      Canonical s ∧ s.pins.modResetN = false)
    ∧ (let s := withSeq sq0 (sSt psRun)
      Canonical s ∧ heard s mg = true ∧ s.serving.seqs.filter isLive = sq0 :: [] ∧ seqNow s sq0 = some sq0
        ∧ tbit (portOf s (sessionPort s mg.session)).paused.toNat (fieldOf s F.PT_PCP_MGMT) = false)
    ∧ (∀ st ∈ [psRun, psDoze, psHold, psRest, psReset], Canonical (sSt st) ∧ heard (sSt st) mg = true ∧ powerState (sSt st) = st
      ∧ inRecovery (sSt st) = false ∧ (sSt st).plane.vaux = true ∧ (sSt st).pins.cpResetN = true ∧ (sSt st).plane.cpHeld = false
      ∧ (sSt st).pins.modResetN = true ∧ (sSt st).plant.stopped = false ∧ (∀ c : Fin 4, ctxOf (sSt st) c.val = none)
      ∧ planeIdle (sSt st) = true)
    ∧ (∀ st ∈ [psReset, psHold, psRest], Canonical (sHolds st) ∧ powerState (sHolds st) = st ∧ (sHolds st).plane.cpHeld = true
      ∧ (sHolds st).loader.contexts = [])
    ∧ (isReady (sSt psRun) = true ∧ fieldOf { sSt psRun with fields := [(F.RS_AUTO_DOZE_MS, 1)] } F.RS_AUTO_DOZE_MS ≠ 0)
    ∧ (let s := modPlane (sSt psDoze) fun x => { x with dozing := true }
      Canonical s ∧ s.plane.dozing = true ∧ s.plane.dozeDone = false ∧ s.serving.groups = [] ∧ s.serving.commits = []
        ∧ railOn s t0 = true)
    ∧ (let s := pset (sSt psRun) R.BU_STAT_STATE buRecovery
      Canonical s ∧ heard s mg = true ∧ inRecovery s = true)
    ∧ (let s := modPlant (sSt psHold) fun x => { x with stopped := true }
      Canonical s ∧ heard s mg = true ∧ inRecovery s = false ∧ powerState s = psHold ∧ s.plant.stopped = true ∧ restoredLong s = false) := by
  refine ⟨⟨canonical_of_check ?_, ?_⟩, ⟨canonical_of_check ?_, ?_⟩, ⟨canonical_of_check ?_, ?_⟩,
    fun st hs => ⟨canonical_of_check ?_, ?_⟩, fun st hs => ⟨canonical_of_check ?_, ?_⟩, ?_, ⟨canonical_of_check ?_, ?_⟩,
    ⟨canonical_of_check ?_, ?_⟩, canonical_of_check ?_, ?_⟩
  all_goals first
    | decide +kernel
    | (revert st hs; decide +kernel)

/-- READY in Run, and die 0 and die 55 sweep; `f` changes tile 0. -/
def sTest (f : TileState → TileState) : State :=
  modDie (modDie (ready (sP f)) 0 fun x => { x with sweep := some 24 }) 55 fun x => { x with sweep := some 24 }
def sSlice (k : SliceId) : State := sTest fun ts => { ts with slice := some ⟨k, 0, true⟩ }
/-- The converters of die 0 serve. -/
def sDiode : State := modTile (ready (sAdc 0 7 [])) t0 fun ts => { ts with slice := some ⟨⟨5, 0⟩, 0, true⟩ }

theorem mbytes_some (m : List Host.Cell) (a n : Nat) (h : 0 < n) : ∃ b, (mbytes m a n)[0]? = some b := by
  cases n with
  | zero => exact absurd h (Nat.lt_irrefl 0)
  | succ n => exact ⟨_, rfl⟩

/-- A buffer part and a register file are saved. -/
theorem sliceSaves_some (ts : TileState) (k : SliceId) (h : k.kind.val = 1 ∨ k.kind.val = 2) :
    ∃ b, (sliceSaves ts k)[0]? = some b := by
  unfold sliceSaves
  rcases h with h | h <;> rw [h] <;> exact mbytes_some _ _ _ (by decide)

theorem meets_O59 :
    (∀ k ∈ [(⟨0, 0⟩ : SliceId), ⟨1, 0⟩, ⟨2, 1⟩, ⟨5, 0⟩], let s := sTest fun ts => { ts with wanted := if k.kind = 0 then [] else [k] }
      Canonical s ∧ slicePlace s t0 k = true ∧ sliceTurn s t0 k = true)
    ∧ (slicePlace (sTest id) t0 ⟨0, 4⟩ && sliceTurn (sTest id) t0 ⟨0, 4⟩) = false
    ∧ (∀ k ∈ [(⟨0, 3⟩ : SliceId), ⟨1, 63⟩, ⟨2, 0⟩, ⟨4, 0⟩], Canonical (sSlice k) ∧ (tileOf (sSlice k) t0).slice = some ⟨k, 0, true⟩
      ∧ sliceValid t0 k = true ∧ sliceFails (sSlice k) t0 k bad0 = true
      ∧ sliceFails (sSlice k) t0 k { bad0 with failed := false, items := [] } = false)
    ∧ (Canonical sDiode ∧ (tileOf sDiode t0).slice = some ⟨⟨5, 0⟩, 0, true⟩ ∧ sliceValid t0 ⟨5, 0⟩ = true
      ∧ sliceFails sDiode t0 ⟨5, 0⟩ bad0 = true ∧ (pathFails sDiode t0 bad0 0).isSome = true
      ∧ (pathFails sDiode t0 bad0 1).isSome = true)
    ∧ (let s := ready (sV id id)
      Canonical s ∧ tileCtx s t0 = some 0 ∧ ctxOf s 0 = some cx0 ∧ placed cx0 t0 = true ∧ ctxServing s 0 = true ∧ isReady s = true
        ∧ admissionOpen s 0 = true ∧ bubbleDue s 0 = true
        ∧ ¬ pipeSlots s cx0 ≤ (s.serving.groups.filter fun g => g.ctx = (0 : Fin 4)).length)
    ∧ (let s := ready (sV id (withGroup (grp0 false true)))
      Canonical s ∧ pipeSlots s cx0 ≤ (s.serving.groups.filter fun g => g.ctx = (0 : Fin 4)).length)
    ∧ (isReady (sTest id) = true ∧ dieOn (sTest id) 55 = true ∧ (dieOf (sTest id) 55).lateWritten = false
      ∧ (dieOf (sTest id) 55).sweep = some 24 ∧ 24 ≤ (0xFFFFFFFF : Word).toNat ∧ dieFailed (sTest id) 55 = false)
    ∧ (isReady State.reset && dieOn State.reset 55 && !(dieFailed State.reset 55)) = false
    ∧ codeNamed 0x1510 = false ∧ codeNamed 0x0410 = true := by
  refine ⟨fun k hk => ⟨canonical_of_check ?_, ?_⟩, ?_, fun k hk => ⟨canonical_of_check ?_, ?_⟩, ⟨canonical_of_check ?_, ?_⟩,
    ⟨canonical_of_check ?_, ?_⟩, ⟨canonical_of_check ?_, ?_⟩, ?_, ?_⟩
  all_goals first | decide +kernel | (revert k hk; decide +kernel)

def sRec : State := pset sMg R.BU_STAT_STATE buRecovery
def sBring : State := pset sMg R.BU_STAT_STATE 0
/-- Powered, READY and with a management session. -/
def sOn : State := sOpen (ready (sP id))
def poolA : PoolParams := ⟨0, 0, 0, 0, 16⟩
def loadRep0 : LoadReport := ⟨0, 0, 0, 0, [], [], 0, 0, 0, 0, 0, [], false⟩
/-- A readable image with a wrong magic number. -/
def wrongImage : BciImage := ⟨true, [0]⟩
/-- The bytes of an entry of tenant 5 whose wrapped key is no key. -/
def tenBody : List Byte := le 2 5 ++ le 1 0 ++ le 1 0 ++ le 2 1 ++ le 2 0 ++ le 8 1 ++ List.replicate 176 0
/-- The offer of R473, and one without its curve. -/
def offer0 (curve : Bool) : TlsOffer := ⟨7, 0, true, true, true, curve, true, false, 0, [], 0⟩
/-- A ring frame to a node with its check. -/
def ring (op node : Byte) (addr : Word) : RingFrame :=
  let f : RingFrame := ⟨0xA5, op, node, addr, 0, 0⟩
  { f with crc := BitVec.ofNat 8 (crc8 (ringBytes f 0)) }

/-- A request with a broken header, one with another OP, and one with a body of another form. -/
theorem meets_O60_head :
    (sessionOf { sMg with sessions := [] } mg.session = none ∧ Canonical { sMg with sessions := [] })
    ∧ (∀ m ∈ [{ mg with zeros := [1] }, { mg with length := 0xFFFFFFFF }, { mg with other := some 0x7777 }, { mg with other := some 1 },
        { mg with bodyOk := false }],
      (sessionOf sMg m.session).any (fun x => portUp sMg x.port.val) = true
        ∧ mgmtHeadOk m = (decide (m.zeros = []) && decide (m.length = 0)))
    ∧ opCodes.contains 0x7777 = false ∧ opCodes.contains 1 = true := by
  refine ⟨⟨?_, canonical_of_check ?_⟩, ?_⟩ <;> decide +kernel

/-- Not shown: an image, a key and a client that the free verification of signatures accepts. -/
theorem meets_O60 :
    (Canonical sMg ∧ heard sMg mg = true ∧ isReady sMg = true)
    ∧ (Canonical sRec ∧ heard sRec mg = true ∧ inRecovery sRec = true ∧ isReady sRec = false)
    ∧ (Canonical sBring ∧ heard sBring mg = true ∧ isReady sBring = false ∧ inRecovery sBring = false)
    ∧ (rangeOk 0xFFF8390002 1 = false ∧ rangeOk 0xFFF839FFFC 2 = false ∧ rangeOk 0xFFF839FFFC 1 = true ∧ rangeOk 0xFFF8390000 65 = false
      ∧ (placesAt sMg 0xFFF8390002 1).toOption = none ∧ (placesAt sMg 0xFFF8390000 1).toOption.isSome = true)
    ∧ tbit (portOf sMg (sessionPort sMg mg.session)).paused.toNat (fieldOf sMg F.PT_PCP_MGMT) = false
    ∧ ((fieldDef F.TH_HOLD_END_S).any (fun f => !f.noEffect) = true ∧ fieldDef 0 = none)
    ∧ ((fieldDef F.PC_INIT_STEP).any (fun f => f.noEffect) = true ∧ kwf (fun _ => (0 : Nat)) sMg.recorded = true)
    ∧ (2 ≤ imageReason sMg wrongImage ∧ imageReason sMg { wrongImage with readable := false } = 1)
    ∧ (isReady sOn = true ∧ Canonical sOn ∧ heard sOn mg = true ∧ dieOn sOn 0 = true ∧ dieOn sMg 0 = false)
    ∧ (let s := modLoader sMg fun x => { x with reports := [(3, some loadRep0)] }
      Canonical s ∧ heard s mg = true ∧ isReady s = true ∧ kget (fun _ => none) s.loader.reports 3 = some loadRep0)
    ∧ (let s := withSeq sq0 sMg
      Canonical s ∧ heard s mg = true ∧ isReady s = true ∧ seqOf s sq0.tenant sq0.req = some sq0 ∧ isLive sq0 = true)
    ∧ seqOf sMg 0 0 = none
    ∧ (∀ d : Bool, Canonical (withPool d sMg) ∧ heard (withPool d sMg) mg = true ∧ isReady (withPool d sMg) = true
      ∧ (poolsOf (withPool d sMg) 0).any (·.draining) = d)
    ∧ ((poolsOf sMg 1).any (·.draining) = false ∧ poolA.pages ≠ 0)
    ∧ (kwf noTenant sMg.serving.tenants = true ∧ tenBody.length = 192 ∧ tenantBodyOk tenBody = true
      ∧ tenantBodyOk (0 :: tenBody) = false ∧ tenantCause sMg.store.devicePriv.toNat [] (tenantAt tenBody 0) = 1)
    ∧ (sMg.plane.vaux = true ∧ keyOk sMg = true ∧ portUp sMg 0 = true ∧ sessionOf sMg (offer0 true).session = none
      ∧ ¬ fieldOf sMg F.SEC_MGMT_SESSIONS ≤ sMg.sessions.length ∧ offerOk (offer0 true) = true ∧ offerOk (offer0 false) = false)
    ∧ (let s : State := { sMg with sessions := List.replicate 64 ⟨4, 0, 0, 60⟩ }
      Canonical s ∧ heard s mg = true ∧ s.plane.vaux = true ∧ keyOk s = true ∧ sessionOf s (offer0 true).session = none
        ∧ fieldOf s F.SEC_MGMT_SESSIONS ≤ s.sessions.length)
    ∧ ((placeAt sOn (5 * 2 ^ 32)).toOption.any fun x => x.die < 56) = true
    ∧ (let f : RingFrame := { ring 1 0 0 with crc := 0xFF }
      ¬ crc8 (ringBytes f 0) = f.crc.toNat)
    ∧ (∀ op ∈ [(1 : Byte), 3, 9], let f := ring op 1 0
      crc8 (ringBytes f 0) = f.crc.toNat ∧ f.sync = 0xA5 ∧ f.node.toNat ≤ 59 ∧ nodePowered sOn (nodeDie f.node.toNat) = true
        ∧ (placeAt sOn (nodeDie f.node.toNat * 2 ^ 32 + f.addr.toNat)).toOption.isSome = true)
    ∧ (∀ n ∈ [(1 : Byte), 60], let f := ring 1 n 0
      crc8 (ringBytes f 0) = f.crc.toNat ∧ f.sync = 0xA5
        ∧ ¬ (f.node.toNat ≤ 59 ∧ nodePowered sMg (nodeDie f.node.toNat) = true)) := by
  refine ⟨⟨canonical_of_check ?_, ?_⟩, ⟨canonical_of_check ?_, ?_⟩, ⟨canonical_of_check ?_, ?_⟩, ?_, ?_, ?_, ?_, ?_,
    ⟨?_, canonical_of_check ?_, ?_⟩, ⟨canonical_of_check ?_, ?_⟩, ⟨canonical_of_check ?_, ?_⟩, ?_,
    fun d => ⟨canonical_of_check ?_, ?_⟩, ?_, ?_, ?_, ⟨canonical_of_check ?_, ?_⟩, ?_, ?_, ?_, ?_⟩
  all_goals first
    | decide +kernel
    | (revert d; decide +kernel)

/-! ## Terms that `Instr.wf` refuses: one for each check, beside one that it accepts -/

theorem test_wf_chunk : (∀ a b, a.length + b.length = 1048576 → (Instr.chunkReadComplete 0 0 0 a b).wf = true)
    ∧ (Instr.chunkReadComplete 0 0 0 [0] [0]).wf = false := ⟨fun _ _ h => decide_eq_true h, by decide⟩
theorem test_wf_page : (∀ l, l.length = 65536 → (Instr.pageInComplete 0 0 ⟨l, 0, 0⟩).wf = true)
    ∧ (Instr.pageInComplete 0 0 ⟨[], 0, 0⟩).wf = false := ⟨fun _ h => decide_eq_true h, by decide⟩
theorem test_wf_codes : (Instr.facilitySample (List.replicate 32 0)).wf = true
    ∧ (Instr.facilitySample (List.replicate 31 0)).wf = false ∧ (Instr.sensorScan 0 0 (List.replicate 32 0)).wf = true
    ∧ (Instr.sensorScan 0 0 (List.replicate 33 0)).wf = false := by decide +kernel
theorem test_wf_calibrate : (Instr.sliceCalibrate 0 ones ones (List.replicate 32 0)).wf = true
    ∧ (Instr.sliceCalibrate 0 [] ones (List.replicate 32 0)).wf = false
    ∧ (Instr.sliceCalibrate 0 ones [] (List.replicate 32 0)).wf = false
    ∧ (Instr.sliceCalibrate 0 ones ones (List.replicate 8 0)).wf = false := by decide +kernel
theorem test_wf_life : (Instr.lifeRecordHourly 0 8 (List.replicate 8 0)).wf = true
    ∧ (Instr.lifeRecordHourly 0 9 (List.replicate 9 0)).wf = false ∧ (Instr.lifeRecordHourly 0 8 []).wf = false := by decide +kernel
theorem test_wf_ports : (Instr.ethFrameReceive 0 (frm true 0 4 64 0)).wf = true
    ∧ (Instr.ethFrameReceive 0 { frm true 0 4 64 0 with held := [] }).wf = false
    ∧ (Instr.fecSecond 0 ⟨0, 0⟩ (List.replicate 8 0)).wf = true ∧ (Instr.fecSecond 0 ⟨0, 0⟩ []).wf = false := by decide +kernel
theorem test_wf_forecast : (Instr.forecastWindow 0 (List.replicate 24 0)).wf = true
    ∧ (Instr.forecastWindow 0 (List.replicate 23 0)).wf = false := by decide +kernel
theorem test_wf_serve : (Instr.loadExecute (some img1) [] []).wf = true
    ∧ (Instr.loadExecute (some { img1 with serve := { img1.serve with draftWindow := 8193 } }) [] []).wf = false := by decide +kernel

/-! ## The spec's worked examples

Each compares an operation of the model with the figures that the named example prints. -/

/-- 03_numerics.md, "decoding one Q4 element": scale byte 0x7A is 1.25, code 0b1101 is −3. -/
theorem test_q4_element : u5m3 0x7A = 5 / 4 ∧ q4Val 0xD = -3 ∧ q4Val 0xD * u5m3 0x7A * (1 / 2) = -15 / 8 := by decide +kernel

/-- The block of 03_numerics.md, Table 3.3. -/
def block33 : List Rat := [29 / 10, -41 / 100, 7 / 100, 133 / 100, 0, -52 / 10, 62 / 100, 11 / 100, 375 / 100, -102 / 100,
  26 / 100, 0, 205 / 100, -18 / 100, 94 / 100, 16 / 10]

/-- Table 3.3: scale byte, codes, flushed elements and element bytes. -/
theorem test_quantize_block : (quantBlockQ4 1 block33).1 = 0x76 ∧ countSat (quantBlockQ4 1 block33).2 = 0
    ∧ countFlush (quantBlockQ4 1 block33).2 = 3
    ∧ packQ4 ((quantBlockQ4 1 block33).2.map (·.code)) = [0x95, 0x30, 0xF0, 0x01, 0xA6, 0x01, 0x04, 0x42] := by decide +kernel

/-- 03_numerics.md, "one group and one rounding": the group value, and the sum rounded up and down. -/
theorem test_group_rounding :
    let acts := (quantBlockQ4 1 block33).2.map fun e => q4Val e.code
    let wts : List Rat := [1, -2, 4, 1 / 2, 3, 1, -3 / 2, 6, -1 / 2, 2, -3, 1, 1 / 2, 4, -1, 3 / 2]
    let g := sumR (List.zipWith (· * ·) acts wts) * u5m3 0x76 * u5m3 0x68
    f32Enc (.ofRat g) = 0xBF7C0000
      ∧ f32Enc (stochRound (f32Val 0x49742400 + g) 0x2A51C3).1 = 0x497423F1
      ∧ f32Enc (stochRound (f32Val 0x49742400 + g) 0x400000).1 = 0x497423F0 := by decide +kernel

/-- 04_quantization_control.md, "a block with two outliers": codes, scale and entries of block 37; with the outlier
path off it falls back. -/
theorem test_outlier_block :
    let xs : List Rat := [31 / 100, -12 / 100, 45 / 100, 78 / 10, 22 / 100, -38 / 100, 5 / 100, 27 / 100, -19 / 100, 40 / 100,
      14 / 100, -33 / 100, 29 / 100, 8 / 100, -215 / 10, 36 / 100]
    let q : QcSet := ⟨0, 6, 4, 8, false⟩
    let b := decideBlock q true none 1 100 xs
    b.scale = 0x5A ∧ packQ4 b.elems = leBytes 8 0x6026E47C51E507B6
      ∧ (b.outs.map fun o => entryBytes 37 o.1 o.2.1 o.2.2) = [leBytes 8 0x000000253000497E, leBytes 8 0x00000025E00055FD]
      ∧ b.mask = false ∧ (decideBlock q false none 1 100 xs).mask = true
      ∧ (decideBlock q false none 1 100 xs).flush = 14 := by decide +kernel

/-- The cache of layers 10 and 11 in 09_attention_cache.md: Q8 keys, Q4 values, four heads. -/
def plan10 : KvPlan := ⟨0, 4, 0, 0, 8192, 0⟩

/-- "addresses of one sequence on die 5": ρ, the base of a range, a key row, its scales and its value block. -/
theorem test_cache_addresses : kvHeads plan10 = 4 ∧ keyQ8 plan10 = true ∧ valQ8 plan10 = false ∧ rhoOf [plan10, plan10] = 30
    ∧ rangeBase 30 (rangeNo 0 1234) = 0x813480000000 ∧ rangeNo 1 1234 = 5330 ∧ rangeBase 30 5330 = 0x853480000000
    ∧ rangeBase 30 1234 + planeOff plan10 .ke 2 + 20000 * 128 = 0x813490271000
    ∧ planeVpn 30 1234 plan10 .ke 2 (20000 / 512) = 0x81349027
    ∧ rangeBase 30 1234 + planeOff plan10 .ks 2 + 20000 * 8 = 0x8134A1027100
    ∧ rangeBase 30 1234 + planeOff plan10 .ve 2 + 156 * 8192 = 0x8134AA138000 := by decide +kernel

/-- "window bookkeeping in layer 10": the reservation. R249: the two buckets of its example. -/
theorem test_window_reserve : layerReserve plan10 = 137 ∧ biasBucket 1000 = 127 ∧ biasBucket 100000 = 232
    ∧ biasBucket 63 = 63 ∧ biasBucket 64 = 64 ∧ biasBucket (2 ^ 18 - 1) = 255 ∧ biasBucket (2 ^ 18) = 255 := by decide +kernel

/-- Slot 0 as in 08_memory_columns.md, Table 8.5: FILL c4, DRAIN c9, DEPTH 2, STEP 1,008, WRITES `w`. -/
def slot85 (w : Nat) : List Host.Cell := [(0, 4), (1, 9), (2, 2), (4, 0xF0), (5, 3)] ++ if w = 0 then [] else [(12, BitVec.ofNat 8 w)]
/-- What a scalar instruction leaves at the tile. -/
def after (c : Instr) (s : State) : TileState :=
  match exec c s with
  | .next u => tileOf u t0
  | _ => TileState.reset

/-- Table 8.5, steps 1, 3 and 5: the third WSLW stalls on c9 for target 1. -/
theorem test_wslw : let f (n : Nat) := after (.wslw t0 (gw 0x26 0 0 0 0 0)) (sSlot (slot85 n))
    ((f 0).wait = none ∧ mread (f 0).sdata 12 4 = 1 ∧ (f 0).pc = 1) ∧ ((f 1).wait = none ∧ mread (f 1).sdata 12 4 = 2)
      ∧ (f 2).wait = some ⟨.slotWrite, 9, 1, 0⟩ ∧ mread (f 2).sdata 12 4 = 2 ∧ (f 2).pc = 0 := by decide +kernel

/-- Table 8.5, step 6: B waits on c4 for target 1,008; a fill of 2,016 lines satisfies it. -/
theorem test_wslr : let f (n : Word) := after (.wslr t0 (gw 0x25 0 0 0 0 0)) (ctrSet (sSlot (slot85 0)) t0 4 n)
    ((f 2016).wait = none ∧ mread (f 2016).sdata 8 4 = 1) ∧ (f 1007).wait = some ⟨.slotRead, 4, 1008, 0⟩ := by decide +kernel
end Sys2Proof.Machine.Test
end

section
/-! SUPPORT. The waits of the scalar sequencer: WAIT, WSLR and WSLW either go on or stall where they stand (R59, R128,
R129). One equation per instruction says which; one law per outcome says what it leaves. -/
namespace Sys2Proof.Machine

variable {s : State} {t : Tid} {w : GWord}

/-! ## What an executed instruction does -/

/-- An instruction that executes acts as the body of its row. -/
theorem geckoExec_of_runs {op : Nat} {f : State → State} (h : Runs s t w op) (hl : geckoOps.contains op = true) :
    geckoExec op s t w f = f s := by
  obtain ⟨hi, ho, he, hg⟩ := h
  exact geckoExec_runs hi hl ho he hg

/-- WAIT goes on for one wave when its counter has reached IMM[31:8] past s[RA], and otherwise stalls. -/
theorem waitEff_of_runs (h : Runs s t w 0x23) :
    waitEff t w s =
      let n := w.imm.toNat % 256
      let target : Word := (sregGet (tileOf s t) w.ra).setWidth 32 + BitVec.ofNat 32 (w.imm.toNat / 256 % 2 ^ 24)
      if (ctrGet s t n - target).toNat < 2 ^ 31 then modTile s t (advance · 1)
      else enterWait s t (if w.fn = 1 then .idle else .plain) n target 0 := by
  unfold waitEff
  simp only [geckoExec_of_runs h rfl, immBits8, immBits24, waitOk_iff]

/-- WSLR and WSLW take their slot in three waves when its counter has reached the slot's target, and otherwise
stall. -/
theorem slotWaitEff_of_runs {op : Nat} {rd : Bool} (h : Runs s t w op) (hl : geckoOps.contains op = true) :
    slotWaitEff op rd t w s =
      let slot := w.imm.toNat % 2 ^ 20
      let target := slotTarget (tileOf s t) slot rd
      if (ctrGet s t target.1 - target.2).toNat < 2 ^ 31 then
        modTile s t fun ts => advance (slotTake ts slot rd) 3
      else enterWait s t (if rd then .slotRead else .slotWrite) target.1 target.2 slot := by
  unfold slotWaitEff
  simp only [geckoExec_of_runs h hl, immBits20, waitOk_iff]

/-- The opcodes of WSLR and WSLW stand in Table 5.6. -/
theorem slotOp_listed (rd : Bool) : geckoOps.contains (if rd then 0x25 else 0x26) = true := by cases rd <;> rfl

/-- The rows of WSLR and WSLW share one effect, in the direction of each. -/
theorem exec_slotWait (rd : Bool) :
    exec (if rd then .wslr t w else .wslw t w) s = .next (slotWaitEff (if rd then 0x25 else 0x26) rd t w s) := by
  cases rd <;> rfl

/-! ## What each outcome leaves -/

@[simp] theorem advance_wait {ts : TileState} {n : Nat} : (advance ts n).wait = ts.wait := rfl
@[simp] theorem advance_slotField {ts : TileState} {n slot off len : Nat} :
    slotField (advance ts n) slot off len = slotField ts slot off len := rfl
@[simp] theorem slotTake_pc {ts : TileState} {slot : Nat} {rd : Bool} : (slotTake ts slot rd).pc = ts.pc := rfl

/-- A stall changes its own tile alone. -/
theorem onlyTile_enterWait {k : WaitKind} {n slot : Nat} {v : Word} : OnlyTile t s (enterWait s t k n v slot) :=
  onlyTile_modTile

theorem enterWait_pc (h : Canonical s) {k : WaitKind} {n slot : Nat} {v : Word} :
    (tileOf (enterWait s t k n v slot) t).pc = (tileOf s t).pc := by
  unfold enterWait
  rw [tileOf_modTile_self h.tiles]

theorem enterWait_wait (h : Canonical s) {k : WaitKind} {n slot : Nat} {v : Word} :
    (tileOf (enterWait s t k n v slot) t).wait = some ⟨k, n, v, slot⟩ := by
  unfold enterWait
  rw [tileOf_modTile_self h.tiles]

end Sys2Proof.Machine
end

section
open Sys2Proof Sys2Proof.Machine

/-- Settles O15: each instruction's equation, at the branch that the test of R59 takes, and what that outcome leaves. -/
theorem waitsTestModularly : Obligations.WaitsTestModularly := by
  intro s t w hc ts target slot sat
  refine ⟨fun hr hs => ?_, fun hr hs => ?_, fun rd hr hs => ?_, fun rd hr hs => ?_⟩
  · refine ⟨_, next_of ((waitEff_of_runs hr).trans (if_pos hs)), onlyTile_modTile, ?_⟩
    rw [tileOf_modTile_self hc.tiles]
    exact ⟨advance_pc, advance_wait⟩
  · exact ⟨_, next_of ((waitEff_of_runs hr).trans (if_neg hs)), onlyTile_enterWait, enterWait_pc hc, enterWait_wait hc⟩
  · refine ⟨_, (exec_slotWait rd).trans (next_of ((slotWaitEff_of_runs hr (slotOp_listed rd)).trans (if_pos hs))),
      onlyTile_modTile, ?_⟩
    rw [tileOf_modTile_self hc.tiles, advance_pc, advance_slotField, slotTake_pc]
    exact ⟨rfl, slotField_take (tileOf_mem hc t).sdata⟩
  · exact ⟨_, (exec_slotWait rd).trans (next_of ((slotWaitEff_of_runs hr (slotOp_listed rd)).trans (if_neg hs))),
      onlyTile_enterWait, enterWait_pc hc, enterWait_wait hc⟩
end

section
/-! SUPPORT. The timebase and its takeover (R196 to R199): the equation of each effect at the branch it takes, over
the state that the entry is written from, and what the status fields of the timebase read there. -/
namespace Sys2Proof.Machine

variable {s s' : State}

/-! ## An entry written last -/

/-- An entry written after a state that `s` keeps is an entry of its history. -/
theorem loggedAs_logPut {c v a b e : Nat} {src : LogSrc} (h : Keep s s') :
    LoggedAs s (logPut s' c v src a b e) c v a b e :=
  loggedAs_of h (Keep.refl (keep_logPut h).canon)

/-- The fields of the log block are all that an entry writes. -/
theorem pget_logPut {f : Fld} {c v a b e : Nat} {src : LogSrc} (h : f.place / 2 ^ 21 ≠ 0x39) :
    pget (logPut s c v src a b e) f = pget s f :=
  rget_logPut h

theorem pget_modTime {f : Timebase → Timebase} {g : Fld} : pget (modTime s f) g = pget s g := rfl

/-! ## The loss of the reference (R197) -/

/-- The state in which a loss is declared: the flag is cleared, the loss counted and its instant kept. -/
def lossDeclared (s : State) : State :=
  modTime (pinc (pset s R.TB_STAT_LOCKED 0) R.TB_STAT_UNLOCKS) fun t => { t with sinceLoss := now s, lossTold := true }

theorem keep_lossDeclared (h : Canonical s) : Keep s (lossDeclared s) :=
  keep_modTime (keep_pinc (keep_pset (Keep.refl h)))

theorem now_lossDeclared : now (lossDeclared s) = now s := rfl

theorem pget_lossDeclared_locked (h : Canonical s) : pget (lossDeclared s) R.TB_STAT_LOCKED = 0 := by
  unfold lossDeclared
  rw [pget_modTime]
  exact (rget_rinc_place (by decide)).trans (pget_pset_self h.regs)

theorem pget_lossDeclared_unlocks (h : Canonical s) : pget (lossDeclared s) R.TB_STAT_UNLOCKS
    = min (pget s R.TB_STAT_UNLOCKS + 1) (2 ^ R.TB_STAT_UNLOCKS.w - 1) := by
  unfold lossDeclared
  rw [pget_modTime]
  exact rget_inc (kwf_pset h.regs) (pget_pset_ne (by decide))

theorem pget_lossDeclared_source : pget (lossDeclared s) R.TB_STAT_SOURCE = pget s R.TB_STAT_SOURCE := by
  unfold lossDeclared
  rw [pget_modTime]
  exact (rget_rinc_place (by decide)).trans (pget_pset_ne (by decide))

/-- A loss that is not yet declared is declared and logged. -/
theorem tbLossEff_of_untold {freq : Bool} (h : unlocked s = true → s.time.lossTold = false) :
    tbLossEff freq s = logPut (lossDeclared s) 0x0710 sevWarning (svcSrc s) (b2n freq) (now s % 2 ^ 32)
      (pget s R.TB_STAT_SOURCE) := by
  have hn : ¬ (unlocked s && s.time.lossTold) = true := by
    rw [Bool.and_eq_true]
    rintro ⟨hu, ht⟩
    exact Bool.false_ne_true ((h hu).symm.trans ht)
  rw [← pget_lossDeclared_source]
  exact if_neg hn

/-- A loss already declared goes on. -/
theorem tbLossEff_of_told {freq : Bool} (hu : unlocked s = true) (ht : s.time.lossTold = true) :
    tbLossEff freq s = s :=
  if_pos (Bool.and_eq_true_iff.2 ⟨hu, ht⟩)

/-! ## The relock -/

/-- The state in which the PLL has locked again. -/
def relocked (s : State) : State :=
  modTime (pset s R.TB_STAT_LOCKED 1) fun t => { t with lossTold := false }

theorem keep_relocked (h : Canonical s) : Keep s (relocked s) := keep_modTime (keep_pset (Keep.refl h))

theorem now_relocked : now (relocked s) = now s := rfl

theorem pget_relocked_locked (h : Canonical s) : pget (relocked s) R.TB_STAT_LOCKED = 1 := by
  unfold relocked
  rw [pget_modTime]
  exact pget_pset_self h.regs

theorem pget_relocked_source : pget (relocked s) R.TB_STAT_SOURCE = pget s R.TB_STAT_SOURCE := by
  unfold relocked
  rw [pget_modTime]
  exact pget_pset_ne (by decide)

/-- The end of a loss that was declared is logged with the loss's length in ms. -/
theorem tbRelockEff_of_told (hu : unlocked s = true) (ht : s.time.lossTold = true) :
    tbRelockEff s = logPut (relocked s) 0x0711 sevNotice (svcSrc s) ((now s - s.time.sinceLoss) / 1000000)
      (now s % 2 ^ 32) (pget s R.TB_STAT_SOURCE) := by
  unfold tbRelockEff
  rw [hu, ← pget_relocked_source]
  exact if_pos ht

/-- A first lock leaves no entry. -/
theorem tbRelockEff_of_untold (hu : unlocked s = true) (ht : ¬ s.time.lossTold = true) :
    tbRelockEff s = relocked s := by
  unfold tbRelockEff
  rw [hu]
  exact if_neg ht

/-! ## The set (R198) -/

/-- The state in which the count is loaded. -/
def countLoaded (v : Word) (s : State) : State :=
  modTime s fun t => { t with count := s.time.setHigh.toNat * 2 ^ 32 + v.toNat }

theorem keep_countLoaded {v : Word} (h : Canonical s) : Keep s (countLoaded v s) := keep_modTime (Keep.refl h)

theorem now_countLoaded {v : Word} : now (countLoaded v s) = s.time.setHigh.toNat * 2 ^ 32 + v.toNat := rfl

/-- The set loads the count and logs the high word of the old one. -/
theorem tbSetEff_eq {v : Word} :
    tbSetEff v s = logPut (countLoaded v s) 0x0712 sevNotice (svcSrc s) (now s / 2 ^ 32 % 2 ^ 32)
      s.time.setHigh.toNat v.toNat := rfl

/-! ## The takeover by SD[1] (R199) -/

/-- A standby in order takes over: besides the plane, the sessions and the requests being assembled, two fields of
the register map change. -/
theorem takeoverEff_of_standby (hp : s.plane.primary = false) (hs : s.plane.standbyOk = true) :
    takeoverEff s =
      { s with
        plane := { s.plane with primary := true, standbyOk := false }
        regs := (pset (pset s R.TB_STAT_SOURCE 1) R.LOG_STAT_MIRRORED 0).regs
        serving := { s.serving with assembling := [] }
        sessions := [] } := by
  unfold takeoverEff
  rw [hp, hs]
  rfl

theorem now_takeoverEff (hp : s.plane.primary = false) (hs : s.plane.standbyOk = true) :
    now (takeoverEff s) = now s := by
  rw [takeoverEff_of_standby hp hs]
  rfl

theorem pget_takeoverEff (hp : s.plane.primary = false) (hs : s.plane.standbyOk = true) {f : Fld} :
    pget (takeoverEff s) f = pget (pset (pset s R.TB_STAT_SOURCE 1) R.LOG_STAT_MIRRORED 0) f := by
  rw [takeoverEff_of_standby hp hs]
  rfl

/-- From now on the primary service die is SD[1]. -/
theorem pget_takeoverEff_source (h : Canonical s) (hp : s.plane.primary = false) (hs : s.plane.standbyOk = true) :
    pget (takeoverEff s) R.TB_STAT_SOURCE = 1 := by
  rw [pget_takeoverEff hp hs, pget_pset_ne (by decide)]
  exact pget_pset_self h.regs

theorem unlocked_takeoverEff (hp : s.plane.primary = false) (hs : s.plane.standbyOk = true) :
    unlocked (takeoverEff s) = unlocked s := by
  unfold unlocked
  rw [pget_takeoverEff hp hs, pget_pset_ne (by decide), pget_pset_ne (by decide)]

end Sys2Proof.Machine
end

section
open Sys2Proof Sys2Proof.Machine

/-- Settles O38: each effect's equation at the branch it takes, and what the state before its entry reads. -/
theorem theTimebaseGoesOn : Obligations.TheTimebaseGoesOn := by
  intro s hc
  refine ⟨fun freq h => ?loss, fun freq hu ht => next_of (tbLossEff_of_told hu ht), fun hu => ?relock, fun v => ?set,
    ⟨_, rfl, rfl⟩, fun hp hs => ?takeover⟩
  case loss =>
    refine ⟨_, next_of (tbLossEff_of_untold h), ?_, now_logPut.trans now_lossDeclared, ?_,
      loggedAs_logPut (keep_lossDeclared hc)⟩
    · exact (pget_logPut (by decide)).trans (pget_lossDeclared_locked hc)
    · exact (pget_logPut (by decide)).trans (pget_lossDeclared_unlocks hc)
  case relock =>
    by_cases ht : s.time.lossTold = true
    · exact ⟨_, next_of (tbRelockEff_of_told hu ht), (pget_logPut (by decide)).trans (pget_relocked_locked hc),
        now_logPut.trans now_relocked, fun _ => loggedAs_logPut (keep_relocked hc)⟩
    · exact ⟨_, next_of (tbRelockEff_of_untold hu ht), pget_relocked_locked hc, now_relocked, fun h => absurd h ht⟩
  case set =>
    exact ⟨_, next_of tbSetEff_eq, now_logPut.trans now_countLoaded, loggedAs_logPut (keep_countLoaded hc)⟩
  case takeover =>
    have he := takeoverEff_of_standby hp hs
    have hn := now_takeoverEff hp hs
    refine ⟨takeoverEff s, rfl, by rw [he], pget_takeoverEff_source hc hp hs, by rw [he], by rw [he], by rw [he],
      by rw [he], Nat.le_of_eq hn.symm, ?_, unlocked_takeoverEff hp hs⟩
    rw [hn]
    exact Nat.le_add_right _ _
end
